-- ==== Sys2Proof/Word.lean ====
section
/-!
DEFINITION. Sys2Proof/Word.lean: the word types of the OZ-3648 (00, R7; 05, R155, R163).
-/

namespace Sys2Proof

/-- A word is always 36 bits (R7). -/
abbrev Word := BitVec 36

/-- A 24-bit word address of program or data space, and the width of the P, N and L registers (R155, R163). -/
abbrev Addr := BitVec 24

/-- An accumulator of Umber, 80 bits (R155, R157). -/
abbrev Acc := BitVec 80

/-- A Pier-time value, 48 bits (R120). -/
abbrev Tick := BitVec 48

/-- A store time S32.F32, 64 bits (R82). -/
abbrev StoreTime := BitVec 64

/-- A domain number, 0-15 (R172, R320). -/
abbrev Dom := BitVec 4

/-- The COND field of an instruction (R195). -/
abbrev Cond := BitVec 4

/-- A byte, at byte-wide interfaces only (R7). -/
abbrev Byte := BitVec 8

end Sys2Proof
end

