-- ==== Sys2Proof/Machine/Bits.lean ====
section
/-!
DEFINITION. Sys2Proof/Machine/Bits.lean: bit-field helpers (R6: bit 0 is the least significant bit).
-/

namespace Sys2Proof.Machine

/-- The field of `len` bits whose least significant bit is bit `lo` (R6). -/
def fld {n : Nat} (w : BitVec n) (lo len : Nat) : BitVec len := w.extractLsb' lo len

/-- `w` with the `m`-bit field at bit `lo` replaced by `v`. -/
def putFld {n m : Nat} (w : BitVec n) (lo : Nat) (v : BitVec m) : BitVec n :=
  (w &&& ~~~(((BitVec.allOnes m).setWidth n) <<< lo)) ||| ((v.setWidth n) <<< lo)

/-- `w` with bit `i` set to `b`. -/
def putBit {n : Nat} (w : BitVec n) (i : Nat) (b : Bool) : BitVec n :=
  putFld w i (BitVec.ofBool b)

/-- A word from a Boolean, in bit 0. -/
def boolWord (b : Bool) : Word := (BitVec.ofBool b).setWidth 36

/-- Add with saturation at the top of an `n`-bit counter. -/
def satAdd {n : Nat} (w : BitVec n) (k : Nat) : BitVec n :=
  if w.toNat + k < 2 ^ n then BitVec.ofNat n (w.toNat + k) else BitVec.allOnes n

/-- Increment of the saturating `len`-bit counter at bit `lo` of a word. -/
def bumpFld {n : Nat} (w : BitVec n) (lo len : Nat) (k : Nat := 1) : BitVec n :=
  putFld w lo (satAdd (fld w lo len) k)

/-- The indices below `n` whose bit of `w` is set, ascending. -/
def bitsSet {m : Nat} (w : BitVec m) (n : Nat) : List Nat := (List.range n).filter (fun i => w.getLsbD i)

/-- The lowest set bit below `n`, if any. -/
def lowestSet {m : Nat} (w : BitVec m) (n : Nat) : Option Nat := (bitsSet w n).head?

/-- One step of an LFSR of n stages (R430). -/
def lfsrStep (n : Nat) (taps st : BitVec 13) : BitVec 13 :=
  let f := ((List.range 13).filter (fun j => (st &&& taps).getLsbD j)).length % 2
  ((st <<< 1) ||| BitVec.ofNat 13 f) &&& BitVec.ofNat 13 (2 ^ n - 1)

/-- The output of an LFSR after i chips from its initial state (R430). -/
def lfsrChip (n : Nat) (taps init : BitVec 13) (i : Nat) : Bool :=
  (Nat.rec (init &&& BitVec.ofNat 13 (2 ^ n - 1)) (fun _ st => lfsrStep n taps st) i : BitVec 13).getLsbD (n - 1)

end Sys2Proof.Machine
end

