-- ==== Sys2Proof/Syntax.lean ====
section
/-!
DEFINITION. Sys2Proof/Syntax.lean: the commands of the OZ-3648, one constructor per row of the opcode table: Umber's instructions with the operands of
their encodings (06), and every other event with the operands that come from outside the model (log 1).
-/

namespace Sys2Proof

/-- Who makes an access to a parameter (Table MAP-2, Table DMA-1). -/
inductive Master where
  | sepia
  | umber
  | dma (c : Fin 16)
  | host
  deriving DecidableEq, Repr

def Master.isDma : Master → Bool
  | .dma _ => true
  | _ => false

/-- One sample of both Trestle inputs: I and Q of the main receiver and of the L1 path (R427). -/
structure Smp where
  i0 : BitVec 8
  q0 : BitVec 8
  i1 : BitVec 8
  q1 : BitVec 8
  deriving DecidableEq, Repr

/-- The results of sensor conversions, in the units of their parameters (Table SEP-6). -/
structure Readings where
  temp : Word
  vdd : Word
  vbk : Word
  podr : Word
  light : Word
  xtal : Word
  deriving DecidableEq, Repr

/-- The levels of VDD and VBK in millivolts, and what each comparator of the Pier answers while the level it compares lies inside its tolerance band: bits 0-3 the
trip, falling, rising and release points, bit 4 the Pier's brown-out, bit 5 its power-on (R69, R135-R138). -/
structure Supplies where
  vdd : BitVec 12
  vbk : BitVec 12
  band : BitVec 6
  deriving DecidableEq, Repr

/-- The freezing edge of an epoch latch: its phase within a sample, and the samples up to the last one included (R97, R444). -/
structure EpochAt where
  phase : BitVec 2
  xs : List Smp
  deriving DecidableEq, Repr

/-- A complete wake word collection: its 40 bits and the envelope level of its window (R412, R417). -/
structure Collected where
  bits : BitVec 40
  level : BitVec 6
  deriving DecidableEq, Repr

/-- A Trestle channel, and the samples that have come by now (R452). -/
structure ChanAt where
  ch : Fin 48
  xs : List Smp
  deriving DecidableEq, Repr

/-- What Sepia reads from a pod to identify it (R607): serial, charge used, ADDCHG count, and the MAC over Sepia's nonce. -/
structure PodIdent where
  serial : BitVec 64
  chgUsed : BitVec 32
  addCnt : BitVec 32
  mac : Vector (BitVec 32) 8
  deriving DecidableEq, Repr

/-- The count operand of RPT (R228): an immediate, 0 standing for 4,096, or a data register. -/
inductive RptCount where
  | imm (n : BitVec 12)
  | reg (ra : Fin 16)
  deriving DecidableEq, Repr

/-- The commands. -/
inductive Instr where
  /-- ADD (R199). -/
  | add (c : Cond) (sat : Bool) (rd ra rb : Fin 16)
  /-- ADC (R199). -/
  | adc (c : Cond) (sat : Bool) (rd ra rb : Fin 16)
  /-- SUB (R199). -/
  | sub (c : Cond) (sat : Bool) (rd ra rb : Fin 16)
  /-- SBC (R199). -/
  | sbc (c : Cond) (sat : Bool) (rd ra rb : Fin 16)
  /-- AND (R199). -/
  | and (c : Cond) (rd ra rb : Fin 16)
  /-- OR (R199). -/
  | or (c : Cond) (rd ra rb : Fin 16)
  /-- XOR (R199). -/
  | xor (c : Cond) (rd ra rb : Fin 16)
  /-- ANDN (R199). -/
  | andn (c : Cond) (rd ra rb : Fin 16)
  /-- MIN (R199). -/
  | min (c : Cond) (rd ra rb : Fin 16)
  /-- MAX (R199). -/
  | max (c : Cond) (rd ra rb : Fin 16)
  /-- MINU (R199). -/
  | minu (c : Cond) (rd ra rb : Fin 16)
  /-- MAXU (R199). -/
  | maxu (c : Cond) (rd ra rb : Fin 16)
  /-- CMP (R199). -/
  | cmp (c : Cond) (ra rb : Fin 16)
  /-- TST (R199). -/
  | tst (c : Cond) (ra rb : Fin 16)
  /-- ABS (R199). -/
  | abs (c : Cond) (sat : Bool) (rd ra : Fin 16)
  /-- NEG (R199). -/
  | neg (c : Cond) (sat : Bool) (rd ra : Fin 16)
  /-- LSL (R199). -/
  | lsl (c : Cond) (sat : Bool) (rd ra rb : Fin 16)
  /-- LSR (R199). -/
  | lsr (c : Cond) (rd ra rb : Fin 16)
  /-- ASR (R199). -/
  | asr (c : Cond) (rd ra rb : Fin 16)
  /-- ROL (R199). -/
  | rol (c : Cond) (rd ra rb : Fin 16)
  /-- LSLI (R199). -/
  | lsli (c : Cond) (sat : Bool) (rd ra : Fin 16) (k : BitVec 6)
  /-- LSRI (R199). -/
  | lsri (c : Cond) (rd ra : Fin 16) (k : BitVec 6)
  /-- ASRI (R199). -/
  | asri (c : Cond) (rd ra : Fin 16) (k : BitVec 6)
  /-- ROLI (R199). -/
  | roli (c : Cond) (rd ra : Fin 16) (k : BitVec 6)
  /-- CLZ (R199). -/
  | clz (c : Cond) (rd ra : Fin 16)
  /-- CLS (R199). -/
  | cls (c : Cond) (rd ra : Fin 16)
  /-- EXTS (R199). -/
  | exts (c : Cond) (rd ra : Fin 16) (b : BitVec 6)
  /-- EXTZ (R199). -/
  | extz (c : Cond) (rd ra : Fin 16) (b : BitVec 6)
  /-- SWAPH (R199). -/
  | swaph (c : Cond) (rd ra : Fin 16)
  /-- MUL (R199). -/
  | mul (c : Cond) (rd ra rb : Fin 16)
  /-- MULH (R199). -/
  | mulh (c : Cond) (rd ra rb : Fin 16)
  /-- MULHU (R199). -/
  | mulhu (c : Cond) (rd ra rb : Fin 16)
  /-- MULQ (R199). -/
  | mulq (c : Cond) (sat : Bool) (rd ra rb : Fin 16)
  /-- ADDI (R199). -/
  | addi (c : Cond) (sat : Bool) (rd : Fin 16) (v : BitVec 18)
  /-- ANDI (R199). -/
  | andi (c : Cond) (rd : Fin 16) (v : BitVec 18)
  /-- ORI (R199). -/
  | ori (c : Cond) (rd : Fin 16) (v : BitVec 18)
  /-- XORI (R199). -/
  | xori (c : Cond) (rd : Fin 16) (v : BitVec 18)
  /-- CMPI (R199). -/
  | cmpi (c : Cond) (rd : Fin 16) (v : BitVec 18)
  /-- LDI (R199). -/
  | ldi (c : Cond) (rd : Fin 16) (v : BitVec 18)
  /-- LDIH (R199). -/
  | ldih (c : Cond) (rd : Fin 16) (u : BitVec 18)
  /-- TSTI (R199). -/
  | tsti (c : Cond) (rd : Fin 16) (v : BitVec 18)
  /-- ADDPI (R199). -/
  | addpi (c : Cond) (pd : Fin 16) (v : BitVec 18)
  /-- LDPI (R199). -/
  | ldpi (c : Cond) (pd : Fin 16) (v : BitVec 18)
  /-- LDPIH (R199). -/
  | ldpih (c : Cond) (pd : Fin 16) (u : BitVec 6)
  /-- LDNI (R199). -/
  | ldni (c : Cond) (nl : Fin 16) (v : BitVec 18)
  /-- MOV (R200). -/
  | mov (c : Cond) (rd ra : Fin 16)
  /-- MVDP (R200). -/
  | mvdp (c : Cond) (pd ra : Fin 16)
  /-- MVPD (R200). -/
  | mvpd (c : Cond) (rd pa : Fin 16)
  /-- MVDN (R200). -/
  | mvdn (c : Cond) (nl ra : Fin 16)
  /-- MVND (R200). -/
  | mvnd (c : Cond) (rd nl : Fin 16)
  /-- MVPP (R200). -/
  | mvpp (c : Cond) (pd pa : Fin 16)
  /-- ADDP (R200). -/
  | addp (c : Cond) (pd pa rb : Fin 16)
  /-- SUBP (R200). -/
  | subp (c : Cond) (rd pa pb : Fin 16)
  /-- MVDA (R200). -/
  | mvda (c : Cond) (rd : Fin 16) (acn : Fin 4) (part : BitVec 2)
  /-- MVAD (R200). -/
  | mvad (c : Cond) (acn : Fin 4) (part : BitVec 2) (ra : Fin 16)
  /-- LD (R202). -/
  | ld (c : Cond) (rd pp : Fin 16) (am : BitVec 3) (ofs : BitVec 12)
  /-- ST (R202). -/
  | st (c : Cond) (rd pp : Fin 16) (am : BitVec 3) (ofs : BitVec 12)
  /-- LDP (R202). -/
  | ldp (c : Cond) (pd pp : Fin 16) (am : BitVec 3) (ofs : BitVec 12)
  /-- STP (R202). -/
  | stp (c : Cond) (pd pp : Fin 16) (am : BitVec 3) (ofs : BitVec 12)
  /-- LDO (R202). -/
  | ldo (c : Cond) (nl pp : Fin 16) (am : BitVec 3) (ofs : BitVec 12)
  /-- STO (R202). -/
  | sto (c : Cond) (nl pp : Fin 16) (am : BitVec 3) (ofs : BitVec 12)
  /-- LDH (R202). -/
  | ldh (c : Cond) (k : Fin 2) (rd pp : Fin 16) (am : BitVec 3) (ofs : BitVec 12)
  /-- LDHU (R202). -/
  | ldhu (c : Cond) (k : Fin 2) (rd pp : Fin 16) (am : BitVec 3) (ofs : BitVec 12)
  /-- STH (R202). -/
  | sth (c : Cond) (k : Fin 2) (rd pp : Fin 16) (am : BitVec 3) (ofs : BitVec 12)
  /-- LDQ (R202). -/
  | ldq (c : Cond) (k : Fin 4) (rd pp : Fin 16) (am : BitVec 3) (ofs : BitVec 12)
  /-- LDQU (R202). -/
  | ldqu (c : Cond) (k : Fin 4) (rd pp : Fin 16) (am : BitVec 3) (ofs : BitVec 12)
  /-- STQ (R202). -/
  | stq (c : Cond) (k : Fin 4) (rd pp : Fin 16) (am : BitVec 3) (ofs : BitVec 12)
  /-- LDD (R202). -/
  | ldd (c : Cond) (rd pp : Fin 16) (am : BitVec 3) (ofs : BitVec 12)
  /-- STD (R202). -/
  | std (c : Cond) (rd pp : Fin 16) (am : BitVec 3) (ofs : BitVec 12)
  /-- LR (R242). -/
  | lr (c : Cond) (rd pp : Fin 16) (am : BitVec 3) (ofs : BitVec 12)
  /-- SC (R243). -/
  | sc (c : Cond) (rd pp : Fin 16) (am : BitVec 3) (ofs : BitVec 12)
  /-- ATADD (R244). -/
  | atadd (c : Cond) (rd pp : Fin 16) (am : BitVec 3) (ofs : BitVec 12)
  /-- ATSWP (R244). -/
  | atswp (c : Cond) (rd pp : Fin 16) (am : BitVec 3) (ofs : BitVec 12)
  /-- MAC (R217). -/
  | mac (c : Cond) (sat : Bool) (acd : Fin 4) (ra rb : Fin 16)
  /-- MSU (R217). -/
  | msu (c : Cond) (sat : Bool) (acd : Fin 4) (ra rb : Fin 16)
  /-- MPY (R217). -/
  | mpy (c : Cond) (acd : Fin 4) (ra rb : Fin 16)
  /-- MPYN (R217). -/
  | mpyn (c : Cond) (acd : Fin 4) (ra rb : Fin 16)
  /-- CMAC (R217). -/
  | cmac (c : Cond) (sat : Bool) (acd : Fin 4) (ra rb : Fin 16)
  /-- CMACJ (R217). -/
  | cmacj (c : Cond) (sat : Bool) (acd : Fin 4) (ra rb : Fin 16)
  /-- MACD (R219). -/
  | macd (c : Cond) (sat : Bool) (acd : Fin 4) (px py : Fin 8) (amx amy : BitVec 2) (dx : Fin 16) (c3 : Bool)
  /-- MSUD (R219). -/
  | msud (c : Cond) (sat : Bool) (acd : Fin 4) (px py : Fin 8) (amx amy : BitVec 2) (dx : Fin 16) (c3 : Bool)
  /-- MPYD (R219). -/
  | mpyd (c : Cond) (acd : Fin 4) (px py : Fin 8) (amx amy : BitVec 2) (dx : Fin 16) (c3 : Bool)
  /-- CMACD (R219). -/
  | cmacd (c : Cond) (sat : Bool) (acd : Fin 4) (px py : Fin 8) (amx amy : BitVec 2) (dx : Fin 16) (c3 : Bool)
  /-- ACADD (R226). -/
  | acadd (c : Cond) (sat : Bool) (acd aca acb : Fin 4)
  /-- ACSUB (R226). -/
  | acsub (c : Cond) (sat : Bool) (acd aca acb : Fin 4)
  /-- ACMOV (R226). -/
  | acmov (c : Cond) (acd aca : Fin 4)
  /-- ACNEG (R226). -/
  | acneg (c : Cond) (sat : Bool) (acd aca : Fin 4)
  /-- ACCLR (R226). -/
  | acclr (c : Cond) (acd : Fin 4)
  /-- ACASR (R226). -/
  | acasr (c : Cond) (acd aca : Fin 4) (k : BitVec 7)
  /-- ACLSL (R226). -/
  | aclsl (c : Cond) (sat : Bool) (acd aca : Fin 4) (k : BitVec 7)
  /-- ACSET (R226). -/
  | acset (c : Cond) (acd : Fin 4) (ra : Fin 16)
  /-- EXTA (R226). -/
  | exta (c : Cond) (sat : Bool) (rd : Fin 16) (aca : Fin 4) (k : BitVec 6)
  /-- NORM (R227). -/
  | norm (c : Cond) (rd : Fin 16) (aca : Fin 4)
  /-- EXP (R227). -/
  | exp (c : Cond) (rd : Fin 16) (aca : Fin 4)
  /-- FADD (R236). -/
  | fadd (c : Cond) (rd ra rb : Fin 16)
  /-- FSUB (R236). -/
  | fsub (c : Cond) (rd ra rb : Fin 16)
  /-- FMUL (R236). -/
  | fmul (c : Cond) (rd ra rb : Fin 16)
  /-- FMAC (R236). -/
  | fmac (c : Cond) (rd ra rb : Fin 16)
  /-- FMSU (R236). -/
  | fmsu (c : Cond) (rd ra rb : Fin 16)
  /-- FRCP (R236). -/
  | frcp (c : Cond) (rd ra : Fin 16)
  /-- FCMP (R239). -/
  | fcmp (c : Cond) (ra rb : Fin 16)
  /-- FABS (R236). -/
  | fabs (c : Cond) (rd ra : Fin 16)
  /-- FNEG (R236). -/
  | fneg (c : Cond) (rd ra : Fin 16)
  /-- NORM_F (R235). -/
  | normF (c : Cond) (rd ra : Fin 16)
  /-- EXP_F (R237). -/
  | expF (c : Cond) (rd ra : Fin 16)
  /-- FCVT_FI (R235). -/
  | fcvtFi (c : Cond) (rd ra : Fin 16) (k : BitVec 9)
  /-- FCVT_IF (R237). -/
  | fcvtIf (c : Cond) (rd ra : Fin 16) (k : BitVec 9)
  /-- FCVT_FU (R235). -/
  | fcvtFu (c : Cond) (rd ra : Fin 16) (k : BitVec 9)
  /-- FCVT_UF (R237). -/
  | fcvtUf (c : Cond) (rd ra : Fin 16) (k : BitVec 9)
  /-- BSET (R207). -/
  | bset (c : Cond) (b : BitVec 12)
  /-- BCLR (R169). -/
  | bclr (c : Cond) (b : BitVec 12)
  /-- BTGL (R207). -/
  | btgl (c : Cond) (b : BitVec 12)
  /-- BTST (R207). -/
  | btst (c : Cond) (pb : Fin 2) (compl : Bool) (b : BitVec 12)
  /-- BAND (R207). -/
  | band (c : Cond) (pb : Fin 2) (compl : Bool) (b : BitVec 12)
  /-- BOR (R207). -/
  | bor (c : Cond) (pb : Fin 2) (compl : Bool) (b : BitVec 12)
  /-- BMOV_TO_BIT (R207). -/
  | bmovToBit (c : Cond) (b : BitVec 12) (rd : Fin 16) (k : BitVec 6)
  /-- BMOV_FROM_BIT (R207). -/
  | bmovFromBit (c : Cond) (rd : Fin 16) (k : BitVec 6) (b : BitVec 12)
  /-- TAS (R169). -/
  | tas (c : Cond) (pb : Fin 2) (compl : Bool) (b : BitVec 12)
  /-- BR (R204). -/
  | br (c : Cond) (disp : BitVec 24)
  /-- CALL (R204). -/
  | call (c : Cond) (disp : BitVec 24)
  /-- JMP (R204). -/
  | jmp (c : Cond) (pa : Fin 16)
  /-- JCALL (R213). -/
  | jcall (c : Cond) (pa : Fin 16)
  /-- CALLM (R205). -/
  | callm (c : Cond) (mask disp : BitVec 12)
  /-- CALLMR (R205). -/
  | callmr (c : Cond) (mask : BitVec 12) (pt : Fin 16)
  /-- RETM (R206). -/
  | retm (c : Cond)
  /-- RPT (R228). -/
  | rpt (c : Cond) (n : RptCount)
  /-- NOP (R208). -/
  | nop (c : Cond)
  /-- SYNC (R51). -/
  | sync (c : Cond)
  /-- STOP (R62). -/
  | stop (c : Cond)
  /-- TRAP (R208). -/
  | trap (c : Cond) (code : BitVec 8)
  /-- RETI (R178). -/
  | reti (c : Cond)
  /-- MVTC (R160). -/
  | mvtc (c : Cond) (cidx : BitVec 6) (rd : Fin 16)
  /-- MVFC (R160). -/
  | mvfc (c : Cond) (rd : Fin 16) (cidx : BitVec 6)
  /-- RESERVED_OPCODE (R197). -/
  | reservedOpcode (c : Cond)
  /-- EXTENSION_SPACE (R198). -/
  | extensionSpace (c : Cond)
  /-- INTERRUPT_ENTRY (R182). -/
  | interruptEntry
  /-- NMI_ENTRY (R180). -/
  | nmiEntry
  /-- STORE_BUFFER_DRAIN (R267). -/
  | storeBufferDrain
  /-- PARAM_WRITE (R50). -/
  | paramWrite (m : Master) (idx : BitVec 13) (v : BitVec 36)
  /-- PARAM_WRITE_ACK (R263). -/
  | paramWriteAck (k : Fin 8)
  /-- WAKE_ACCEPT (R64). -/
  | wakeAccept
  /-- RETAIN_EXIT (R66). -/
  | retainExit
  /-- WARM_WAKE (R643). -/
  | warmWake (r : Readings)
  /-- COLD_BOOT (R642). -/
  | coldBoot (r : Readings)
  /-- PIER_POWER_ON (R69). -/
  | pierPowerOn (vdd vbk : BitVec 12) (band : BitVec 6)
  /-- PIER_BROWNOUT (R69). -/
  | pierBrownout
  /-- VDD_POWER_ON (R68). -/
  | vddPowerOn (brownout : Bool)
  /-- VDD_BROWNOUT (R70). -/
  | vddBrownout
  /-- RST_N_RESET (R651). -/
  | rstNReset (low : Bool)
  /-- TESTEN_HIGH (R677). -/
  | testenHigh (high : Bool)
  /-- SOFTWARE_RESET (R630). -/
  | softwareReset (m : Master) (v : BitVec 36)
  /-- UMBER_RESET_REQUEST (R630). -/
  | umberResetRequest (m : Master) (v : BitVec 36)
  /-- UMBER_RESET (R640). -/
  | umberReset
  /-- REF_SOURCE_READY (R52). -/
  | refSourceReady
  /-- REF_PLL_LOCK (R46). -/
  | refPllLock
  /-- REF_LOSS (R77). -/
  | refLoss
  /-- CORE_PLL_LOCK (R55). -/
  | corePllLock
  /-- DVFS_POINT_WRITE (R59). -/
  | dvfsPointWrite (m : Master) (v : BitVec 36)
  /-- DVFS_RAMP_END (R58). -/
  | dvfsRampEnd
  /-- RADIO_POWER_ON (R370). -/
  | radioPowerOn (m : Master) (v : BitVec 36)
  /-- RADIO_POWER_OFF (R379). -/
  | radioPowerOff (m : Master) (v : BitVec 36)
  /-- TRESTLE_POWER_ON (R426). -/
  | trestlePowerOn (m : Master) (v : BitVec 36)
  /-- TRESTLE_POWER_OFF (R426). -/
  | trestlePowerOff (m : Master) (v : BitVec 36)
  /-- CIPHER_POWER_ON (R505). -/
  | cipherPowerOn (m : Master) (v : BitVec 36)
  /-- CIPHER_POWER_OFF (R505). -/
  | cipherPowerOff (m : Master) (v : BitVec 36)
  /-- L1_ENABLE (R72). -/
  | l1Enable (m : Master) (v : BitVec 36)
  /-- L1_DISABLE (R72). -/
  | l1Disable (m : Master) (v : BitVec 36)
  /-- L1_READY (R61). -/
  | l1Ready
  /-- SYNTH_G_LOCK_LOSS (R359). -/
  | synthGLockLoss
  /-- TIME_INC_WRITE (R81). -/
  | timeIncWrite (m : Master) (v : BitVec 36)
  /-- TIME_STEP (R85). -/
  | timeStep (m : Master) (v : BitVec 36)
  /-- TIME_LOAD (R86). -/
  | timeLoad (m : Master) (v : BitVec 36)
  /-- TIME_LOAD_APPLY (R89). -/
  | timeLoadApply
  /-- NOWF_READ (R84). -/
  | nowfRead (m : Master)
  /-- PIERCAP_READ (R88). -/
  | piercapRead (m : Master)
  /-- PIERCAPT_READ (R88). -/
  | piercaptRead (m : Master)
  /-- PIERCAP_RELEASE (R88). -/
  | piercapRelease
  /-- STRK_ARM (R92). -/
  | strkArm (m : Master) (n : Fin 8) (v : BitVec 36)
  /-- STRK_DISARM (R92). -/
  | strkDisarm (m : Master) (n : Fin 8) (v : BitVec 36)
  /-- STRIKE_FIRE (R93). -/
  | strikeFire (n : Fin 8)
  /-- STRIKE_PULSE_END (R103). -/
  | strikePulseEnd
  /-- STRIKE_RADIO_ACTION (R372). -/
  | strikeRadioAction
  /-- EPOCH_LATCH (R444). -/
  | epochLatch (e : EpochAt)
  /-- SEPIA_STRIKE_EVENT (R543). -/
  | sepiaStrikeEvent (r : Readings)
  /-- PIER_TICK_LO_READ (R123). -/
  | pierTickLoRead (m : Master)
  /-- PIER_TICK_HI_READ (R123). -/
  | pierTickHiRead (m : Master)
  /-- SHADOW_RELEASE (R123). -/
  | shadowRelease (m : Master)
  /-- PIER_SEC_WRITE (R125). -/
  | pierSecWrite (m : Master) (v : BitVec 36)
  /-- PIER_HALT_SET (R126). -/
  | pierHaltSet (m : Master) (v : BitVec 36)
  /-- PIER_HALT_CLEAR (R126). -/
  | pierHaltClear (m : Master) (v : BitVec 36)
  /-- PIER_TICK_WRITE (R126). -/
  | pierTickWrite (m : Master) (hi : Bool) (v : BitVec 36)
  /-- TRIM_WINDOW_BOUNDARY (R127). -/
  | trimWindowBoundary
  /-- TRIM_CORRECTION (R127). -/
  | trimCorrection
  /-- ALARM_MATCH (R130). -/
  | alarmMatch (n : Fin 2)
  /-- OSC_FAIL (R132). -/
  | oscFail
  /-- OSC_RETURN (R132). -/
  | oscReturn
  /-- SWCFG_WRITE (R135). -/
  | swcfgWrite (m : Master) (v : BitVec 36) (vdd vbk : BitVec 12) (band : BitVec 6)
  /-- LOCKOUT_TRIP (R137). -/
  | lockoutTrip
  /-- LOCKOUT_RELEASE (R137). -/
  | lockoutRelease
  /-- SUPPLY_TO_VBK (R136). -/
  | supplyToVbk (sup : Supplies)
  /-- SUPPLY_TO_VDD (R136). -/
  | supplyToVdd (sup : Supplies)
  /-- PWRON_ACK (R142). -/
  | pwronAck (m : Master) (v : BitVec 36)
  /-- SCRUB_READ (R301). -/
  | scrubRead (granted : Bool)
  /-- DEMAND_WRITEBACK (R299). -/
  | demandWriteback
  /-- ARCH_REQUEST_ON (R294). -/
  | archRequestOn (m : Master) (v : BitVec 36)
  /-- ARCH_REQUEST_SLEEP (R294). -/
  | archRequestSleep (m : Master) (v : BitVec 36)
  /-- ARCH_REQUEST_OFF (R294). -/
  | archRequestOff (m : Master) (v : BitVec 36)
  /-- ARCH_TRANSITION_DONE (R294). -/
  | archTransitionDone (k : Fin 5)
  /-- ARCH_INIT_DONE (R296). -/
  | archInitDone (k : Fin 5)
  /-- MEM_INJECT (R319). -/
  | memInject (m : Master) (v : BitVec 36)
  /-- NVM_WORD_WRITE (R307). -/
  | nvmWordWrite (stuck : BitVec 43)
  /-- NVM_WRITE_ABORT (R548). -/
  | nvmWriteAbort
  /-- REVOKE (R343). -/
  | revoke (m : Master) (v : BitVec 36)
  /-- REVOKE_COMPLETE (R344). -/
  | revokeComplete
  /-- LKVIEW_WRITE (R353). -/
  | lkviewWrite (m : Master) (v : BitVec 36)
  /-- DMA_CTL_WRITE (R329). -/
  | dmaCtlWrite (m : Master) (ch : Fin 16) (v : BitVec 36)
  /-- DMA_START (R334). -/
  | dmaStart (m : Master) (ch : Fin 16) (v : BitVec 36)
  /-- DMA_RESUME (R340). -/
  | dmaResume (m : Master) (ch : Fin 16) (v : BitVec 36)
  /-- DMA_ABORT (R341). -/
  | dmaAbort (m : Master) (ch : Fin 16) (v : BitVec 36)
  /-- DMA_STRIKE_START (R98). -/
  | dmaStrikeStart
  /-- DMA_REQUEST (R335). -/
  | dmaRequest (line : Fin 16)
  /-- DMA_CHAIN_START (R336). -/
  | dmaChainStart (ch : Fin 16)
  /-- DMA_DESCRIPTOR_LOAD (R330). -/
  | dmaDescriptorLoad (ch : Fin 16)
  /-- DMA_ELEMENT (R337). -/
  | dmaElement
  /-- DMA_ABORT_DONE (R341). -/
  | dmaAbortDone (ch : Fin 16)
  /-- RADIO_CMD_SLEEP (R370). -/
  | radioCmdSleep (m : Master) (v : BitVec 36)
  /-- RADIO_CMD_STANDBY (R370). -/
  | radioCmdStandby (m : Master) (v : BitVec 36)
  /-- RADIO_CMD_RX (R370). -/
  | radioCmdRx (m : Master) (v : BitVec 36)
  /-- RADIO_CMD_TX (R370). -/
  | radioCmdTx (m : Master) (v : BitVec 36)
  /-- RADIO_CMD_TXSTART (R370). -/
  | radioCmdTxstart (m : Master) (v : BitVec 36)
  /-- RADIO_CMD_WAKELISTEN (R370). -/
  | radioCmdWakelisten (m : Master) (v : BitVec 36)
  /-- RADIO_CMD_CHSW (R370). -/
  | radioCmdChsw (m : Master) (v : BitVec 36)
  /-- RADIO_CMD_CALRC (R376). -/
  | radioCmdCalrc (m : Master) (v : BitVec 36)
  /-- RADIO_CMD_CALIQ (R376). -/
  | radioCmdCaliq (m : Master) (v : BitVec 36)
  /-- RADIO_CMD_CALDC (R376). -/
  | radioCmdCaldc (m : Master) (v : BitVec 36)
  /-- RADIO_CMD_INVALID (R384). -/
  | radioCmdInvalid (m : Master) (v : BitVec 36)
  /-- RADIO_TRANSITION_DONE (R370). -/
  | radioTransitionDone (locked : Bool)
  /-- RADIO_AUTORET (R373). -/
  | radioAutoret
  /-- RX_TIMEOUT (R373). -/
  | rxTimeout
  /-- TX_UNDERRUN (R388). -/
  | txUnderrun
  /-- DIVERSITY_DECISION (R378). -/
  | diversityDecision (a b : BitVec 8) (gain : BitVec 3)
  /-- FAULT_SEQUENCE_END (R379). -/
  | faultSequenceEnd
  /-- RADIO_TX_FIFO_WRITE (R368). -/
  | radioTxFifoWrite (m : Master) (v : BitVec 36)
  /-- RADIO_RX_FIFO_READ (R368). -/
  | radioRxFifoRead (m : Master)
  /-- RADIO_TXFLUSH (R368). -/
  | radioTxflush (m : Master) (v : BitVec 36)
  /-- RADIO_RXFLUSH (R368). -/
  | radioRxflush (m : Master) (v : BitVec 36)
  /-- XOTRIM_WRITE (R377). -/
  | xotrimWrite (m : Master) (v : BitVec 36)
  /-- XONOW_STEP (R377). -/
  | xonowStep
  /-- SYNC_DETECT (R398). -/
  | syncDetect (word : BitVec 32) (rate : Bool) (rssi : BitVec 8) (gain : BitVec 3)
  /-- FRAME_RECEIVED (R401). -/
  | frameReceived (bits : List Bool)
  /-- FRAME_TX_END (R402). -/
  | frameTxEnd
  /-- ACK_TIMEOUT (R404). -/
  | ackTimeout
  /-- WAKE_TRAIN_END (R410). -/
  | wakeTrainEnd
  /-- BURST_END (R467). -/
  | burstEnd
  /-- WAKE_WINDOW_OPEN (R411). -/
  | wakeWindowOpen
  /-- WAKE_WINDOW_CLOSE (R411). -/
  | wakeWindowClose (level : BitVec 6)
  /-- WAKE_COLLECTION (R412). -/
  | wakeCollection
  /-- WAKE_MATCH (R413). -/
  | wakeMatch (w : Collected)
  /-- WAKE_NOMATCH (R412). -/
  | wakeNomatch (w : Collected)
  /-- TRS_CHANNEL_ENABLE (R447). -/
  | trsChannelEnable (m : Master) (c : Fin 48) (v : BitVec 36)
  /-- TRS_CHANNEL_DISABLE (R447). -/
  | trsChannelDisable (m : Master) (c : Fin 48) (v : BitVec 36)
  /-- TRS_CHSTART (R447). -/
  | trsChstart (m : Master) (v : BitVec 36)
  /-- CARRADJ (R435). -/
  | carradj (m : Master) (c : Fin 48) (v : BitVec 36)
  /-- CODEADJ (R435). -/
  | codeadj (m : Master) (c : Fin 48) (v : BitVec 36)
  /-- CARRRATE_APPLY (R435). -/
  | carrrateApply (c : Fin 48) (xs : List Smp)
  /-- QUANT_BLOCK_END (R428). -/
  | quantBlockEnd (xs : List Smp)
  /-- TRS_DUMP (R439). -/
  | trsDump (c : Fin 48) (xs : List Smp)
  /-- DUMP_WRITE (R441). -/
  | dumpWrite
  /-- CMDATA_WRITE (R431). -/
  | cmdataWrite (m : Master) (v : BitVec 36)
  /-- DUMPBASE_WRITE (R440). -/
  | dumpbaseWrite (m : Master) (len : Bool) (v : BitVec 36)
  /-- SEARCH_CAPTURE (R448). -/
  | searchCapture (m : Master) (v : BitVec 36)
  /-- SEARCH_PASS (R448). -/
  | searchPass (m : Master) (v : BitVec 36)
  /-- SEARCH_ABORT (R448). -/
  | searchAbort (m : Master) (v : BitVec 36)
  /-- SEARCH_CAPTURE_DONE (R448). -/
  | searchCaptureDone (xs : List Smp)
  /-- SEARCH_RESULT_WRITE (R450). -/
  | searchResultWrite
  /-- SEARCH_PASS_DONE (R451). -/
  | searchPassDone
  /-- CODENOW_READ (R452). -/
  | codenowRead (m : Master) (c : ChanAt)
  /-- AES_ECB_ENCRYPT (R492). -/
  | aesEcbEncrypt (m : Master) (v : BitVec 36)
  /-- AES_ECB_DECRYPT (R492). -/
  | aesEcbDecrypt (m : Master) (v : BitVec 36)
  /-- AES_CTR (R493). -/
  | aesCtr (m : Master) (v : BitVec 36)
  /-- AES_CCM_ENCRYPT (R493). -/
  | aesCcmEncrypt (m : Master) (v : BitVec 36)
  /-- AES_CCM_DECRYPT (R493). -/
  | aesCcmDecrypt (m : Master) (v : BitVec 36)
  /-- SHA256 (R492). -/
  | sha256Start (m : Master) (v : BitVec 36)
  /-- HMAC_SHA256 (R492). -/
  | hmacSha256 (m : Master) (v : BitVec 36)
  /-- DERIVE (R496). -/
  | derive (m : Master) (v : BitVec 36)
  /-- ECDSA_SIGN (R493). -/
  | ecdsaSign (m : Master) (v : BitVec 36)
  /-- ECDSA_VERIFY (R492). -/
  | ecdsaVerifyStart (m : Master) (v : BitVec 36)
  /-- ECDH (R492). -/
  | ecdh (m : Master) (v : BitVec 36)
  /-- PUBKEY (R492). -/
  | pubkey (m : Master) (v : BitVec 36)
  /-- CLEAR (R492). -/
  | clear (m : Master) (v : BitVec 36)
  /-- WRAP (R498). -/
  | wrap (m : Master) (v : BitVec 36)
  /-- CIPHER_IN_WRITE (R495). -/
  | cipherInWrite (m : Master) (v : BitVec 36)
  /-- CIPHER_OUT_READ (R495). -/
  | cipherOutRead (m : Master)
  /-- CIPHER_OP_DONE (R496). -/
  | cipherOpDone
  /-- RNG_CTL_WRITE (R500). -/
  | rngCtlWrite (m : Master) (v : BitVec 36)
  /-- RNG_STARTUP_PASS (R501). -/
  | rngStartupPass (x : BitVec 1024)
  /-- RNG_WORD (R500). -/
  | rngWord (x : BitVec 288)
  /-- RNG_ALARM (R502). -/
  | rngAlarm (xs : List Bool)
  /-- RNG_DATA_READ (R503). -/
  | rngDataRead (m : Master)
  /-- TRANSITION_REQUEST (R520). -/
  | transitionRequest (m : Master) (v : BitVec 36)
  /-- TRANSITION_DONE (R521). -/
  | transitionDone (vdd : BitVec 4) (stuck : BitVec 48)
  /-- OWNER_HASH_PROGRAM (R519). -/
  | ownerHashProgram (m : Master) (v : BitVec 36)
  /-- OWNER_HASH_DONE (R519). -/
  | ownerHashDone (stuck : BitVec 256)
  /-- DBG_CHALLENGE (R525). -/
  | dbgChallenge (m : Master) (v : BitVec 36)
  /-- DBG_CHECK_RESPONSE (R526). -/
  | dbgCheckResponse (m : Master) (v : BitVec 36)
  /-- RESPONSE_CHECK_DONE (R526). -/
  | responseCheckDone
  /-- DBG_DROP_RIGHTS (R531). -/
  | dbgDropRights (m : Master) (v : BitVec 36)
  /-- DBG_CHECK_CERTS (R529). -/
  | dbgCheckCerts (m : Master) (v : BitVec 36)
  /-- CERT_CHECK_DONE (R529). -/
  | certCheckDone
  /-- CERT_WINDOW_CHECK (R530). -/
  | certWindowCheck
  /-- DEBUG_HALT (R532). -/
  | debugHalt
  /-- UMBER_HALTED (R532). -/
  | umberHalted
  /-- DEBUG_RESUME (R532). -/
  | debugResume
  /-- DEBUG_STEP (R532). -/
  | debugStep
  /-- DBGIRQ (R532). -/
  | dbgirq
  /-- DEBUG_START (R516). -/
  | debugStart (slot : BitVec 1)
  /-- REGRD (R583). -/
  | regrd (sel : BitVec 8)
  /-- REGWR (R583). -/
  | regwr (sel : BitVec 8) (v : BitVec 36)
  /-- BREAKPOINT_HIT (R533). -/
  | breakpointHit
  /-- WATCHPOINT_HIT (R533). -/
  | watchpointHit
  /-- NVMWRITE (R546). -/
  | nvmwrite
  /-- LOGAPPEND (R560). -/
  | logappend
  /-- SENSE (R558). -/
  | sense (r : Readings)
  /-- PODTEST (R545). -/
  | podtest (podr : BitVec 36)
  /-- XTALCHK (R558). -/
  | xtalchk (ppm : BitVec 36)
  /-- ARMUPDATE (R553). -/
  | armupdate
  /-- CONFIRM (R555). -/
  | confirm
  /-- REGIONS (R551). -/
  | regions
  /-- KEYWRITE (R545). -/
  | keywrite
  /-- SLOTINFO (R545). -/
  | slotinfo
  /-- SERVICE_DONE (R544). -/
  | serviceDone
  /-- ROLE_WRITE (R551). -/
  | roleWrite (m : Master) (v : BitVec 36)
  /-- WDKICK (R556). -/
  | wdkick (m : Master) (v : BitVec 36)
  /-- WDT_STAGE1 (R556). -/
  | wdtStage1
  /-- WDT_STAGE2 (R556). -/
  | wdtStage2
  /-- WDT_STAGE3 (R556). -/
  | wdtStage3
  /-- NMI_ESCALATION (R557). -/
  | nmiEscalation
  /-- SENSOR_SAMPLE (R558). -/
  | sensorSample (r : Readings)
  /-- LOG_WRITE (R559). -/
  | logWrite
  /-- EVFIFO_READ (R543). -/
  | evfifoRead (m : Master)
  /-- HOST_TRANSACTION_START (R570). -/
  | hostTransactionStart (cmd : BitVec 8)
  /-- DIRECT_READ (R573). -/
  | directRead
  /-- DIRECT_WRITE (R573). -/
  | directWrite (b : BitVec 8)
  /-- HOST_PARAM_READ (R576). -/
  | hostParamRead
  /-- HOST_PARAM_WRITE (R577). -/
  | hostParamWrite (v : BitVec 36)
  /-- HOST_MEM_READ (R580). -/
  | hostMemRead
  /-- HOST_MEM_WRITE (R581). -/
  | hostMemWrite (v : BitVec 36)
  /-- HOST_READ_COMPLETE (R576). -/
  | hostReadComplete
  /-- HOST_WRITE_ACK (R577). -/
  | hostWriteAck
  /-- HOST_TRANSACTION_END (R591). -/
  | hostTransactionEnd
  /-- HOST_TIMEOUT (R587). -/
  | hostTimeout
  /-- DOORBELL (R589). -/
  | doorbell (b : BitVec 8)
  /-- DOORIN_READ (R589). -/
  | doorinRead (m : Master)
  /-- DOOROUT_WRITE (R589). -/
  | dooroutWrite (m : Master) (v : BitVec 36)
  /-- POD_READ (R601). -/
  | podRead (m : Master) (v : BitVec 36)
  /-- POD_WRITE (R601). -/
  | podWrite (m : Master) (v : BitVec 36)
  /-- POD_ADDCHG (R601). -/
  | podAddchg (m : Master) (v : BitVec 36)
  /-- POD_AUTH (R601). -/
  | podAuth (m : Master) (v : BitVec 36)
  /-- POD_PING (R601). -/
  | podPing (m : Master) (v : BitVec 36)
  /-- POD_RESULT_POLL (R598). -/
  | podResultPoll
  /-- POD_ANSWER (R598). -/
  | podAnswer (frame : Option (List Byte))
  /-- POD_TIMEOUT (R598). -/
  | podTimeout
  /-- POD_TRANSACTION_DONE (R601). -/
  | podTransactionDone
  /-- POD_RELEASE_NOTICE (R605). -/
  | podReleaseNotice
  /-- POD_IDENTIFY (R607). -/
  | podIdentify (pod : Option PodIdent)
  /-- CHARGE_FOLD (R602). -/
  | chargeFold (pulses : BitVec 36)
  /-- FACE_TXD_WRITE (R609). -/
  | faceTxdWrite (m : Master) (v : BitVec 36)
  /-- FACE_END (R610). -/
  | faceEnd (m : Master) (v : BitVec 36)
  /-- FACE_FLUSH (R613). -/
  | faceFlush (m : Master) (v : BitVec 36)
  /-- FACE_TRANSFER_START (R610). -/
  | faceTransferStart (fbusy : Bool)
  /-- FACE_TRANSFER_END (R610). -/
  | faceTransferEnd (under fbusy : Bool)
  /-- FBUSY_RELEASE (R609). -/
  | fbusyRelease
  /-- GPIO_EDGE (R611). -/
  | gpioEdge (g : Fin 8) (level : Bool)
  /-- PIER_TICK_EDGE (R87). -/
  | pierTickEdge
  /-- TEMPNOW_PERIODIC (R376). -/
  | tempnowPeriodic (temp : BitVec 10)
  deriving DecidableEq, Repr

end Sys2Proof
end

