-- ==== Sys2Proof/Decode.lean ====
section
/-!
DEFINITION. Sys2Proof/Decode.lean: an Umber instruction word as its command (06 R192-R214; 07 R217, R219, R226, R235): COND 35:32, MAJOR 31:26, and one group
of encodings for each major. An encoding that no row assigns, with a nonzero field marked zero, or with S = 1 where S is not allowed is RESERVED_OPCODE (R197);
the values a row's own field forbids (b ≥ 36, an odd accumulator, a reserved AM) stay with the row, whose effect is that trap.
-/

namespace Sys2Proof

open Sys2Proof.Machine

/-- A four-bit register field (Table UMI-1). -/
def regAt (w : Word) (lo : Nat) : Fin 16 := (fld w lo 4 : BitVec 4).toFin
/-- An accumulator number, bits 1:0 of its register field (R200, R217, R226). -/
def accAt (w : Word) (lo : Nat) : Fin 4 := (fld w lo 2 : BitVec 2).toFin
/-- Bits `lo`, … hold 0 for `n` bits (R192). -/
def zeroAt (w : Word) (lo n : Nat) : Bool := decide (fld w lo n = 0#n)
/-- COND (R192, R195). -/
def condOf (w : Word) : Cond := fld w 32 4
/-- The reserved encoding of this word's condition (R197). -/
def rsvOp (w : Word) : Instr := .reservedOpcode (condOf w)
/-- The instruction, its fields marked zero being 0 (R192, R197). -/
def need (ok : Bool) (w : Word) (i : Instr) : Instr := if ok then i else rsvOp w

/-- Format R with neither S nor IMM9 (R193, R199). -/
def plainR (w : Word) : Bool := zeroAt w 21 1 && zeroAt w 0 9
/-- Format R with S allowed. -/
def satR (w : Word) : Bool := zeroAt w 0 9
/-- A row of format R without Db (R199). -/
def noB (w : Word) : Bool := zeroAt w 9 4
/-- A row of format R without Dd. -/
def noD (w : Word) : Bool := zeroAt w 17 4
/-- A row of format R whose number is IMM9 bits 5:0, without Db (Table UMI-5). -/
def smallK (w : Word) : Bool := zeroAt w 6 3 && noB w

/-- Major 0x00 (Table UMI-4). -/
def dec00 (w : Word) : Instr :=
  let c := condOf w; let s := w.getLsbD 21; let d := regAt w 17; let a := regAt w 13; let b := regAt w 9
  match (fld w 22 4 : BitVec 4).toNat with
  | 0 => need (satR w) w (.add c s d a b)
  | 1 => need (satR w) w (.adc c s d a b)
  | 2 => need (satR w) w (.sub c s d a b)
  | 3 => need (satR w) w (.sbc c s d a b)
  | 4 => need (plainR w) w (.and c d a b)
  | 5 => need (plainR w) w (.or c d a b)
  | 6 => need (plainR w) w (.xor c d a b)
  | 7 => need (plainR w) w (.andn c d a b)
  | 8 => need (plainR w) w (.min c d a b)
  | 9 => need (plainR w) w (.max c d a b)
  | 10 => need (plainR w) w (.minu c d a b)
  | 11 => need (plainR w) w (.maxu c d a b)
  | 12 => need (plainR w && noD w) w (.cmp c a b)
  | 13 => need (plainR w && noD w) w (.tst c a b)
  | 14 => need (satR w && noB w) w (.abs c s d a)
  | _ => need (satR w && noB w) w (.neg c s d a)

/-- Major 0x01 (Table UMI-5). -/
def dec01 (w : Word) : Instr :=
  let c := condOf w; let s := w.getLsbD 21; let d := regAt w 17; let a := regAt w 13; let b := regAt w 9; let k : BitVec 6 := fld w 0 6
  match (fld w 22 4 : BitVec 4).toNat with
  | 0 => need (satR w) w (.lsl c s d a b)
  | 1 => need (plainR w) w (.lsr c d a b)
  | 2 => need (plainR w) w (.asr c d a b)
  | 3 => need (plainR w) w (.rol c d a b)
  | 4 => need (smallK w) w (.lsli c s d a k)
  | 5 => need (smallK w && !s) w (.lsri c d a k)
  | 6 => need (smallK w && !s) w (.asri c d a k)
  | 7 => need (smallK w && !s) w (.roli c d a k)
  | 8 => need (plainR w && noB w) w (.clz c d a)
  | 9 => need (plainR w && noB w) w (.cls c d a)
  | 10 => need (smallK w && !s) w (.exts c d a k)
  | 11 => need (smallK w && !s) w (.extz c d a k)
  | 12 => need (plainR w && noB w) w (.swaph c d a)
  | _ => rsvOp w

/-- Major 0x02 (Table UMI-5). -/
def dec02 (w : Word) : Instr :=
  let c := condOf w; let d := regAt w 17; let a := regAt w 13; let b := regAt w 9
  match (fld w 22 4 : BitVec 4).toNat with
  | 0 => need (plainR w) w (.mul c d a b)
  | 1 => need (plainR w) w (.mulh c d a b)
  | 2 => need (plainR w) w (.mulhu c d a b)
  | 3 => need (satR w) w (.mulq c (w.getLsbD 21) d a b)
  | _ => rsvOp w

/-- Major 0x04 (Table UMI-6). -/
def dec04 (w : Word) : Instr :=
  let c := condOf w; let s := w.getLsbD 21; let d := regAt w 22; let v : BitVec 18 := fld w 0 18
  match (fld w 18 3 : BitVec 3).toNat with
  | 0 => .addi c s d v
  | 1 => need (!s) w (.andi c d v)
  | 2 => need (!s) w (.ori c d v)
  | 3 => need (!s) w (.xori c d v)
  | 4 => need (!s) w (.cmpi c d v)
  | 5 => need (!s) w (.ldi c d v)
  | 6 => need (!s) w (.ldih c d v)
  | _ => need (!s) w (.tsti c d v)

/-- Major 0x05 (Table UMI-6). -/
def dec05 (w : Word) : Instr :=
  let c := condOf w; let d := regAt w 22; let v : BitVec 18 := fld w 0 18
  match (fld w 18 3 : BitVec 3).toNat with
  | 0 => need (zeroAt w 21 1) w (.addpi c d v)
  | 1 => need (zeroAt w 21 1) w (.ldpi c d v)
  | 2 => need (zeroAt w 21 1 && zeroAt w 6 12) w (.ldpih c d (fld w 0 6))
  | 3 => need (zeroAt w 21 1) w (.ldni c d v)
  | _ => rsvOp w

/-- Major 0x06 (R200, Table UMI-7): the accumulator field holds n in bits 1:0 and the part in bits 3:2. -/
def dec06 (w : Word) : Instr :=
  let c := condOf w; let d := regAt w 17; let a := regAt w 13; let b := regAt w 9
  match (fld w 22 4 : BitVec 4).toNat with
  | 0 => need (plainR w && noB w) w (.mov c d a)
  | 1 => need (plainR w && noB w) w (.mvdp c d a)
  | 2 => need (plainR w && noB w) w (.mvpd c d a)
  | 3 => need (plainR w && noB w) w (.mvdn c d a)
  | 4 => need (plainR w && noB w) w (.mvnd c d a)
  | 5 => need (plainR w && noB w) w (.mvpp c d a)
  | 6 => need (plainR w) w (.addp c d a b)
  | 7 => need (plainR w) w (.subp c d a b)
  | 8 => need (plainR w && noB w) w (.mvda c d (accAt w 13) (fld w 15 2))
  | 9 => need (plainR w && noB w) w (.mvad c (accAt w 17) (fld w 19 2) a)
  | _ => rsvOp w

/-- Major 0x10 (Table UMI-9). -/
def dec10 (w : Word) : Instr :=
  let c := condOf w; let d := regAt w 19; let p := regAt w 15; let am : BitVec 3 := fld w 12 3; let o : BitVec 12 := fld w 0 12
  match (fld w 23 3 : BitVec 3).toNat with
  | 0 => .ld c d p am o
  | 1 => .st c d p am o
  | 2 => .ldp c d p am o
  | 3 => .stp c d p am o
  | 4 => .ldo c d p am o
  | 5 => .sto c d p am o
  | _ => rsvOp w

/-- Major 0x11 (Table UMI-9): the lane lies in the minor. -/
def dec11 (w : Word) : Instr :=
  let c := condOf w; let d := regAt w 19; let p := regAt w 15; let am : BitVec 3 := fld w 12 3; let o : BitVec 12 := fld w 0 12
  let k : Fin 2 := (fld w 23 1 : BitVec 1).toFin
  match (fld w 24 2 : BitVec 2).toNat with
  | 0 => .ldh c k d p am o
  | 1 => .ldhu c k d p am o
  | 2 => .sth c k d p am o
  | _ => rsvOp w

/-- Major 0x12 (Table UMI-9). -/
def dec12 (w : Word) : Instr :=
  let c := condOf w; let d := regAt w 19; let p := regAt w 15; let am : BitVec 3 := fld w 12 3; let o : BitVec 12 := fld w 0 12
  let k : Fin 4 := (fld w 23 2 : BitVec 2).toFin
  if w.getLsbD 25 then .ldqu c k d p am o else .ldq c k d p am o

/-- Major 0x13 (Table UMI-9). -/
def dec13 (w : Word) : Instr :=
  need (zeroAt w 25 1) w (.stq (condOf w) (fld w 23 2 : BitVec 2).toFin (regAt w 19) (regAt w 15) (fld w 12 3) (fld w 0 12))

/-- Majors 0x14 and 0x38 (Table UMI-9). -/
def dec14 (w : Word) : Instr :=
  let c := condOf w; let d := regAt w 19; let p := regAt w 15; let am : BitVec 3 := fld w 12 3; let o : BitVec 12 := fld w 0 12
  match (fld w 23 3 : BitVec 3).toNat with
  | 0 => .ldd c d p am o
  | 1 => .std c d p am o
  | _ => rsvOp w

def dec38 (w : Word) : Instr :=
  let c := condOf w; let d := regAt w 19; let p := regAt w 15; let am : BitVec 3 := fld w 12 3; let o : BitVec 12 := fld w 0 12
  match (fld w 23 3 : BitVec 3).toNat with
  | 0 => .lr c d p am o
  | 1 => .sc c d p am o
  | 2 => .atadd c d p am o
  | 3 => .atswp c d p am o
  | _ => rsvOp w

/-- Major 0x18 (R217, Table UMD-1): Dd bits 1:0 name the accumulator, and bits 3:2 and IMM9 are 0. -/
def dec18 (w : Word) : Instr :=
  let c := condOf w; let s := w.getLsbD 21; let n := accAt w 17; let a := regAt w 13; let b := regAt w 9
  let ok := zeroAt w 19 2 && zeroAt w 0 9
  match (fld w 22 4 : BitVec 4).toNat with
  | 0 => need ok w (.mac c s n a b)
  | 1 => need ok w (.msu c s n a b)
  | 2 => need (ok && !s) w (.mpy c n a b)
  | 3 => need (ok && !s) w (.mpyn c n a b)
  | 4 => need ok w (.cmac c s n a b)
  | 5 => need ok w (.cmacj c s n a b)
  | _ => rsvOp w

/-- Major 0x19 (R226, Table UMD-5): bits 3:2 of an accumulator field, the fields and the IMM9 bits a row does not use are 0. -/
def dec19 (w : Word) : Instr :=
  let c := condOf w; let s := w.getLsbD 21; let d := accAt w 17; let a := accAt w 13; let b := accAt w 9
  let dz := zeroAt w 19 2; let az := zeroAt w 15 2; let bz := zeroAt w 11 2; let iz := zeroAt w 0 9
  match (fld w 22 4 : BitVec 4).toNat with
  | 0 => need (dz && az && bz && iz) w (.acadd c s d a b)
  | 1 => need (dz && az && bz && iz) w (.acsub c s d a b)
  | 2 => need (dz && az && noB w && iz && !s) w (.acmov c d a)
  | 3 => need (dz && az && noB w && iz) w (.acneg c s d a)
  | 4 => need (dz && zeroAt w 13 4 && noB w && iz && !s) w (.acclr c d)
  | 5 => need (dz && az && noB w && zeroAt w 7 2 && !s) w (.acasr c d a (fld w 0 7))
  | 6 => need (dz && az && noB w && zeroAt w 7 2) w (.aclsl c s d a (fld w 0 7))
  | 7 => need (dz && noB w && iz && !s) w (.acset c d (regAt w 13))
  | 8 => need (az && smallK w) w (.exta c s (regAt w 17) a (fld w 0 6))
  | 9 => need (az && noB w && iz && !s) w (.norm c (regAt w 17) a)
  | 10 => need (az && noB w && iz && !s) w (.exp c (regAt w 17) a)
  | _ => rsvOp w

/-- Major 0x1A, format X (R219, Table UMD-2). -/
def dec1A (w : Word) : Instr :=
  let c := condOf w; let s := w.getLsbD 22; let n := accAt w 20
  let px : Fin 8 := (fld w 17 3 : BitVec 3).toFin; let py : Fin 8 := (fld w 14 3 : BitVec 3).toFin
  let ax : BitVec 2 := fld w 12 2; let ay : BitVec 2 := fld w 10 2; let dx := regAt w 6; let c3 := w.getLsbD 5
  let ok := zeroAt w 0 5
  match (fld w 23 3 : BitVec 3).toNat with
  | 0 => need ok w (.macd c s n px py ax ay dx c3)
  | 1 => need ok w (.msud c s n px py ax ay dx c3)
  | 2 => need (ok && !s) w (.mpyd c n px py ax ay dx c3)
  | 3 => need ok w (.cmacd c s n px py ax ay dx c3)
  | _ => rsvOp w

/-- Major 0x20 (R235, Table UMD-8). -/
def dec20 (w : Word) : Instr :=
  let c := condOf w; let d := regAt w 17; let a := regAt w 13; let b := regAt w 9
  match (fld w 22 4 : BitVec 4).toNat with
  | 0 => need (plainR w) w (.fadd c d a b)
  | 1 => need (plainR w) w (.fsub c d a b)
  | 2 => need (plainR w) w (.fmul c d a b)
  | 3 => need (plainR w) w (.fmac c d a b)
  | 4 => need (plainR w) w (.fmsu c d a b)
  | 5 => need (plainR w && noB w) w (.frcp c d a)
  | 6 => need (plainR w && noD w) w (.fcmp c a b)
  | 7 => need (plainR w && noB w) w (.fabs c d a)
  | 8 => need (plainR w && noB w) w (.fneg c d a)
  | 9 => need (plainR w && noB w) w (.normF c d a)
  | 10 => need (plainR w && noB w) w (.expF c d a)
  | _ => rsvOp w

/-- Major 0x21 (R235, Table UMD-8): k is IMM9. -/
def dec21 (w : Word) : Instr :=
  let c := condOf w; let d := regAt w 17; let a := regAt w 13; let k : BitVec 9 := fld w 0 9; let ok := zeroAt w 21 1 && noB w
  match (fld w 22 4 : BitVec 4).toNat with
  | 0 => need ok w (.fcvtFi c d a k)
  | 1 => need ok w (.fcvtIf c d a k)
  | 2 => need ok w (.fcvtFu c d a k)
  | 3 => need ok w (.fcvtUf c d a k)
  | _ => rsvOp w

/-- The predicate a bit operation writes: FMT10 bit 9 (R207). -/
def predAt (w : Word) : Fin 2 := (fld w 9 1 : BitVec 1).toFin

/-- Major 0x28, format T (R207, Table UMI-10). -/
def dec28 (w : Word) : Instr :=
  let c := condOf w; let v : BitVec 12 := fld w 10 12; let compl := w.getLsbD 8
  match (fld w 22 4 : BitVec 4).toNat with
  | 0 => need (zeroAt w 0 10) w (.bset c v)
  | 1 => need (zeroAt w 0 10) w (.bclr c v)
  | 2 => need (zeroAt w 0 10) w (.btgl c v)
  | 3 => need (zeroAt w 0 8) w (.btst c (predAt w) compl v)
  | 4 => need (zeroAt w 0 8) w (.band c (predAt w) compl v)
  | 5 => need (zeroAt w 0 8) w (.bor c (predAt w) compl v)
  | 6 => .bmovToBit c v (regAt w 6) (fld w 0 6)
  | 7 => .bmovFromBit c (regAt w 6) (fld w 0 6) v
  | _ => rsvOp w

/-- Major 0x39, format T (R207, Table UMI-10). -/
def dec39 (w : Word) : Instr :=
  need (zeroAt w 22 4 && zeroAt w 0 8) w (.tas (condOf w) (predAt w) (w.getLsbD 8) (fld w 10 12))

/-- Major 0x30, format B (Table UMI-11). -/
def dec30 (w : Word) : Instr :=
  match (fld w 24 2 : BitVec 2).toNat with
  | 0 => .br (condOf w) (fld w 0 24)
  | 1 => .call (condOf w) (fld w 0 24)
  | _ => rsvOp w

/-- Major 0x31, format R: Pa alone (Table UMI-11). -/
def dec31 (w : Word) : Instr :=
  let ok := plainR w && noD w && noB w
  match (fld w 22 4 : BitVec 4).toNat with
  | 0 => need ok w (.jmp (condOf w) (regAt w 13))
  | 1 => need ok w (.jcall (condOf w) (regAt w 13))
  | _ => rsvOp w

/-- Major 0x32, format C (R205, R206, Table UMI-11). -/
def dec32 (w : Word) : Instr :=
  match (fld w 24 2 : BitVec 2).toNat with
  | 0 => .callm (condOf w) (fld w 12 12) (fld w 0 12)
  | 1 => need (zeroAt w 0 8) w (.callmr (condOf w) (fld w 12 12) (regAt w 8))
  | 2 => need (zeroAt w 0 24) w (.retm (condOf w))
  | _ => rsvOp w

/-- Major 0x37, format B (R228, Table UMI-11). -/
def dec37 (w : Word) : Instr :=
  match (fld w 24 2 : BitVec 2).toNat with
  | 0 => need (zeroAt w 12 12) w (.rpt (condOf w) (.imm (fld w 0 12)))
  | 1 => need (zeroAt w 4 20) w (.rpt (condOf w) (.reg (regAt w 0)))
  | _ => rsvOp w

/-- Major 0x3A, format S (R208, Table UMI-12): the fields a row does not use are 0. -/
def dec3A (w : Word) : Instr :=
  let c := condOf w; let none' := zeroAt w 0 21
  match (fld w 21 5 : BitVec 5).toNat with
  | 0 => need none' w (.nop c)
  | 1 => need none' w (.sync c)
  | 2 => need none' w (.stop c)
  | 3 => need (zeroAt w 8 13) w (.trap c (fld w 0 8))
  | 4 => need none' w (.reti c)
  | 5 => need (zeroAt w 0 11) w (.mvtc c (fld w 11 6) (regAt w 17))
  | 6 => need (zeroAt w 0 11) w (.mvfc c (regAt w 17) (fld w 11 6))
  | _ => rsvOp w

/-- The command that an Umber instruction word spells (R192, R197, R198, Table UMI-3). -/
def decodeUmber (w : Word) : Instr :=
  match (fld w 26 6 : BitVec 6).toNat with
  | 0x00 => dec00 w
  | 0x01 => dec01 w
  | 0x02 => dec02 w
  | 0x04 => dec04 w
  | 0x05 => dec05 w
  | 0x06 => dec06 w
  | 0x10 => dec10 w
  | 0x11 => dec11 w
  | 0x12 => dec12 w
  | 0x13 => dec13 w
  | 0x14 => dec14 w
  | 0x18 => dec18 w
  | 0x19 => dec19 w
  | 0x1A => dec1A w
  | 0x20 => dec20 w
  | 0x21 => dec21 w
  | 0x28 => dec28 w
  | 0x30 => dec30 w
  | 0x31 => dec31 w
  | 0x32 => dec32 w
  | 0x37 => dec37 w
  | 0x38 => dec38 w
  | 0x39 => dec39 w
  | 0x3A => dec3A w
  | 0x3F => .extensionSpace (condOf w)
  | _ => rsvOp w

/-- The command a word of 36 bits spells. The opcode table gives no row any bits; the words are those that 06 and 07 print (log 6). -/
def decodeTableWord (nbits w : Nat) : Option Instr :=
  if (nbits = 36 ∨ nbits = 40) ∧ w < 2 ^ 36 then some (decodeUmber (BitVec.ofNat 36 w)) else none

end Sys2Proof
end

