-- ==== Sys2Proof/Machine/Cipher.lean ====
section
/-!
DEFINITION. Sys2Proof/Machine/Cipher.lean: the algorithms the cipher unit names (15 R491-R493): AES (FIPS 197), CTR and CCM (SP 800-38C), SHA-256 and HMAC
(FIPS 180-4), ECDSA and ECDH on P-256 (FIPS 186-5), over byte strings; and the packing of byte strings into words.
-/

namespace Sys2Proof.Machine

/-! ### Byte strings (R491) -/

/-- Byte n of a string is in bits 8(n mod 4)+7 : 8(n mod 4) of word n / 4 (R491). -/
def wordBytes (w : BitVec 32) : List Byte := [fld w 0 8, fld w 8 8, fld w 16 8, fld w 24 8]

def wordsToBytes (ws : List (BitVec 32)) : List Byte := ws.flatMap wordBytes

/-- One word of up to four bytes; missing bytes are 0 (R491). -/
def packWord (bs : List Byte) : BitVec 32 :=
  (bs.getD 3 0) ++ (bs.getD 2 0) ++ (bs.getD 1 0) ++ (bs.getD 0 0)

/-- The words of a byte string, `n` of them. -/
def packWords : Nat → List Byte → List (BitVec 32)
  | 0, _ => []
  | n + 1, bs => packWord (bs.take 4) :: packWords n (bs.drop 4)

/-- The words that hold a byte string. -/
def bytesToWords (bs : List Byte) : List (BitVec 32) := packWords ((bs.length + 3) / 4) bs

/-- A big-endian integer of a byte string. -/
def beNat (bs : List Byte) : Nat := bs.foldl (fun a b => 256 * a + b.toNat) 0

/-- An integer as `n` big-endian bytes. -/
def natBe : Nat → Nat → List Byte
  | 0, _ => []
  | n + 1, v => natBe n (v / 256) ++ [BitVec.ofNat 8 v]

def xorBytes (a b : List Byte) : List Byte := List.zipWith (fun x y => x ^^^ y) a b

/-- A string followed by zeros to a multiple of 16 bytes. -/
def padTo16 (bs : List Byte) : List Byte := bs ++ List.replicate ((16 - bs.length % 16) % 16) 0

/-- Blocks of 16 bytes, `n` of them. -/
def blocks16 : Nat → List Byte → List (List Byte)
  | 0, _ => []
  | n + 1, bs => bs.take 16 :: blocks16 n (bs.drop 16)

/-! ### AES (FIPS 197) -/

/-- The S-box, entry 0 in the most significant byte. -/
def aesSboxBits : BitVec 2048 :=
  (0x637c777bf26b6fc53001672bfed7ab76ca82c97dfa5947f0add4a2af9ca472c0b7fd9326363ff7cc34a5e5f171d8311504c723c31896059a071280e2eb27b275#512 ++ 0x09832c1a1b6e5aa0523bd6b329e32f8453d100ed20fcb15b6acbbe394a4c58cfd0efaafb434d338545f9027f503c9fa851a3408f929d38f5bcb6da2110fff3d2#512)
  ++ (0xcd0c13ec5f974417c4a77e3d645d197360814fdc222a908846eeb814de5e0bdbe0323a0a4906245cc2d3ac629195e479e7c8376d8dd54ea96c56f4ea657aae08#512 ++ 0xba78252e1ca6b4c6e8dd741f4bbd8b8a703eb5664803f60e613557b986c11d9ee1f8981169d98e949b1e87e9ce5528df8ca1890dbfe6426841992d0fb054bb16#512)

/-- The inverse S-box. -/
def aesInvBits : BitVec 2048 :=
  (0x52096ad53036a538bf40a39e81f3d7fb7ce339829b2fff87348e4344c4dee9cb547b9432a6c2233dee4c950b42fac34e082ea16628d924b2765ba2496d8bd125#512 ++ 0x72f8f66486689816d4a45ccc5d65b6926c704850fdedb9da5e154657a78d9d8490d8ab008cbcd30af7e45805b8b34506d02c1e8fca3f0f02c1afbd0301138a6b#512)
  ++ (0x3a9111414f67dcea97f2cfcef0b4e67396ac7422e7ad3585e2f937e81c75df6e47f11a711d29c5896fb7620eaa18be1bfc563e4bc6d279209adbc0fe78cd5af4#512 ++ 0x1fdda8338807c731b11210592780ec5f60517fa919b54a0d2de57a9f93c99cefa0e03b4dae2af5b0c8ebbb3c83539961172b047eba77d626e169146355210c7d#512)

def aesSub (b : Byte) : Byte := fld aesSboxBits (8 * (255 - b.toNat)) 8
def aesInvSub (b : Byte) : Byte := fld aesInvBits (8 * (255 - b.toNat)) 8

/-- Multiplication by x in the AES field. -/
def xtime (b : Byte) : Byte := (b <<< 1) ^^^ (if b.msb then 0x1B else 0)

/-- Multiplication in the AES field by a constant below 16. -/
def gmul (k : Nat) (b : Byte) : Byte :=
  let b2 := xtime b
  let b4 := xtime b2
  let b8 := xtime b4
  (if k.testBit 0 then b else 0) ^^^ (if k.testBit 1 then b2 else 0) ^^^ (if k.testBit 2 then b4 else 0)
    ^^^ (if k.testBit 3 then b8 else 0)

/-- The byte of a state, column-major. -/
def stByte (st : List Byte) (r c : Nat) : Byte := st.getD (4 * (c % 4) + r) 0

/-- Rebuild a state from a function of row and column. -/
def stOf (f : Nat → Nat → Byte) : List Byte := (List.range 16).map (fun i => f (i % 4) (i / 4))

def shiftRows (st : List Byte) : List Byte := stOf (fun r c => stByte st r (c + r))
def invShiftRows (st : List Byte) : List Byte := stOf (fun r c => stByte st r (c + 4 - r))

/-- A column transform with the circulant first row `m`. -/
def mixWith (m : List Nat) (st : List Byte) : List Byte :=
  stOf (fun r c => (List.range 4).foldl (fun a k => a ^^^ gmul (m.getD ((k + 4 - r) % 4) 0) (stByte st k c)) 0)

/-- The next word of the key schedule: `i` counts words, `nk` is the key length in words. -/
def keyWord (nk i : Nat) (rcon : Byte) (ws : List (List Byte)) : List Byte :=
  let prev := ws.getD (i - 1) []
  let t :=
    if i % nk = 0 then
      match prev.map aesSub with
      | [a, b, c, d] => [b ^^^ rcon, c, d, a]
      | x => x
    else if nk = 8 ∧ i % 8 = 4 then prev.map aesSub
    else prev
  xorBytes (ws.getD (i - nk) []) t

/-- Extend a key schedule by `n` words. -/
def expandKey (nk : Nat) : Nat → Nat → Byte → List (List Byte) → List (List Byte)
  | 0, _, _, ws => ws
  | n + 1, i, rcon, ws =>
    expandKey nk n (i + 1) (if i % nk = 0 then xtime rcon else rcon) (ws ++ [keyWord nk i rcon ws])

def words4 : Nat → List Byte → List (List Byte)
  | 0, _ => []
  | n + 1, bs => bs.take 4 :: words4 n (bs.drop 4)

/-- The round keys of a 128-bit or 256-bit key. -/
def roundKeys (wide : Bool) (key : List Byte) : List (List Byte) :=
  let nk := if wide then 8 else 4
  let nr := if wide then 14 else 10
  let ws := expandKey nk (4 * (nr + 1) - nk) nk 1 (words4 nk key)
  (List.range (nr + 1)).map (fun r => ((ws.drop (4 * r)).take 4).flatten)

/-- AES encryption of one block with the round keys. -/
def aesEnc (rks : List (List Byte)) (blk : List Byte) : List Byte :=
  let nr := rks.length - 1
  let st := xorBytes blk (rks.getD 0 [])
  let st := (List.range (nr - 1)).foldl (fun st r =>
    xorBytes (mixWith [2, 3, 1, 1] (shiftRows (st.map aesSub))) (rks.getD (r + 1) [])) st
  xorBytes (shiftRows (st.map aesSub)) (rks.getD nr [])

/-- AES decryption of one block. -/
def aesDec (rks : List (List Byte)) (blk : List Byte) : List Byte :=
  let nr := rks.length - 1
  let st := xorBytes blk (rks.getD nr [])
  let st := (List.range (nr - 1)).foldl (fun st r =>
    mixWith [14, 11, 13, 9] (xorBytes ((invShiftRows st).map aesInvSub) (rks.getD (nr - 1 - r) []))) st
  xorBytes ((invShiftRows st).map aesInvSub) (rks.getD 0 [])

/-! ### CTR and CCM (SP 800-38C) -/

/-- A counter block as a big-endian integer, and back (R493). -/
def incBlock (blk : List Byte) (k : Nat) : List Byte := natBe 16 (beNat blk + k)

/-- The CCM counter block A_i (L octets of counter). -/
def ccmCounter (l : Nat) (nonce : List Byte) (i : Nat) : List Byte :=
  BitVec.ofNat 8 (l - 1) :: (nonce ++ natBe l i)

/-- The CBC-MAC input: B0, the associated data with its two-byte length, the payload (R493). -/
def ccmMacInput (l m : Nat) (nonce adata payload : List Byte) : List Byte :=
  let flags := (if adata.isEmpty then 0 else 64) + 8 * ((m - 2) / 2) + (l - 1)
  let b0 := BitVec.ofNat 8 flags :: (nonce ++ natBe l payload.length)
  let ad := if adata.isEmpty then [] else padTo16 (natBe 2 adata.length ++ adata)
  b0 ++ ad ++ padTo16 payload

/-- CBC-MAC over whole blocks. -/
def cbcMac (rks : List (List Byte)) (bs : List Byte) : List Byte :=
  (blocks16 (bs.length / 16) bs).foldl (fun x b => aesEnc rks (xorBytes x b)) (List.replicate 16 0)

/-- The M-byte MIC of CCM, encrypted under counter 0. -/
def ccmMic (rks : List (List Byte)) (l m : Nat) (nonce adata payload : List Byte) : List Byte :=
  (xorBytes (cbcMac rks (ccmMacInput l m nonce adata payload)) (aesEnc rks (ccmCounter l nonce 0))).take m

/-- The CCM keystream applied to a payload: block i uses counter i + 1. -/
def ccmCrypt (rks : List (List Byte)) (l : Nat) (nonce payload : List Byte) : List Byte :=
  let n := (payload.length + 15) / 16
  ((List.range n).map (fun i =>
    xorBytes ((payload.drop (16 * i)).take 16) (aesEnc rks (ccmCounter l nonce (i + 1))))).flatten

/-! ### SHA-256 (FIPS 180-4) and HMAC -/

/-- The round constants, the first in the most significant word. -/
def shaKBits : BitVec 2048 :=
  (0x428a2f9871374491b5c0fbcfe9b5dba53956c25b59f111f1923f82a4ab1c5ed5d807aa9812835b01243185be550c7dc372be5d7480deb1fe9bdc06a7c19bf174#512 ++ 0xe49b69c1efbe47860fc19dc6240ca1cc2de92c6f4a7484aa5cb0a9dc76f988da983e5152a831c66db00327c8bf597fc7c6e00bf3d5a7914706ca635114292967#512)
  ++ (0x27b70a852e1b21384d2c6dfc53380d13650a7354766a0abb81c2c92e92722c85a2bfe8a1a81a664bc24b8b70c76c51a3d192e819d6990624f40e3585106aa070#512 ++ 0x19a4c1161e376c082748774c34b0bcb5391c0cb34ed8aa4a5b9cca4f682e6ff3748f82ee78a5636f84c878148cc7020890befffaa4506cebbef9a3f7c67178f2#512)

def shaK (i : Nat) : BitVec 32 := fld shaKBits (32 * (63 - i)) 32

def shaInit : List (BitVec 32) :=
  [0x6A09E667, 0xBB67AE85, 0x3C6EF372, 0xA54FF53A, 0x510E527F, 0x9B05688C, 0x1F83D9AB, 0x5BE0CD19]

/-- Extend a message schedule by `n` words; the list is newest first. -/
def shaExpand : Nat → List (BitVec 32) → List (BitVec 32)
  | 0, ws => ws
  | n + 1, ws =>
    let w2 := ws.getD 1 0
    let w15 := ws.getD 14 0
    let s1 := w2.rotateRight 17 ^^^ w2.rotateRight 19 ^^^ (w2 >>> 10)
    let s0 := w15.rotateRight 7 ^^^ w15.rotateRight 18 ^^^ (w15 >>> 3)
    shaExpand n ((s1 + ws.getD 6 0 + s0 + ws.getD 15 0) :: ws)

/-- One round with schedule word `w` and constant `k`. -/
def shaRound (st : List (BitVec 32)) (k w : BitVec 32) : List (BitVec 32) :=
  match st with
  | [a, b, c, d, e, f, g, h] =>
    let s1 := e.rotateRight 6 ^^^ e.rotateRight 11 ^^^ e.rotateRight 25
    let ch := (e &&& f) ^^^ (~~~e &&& g)
    let t1 := h + s1 + ch + k + w
    let s0 := a.rotateRight 2 ^^^ a.rotateRight 13 ^^^ a.rotateRight 22
    let mj := (a &&& b) ^^^ (a &&& c) ^^^ (b &&& c)
    [t1 + (s0 + mj), a, b, c, d + t1, e, f, g]
  | _ => st

/-- A big-endian word of four bytes. -/
def beWord (bs : List Byte) : BitVec 32 := (bs.getD 0 0) ++ (bs.getD 1 0) ++ (bs.getD 2 0) ++ (bs.getD 3 0)

/-- One block of 64 bytes. -/
def shaBlock (h : List (BitVec 32)) (blk : List Byte) : List (BitVec 32) :=
  let w0 := ((List.range 16).map (fun i => beWord ((blk.drop (4 * i)).take 4))).reverse
  let ws := (shaExpand 48 w0).reverse
  let st := (ws.zip (List.range 64)).foldl (fun st x => shaRound st (shaK x.2) x.1) h
  List.zipWith (· + ·) h st

def blocks64 : Nat → List Byte → List (List Byte)
  | 0, _ => []
  | n + 1, bs => bs.take 64 :: blocks64 n (bs.drop 64)

/-- The padded message. -/
def shaPad (m : List Byte) : List Byte :=
  m ++ [0x80] ++ List.replicate ((119 - m.length % 64) % 64) 0 ++ natBe 8 (8 * m.length)

/-- SHA-256 of a byte string. -/
def sha256 (m : List Byte) : List Byte :=
  let p := shaPad m
  ((blocks64 (p.length / 64) p).foldl shaBlock shaInit).flatMap (fun w => natBe 4 w.toNat)

/-- HMAC-SHA-256 under a key of at most 64 bytes. -/
def hmac (key m : List Byte) : List Byte :=
  let k := key ++ List.replicate (64 - key.length) 0
  sha256 (k.map (· ^^^ 0x5C) ++ sha256 (k.map (· ^^^ 0x36) ++ m))

/-! ### P-256 (FIPS 186-5) -/

def p256p : Nat := 0xFFFFFFFF00000001000000000000000000000000FFFFFFFFFFFFFFFFFFFFFFFF
def p256n : Nat := 0xFFFFFFFF00000000FFFFFFFFFFFFFFFFBCE6FAADA7179E84F3B9CAC2FC632551
def p256b : Nat := 0x5AC635D8AA3A93E7B3EBBD55769886BC651D06B0CC53B0F63BCE3C3E27D2604B
def p256g : Nat × Nat := (0x6B17D1F2E12C4247F8BCE6E563A440F277037D812DEB33A0F4A13945D898C296,
  0x4FE342E2FE1A7F9B8EE7EB4A7C0F9E162BCE33576B315ECECBB6406837BF51F5)

/-- x^e modulo m, for exponents below 2^n. -/
def powMod (m : Nat) : Nat → Nat → Nat → Nat
  | 0, _, _ => 1 % m
  | n + 1, x, e =>
    let r := powMod m n (x * x % m) (e / 2)
    if e % 2 = 1 then r * x % m else r

/-- The inverse modulo a prime. -/
def invMod (m x : Nat) : Nat := powMod m 256 (x % m) (m - 2)

/-- A point of the curve; none is the point at infinity. -/
abbrev Point := Option (Nat × Nat)

def subMod (m a b : Nat) : Nat := (a + m - b % m) % m

/-- The chord or tangent with slope `l`. -/
def pointWith (l x1 y1 x2 : Nat) : Point :=
  let x3 := subMod p256p (subMod p256p (l * l % p256p) x1) x2
  some (x3, subMod p256p (l * subMod p256p x1 x3 % p256p) y1)

/-- Addition of points. -/
def pointAdd : Point → Point → Point
  | none, q => q
  | p, none => p
  | some (x1, y1), some (x2, y2) =>
    if x1 = x2 then
      if y1 = y2 ∧ y1 ≠ 0 then
        pointWith ((3 * x1 * x1 + (p256p - 3)) % p256p * invMod p256p (2 * y1) % p256p) x1 y1 x2
      else none
    else pointWith (subMod p256p y2 y1 * invMod p256p (subMod p256p x2 x1) % p256p) x1 y1 x2

/-- k times a point, for k below 2^n. -/
def pointMul : Nat → Nat → Point → Point
  | 0, _, _ => none
  | n + 1, k, q =>
    let r := pointMul n (k / 2) (pointAdd q q)
    if k % 2 = 1 then pointAdd r q else r

/-- The point lies on the curve, with coordinates below p (R493). -/
def onCurve (x y : Nat) : Bool :=
  decide (x < p256p) && decide (y < p256p) && decide (y * y % p256p = (x * x * x + (p256p - 3) * x + p256b) % p256p)

/-- ECDSA signature of a hash with a nonce; none where the nonce must be drawn again. -/
def ecdsaSign (d e k : Nat) : Option (Nat × Nat) :=
  if k = 0 ∨ p256n ≤ k then none
  else
    match pointMul 256 k (some p256g) with
    | none => none
    | some (x, _) =>
      let r := x % p256n
      let s := invMod p256n k * ((e + r * d) % p256n) % p256n
      if r = 0 ∨ s = 0 then none else some (r, s)

/-- ECDSA verification; the point is on the curve. -/
def ecdsaVerify (e qx qy r s : Nat) : Bool :=
  if r = 0 ∨ p256n ≤ r ∨ s = 0 ∨ p256n ≤ s then false
  else
    let w := invMod p256n s
    let u1 := e * w % p256n
    let u2 := r * w % p256n
    match pointAdd (pointMul 256 u1 (some p256g)) (pointMul 256 u2 (some (qx, qy))) with
    | none => false
    | some (x, _) => decide (x % p256n = r)

end Sys2Proof.Machine
end

