-- ==== Sys2Proof/Config.lean ====
section
/-!
DEFINITION. Sys2Proof/Config.lean: the free values. Each is an opaque constant without a body: nothing can evaluate it
or prove a value of it. The argument is the draw counter `State.freeCtr`, which every draw advances (log 2), or the
operands the open value belongs to.
-/

namespace Sys2Proof.Config

/-- A word the spec leaves open: a value read across a bubble or after an exception inside a distance (R215, R257), a result
of the extension space (R198). UNVERIFIED by nature: no value is known. -/
opaque freeWord : Nat → Word

/-- An accumulator value the spec leaves open (R198, R257). -/
opaque freeAcc : Nat → Acc

/-- A choice between two outcomes that the spec leaves open (R257, R316). -/
opaque freeBool : Nat → Bool

/-- What CRYPT.FIFOSTAT shows for an expected count of input words that its 15 bits cannot hold (Table CRY-4), by that count. -/
opaque longCount : Nat → BitVec 15

/-- Nominal calibration values held in Sepia's ROM that the spec does not print (R645: RADIO.TXPWR0-24 and
MGMT.SENSCAL0-15 when the calibration record is invalid), by parameter index. -/
opaque romNominal : Nat → Word

/-- The coordinates of the vendor root key held in Sepia's ROM (R518). -/
opaque vendorRoot : Nat × Nat

/-- The coordinates of the vendor debug public key held in Sepia's ROM (R526), in words as R491 packs them. -/
opaque vendorDebugKey : Vector (BitVec 32) 8 × Vector (BitVec 32) 8

/-- The owner root key whose hash the owner-hash fuses hold: the spec does not say where Sepia reads its coordinates for an image header (R553). -/
opaque ownerRoot : Vector (BitVec 32) 8 → Nat × Nat

/-- The seal key that the cipher unit derives from the device unique key by a derivation the spec does not print (R553). -/
opaque sealKey : Vector (BitVec 32) 8 → Vector (BitVec 32) 8

/-- How LIFE.HIST codes the source and the code of an event, which the spec does not print (Table LIF-7): from the event and its detail. -/
opaque histDetail : Nat → Nat → BitVec 6

/-- The patch partition passes its verification at a cold boot (R642): its format is not in the spec. From the stored cells of the partition. -/
opaque patchValid : List (Nat × BitVec 43) → Bool

end Sys2Proof.Config
end

