-- ==== Sys2Proof/Machine/Params.lean ====
section
/-!
DEFINITION. Sys2Proof/Machine/Params.lean: the parameter space (20, R619-R621) and the field sheets of every block, transcribed from the spec's
tables: for each index what a write stores, what a write of 1 clears, what a read clears, what reads 0, the reset value and the bits a system
reset keeps (R10-R15).
-/

namespace Sys2Proof.Machine

/-- A field sheet as masks (Table SCO-2): bits a write stores (RW, RWS), bits a write of 1 clears (W1C), bits a read clears (RC), bits that read 0 (WO),
the reset value, and the bits kept through a system reset (P: and RWS, R11, R12). -/
structure Sheet where
  rw : Word
  w1c : Word
  rc : Word
  wo : Word
  reset : Word
  keep : Word
  deriving DecidableEq, Repr

/-- `count` parameters with one sheet, from `base` in steps of `stride`. -/
structure SheetRow where
  base : Nat
  stride : Nat
  count : Nat
  sheet : Sheet
  deriving DecidableEq, Repr

/-! The parameter index of each name (R16); arrays by their first index. -/
namespace P

/-- SYS.ID, 20 R621 Table MAP-2. -/
abbrev SYS_ID : Nat := 0x0000

/-- SYS.FEAT, 20 R621 Table MAP-2. -/
abbrev SYS_FEAT : Nat := 0x0001

/-- SYS.PERR, 20 R621 Table MAP-2. -/
abbrev SYS_PERR : Nat := 0x0002

/-- SYS.PERRCNT, 20 R621 Table MAP-2. -/
abbrev SYS_PERRCNT : Nat := 0x0003

/-- SYS.SCR (first of 12, step 1), 20 R621 Table MAP-2. -/
abbrev SYS_SCR : Nat := 0x0004

/-- SYS.ROLE, 20 R621 Table MAP-2. -/
abbrev SYS_ROLE : Nat := 0x0010

/-- SYS.ROLEACT, 20 R621 Table MAP-2. -/
abbrev SYS_ROLEACT : Nat := 0x0011

/-- SYS.CALSTAT, 20 R621 Table MAP-2. -/
abbrev SYS_CALSTAT : Nat := 0x0012

/-- SYS.TXLAUNCH, 20 R621 Table MAP-2, 21 R645. -/
abbrev SYS_TXLAUNCH : Nat := 0x0018

/-- SYS.TXLAUNCHT, 20 R621 Table MAP-2, 21 R645. -/
abbrev SYS_TXLAUNCHT : Nat := 0x0019

/-- SYS.CAL (first of 27, step 1), 20 R621 Table MAP-2. -/
abbrev SYS_CAL : Nat := 0x0020

/-- PWR.MODE, 02 Table ISL-12. -/
abbrev PWR_MODE : Nat := 0x0100

/-- PWR.WAKEEN, 02 Table ISL-13. -/
abbrev PWR_WAKEEN : Nat := 0x0101

/-- PWR.WAKESRC, 02 Table ISL-13. -/
abbrev PWR_WAKESRC : Nat := 0x0102

/-- PWR.RETCFG, 02 Table ISL-14. -/
abbrev PWR_RETCFG : Nat := 0x0103

/-- PWR.CLKCTL, 02 Table ISL-15. -/
abbrev PWR_CLKCTL : Nat := 0x0104

/-- PWR.DVFS, 02 Table ISL-16. -/
abbrev PWR_DVFS : Nat := 0x0105

/-- PWR.STATUS, 02 Table ISL-17. -/
abbrev PWR_STATUS : Nat := 0x0106

/-- PWR.ISLAND, 02 Table ISL-18. -/
abbrev PWR_ISLAND : Nat := 0x0107

/-- PWR.RES (first of 16, step 1), 02 Table ISL-11. -/
abbrev PWR_RES : Nat := 0x0110

/-- PWR.MCAL (first of 72, step 1), 02 Table ISL-11. -/
abbrev PWR_MCAL : Nat := 0x0120

/-- DBG.BP (first of 4, step 1), 20 R629 Table MAP-6. -/
abbrev DBG_BP : Nat := 0x1F04

/-- DBG.WP0LO, 20 R629 Table MAP-6. -/
abbrev DBG_WP0LO : Nat := 0x1F08

/-- DBG.WP0HI, 20 R629 Table MAP-6. -/
abbrev DBG_WP0HI : Nat := 0x1F09

/-- DBG.WP0CTL, 20 R629 Table MAP-6. -/
abbrev DBG_WP0CTL : Nat := 0x1F0A

/-- DBG.WP1LO, 20 R629 Table MAP-6. -/
abbrev DBG_WP1LO : Nat := 0x1F0B

/-- DBG.WP1HI, 20 R629 Table MAP-6. -/
abbrev DBG_WP1HI : Nat := 0x1F0C

/-- DBG.WP1CTL, 20 R629 Table MAP-6. -/
abbrev DBG_WP1CTL : Nat := 0x1F0D

/-- DBG.CTL, 20 R630 Table MAP-7. -/
abbrev DBG_CTL : Nat := 0x1F0E

/-- DBG.STAT, 20 R629 Table MAP-6. -/
abbrev DBG_STAT : Nat := 0x1F0F

/-- DBG.HALTPC, 20 R629 Table MAP-6. -/
abbrev DBG_HALTPC : Nat := 0x1F24

/-- DBG.WPADDR, 20 R629 Table MAP-6. -/
abbrev DBG_WPADDR : Nat := 0x1F25

/-- DBG.HALTCNT, 20 R629 Table MAP-6. -/
abbrev DBG_HALTCNT : Nat := 0x1F26

/-- DBG.STEPCNT, 20 R629 Table MAP-6. -/
abbrev DBG_STEPCNT : Nat := 0x1F27

/-- DBG.BPHIT (first of 4, step 1), 20 R629 Table MAP-6. -/
abbrev DBG_BPHIT : Nat := 0x1F28

/-- DBG.WPHIT (first of 2, step 1), 20 R629 Table MAP-6. -/
abbrev DBG_WPHIT : Nat := 0x1F2C

/-- DBG.TRCIDX, 20 R629 Table MAP-6. -/
abbrev DBG_TRCIDX : Nat := 0x1F2E

/-- DBG.EXCIDX, 20 R629 Table MAP-6. -/
abbrev DBG_EXCIDX : Nat := 0x1F2F

/-- DBG.MARK (first of 12, step 1), 20 R629 Table MAP-6. -/
abbrev DBG_MARK : Nat := 0x1F34

/-- DBG.MARK12 (first of 5, step 1), 20 R629 Table MAP-6. -/
abbrev DBG_MARK12 : Nat := 0x1F4B

/-- DBG.EXC (first of 16, step 1), 20 R629 Table MAP-6. -/
abbrev DBG_EXC : Nat := 0x1F50

/-- DBG.TRC (first of 160, step 1), 20 R629 Table MAP-6. -/
abbrev DBG_TRC : Nat := 0x1F60

/-- TIME.INC, 03 R81. -/
abbrev TIME_INC : Nat := 0x0300

/-- TIME.STEP, 03 R85. -/
abbrev TIME_STEP : Nat := 0x0301

/-- TIME.CTL, 03 Table TIM-5. -/
abbrev TIME_CTL : Nat := 0x0302

/-- TIME.STATUS, 03 Table TIM-6. -/
abbrev TIME_STATUS : Nat := 0x0303

/-- TIME.NOWF, 03 R84. -/
abbrev TIME_NOWF : Nat := 0x0304

/-- TIME.NOWS, 03 R84. -/
abbrev TIME_NOWS : Nat := 0x0305

/-- TIME.NOWX, 03 R84. -/
abbrev TIME_NOWX : Nat := 0x0306

/-- TIME.LOADF, 03 R86. -/
abbrev TIME_LOADF : Nat := 0x0307

/-- TIME.LOADS, 03 R86. -/
abbrev TIME_LOADS : Nat := 0x0308

/-- TIME.LOADT, 03 R89. -/
abbrev TIME_LOADT : Nat := 0x0309

/-- TIME.PIERCAP, 03 R87. -/
abbrev TIME_PIERCAP : Nat := 0x030A

/-- TIME.PIERCAPS, 03 R87. -/
abbrev TIME_PIERCAPS : Nat := 0x030B

/-- TIME.PIERCAPT, 03 R87. -/
abbrev TIME_PIERCAPT : Nat := 0x030C

/-- TIME.PINCOMP, 03 R104, 21 R645. -/
abbrev TIME_PINCOMP : Nat := 0x030D

/-- TIME.PINCTL, 03 Table TIM-4. -/
abbrev TIME_PINCTL : Nat := 0x030E

/-- TIME.EPOCHF, 03 R97. -/
abbrev TIME_EPOCHF : Nat := 0x030F

/-- TIME.EPOCHS, 03 R97. -/
abbrev TIME_EPOCHS : Nat := 0x0310

/-- TIME.SYNCF, 03 Table TIM-4. -/
abbrev TIME_SYNCF : Nat := 0x0311

/-- TIME.SYNCS, 03 Table TIM-4. -/
abbrev TIME_SYNCS : Nat := 0x0312

/-- TIME.TCLKCNT, 03 Table TIM-4. -/
abbrev TIME_TCLKCNT : Nat := 0x0313

/-- TIME.PPER, 03 Table TIM-4. -/
abbrev TIME_PPER : Nat := 0x0314

/-- TIME.STRKSUM, 03 Table TIM-4. -/
abbrev TIME_STRKSUM : Nat := 0x0315

/-- TIME.STEPTF, 03 R85. -/
abbrev TIME_STEPTF : Nat := 0x0316

/-- TIME.STEPTS, 03 R85. -/
abbrev TIME_STEPTS : Nat := 0x0317

/-- TIME.STEPLOG (first of 16, step 1), 03 R85. -/
abbrev TIME_STEPLOG : Nat := 0x0320

/-- STRK.CTL (first of 8, step 16), 03 R112 Table TIM-7. -/
abbrev STRK_CTL : Nat := 0x0400

/-- STRK.TSEC (first of 8, step 16), 03 R112 Table TIM-7. -/
abbrev STRK_TSEC : Nat := 0x0401

/-- STRK.TFRAC (first of 8, step 16), 03 R112 Table TIM-7. -/
abbrev STRK_TFRAC : Nat := 0x0402

/-- STRK.PSEC (first of 8, step 16), 03 R112 Table TIM-7. -/
abbrev STRK_PSEC : Nat := 0x0403

/-- STRK.PFRAC (first of 8, step 16), 03 R112 Table TIM-7. -/
abbrev STRK_PFRAC : Nat := 0x0404

/-- STRK.COUNT (first of 8, step 16), 03 R112 Table TIM-7. -/
abbrev STRK_COUNT : Nat := 0x0405

/-- STRK.TGT (first of 8, step 16), 03 R112 Table TIM-7. -/
abbrev STRK_TGT : Nat := 0x0406

/-- STRK.PIN, 03 R105. -/
abbrev STRK_PIN : Nat := 0x0407

/-- STRK.PIN1, 03 R105. -/
abbrev STRK_PIN1 : Nat := 0x0417

/-- STRK.PIN2, 03 R105. -/
abbrev STRK_PIN2 : Nat := 0x0427

/-- STRK.PIN3, 03 R105. -/
abbrev STRK_PIN3 : Nat := 0x0437

/-- STRK.PIN4 (first of 4, step 16), 03 R105. -/
abbrev STRK_PIN4 : Nat := 0x0447

/-- STRK.WIDTH (first of 8, step 16), 03 R112 Table TIM-7. -/
abbrev STRK_WIDTH : Nat := 0x0408

/-- STRK.RACT (first of 8, step 16), 03 R112 Table TIM-7. -/
abbrev STRK_RACT : Nat := 0x0409

/-- STRK.DMASEL (first of 8, step 16), 03 R112 Table TIM-7. -/
abbrev STRK_DMASEL : Nat := 0x040A

/-- STRK.CHAIN (first of 8, step 16), 03 R112 Table TIM-7. -/
abbrev STRK_CHAIN : Nat := 0x040B

/-- STRK.STATUS (first of 8, step 16), 03 R112 Table TIM-7. -/
abbrev STRK_STATUS : Nat := 0x040C

/-- STRK.LATE (first of 8, step 16), 03 R112 Table TIM-7. -/
abbrev STRK_LATE : Nat := 0x040D

/-- STRK.NSEC (first of 8, step 16), 03 R112 Table TIM-7. -/
abbrev STRK_NSEC : Nat := 0x040E

/-- STRK.NFRAC (first of 8, step 16), 03 R112 Table TIM-7. -/
abbrev STRK_NFRAC : Nat := 0x040F

/-- PIER.TICK_LO, 04 R121. -/
abbrev PIER_TICK_LO : Nat := 0x0200

/-- PIER.TICK_HI, 04 R121. -/
abbrev PIER_TICK_HI : Nat := 0x0201

/-- PIER.SEC, 04 R125. -/
abbrev PIER_SEC : Nat := 0x0202

/-- PIER.CTL, 04 R126. -/
abbrev PIER_CTL : Nat := 0x0203

/-- PIER.TRIM, 04 R127. -/
abbrev PIER_TRIM : Nat := 0x0204

/-- PIER.WINCNT, 04 R127. -/
abbrev PIER_WINCNT : Nat := 0x0205

/-- PIER.SWCFG, 04 R135. -/
abbrev PIER_SWCFG : Nat := 0x0206

/-- PIER.STATUS, 04 Table PIE-6. -/
abbrev PIER_STATUS : Nat := 0x0207

/-- PIER.ALM0_LO, 04 R129. -/
abbrev PIER_ALM0_LO : Nat := 0x0208

/-- PIER.ALM0_HI, 04 R129. -/
abbrev PIER_ALM0_HI : Nat := 0x0209

/-- PIER.ALM0CTL, 04 R129. -/
abbrev PIER_ALM0CTL : Nat := 0x020A

/-- PIER.ALM1_LO, 04 R129. -/
abbrev PIER_ALM1_LO : Nat := 0x020B

/-- PIER.ALM1_HI, 04 R129. -/
abbrev PIER_ALM1_HI : Nat := 0x020C

/-- PIER.ALM1CTL, 04 R129. -/
abbrev PIER_ALM1CTL : Nat := 0x020D

/-- PIER.PWRCTL, 04 R141. -/
abbrev PIER_PWRCTL : Nat := 0x020E

/-- PIER.PWRSTAT, 04 R142. -/
abbrev PIER_PWRSTAT : Nat := 0x020F

/-- PIER.BKP (first of 8, step 1), 04 R144. -/
abbrev PIER_BKP : Nat := 0x0210

/-- PIER.CHG (first of 12, step 1), 19 R604. -/
abbrev PIER_CHG : Nat := 0x0218

/-- PIER.EV (first of 16, step 1), 04 R140. -/
abbrev PIER_EV : Nat := 0x0224

/-- PIER.EVIDX, 04 R140. -/
abbrev PIER_EVIDX : Nat := 0x0234

/-- PIER.XTAL, 21 R645. -/
abbrev PIER_XTAL : Nat := 0x0235

/-- PIER.LOCKCNT, 04 R140. -/
abbrev PIER_LOCKCNT : Nat := 0x0236

/-- PIER.OSFCNT, 04 R132. -/
abbrev PIER_OSFCNT : Nat := 0x0237

/-- MGMT.STATUS, 17 R561 Table SEP-9. -/
abbrev MGMT_STATUS : Nat := 0x1E00

/-- MGMT.VERSION, 17 R561 Table SEP-9. -/
abbrev MGMT_VERSION : Nat := 0x1E01

/-- MGMT.RSTCAUSE, 17 R561 Table SEP-9. -/
abbrev MGMT_RSTCAUSE : Nat := 0x1E02

/-- MGMT.BOOTSTAT, 17 R561 Table SEP-9. -/
abbrev MGMT_BOOTSTAT : Nat := 0x1E03

/-- MGMT.RBCNT, 17 R561 Table SEP-9. -/
abbrev MGMT_RBCNT : Nat := 0x1E04

/-- MGMT.SLOTVERA, 17 R561 Table SEP-9. -/
abbrev MGMT_SLOTVERA : Nat := 0x1E05

/-- MGMT.SLOTVERB, 17 R561 Table SEP-9. -/
abbrev MGMT_SLOTVERB : Nat := 0x1E06

/-- MGMT.CFGSEQ, 17 R561 Table SEP-9. -/
abbrev MGMT_CFGSEQ : Nat := 0x1E07

/-- MGMT.SVCREQ (first of 8, step 1), 17 R544. -/
abbrev MGMT_SVCREQ : Nat := 0x1E08

/-- MGMT.SVCGO, 17 R544. -/
abbrev MGMT_SVCGO : Nat := 0x1E10

/-- MGMT.SVCSTAT, 17 R561 Table SEP-9. -/
abbrev MGMT_SVCSTAT : Nat := 0x1E11

/-- MGMT.SVCREPLY (first of 4, step 1), 17 R544. -/
abbrev MGMT_SVCREPLY : Nat := 0x1E12

/-- MGMT.WDCFG, 17 R561 Table SEP-9. -/
abbrev MGMT_WDCFG : Nat := 0x1E16

/-- MGMT.WDKICK, 17 R556. -/
abbrev MGMT_WDKICK : Nat := 0x1E17

/-- MGMT.WDSTAT, 17 R561 Table SEP-9. -/
abbrev MGMT_WDSTAT : Nat := 0x1E18

/-- MGMT.NVMQSTAT, 17 R561 Table SEP-9. -/
abbrev MGMT_NVMQSTAT : Nat := 0x1E19

/-- MGMT.NVMWMASK, 17 R561 Table SEP-9. -/
abbrev MGMT_NVMWMASK : Nat := 0x1E1A

/-- MGMT.LOGMASK, 17 R561 Table SEP-9. -/
abbrev MGMT_LOGMASK : Nat := 0x1E1B

/-- MGMT.LOGHEAD, 17 R561 Table SEP-9. -/
abbrev MGMT_LOGHEAD : Nat := 0x1E1C

/-- MGMT.LOGCOUNT, 17 R561 Table SEP-9. -/
abbrev MGMT_LOGCOUNT : Nat := 0x1E1D

/-- MGMT.LOGDROP, 17 R561 Table SEP-9. -/
abbrev MGMT_LOGDROP : Nat := 0x1E1E

/-- MGMT.IRQEN, 17 R561 Table SEP-9. -/
abbrev MGMT_IRQEN : Nat := 0x1E1F

/-- MGMT.TEMP, 17 Table SEP-6. -/
abbrev MGMT_TEMP : Nat := 0x1E20

/-- MGMT.VDD, 17 Table SEP-6. -/
abbrev MGMT_VDD : Nat := 0x1E21

/-- MGMT.VBK, 17 Table SEP-6. -/
abbrev MGMT_VBK : Nat := 0x1E22

/-- MGMT.PODR, 17 Table SEP-6. -/
abbrev MGMT_PODR : Nat := 0x1E23

/-- MGMT.LIGHT, 17 Table SEP-6. -/
abbrev MGMT_LIGHT : Nat := 0x1E24

/-- MGMT.XTAL, 17 Table SEP-6. -/
abbrev MGMT_XTAL : Nat := 0x1E25

/-- MGMT.SENSCFG, 17 R561 Table SEP-9. -/
abbrev MGMT_SENSCFG : Nat := 0x1E26

/-- MGMT.SENSSTAT, 17 R561 Table SEP-9. -/
abbrev MGMT_SENSSTAT : Nat := 0x1E27

/-- MGMT.SENSTHR (first of 8, step 1), 17 R561 Table SEP-9. -/
abbrev MGMT_SENSTHR : Nat := 0x1E28

/-- MGMT.EVCFG, 17 R561 Table SEP-9. -/
abbrev MGMT_EVCFG : Nat := 0x1E30

/-- MGMT.EVFIFO, 17 R543. -/
abbrev MGMT_EVFIFO : Nat := 0x1E31

/-- MGMT.EVSTAT, 17 R561 Table SEP-9. -/
abbrev MGMT_EVSTAT : Nat := 0x1E32

/-- MGMT.NVMQ (first of 8, step 1), 17 R561 Table SEP-9. -/
abbrev MGMT_NVMQ : Nat := 0x1E33

/-- MGMT.LASTLOG (first of 4, step 1), 17 R561 Table SEP-9. -/
abbrev MGMT_LASTLOG : Nat := 0x1E3B

/-- MGMT.LOGSTAT, 17 R561 Table SEP-9. -/
abbrev MGMT_LOGSTAT : Nat := 0x1E3F

/-- MGMT.SENSCAL (first of 16, step 1), 17 R561 Table SEP-9. -/
abbrev MGMT_SENSCAL : Nat := 0x1E40

/-- MGMT.CNT (first of 16, step 1), 17 R561 Table SEP-9. -/
abbrev MGMT_CNT : Nat := 0x1E50

/-- MGMT.TEST (first of 48, step 1), 17 R561 Table SEP-9. -/
abbrev MGMT_TEST : Nat := 0x1E60

/-- MGMT.SVCDATA (first of 32, step 1), 17 R544. -/
abbrev MGMT_SVCDATA : Nat := 0x1EA0

/-- MEM.ARCHCTL, 09 Table MEM-9. -/
abbrev MEM_ARCHCTL : Nat := 0x0500

/-- MEM.ARCHSTAT, 09 Table MEM-10. -/
abbrev MEM_ARCHSTAT : Nat := 0x0501

/-- MEM.STATUS, 09 Table MEM-11. -/
abbrev MEM_STATUS : Nat := 0x0502

/-- MEM.SCRUBCFG, 09 R309 Table MEM-8. -/
abbrev MEM_SCRUBCFG : Nat := 0x0503

/-- MEM.SCRUBPOS, 09 R309 Table MEM-8. -/
abbrev MEM_SCRUBPOS : Nat := 0x0504

/-- MEM.SCRUBPASS, 09 R309 Table MEM-8. -/
abbrev MEM_SCRUBPASS : Nat := 0x0505

/-- MEM.CECNT, 09 R309 Table MEM-8. -/
abbrev MEM_CECNT : Nat := 0x0506

/-- MEM.CETHR, 09 R309 Table MEM-8. -/
abbrev MEM_CETHR : Nat := 0x0507

/-- MEM.CEADDR, 09 R309 Table MEM-8. -/
abbrev MEM_CEADDR : Nat := 0x0508

/-- MEM.UEADDR, 09 Table MEM-12. -/
abbrev MEM_UEADDR : Nat := 0x0509

/-- MEM.UECNT, 09 R309 Table MEM-8. -/
abbrev MEM_UECNT : Nat := 0x050A

/-- MEM.PQUERY, 09 R309 Table MEM-8. -/
abbrev MEM_PQUERY : Nat := 0x050B

/-- MEM.PCOUNT, 09 R309 Table MEM-8. -/
abbrev MEM_PCOUNT : Nat := 0x050C

/-- MEM.INJECT, 09 R319. -/
abbrev MEM_INJECT : Nat := 0x050D

/-- MEM.INJADDR, 09 R309 Table MEM-8. -/
abbrev MEM_INJADDR : Nat := 0x050E

/-- MEM.NVMSTAT, 09 Table MEM-13. -/
abbrev MEM_NVMSTAT : Nat := 0x050F

/-- MEM.NVMERR, 09 R309 Table MEM-8. -/
abbrev MEM_NVMERR : Nat := 0x0510

/-- MEM.NVMCECNT, 09 R309 Table MEM-8. -/
abbrev MEM_NVMCECNT : Nat := 0x0511

/-- MEM.STALLCNT, 09 R309 Table MEM-8. -/
abbrev MEM_STALLCNT : Nat := 0x0512

/-- MEM.REPAIR (first of 16, step 1), 09 Table MEM-14. -/
abbrev MEM_REPAIR : Nat := 0x0520

/-- MEM.BANKCE (first of 16, step 1), 09 R309 Table MEM-8. -/
abbrev MEM_BANKCE : Nat := 0x0530

/-- MEM.UMBACC (first of 16, step 1), 09 R309 Table MEM-8. -/
abbrev MEM_UMBACC : Nat := 0x0540

/-- MEM.GRANT (first of 16, step 1), 09 R309 Table MEM-8. -/
abbrev MEM_GRANT : Nat := 0x0550

/-- MEM.DENY (first of 16, step 1), 09 R309 Table MEM-8. -/
abbrev MEM_DENY : Nat := 0x0560

/-- MEM.CELOG (first of 16, step 1), 09 R309 Table MEM-8. -/
abbrev MEM_CELOG : Nat := 0x0570

/-- MEM.WAITMAX (first of 5, step 1), 09 R309 Table MEM-8. -/
abbrev MEM_WAITMAX : Nat := 0x0580

/-- MPU.BASE (first of 256, step 3), 10 R347. -/
abbrev MPU_BASE : Nat := 0x0600

/-- MPU.LIMIT (first of 256, step 3), 10 R347. -/
abbrev MPU_LIMIT : Nat := 0x0601

/-- MPU.ATTR (first of 256, step 3), 10 R347. -/
abbrev MPU_ATTR : Nat := 0x0602

/-- DOM.REVOKE, 10 R342. -/
abbrev DOM_REVOKE : Nat := 0x0900

/-- DOM.REVSTAT, 10 R348 Table DMA-11. -/
abbrev DOM_REVSTAT : Nat := 0x0901

/-- DOM.REGLOCK, 10 R348 Table DMA-11. -/
abbrev DOM_REGLOCK : Nat := 0x0902

/-- DOM.PMSEL, 10 R348 Table DMA-11. -/
abbrev DOM_PMSEL : Nat := 0x0903

/-- DOM.PMASK, 10 R324. -/
abbrev DOM_PMASK : Nat := 0x0904

/-- DOM.LKSEL, 10 R348 Table DMA-11. -/
abbrev DOM_LKSEL : Nat := 0x0905

/-- DOM.LKVIEW, 10 R353. -/
abbrev DOM_LKVIEW : Nat := 0x0906

/-- DOM.VIOL, 10 R348 Table DMA-11. -/
abbrev DOM_VIOL : Nat := 0x0907

/-- DOM.VIOLCNT, 10 R348 Table DMA-11. -/
abbrev DOM_VIOLCNT : Nat := 0x0908

/-- DOM.LASTFLT, 10 R348 Table DMA-11. -/
abbrev DOM_LASTFLT : Nat := 0x0909

/-- DOM.CURDOM, 10 R348 Table DMA-11. -/
abbrev DOM_CURDOM : Nat := 0x090A

/-- DOM.REVLOG (first of 4, step 1), 10 R348 Table DMA-11. -/
abbrev DOM_REVLOG : Nat := 0x090B

/-- DOM.LKSET, 10 R348 Table DMA-11. -/
abbrev DOM_LKSET : Nat := 0x090F

/-- DMA.CTL (first of 16, step 16), 10 R349 Table DMA-12. -/
abbrev DMA_CTL : Nat := 0x0A00

/-- DMA.CMD (first of 16, step 16), 10 R349 Table DMA-12. -/
abbrev DMA_CMD : Nat := 0x0A01

/-- DMA.STATUS (first of 16, step 16), 10 R349 Table DMA-12. -/
abbrev DMA_STATUS : Nat := 0x0A02

/-- DMA.FADDR (first of 16, step 16), 10 R349 Table DMA-12. -/
abbrev DMA_FADDR : Nat := 0x0A03

/-- DMA.REMAIN (first of 16, step 16), 10 R349 Table DMA-12. -/
abbrev DMA_REMAIN : Nat := 0x0A04

/-- DMA.DPTR (first of 16, step 16), 10 R349 Table DMA-12. -/
abbrev DMA_DPTR : Nat := 0x0A05

/-- DMA.DESC0 (first of 16, step 16), 10 R349 Table DMA-12. -/
abbrev DMA_DESC0 : Nat := 0x0A06

/-- DMA.DESC1 (first of 16, step 16), 10 R349 Table DMA-12. -/
abbrev DMA_DESC1 : Nat := 0x0A07

/-- DMA.DESC2 (first of 16, step 16), 10 R349 Table DMA-12. -/
abbrev DMA_DESC2 : Nat := 0x0A08

/-- DMA.DESC3 (first of 16, step 16), 10 R349 Table DMA-12. -/
abbrev DMA_DESC3 : Nat := 0x0A09

/-- DMA.DESC4 (first of 16, step 16), 10 R349 Table DMA-12. -/
abbrev DMA_DESC4 : Nat := 0x0A0A

/-- DMA.DESC5 (first of 16, step 16), 10 R349 Table DMA-12. -/
abbrev DMA_DESC5 : Nat := 0x0A0B

/-- DMA.DESC6 (first of 16, step 16), 10 R349 Table DMA-12. -/
abbrev DMA_DESC6 : Nat := 0x0A0C

/-- DMA.CURSRC (first of 16, step 16), 10 R349 Table DMA-12. -/
abbrev DMA_CURSRC : Nat := 0x0A0D

/-- DMA.CURDST (first of 16, step 16), 10 R349 Table DMA-12. -/
abbrev DMA_CURDST : Nat := 0x0A0E

/-- DMA.XFERCNT (first of 16, step 16), 10 R349 Table DMA-12. -/
abbrev DMA_XFERCNT : Nat := 0x0A0F

/-- SYNTH.ASTAT, 11 R383 Table RAD-10. -/
abbrev SYNTH_ASTAT : Nat := 0x0B00

/-- SYNTH.AFREQ, 11 R383 Table RAD-10. -/
abbrev SYNTH_AFREQ : Nat := 0x0B01

/-- SYNTH.ACALCNT, 11 R383 Table RAD-10. -/
abbrev SYNTH_ACALCNT : Nat := 0x0B02

/-- SYNTH.AFAILCNT, 11 R383 Table RAD-10. -/
abbrev SYNTH_AFAILCNT : Nat := 0x0B03

/-- SYNTH.GCTL, 11 R383 Table RAD-10. -/
abbrev SYNTH_GCTL : Nat := 0x0B04

/-- SYNTH.GSTAT, 11 R383 Table RAD-10. -/
abbrev SYNTH_GSTAT : Nat := 0x0B05

/-- SYNTH.GCAL, 11 R383 Table RAD-10. -/
abbrev SYNTH_GCAL : Nat := 0x0B06

/-- SYNTH.L1CLIP, 11 R383 Table RAD-10. -/
abbrev SYNTH_L1CLIP : Nat := 0x0B07

/-- SYNTH.XOTRIM, 11 R383 Table RAD-10, 21 R645. -/
abbrev SYNTH_XOTRIM : Nat := 0x0B08

/-- SYNTH.XOSENS, 11 R383 Table RAD-10, 21 R645. -/
abbrev SYNTH_XOSENS : Nat := 0x0B09

/-- SYNTH.XONOW, 11 R383 Table RAD-10, 21 R645. -/
abbrev SYNTH_XONOW : Nat := 0x0B0A

/-- SYNTH.TEMPNOW, 11 R383 Table RAD-10. -/
abbrev SYNTH_TEMPNOW : Nat := 0x0B0B

/-- SYNTH.TEMPIQ, 11 R383 Table RAD-10. -/
abbrev SYNTH_TEMPIQ : Nat := 0x0B0C

/-- SYNTH.REFAMP, 11 R383 Table RAD-10. -/
abbrev SYNTH_REFAMP : Nat := 0x0B0D

/-- SYNTH.XODRV, 11 R383 Table RAD-10, 21 R645. -/
abbrev SYNTH_XODRV : Nat := 0x0B0E

/-- SYNTH.GFREQ, 11 R383 Table RAD-10. -/
abbrev SYNTH_GFREQ : Nat := 0x0B0F

/-- SYNTH.ACAL (first of 40, step 1), 11 R383 Table RAD-10. -/
abbrev SYNTH_ACAL : Nat := 0x0B10

/-- SYNTH.ALOCK (first of 40, step 1), 11 R383 Table RAD-10. -/
abbrev SYNTH_ALOCK : Nat := 0x0B40

/-- SYNTH.TEST (first of 64, step 1), 11 R383 Table RAD-10. -/
abbrev SYNTH_TEST : Nat := 0x0B80

/-- RADIO.CMD, 11 R384 Table RAD-11. -/
abbrev RADIO_CMD : Nat := 0x0C00

/-- RADIO.STATE, 11 Table RAD-12. -/
abbrev RADIO_STATE : Nat := 0x0C01

/-- RADIO.STATUS, 11 Table RAD-13. -/
abbrev RADIO_STATUS : Nat := 0x0C02

/-- RADIO.CHAN, 11 R384 Table RAD-11. -/
abbrev RADIO_CHAN : Nat := 0x0C03

/-- RADIO.RXCFG, 11 R384 Table RAD-11. -/
abbrev RADIO_RXCFG : Nat := 0x0C04

/-- RADIO.TXCFG, 11 R384 Table RAD-11. -/
abbrev RADIO_TXCFG : Nat := 0x0C05

/-- RADIO.AUTORET, 11 R384 Table RAD-11. -/
abbrev RADIO_AUTORET : Nat := 0x0C06

/-- RADIO.FAULTSTATE, 11 R384 Table RAD-11. -/
abbrev RADIO_FAULTSTATE : Nat := 0x0C07

/-- RADIO.ANT, 11 R384 Table RAD-11. -/
abbrev RADIO_ANT : Nat := 0x0C08

/-- RADIO.DIV, 11 R384 Table RAD-11. -/
abbrev RADIO_DIV : Nat := 0x0C09

/-- RADIO.CALCTL, 11 R384 Table RAD-11. -/
abbrev RADIO_CALCTL : Nat := 0x0C0A

/-- RADIO.CALSTAT, 11 R384 Table RAD-11. -/
abbrev RADIO_CALSTAT : Nat := 0x0C0B

/-- RADIO.PAPOL, 11 R384 Table RAD-11. -/
abbrev RADIO_PAPOL : Nat := 0x0C0C

/-- RADIO.LEAD, 11 R384 Table RAD-11. -/
abbrev RADIO_LEAD : Nat := 0x0C0D

/-- RADIO.LAG, 11 R384 Table RAD-11. -/
abbrev RADIO_LAG : Nat := 0x0C0E

/-- RADIO.PABIAS, 11 R384 Table RAD-11. -/
abbrev RADIO_PABIAS : Nat := 0x0C0F

/-- RADIO.RSSI, 11 R384 Table RAD-11. -/
abbrev RADIO_RSSI : Nat := 0x0C10

/-- RADIO.GAIN, 11 R384 Table RAD-11. -/
abbrev RADIO_GAIN : Nat := 0x0C11

/-- RADIO.RXTO, 11 R384 Table RAD-11. -/
abbrev RADIO_RXTO : Nat := 0x0C12

/-- RADIO.FIFOCFG, 11 R384 Table RAD-11. -/
abbrev RADIO_FIFOCFG : Nat := 0x0C13

/-- RADIO.FIFOSTAT, 11 R384 Table RAD-11. -/
abbrev RADIO_FIFOSTAT : Nat := 0x0C14

/-- RADIO.IRQEN, 11 R384 Table RAD-11. -/
abbrev RADIO_IRQEN : Nat := 0x0C15

/-- RADIO.BURSTCFG, 11 R384 Table RAD-11. -/
abbrev RADIO_BURSTCFG : Nat := 0x0C16

/-- RADIO.DIAG, 11 R384 Table RAD-11. -/
abbrev RADIO_DIAG : Nat := 0x0C17

/-- RADIO.CNT (first of 8, step 1), 11 R384 Table RAD-11. -/
abbrev RADIO_CNT : Nat := 0x0C18

/-- RADIO.DCOFS (first of 12, step 1), 11 R384 Table RAD-11. -/
abbrev RADIO_DCOFS : Nat := 0x0C20

/-- RADIO.IQCAL (first of 8, step 1), 11 R384 Table RAD-11. -/
abbrev RADIO_IQCAL : Nat := 0x0C2C

/-- RADIO.RXGD0, 11 R384 Table RAD-11, 21 R645. -/
abbrev RADIO_RXGD0 : Nat := 0x0C34

/-- RADIO.RXGD1, 11 R384 Table RAD-11, 21 R645. -/
abbrev RADIO_RXGD1 : Nat := 0x0C35

/-- RADIO.RXGD2, 11 R384 Table RAD-11, 21 R645. -/
abbrev RADIO_RXGD2 : Nat := 0x0C36

/-- RADIO.RXGD3, 11 R384 Table RAD-11, 21 R645. -/
abbrev RADIO_RXGD3 : Nat := 0x0C37

/-- RADIO.TXPWR (first of 25, step 1), 11 R384 Table RAD-11, 21 R645. -/
abbrev RADIO_TXPWR : Nat := 0x0C38

/-- RADIO.RSSICAL (first of 40, step 1), 11 R384 Table RAD-11, 21 R645. -/
abbrev RADIO_RSSICAL : Nat := 0x0C58

/-- RADIO.TEST (first of 79, step 1), 11 R384 Table RAD-11. -/
abbrev RADIO_TEST : Nat := 0x0C80

/-- LINK.CFG, 12 R416 Table LNK-6. -/
abbrev LINK_CFG : Nat := 0x0D00

/-- LINK.SYNC, 12 R416 Table LNK-6. -/
abbrev LINK_SYNC : Nat := 0x0D01

/-- LINK.RXCFG, 12 R416 Table LNK-6. -/
abbrev LINK_RXCFG : Nat := 0x0D02

/-- LINK.TXCTL, 12 R416 Table LNK-6. -/
abbrev LINK_TXCTL : Nat := 0x0D03

/-- LINK.STATUS, 12 R416 Table LNK-6. -/
abbrev LINK_STATUS : Nat := 0x0D04

/-- LINK.IRQEN, 12 R416 Table LNK-6. -/
abbrev LINK_IRQEN : Nat := 0x0D05

/-- LINK.ACKTO, 12 R416 Table LNK-6. -/
abbrev LINK_ACKTO : Nat := 0x0D06

/-- LINK.HISTIDX, 12 R416 Table LNK-6. -/
abbrev LINK_HISTIDX : Nat := 0x0D07

/-- LINK.ADDR (first of 4, step 1), 12 R416 Table LNK-6. -/
abbrev LINK_ADDR : Nat := 0x0D08

/-- LINK.GROUP (first of 4, step 1), 12 R416 Table LNK-6. -/
abbrev LINK_GROUP : Nat := 0x0D0C

/-- LINK.WAKETX, 12 R416 Table LNK-6. -/
abbrev LINK_WAKETX : Nat := 0x0D10

/-- LINK.WAKEREP, 12 R416 Table LNK-6. -/
abbrev LINK_WAKEREP : Nat := 0x0D11

/-- LINK.CNT (first of 14, step 1), 12 R416 Table LNK-6. -/
abbrev LINK_CNT : Nat := 0x0D12

/-- LINK.HIST (first of 112, step 1), 12 R416 Table LNK-6. -/
abbrev LINK_HIST : Nat := 0x0D20

/-- WAKE.CFG, 12 R417 Table LNK-7. -/
abbrev WAKE_CFG : Nat := 0x0E00

/-- WAKE.STATUS, 12 R417 Table LNK-7. -/
abbrev WAKE_STATUS : Nat := 0x0E01

/-- WAKE.GRP (first of 4, step 1), 12 R417 Table LNK-7. -/
abbrev WAKE_GRP : Nat := 0x0E02

/-- WAKE.REPORT, 12 R417 Table LNK-7. -/
abbrev WAKE_REPORT : Nat := 0x0E06

/-- WAKE.RTICK_LO, 12 R417 Table LNK-7. -/
abbrev WAKE_RTICK_LO : Nat := 0x0E07

/-- WAKE.RTICK_HI, 12 R417 Table LNK-7. -/
abbrev WAKE_RTICK_HI : Nat := 0x0E08

/-- WAKE.TRIM, 12 R417 Table LNK-7, 21 R645. -/
abbrev WAKE_TRIM : Nat := 0x0E09

/-- WAKE.THRESH, 12 R417 Table LNK-7, 21 R645. -/
abbrev WAKE_THRESH : Nat := 0x0E0A

/-- WAKE.WINCNT, 12 R417 Table LNK-7. -/
abbrev WAKE_WINCNT : Nat := 0x0E0B

/-- WAKE.EDGECNT, 12 R417 Table LNK-7. -/
abbrev WAKE_EDGECNT : Nat := 0x0E0C

/-- WAKE.MATCHCNT, 12 R417 Table LNK-7. -/
abbrev WAKE_MATCHCNT : Nat := 0x0E0D

/-- WAKE.LOGIDX, 12 R417 Table LNK-7. -/
abbrev WAKE_LOGIDX : Nat := 0x0E0E

/-- WAKE.LEVEL, 12 R417 Table LNK-7. -/
abbrev WAKE_LEVEL : Nat := 0x0E0F

/-- WAKE.LOG (first of 32, step 1), 12 R417 Table LNK-7. -/
abbrev WAKE_LOG : Nat := 0x0E10

/-- TRS.CTL, 13 R453 Table TRS-5. -/
abbrev TRS_CTL : Nat := 0x0F00

/-- TRS.STATUS, 13 R453 Table TRS-5. -/
abbrev TRS_STATUS : Nat := 0x0F01

/-- TRS.QCFG (first of 2, step 1), 13 R453 Table TRS-5. -/
abbrev TRS_QCFG : Nat := 0x0F02

/-- TRS.QSTAT, 13 R453 Table TRS-5. -/
abbrev TRS_QSTAT : Nat := 0x0F04

/-- TRS.SAMPCNT, 13 R453 Table TRS-5. -/
abbrev TRS_SAMPCNT : Nat := 0x0F05

/-- TRS.CHENLO, 13 R453 Table TRS-5. -/
abbrev TRS_CHENLO : Nat := 0x0F06

/-- TRS.CHENHI, 13 R453 Table TRS-5. -/
abbrev TRS_CHENHI : Nat := 0x0F07

/-- TRS.CHSTARTLO, 13 R447. -/
abbrev TRS_CHSTARTLO : Nat := 0x0F08

/-- TRS.CHSTARTHI, 13 R447. -/
abbrev TRS_CHSTARTHI : Nat := 0x0F09

/-- TRS.DUMPBASE, 13 R440. -/
abbrev TRS_DUMPBASE : Nat := 0x0F0A

/-- TRS.DUMPLEN, 13 R440. -/
abbrev TRS_DUMPLEN : Nat := 0x0F0B

/-- TRS.DUMPWP, 13 R440. -/
abbrev TRS_DUMPWP : Nat := 0x0F0C

/-- TRS.DUMPRP, 13 R440. -/
abbrev TRS_DUMPRP : Nat := 0x0F0D

/-- TRS.FIFOLVL, 13 R453 Table TRS-5. -/
abbrev TRS_FIFOLVL : Nat := 0x0F0E

/-- TRS.FIFOMAX, 13 R453 Table TRS-5. -/
abbrev TRS_FIFOMAX : Nat := 0x0F0F

/-- TRS.LATCHSTAT, 13 R453 Table TRS-5. -/
abbrev TRS_LATCHSTAT : Nat := 0x0F10

/-- TRS.LATCHSAMP, 13 R445. -/
abbrev TRS_LATCHSAMP : Nat := 0x0F11

/-- TRS.CMADDR, 13 R431. -/
abbrev TRS_CMADDR : Nat := 0x0F12

/-- TRS.CMDATA, 13 R431. -/
abbrev TRS_CMDATA : Nat := 0x0F13

/-- TRS.IRQEN, 13 R453 Table TRS-5. -/
abbrev TRS_IRQEN : Nat := 0x0F14

/-- TRS.DUMPIRQ, 13 R453 Table TRS-5. -/
abbrev TRS_DUMPIRQ : Nat := 0x0F15

/-- TRS.DWFAULT, 13 R453 Table TRS-5. -/
abbrev TRS_DWFAULT : Nat := 0x0F16

/-- TRS.DUMPOVF, 13 R453 Table TRS-5. -/
abbrev TRS_DUMPOVF : Nat := 0x0F17

/-- TRS.CNT (first of 10, step 1), 13 R453 Table TRS-5. -/
abbrev TRS_CNT : Nat := 0x0F18

/-- TRS.SCMD, 13 R448. -/
abbrev TRS_SCMD : Nat := 0x0F28

/-- TRS.SCFG, 13 R453 Table TRS-5. -/
abbrev TRS_SCFG : Nat := 0x0F29

/-- TRS.SSTART, 13 R449. -/
abbrev TRS_SSTART : Nat := 0x0F2A

/-- TRS.SCARR, 13 R449. -/
abbrev TRS_SCARR : Nat := 0x0F2B

/-- TRS.SCODEF, 13 R449. -/
abbrev TRS_SCODEF : Nat := 0x0F2C

/-- TRS.SRESBASE, 13 R450. -/
abbrev TRS_SRESBASE : Nat := 0x0F2D

/-- TRS.SPSHIFT, 13 R449. -/
abbrev TRS_SPSHIFT : Nat := 0x0F2E

/-- TRS.SSTATUS, 13 R453 Table TRS-5. -/
abbrev TRS_SSTATUS : Nat := 0x0F2F

/-- TRS.SPEAK, 13 R450. -/
abbrev TRS_SPEAK : Nat := 0x0F30

/-- TRS.SPEAKIDX, 13 R450. -/
abbrev TRS_SPEAKIDX : Nat := 0x0F31

/-- TRS.SPEAK2, 13 R450. -/
abbrev TRS_SPEAK2 : Nat := 0x0F32

/-- TRS.SMEAN, 13 R450. -/
abbrev TRS_SMEAN : Nat := 0x0F33

/-- TRS.SCAPSAMP, 13 R450. -/
abbrev TRS_SCAPSAMP : Nat := 0x0F34

/-- TRS.SPASSCNT, 13 R450. -/
abbrev TRS_SPASSCNT : Nat := 0x0F35

/-- TRS.SPK (first of 16, step 1), 13 R450. -/
abbrev TRS_SPK : Nat := 0x0F38

/-- TRS.QHIST (first of 16, step 1), 13 R428. -/
abbrev TRS_QHIST : Nat := 0x0F48

/-- TRS.CHLAST (first of 48, step 1), 13 R453 Table TRS-5. -/
abbrev TRS_CHLAST : Nat := 0x0F60

/-- TRS.TEST (first of 64, step 1), 13 R453 Table TRS-5. -/
abbrev TRS_TEST : Nat := 0x0FC0

/-- CH.CTL (first of 48, step 64), 13 R452 Table TRS-4. -/
abbrev CH_CTL : Nat := 0x1000

/-- CH.STATUS (first of 48, step 64), 13 R452 Table TRS-4. -/
abbrev CH_STATUS : Nat := 0x1001

/-- CH.CODECFG (first of 48, step 64), 13 R452 Table TRS-4. -/
abbrev CH_CODECFG : Nat := 0x1002

/-- CH.G1CFG (first of 48, step 64), 13 R452 Table TRS-4. -/
abbrev CH_G1CFG : Nat := 0x1003

/-- CH.G1INIT (first of 48, step 64), 13 R452 Table TRS-4. -/
abbrev CH_G1INIT : Nat := 0x1004

/-- CH.G2CFG (first of 48, step 64), 13 R452 Table TRS-4. -/
abbrev CH_G2CFG : Nat := 0x1005

/-- CH.G2INIT (first of 48, step 64), 13 R452 Table TRS-4. -/
abbrev CH_G2INIT : Nat := 0x1006

/-- CH.SECCFG (first of 48, step 64), 13 R452 Table TRS-4. -/
abbrev CH_SECCFG : Nat := 0x1007

/-- CH.SECPAT (first of 48, step 64), 13 R452 Table TRS-4. -/
abbrev CH_SECPAT : Nat := 0x1008

/-- CH.CARRFREQ (first of 48, step 64), 13 R452 Table TRS-4. -/
abbrev CH_CARRFREQ : Nat := 0x1009

/-- CH.CODEFREQ (first of 48, step 64), 13 R452 Table TRS-4. -/
abbrev CH_CODEFREQ : Nat := 0x100A

/-- CH.CARRADJ (first of 48, step 64), 13 R452 Table TRS-4. -/
abbrev CH_CARRADJ : Nat := 0x100B

/-- CH.CODEADJ (first of 48, step 64), 13 R452 Table TRS-4. -/
abbrev CH_CODEADJ : Nat := 0x100C

/-- CH.TAPSP (first of 48, step 64), 13 R452 Table TRS-4. -/
abbrev CH_TAPSP : Nat := 0x100D

/-- CH.INTCFG (first of 48, step 64), 13 R452 Table TRS-4. -/
abbrev CH_INTCFG : Nat := 0x100E

/-- CH.EPOCHCNT (first of 48, step 64), 13 R452 Table TRS-4. -/
abbrev CH_EPOCHCNT : Nat := 0x100F

/-- CH.HIST0 (first of 48, step 64), 13 R452 Table TRS-4. -/
abbrev CH_HIST0 : Nat := 0x1010

/-- CH.HIST1 (first of 48, step 64), 13 R452 Table TRS-4. -/
abbrev CH_HIST1 : Nat := 0x1011

/-- CH.HIST2 (first of 48, step 64), 13 R452 Table TRS-4. -/
abbrev CH_HIST2 : Nat := 0x1012

/-- CH.HIST3 (first of 48, step 64), 13 R452 Table TRS-4. -/
abbrev CH_HIST3 : Nat := 0x1013

/-- CH.HIST4 (first of 48, step 64), 13 R452 Table TRS-4. -/
abbrev CH_HIST4 : Nat := 0x1014

/-- CH.HIST5 (first of 48, step 64), 13 R452 Table TRS-4. -/
abbrev CH_HIST5 : Nat := 0x1015

/-- CH.HIST6 (first of 48, step 64), 13 R452 Table TRS-4. -/
abbrev CH_HIST6 : Nat := 0x1016

/-- CH.HIST7 (first of 48, step 64), 13 R452 Table TRS-4. -/
abbrev CH_HIST7 : Nat := 0x1017

/-- CH.HIST8 (first of 48, step 64), 13 R452 Table TRS-4. -/
abbrev CH_HIST8 : Nat := 0x1018

/-- CH.HIST9 (first of 48, step 64), 13 R452 Table TRS-4. -/
abbrev CH_HIST9 : Nat := 0x1019

/-- CH.HIST10 (first of 48, step 64), 13 R452 Table TRS-4. -/
abbrev CH_HIST10 : Nat := 0x101A

/-- CH.HIST11 (first of 48, step 64), 13 R452 Table TRS-4. -/
abbrev CH_HIST11 : Nat := 0x101B

/-- CH.HIST12 (first of 48, step 64), 13 R452 Table TRS-4. -/
abbrev CH_HIST12 : Nat := 0x101C

/-- CH.HIST13 (first of 48, step 64), 13 R452 Table TRS-4. -/
abbrev CH_HIST13 : Nat := 0x101D

/-- CH.HIST14 (first of 48, step 64), 13 R452 Table TRS-4. -/
abbrev CH_HIST14 : Nat := 0x101E

/-- CH.HIST15 (first of 48, step 64), 13 R452 Table TRS-4. -/
abbrev CH_HIST15 : Nat := 0x101F

/-- CH.HIST16 (first of 48, step 64), 13 R452 Table TRS-4. -/
abbrev CH_HIST16 : Nat := 0x1020

/-- CH.HIST17 (first of 48, step 64), 13 R452 Table TRS-4. -/
abbrev CH_HIST17 : Nat := 0x1021

/-- CH.HIST18 (first of 48, step 64), 13 R452 Table TRS-4. -/
abbrev CH_HIST18 : Nat := 0x1022

/-- CH.HIST19 (first of 48, step 64), 13 R452 Table TRS-4. -/
abbrev CH_HIST19 : Nat := 0x1023

/-- CH.HIST20 (first of 48, step 64), 13 R452 Table TRS-4. -/
abbrev CH_HIST20 : Nat := 0x1024

/-- CH.HIST21 (first of 48, step 64), 13 R452 Table TRS-4. -/
abbrev CH_HIST21 : Nat := 0x1025

/-- CH.HIST22 (first of 48, step 64), 13 R452 Table TRS-4. -/
abbrev CH_HIST22 : Nat := 0x1026

/-- CH.HIST23 (first of 48, step 64), 13 R452 Table TRS-4. -/
abbrev CH_HIST23 : Nat := 0x1027

/-- CH.HIST24 (first of 48, step 64), 13 R452 Table TRS-4. -/
abbrev CH_HIST24 : Nat := 0x1028

/-- CH.HIST25 (first of 48, step 64), 13 R452 Table TRS-4. -/
abbrev CH_HIST25 : Nat := 0x1029

/-- CH.HIST26 (first of 48, step 64), 13 R452 Table TRS-4. -/
abbrev CH_HIST26 : Nat := 0x102A

/-- CH.HIST27 (first of 48, step 64), 13 R452 Table TRS-4. -/
abbrev CH_HIST27 : Nat := 0x102B

/-- CH.HIST28 (first of 48, step 64), 13 R452 Table TRS-4. -/
abbrev CH_HIST28 : Nat := 0x102C

/-- CH.HIST29 (first of 48, step 64), 13 R452 Table TRS-4. -/
abbrev CH_HIST29 : Nat := 0x102D

/-- CH.LATCH0 (first of 48, step 64), 13 R452 Table TRS-4. -/
abbrev CH_LATCH0 : Nat := 0x102E

/-- CH.LATCH1 (first of 48, step 64), 13 R452 Table TRS-4. -/
abbrev CH_LATCH1 : Nat := 0x102F

/-- CH.LATCH2 (first of 48, step 64), 13 R452 Table TRS-4. -/
abbrev CH_LATCH2 : Nat := 0x1030

/-- CH.LATCH3 (first of 48, step 64), 13 R452 Table TRS-4. -/
abbrev CH_LATCH3 : Nat := 0x1031

/-- CH.LATCH4 (first of 48, step 64), 13 R452 Table TRS-4. -/
abbrev CH_LATCH4 : Nat := 0x1032

/-- CH.LATCH5 (first of 48, step 64), 13 R452 Table TRS-4. -/
abbrev CH_LATCH5 : Nat := 0x1033

/-- CH.LATCH6 (first of 48, step 64), 13 R452 Table TRS-4. -/
abbrev CH_LATCH6 : Nat := 0x1034

/-- CH.LATCH7 (first of 48, step 64), 13 R452 Table TRS-4. -/
abbrev CH_LATCH7 : Nat := 0x1035

/-- CH.LATCH8 (first of 48, step 64), 13 R452 Table TRS-4. -/
abbrev CH_LATCH8 : Nat := 0x1036

/-- CH.LATCH9 (first of 48, step 64), 13 R452 Table TRS-4. -/
abbrev CH_LATCH9 : Nat := 0x1037

/-- CH.CODENOW (first of 48, step 64), 13 R452 Table TRS-4. -/
abbrev CH_CODENOW : Nat := 0x1038

/-- CH.CARRNOW (first of 48, step 64), 13 R452 Table TRS-4. -/
abbrev CH_CARRNOW : Nat := 0x1039

/-- CH.CYCNOW (first of 48, step 64), 13 R452 Table TRS-4. -/
abbrev CH_CYCNOW : Nat := 0x103A

/-- CH.DROPCNT (first of 48, step 64), 13 R452 Table TRS-4. -/
abbrev CH_DROPCNT : Nat := 0x103B

/-- CH.SATCNT (first of 48, step 64), 13 R452 Table TRS-4. -/
abbrev CH_SATCNT : Nat := 0x103C

/-- CH.CARRRATE (first of 48, step 64), 13 R452 Table TRS-4. -/
abbrev CH_CARRRATE : Nat := 0x103D

/-- CH.AIDRATIO (first of 48, step 64), 13 R452 Table TRS-4. -/
abbrev CH_AIDRATIO : Nat := 0x103E

/-- CH.HISTIDX (first of 48, step 64), 13 R452 Table TRS-4. -/
abbrev CH_HISTIDX : Nat := 0x103F

/-- CRYPT.CMD, 15 R506 Table CRY-4. -/
abbrev CRYPT_CMD : Nat := 0x1C00

/-- CRYPT.STATUS, 15 Table CRY-6. -/
abbrev CRYPT_STATUS : Nat := 0x1C01

/-- CRYPT.IN, 15 R506 Table CRY-4. -/
abbrev CRYPT_IN : Nat := 0x1C02

/-- CRYPT.OUT, 15 R506 Table CRY-4. -/
abbrev CRYPT_OUT : Nat := 0x1C03

/-- CRYPT.LEN, 15 R506 Table CRY-4. -/
abbrev CRYPT_LEN : Nat := 0x1C04

/-- CRYPT.ALEN, 15 R506 Table CRY-4. -/
abbrev CRYPT_ALEN : Nat := 0x1C05

/-- CRYPT.FIFOSTAT, 15 R506 Table CRY-4. -/
abbrev CRYPT_FIFOSTAT : Nat := 0x1C06

/-- CRYPT.IRQEN, 15 R506 Table CRY-4. -/
abbrev CRYPT_IRQEN : Nat := 0x1C07

/-- CRYPT.KEYDOM, 15 R506 Table CRY-4. -/
abbrev CRYPT_KEYDOM : Nat := 0x1C08

/-- CRYPT.CYCLES, 15 R506 Table CRY-4. -/
abbrev CRYPT_CYCLES : Nat := 0x1C09

/-- CRYPT.LASTOP, 15 R506 Table CRY-4. -/
abbrev CRYPT_LASTOP : Nat := 0x1C0A

/-- CRYPT.OPCNT, 15 R506 Table CRY-4. -/
abbrev CRYPT_OPCNT : Nat := 0x1C0B

/-- CRYPT.KEY (first of 8, step 1), 15 R506 Table CRY-4, R497. -/
abbrev CRYPT_KEY : Nat := 0x1C10

/-- CRYPT.IV (first of 4, step 1), 15 R506 Table CRY-4. -/
abbrev CRYPT_IV : Nat := 0x1C18

/-- CRYPT.SLOTINFO (first of 16, step 1), 15 R506 Table CRY-4. -/
abbrev CRYPT_SLOTINFO : Nat := 0x1C20

/-- CRYPT.KREFUSE, 15 R504. -/
abbrev CRYPT_KREFUSE : Nat := 0x1C30

/-- CRYPT.CNT (first of 8, step 1), 15 R506 Table CRY-4. -/
abbrev CRYPT_CNT : Nat := 0x1C38

/-- RNG.CTL, 15 R500. -/
abbrev RNG_CTL : Nat := 0x1C40

/-- RNG.STATUS, 15 Table CRY-7. -/
abbrev RNG_STATUS : Nat := 0x1C41

/-- RNG.DATA, 15 R503. -/
abbrev RNG_DATA : Nat := 0x1C42

/-- RNG.RCMAX, 15 R506 Table CRY-4. -/
abbrev RNG_RCMAX : Nat := 0x1C43

/-- RNG.APCNT, 15 R506 Table CRY-4. -/
abbrev RNG_APCNT : Nat := 0x1C44

/-- RNG.WORDCNT, 15 R506 Table CRY-4. -/
abbrev RNG_WORDCNT : Nat := 0x1C45

/-- RNG.ALMINFO, 15 R506 Table CRY-4. -/
abbrev RNG_ALMINFO : Nat := 0x1C46

/-- RNG.TESTPAT (first of 8, step 1), 15 R506 Table CRY-4. -/
abbrev RNG_TESTPAT : Nat := 0x1C47

/-- CRYPT.TEST (first of 32, step 1), 15 R506 Table CRY-4. -/
abbrev CRYPT_TEST : Nat := 0x1C50

/-- LIFE.STATE, 16 Table LIF-8. -/
abbrev LIFE_STATE : Nat := 0x1D00

/-- LIFE.COPY1, 16 R534 Table LIF-7. -/
abbrev LIFE_COPY1 : Nat := 0x1D01

/-- LIFE.COPY2, 16 R534 Table LIF-7. -/
abbrev LIFE_COPY2 : Nat := 0x1D02

/-- LIFE.COPY3, 16 R534 Table LIF-7. -/
abbrev LIFE_COPY3 : Nat := 0x1D03

/-- LIFE.TRANS, 16 R520. -/
abbrev LIFE_TRANS : Nat := 0x1D04

/-- LIFE.TSTAT, 16 Table LIF-9. -/
abbrev LIFE_TSTAT : Nat := 0x1D05

/-- LIFE.UID_LO, 16 R518. -/
abbrev LIFE_UID_LO : Nat := 0x1D06

/-- LIFE.UID_HI, 16 R518. -/
abbrev LIFE_UID_HI : Nat := 0x1D07

/-- LIFE.OWNHASH (first of 8, step 1), 16 R518. -/
abbrev LIFE_OWNHASH : Nat := 0x1D08

/-- LIFE.OWNSET (first of 8, step 1), 16 R519. -/
abbrev LIFE_OWNSET : Nat := 0x1D10

/-- LIFE.OWNCMD, 16 R519. -/
abbrev LIFE_OWNCMD : Nat := 0x1D18

/-- LIFE.DBGSTAT, 16 Table LIF-10. -/
abbrev LIFE_DBGSTAT : Nat := 0x1D19

/-- LIFE.DBGCMD, 16 R534 Table LIF-7. -/
abbrev LIFE_DBGCMD : Nat := 0x1D1A

/-- LIFE.DBGSCOPE, 16 R534 Table LIF-7. -/
abbrev LIFE_DBGSCOPE : Nat := 0x1D1B

/-- LIFE.FAILCNT, 16 R534 Table LIF-7. -/
abbrev LIFE_FAILCNT : Nat := 0x1D1C

/-- LIFE.CERTSTAT, 16 R534 Table LIF-7. -/
abbrev LIFE_CERTSTAT : Nat := 0x1D1D

/-- LIFE.FUSESTAT, 16 R534 Table LIF-7. -/
abbrev LIFE_FUSESTAT : Nat := 0x1D1E

/-- LIFE.GRANTSEC, 16 R534 Table LIF-7. -/
abbrev LIFE_GRANTSEC : Nat := 0x1D1F

/-- LIFE.CHAL (first of 8, step 1), 16 R525. -/
abbrev LIFE_CHAL : Nat := 0x1D20

/-- LIFE.RESP (first of 16, step 1), 16 R526. -/
abbrev LIFE_RESP : Nat := 0x1D28

/-- LIFE.HIST (first of 8, step 1), 16 R534 Table LIF-7. -/
abbrev LIFE_HIST : Nat := 0x1D38

/-- HOST.DOORIN, 18 R589 Table HST-8. -/
abbrev HOST_DOORIN : Nat := 0x1F00

/-- HOST.DOOROUT, 18 R589 Table HST-8. -/
abbrev HOST_DOOROUT : Nat := 0x1F01

/-- HOST.STAT, 18 R589 Table HST-8. -/
abbrev HOST_STAT : Nat := 0x1F02

/-- HOST.WRCNT, 18 R589 Table HST-8. -/
abbrev HOST_WRCNT : Nat := 0x1F03

/-- POD.CMD, 19 R613 Table POD-6. -/
abbrev POD_CMD : Nat := 0x1F10

/-- POD.STATUS, 19 R613 Table POD-6. -/
abbrev POD_STATUS : Nat := 0x1F11

/-- POD.CFG, 19 R613 Table POD-6. -/
abbrev POD_CFG : Nat := 0x1F12

/-- POD.QPULSE, 19 R613 Table POD-6, 21 R645. -/
abbrev POD_QPULSE : Nat := 0x1F13

/-- POD.BUF (first of 16, step 1), 19 R613 Table POD-6. -/
abbrev POD_BUF : Nat := 0x1F14

/-- FACE.CTL, 19 R613 Table POD-6. -/
abbrev FACE_CTL : Nat := 0x1F30

/-- FACE.CMD, 19 R613 Table POD-6. -/
abbrev FACE_CMD : Nat := 0x1F31

/-- FACE.STATUS, 19 R613 Table POD-6. -/
abbrev FACE_STATUS : Nat := 0x1F32

/-- FACE.TXD, 19 R609. -/
abbrev FACE_TXD : Nat := 0x1F33

/-- GPIO.CFG (first of 8, step 1), 19 R611. -/
abbrev GPIO_CFG : Nat := 0x1F40

/-- GPIO.OUT, 19 R611. -/
abbrev GPIO_OUT : Nat := 0x1F48

/-- GPIO.IN, 19 R611. -/
abbrev GPIO_IN : Nat := 0x1F49

/-- GPIO.EDGE, 19 R611. -/
abbrev GPIO_EDGE : Nat := 0x1F4A

end P

/-- Field sheets of block 0x00. -/
def sheets00 : List SheetRow := [
  ⟨P.SYS_ID, 1, 1, ⟨0x0, 0x0, 0x0, 0x0, 0x136, 0x0⟩⟩,
  ⟨P.SYS_FEAT, 1, 1, ⟨0x0, 0x0, 0x0, 0x0, 0x0, 0x0⟩⟩,
  ⟨P.SYS_PERR, 1, 1, ⟨0x0, 0x800000000, 0x0, 0x0, 0x0, 0x0⟩⟩,
  ⟨P.SYS_PERRCNT, 1, 1, ⟨0xffff, 0x0, 0x0, 0x0, 0x0, 0x0⟩⟩,
  ⟨P.SYS_SCR, 1, 12, ⟨0xfffffffff, 0x0, 0x0, 0x0, 0x0, 0xfffffffff⟩⟩,
  ⟨P.SYS_ROLE, 1, 1, ⟨0x3, 0x0, 0x0, 0x0, 0x0, 0x0⟩⟩,
  ⟨P.SYS_ROLEACT, 1, 1, ⟨0x0, 0x0, 0x0, 0x0, 0x0, 0x0⟩⟩,
  ⟨P.SYS_CALSTAT, 1, 1, ⟨0x0, 0x0, 0x0, 0x0, 0x0, 0x0⟩⟩,
  ⟨P.SYS_TXLAUNCH, 1, 1, ⟨0x0, 0x0, 0x0, 0x0, 0x552, 0x0⟩⟩,
  ⟨P.SYS_TXLAUNCHT, 1, 1, ⟨0x0, 0x0, 0x0, 0x0, 0x64, 0x0⟩⟩,
  ⟨P.SYS_CAL, 1, 27, ⟨0x0, 0x0, 0x0, 0x0, 0x0, 0x0⟩⟩]

/-- Field sheets of block 0x01. -/
def sheets01 : List SheetRow := [
  ⟨P.PWR_MODE, 1, 1, ⟨0x3, 0x0, 0x0, 0x0, 0x3, 0x0⟩⟩,
  ⟨P.PWR_WAKEEN, 1, 1, ⟨0x3f, 0x0, 0x0, 0x0, 0x7, 0x0⟩⟩,
  ⟨P.PWR_WAKESRC, 1, 1, ⟨0x0, 0x3f, 0x0, 0x0, 0x0, 0x0⟩⟩,
  ⟨P.PWR_RETCFG, 1, 1, ⟨0x3f, 0x0, 0x0, 0x0, 0x2f, 0x0⟩⟩,
  ⟨P.PWR_CLKCTL, 1, 1, ⟨0x7, 0x0, 0x0, 0x0, 0x5, 0x0⟩⟩,
  ⟨P.PWR_DVFS, 1, 1, ⟨0x7, 0x0, 0x0, 0x0, 0x1, 0x0⟩⟩,
  ⟨P.PWR_STATUS, 1, 1, ⟨0x0, 0x180, 0x0, 0x0, 0x4, 0x0⟩⟩,
  ⟨P.PWR_ISLAND, 1, 1, ⟨0xf, 0x0, 0x0, 0x0, 0x8, 0x0⟩⟩,
  ⟨P.PWR_RES, 1, 16, ⟨0x0, 0x0, 0x0, 0x0, 0x0, 0xfffffffff⟩⟩,
  ⟨P.PWR_MCAL, 1, 72, ⟨0x0, 0x0, 0x0, 0x0, 0x0, 0x0⟩⟩]

/-- Field sheets of block 0x02. -/
def sheets02 : List SheetRow := [
  ⟨P.PIER_TICK_LO, 1, 1, ⟨0xfffffffff, 0x0, 0x0, 0x0, 0x0, 0xfffffffff⟩⟩,
  ⟨P.PIER_TICK_HI, 1, 1, ⟨0xfff, 0x0, 0x0, 0x0, 0x0, 0xfffffffff⟩⟩,
  ⟨P.PIER_SEC, 1, 1, ⟨0x1ffffffff, 0x0, 0x0, 0x0, 0x0, 0xfffffffff⟩⟩,
  ⟨P.PIER_CTL, 1, 1, ⟨0x1, 0x0, 0x0, 0x0, 0x0, 0xfffffffff⟩⟩,
  ⟨P.PIER_TRIM, 1, 1, ⟨0x3ff, 0x0, 0x0, 0x0, 0x0, 0xfffffffff⟩⟩,
  ⟨P.PIER_WINCNT, 1, 1, ⟨0x0, 0x0, 0x0, 0x0, 0x0, 0xfffffffff⟩⟩,
  ⟨P.PIER_SWCFG, 1, 1, ⟨0x1f, 0x0, 0x0, 0x0, 0x1, 0xfffffffff⟩⟩,
  ⟨P.PIER_STATUS, 1, 1, ⟨0x0, 0x3c1, 0x0, 0x0, 0x5, 0xfffffffff⟩⟩,
  ⟨P.PIER_ALM0_LO, 1, 1, ⟨0xfffffffff, 0x0, 0x0, 0x0, 0x0, 0xfffffffff⟩⟩,
  ⟨P.PIER_ALM0_HI, 1, 1, ⟨0xfff, 0x0, 0x0, 0x0, 0x0, 0xfffffffff⟩⟩,
  ⟨P.PIER_ALM0CTL, 1, 1, ⟨0x1f, 0x0, 0x0, 0x0, 0x0, 0xfffffffff⟩⟩,
  ⟨P.PIER_ALM1_LO, 1, 1, ⟨0xfffffffff, 0x0, 0x0, 0x0, 0x0, 0xfffffffff⟩⟩,
  ⟨P.PIER_ALM1_HI, 1, 1, ⟨0xfff, 0x0, 0x0, 0x0, 0x0, 0xfffffffff⟩⟩,
  ⟨P.PIER_ALM1CTL, 1, 1, ⟨0x1f, 0x0, 0x0, 0x0, 0x0, 0xfffffffff⟩⟩,
  ⟨P.PIER_PWRCTL, 1, 1, ⟨0xf, 0x0, 0x0, 0x0, 0x0, 0xfffffffff⟩⟩,
  ⟨P.PIER_PWRSTAT, 1, 1, ⟨0x0, 0x1, 0x0, 0x0, 0x0, 0xfffffffff⟩⟩,
  ⟨P.PIER_BKP, 1, 8, ⟨0xfffffffff, 0x0, 0x0, 0x0, 0x0, 0xfffffffff⟩⟩,
  ⟨P.PIER_CHG, 1, 2, ⟨0xfffffffff, 0x0, 0x0, 0x0, 0x0, 0xfffffffff⟩⟩,
  ⟨P.PIER_CHG + 2, 1, 1, ⟨0x1ffffffff, 0x0, 0x0, 0x0, 0x0, 0xfffffffff⟩⟩,
  ⟨P.PIER_CHG + 3, 1, 2, ⟨0xffffffff, 0x0, 0x0, 0x0, 0x0, 0xfffffffff⟩⟩,
  ⟨P.PIER_CHG + 5, 1, 1, ⟨0x3ffffffff, 0x0, 0x0, 0x0, 0x0, 0xfffffffff⟩⟩,
  ⟨P.PIER_CHG + 6, 1, 1, ⟨0x0, 0x0, 0x0, 0x0, 0x0, 0xfffffffff⟩⟩,
  ⟨P.PIER_CHG + 7, 1, 1, ⟨0xfffffffff, 0x0, 0x0, 0x0, 0x0, 0xfffffffff⟩⟩,
  ⟨P.PIER_CHG + 8, 1, 1, ⟨0x3ff, 0x0, 0x0, 0x0, 0x0, 0xfffffffff⟩⟩,
  ⟨P.PIER_CHG + 9, 1, 3, ⟨0xfffffffff, 0x0, 0x0, 0x0, 0x0, 0xfffffffff⟩⟩,
  ⟨P.PIER_EV, 1, 16, ⟨0x0, 0x0, 0x0, 0x0, 0x0, 0xfffffffff⟩⟩,
  ⟨P.PIER_EVIDX, 1, 1, ⟨0x0, 0x0, 0x0, 0x0, 0x0, 0xfffffffff⟩⟩,
  ⟨P.PIER_XTAL, 1, 1, ⟨0x7f, 0x0, 0x0, 0x0, 0x48, 0xfffffffff⟩⟩,
  ⟨P.PIER_LOCKCNT, 1, 1, ⟨0x0, 0x0, 0x0, 0x0, 0x0, 0xfffffffff⟩⟩,
  ⟨P.PIER_OSFCNT, 1, 1, ⟨0x0, 0x0, 0x0, 0x0, 0x0, 0xfffffffff⟩⟩]

/-- Field sheets of block 0x03. -/
def sheets03 : List SheetRow := [
  ⟨P.TIME_INC, 1, 1, ⟨0xfffffffff, 0x0, 0x0, 0x0, 0x14a61d149, 0x0⟩⟩,
  ⟨P.TIME_STEP, 1, 1, ⟨0x0, 0x0, 0x0, 0xfffffffff, 0x0, 0x0⟩⟩,
  ⟨P.TIME_CTL, 1, 1, ⟨0x6, 0x0, 0x0, 0x1, 0x4, 0x0⟩⟩,
  ⟨P.TIME_STATUS, 1, 1, ⟨0x0, 0x76, 0x0, 0x0, 0x0, 0x0⟩⟩,
  ⟨P.TIME_NOWF, 1, 1, ⟨0x0, 0x0, 0x0, 0x0, 0x0, 0x0⟩⟩,
  ⟨P.TIME_NOWS, 1, 1, ⟨0x0, 0x0, 0x0, 0x0, 0x0, 0x0⟩⟩,
  ⟨P.TIME_NOWX, 1, 1, ⟨0x0, 0x0, 0x0, 0x0, 0x0, 0x0⟩⟩,
  ⟨P.TIME_LOADF, 1, 1, ⟨0xffffffff, 0x0, 0x0, 0x0, 0x0, 0x0⟩⟩,
  ⟨P.TIME_LOADS, 1, 1, ⟨0xffffffff, 0x0, 0x0, 0x0, 0x0, 0x0⟩⟩,
  ⟨P.TIME_LOADT, 1, 1, ⟨0xffff, 0x0, 0x0, 0x0, 0x0, 0x0⟩⟩,
  ⟨P.TIME_PIERCAP, 1, 1, ⟨0x0, 0x0, 0x0, 0x0, 0x0, 0x0⟩⟩,
  ⟨P.TIME_PIERCAPS, 1, 1, ⟨0x0, 0x0, 0x0, 0x0, 0x0, 0x0⟩⟩,
  ⟨P.TIME_PIERCAPT, 1, 1, ⟨0x0, 0x0, 0x0, 0x0, 0x0, 0x0⟩⟩,
  ⟨P.TIME_PINCOMP, 1, 1, ⟨0xff, 0x0, 0x0, 0x0, 0x14, 0x0⟩⟩,
  ⟨P.TIME_PINCTL, 1, 1, ⟨0xff, 0x0, 0x0, 0x0, 0x0, 0x0⟩⟩,
  ⟨P.TIME_EPOCHF, 1, 1, ⟨0x0, 0x0, 0x0, 0x0, 0x0, 0x0⟩⟩,
  ⟨P.TIME_EPOCHS, 1, 1, ⟨0x0, 0x0, 0x0, 0x0, 0x0, 0x0⟩⟩,
  ⟨P.TIME_SYNCF, 1, 1, ⟨0x0, 0x0, 0x0, 0x0, 0x0, 0x0⟩⟩,
  ⟨P.TIME_SYNCS, 1, 1, ⟨0x0, 0x0, 0x0, 0x0, 0x0, 0x0⟩⟩,
  ⟨P.TIME_TCLKCNT, 1, 1, ⟨0x0, 0x0, 0x0, 0x0, 0x0, 0x0⟩⟩,
  ⟨P.TIME_PPER, 1, 1, ⟨0x0, 0x0, 0x0, 0x0, 0x0, 0x0⟩⟩,
  ⟨P.TIME_STRKSUM, 1, 1, ⟨0x0, 0x0, 0x0, 0x0, 0x0, 0x0⟩⟩,
  ⟨P.TIME_STEPTF, 1, 1, ⟨0x0, 0x0, 0x0, 0x0, 0x0, 0x0⟩⟩,
  ⟨P.TIME_STEPTS, 1, 1, ⟨0x0, 0x0, 0x0, 0x0, 0x0, 0x0⟩⟩,
  ⟨P.TIME_STEPLOG, 1, 16, ⟨0x0, 0x0, 0x0, 0x0, 0x0, 0x0⟩⟩]

/-- Field sheets of block 0x04. -/
def sheets04 : List SheetRow := [
  ⟨P.STRK_CTL, 16, 8, ⟨0x7, 0x0, 0x0, 0x0, 0x0, 0x0⟩⟩,
  ⟨P.STRK_TSEC, 16, 8, ⟨0xffffffff, 0x0, 0x0, 0x0, 0x0, 0x0⟩⟩,
  ⟨P.STRK_TFRAC, 16, 8, ⟨0xffffffff, 0x0, 0x0, 0x0, 0x0, 0x0⟩⟩,
  ⟨P.STRK_PSEC, 16, 8, ⟨0xffffffff, 0x0, 0x0, 0x0, 0x1, 0x0⟩⟩,
  ⟨P.STRK_PFRAC, 16, 8, ⟨0xffffffff, 0x0, 0x0, 0x0, 0x0, 0x0⟩⟩,
  ⟨P.STRK_COUNT, 16, 8, ⟨0xffffff, 0x0, 0x0, 0x0, 0x0, 0x0⟩⟩,
  ⟨P.STRK_TGT, 16, 8, ⟨0x3f, 0x0, 0x0, 0x0, 0x0, 0x0⟩⟩,
  ⟨P.STRK_PIN, 16, 1, ⟨0xf, 0x0, 0x0, 0x0, 0xc, 0x0⟩⟩,
  ⟨P.STRK_PIN1, 1, 1, ⟨0xf, 0x0, 0x0, 0x0, 0xd, 0x0⟩⟩,
  ⟨P.STRK_PIN2, 1, 1, ⟨0xf, 0x0, 0x0, 0x0, 0xe, 0x0⟩⟩,
  ⟨P.STRK_PIN3, 1, 1, ⟨0xf, 0x0, 0x0, 0x0, 0xf, 0x0⟩⟩,
  ⟨P.STRK_PIN4, 16, 4, ⟨0xf, 0x0, 0x0, 0x0, 0xc, 0x0⟩⟩,
  ⟨P.STRK_WIDTH, 16, 8, ⟨0xffffffff, 0x0, 0x0, 0x0, 0x1999999a, 0x0⟩⟩,
  ⟨P.STRK_RACT, 16, 8, ⟨0x1ff, 0x0, 0x0, 0x0, 0x0, 0x0⟩⟩,
  ⟨P.STRK_DMASEL, 16, 8, ⟨0xffffff, 0x0, 0x0, 0x0, 0x0, 0x0⟩⟩,
  ⟨P.STRK_CHAIN, 16, 8, ⟨0xf, 0x0, 0x0, 0x0, 0x0, 0x0⟩⟩,
  ⟨P.STRK_STATUS, 16, 8, ⟨0x0, 0x3f, 0x0, 0x0, 0x0, 0x0⟩⟩,
  ⟨P.STRK_LATE, 16, 8, ⟨0x0, 0xff7f, 0x0, 0x0, 0x0, 0x0⟩⟩,
  ⟨P.STRK_NSEC, 16, 8, ⟨0x0, 0x0, 0x0, 0x0, 0x0, 0x0⟩⟩,
  ⟨P.STRK_NFRAC, 16, 8, ⟨0x0, 0x0, 0x0, 0x0, 0x0, 0x0⟩⟩]

/-- Field sheets of block 0x05. -/
def sheets05 : List SheetRow := [
  ⟨P.MEM_ARCHCTL, 1, 1, ⟨0x3ff, 0x0, 0x0, 0x0, 0x0, 0x0⟩⟩,
  ⟨P.MEM_ARCHSTAT, 1, 1, ⟨0x0, 0x0, 0x0, 0x0, 0x0, 0x0⟩⟩,
  ⟨P.MEM_STATUS, 1, 1, ⟨0x0, 0x7f, 0x0, 0x0, 0x0, 0x0⟩⟩,
  ⟨P.MEM_SCRUBCFG, 1, 1, ⟨0x3f, 0x0, 0x0, 0x0, 0x15, 0x0⟩⟩,
  ⟨P.MEM_SCRUBPOS, 1, 1, ⟨0x0, 0x0, 0x0, 0x0, 0x0, 0x0⟩⟩,
  ⟨P.MEM_SCRUBPASS, 1, 1, ⟨0xfffffffff, 0x0, 0x0, 0x0, 0x0, 0x0⟩⟩,
  ⟨P.MEM_CECNT, 1, 1, ⟨0xfffffffff, 0x0, 0x0, 0x0, 0x0, 0x0⟩⟩,
  ⟨P.MEM_CETHR, 1, 1, ⟨0xfffffffff, 0x0, 0x0, 0x0, 0x0, 0x0⟩⟩,
  ⟨P.MEM_CEADDR, 1, 1, ⟨0x0, 0x0, 0x0, 0x0, 0x0, 0x0⟩⟩,
  ⟨P.MEM_UEADDR, 1, 1, ⟨0x0, 0x800000000, 0x0, 0x0, 0x0, 0x0⟩⟩,
  ⟨P.MEM_UECNT, 1, 1, ⟨0xffff, 0x0, 0x0, 0x0, 0x0, 0x0⟩⟩,
  ⟨P.MEM_PQUERY, 1, 1, ⟨0x3ffff, 0x0, 0x0, 0x0, 0x0, 0x0⟩⟩,
  ⟨P.MEM_PCOUNT, 1, 1, ⟨0x0, 0x0, 0x0, 0x0, 0x0, 0x0⟩⟩,
  ⟨P.MEM_INJECT, 1, 1, ⟨0xff, 0x0, 0x0, 0x0, 0x0, 0x0⟩⟩,
  ⟨P.MEM_INJADDR, 1, 1, ⟨0x3ffff, 0x0, 0x0, 0x0, 0x0, 0x0⟩⟩,
  ⟨P.MEM_NVMSTAT, 1, 1, ⟨0x0, 0x13, 0x0, 0x0, 0x0, 0x0⟩⟩,
  ⟨P.MEM_NVMERR, 1, 1, ⟨0x0, 0x0, 0x0, 0x0, 0x0, 0x0⟩⟩,
  ⟨P.MEM_NVMCECNT, 1, 1, ⟨0xfffffffff, 0x0, 0x0, 0x0, 0x0, 0x0⟩⟩,
  ⟨P.MEM_STALLCNT, 1, 1, ⟨0xfffffffff, 0x0, 0x0, 0x0, 0x0, 0x0⟩⟩,
  ⟨P.MEM_REPAIR, 1, 16, ⟨0x0, 0x0, 0x0, 0x0, 0x0, 0x0⟩⟩,
  ⟨P.MEM_BANKCE, 1, 16, ⟨0xfffffffff, 0x0, 0x0, 0x0, 0x0, 0x0⟩⟩,
  ⟨P.MEM_UMBACC, 1, 16, ⟨0xfffffffff, 0x0, 0x0, 0x0, 0x0, 0x0⟩⟩,
  ⟨P.MEM_GRANT, 1, 16, ⟨0xfffffffff, 0x0, 0x0, 0x0, 0x0, 0x0⟩⟩,
  ⟨P.MEM_DENY, 1, 16, ⟨0xfffffffff, 0x0, 0x0, 0x0, 0x0, 0x0⟩⟩,
  ⟨P.MEM_CELOG, 1, 16, ⟨0x0, 0x0, 0x0, 0x0, 0x0, 0x0⟩⟩,
  ⟨P.MEM_WAITMAX, 1, 5, ⟨0xfffffffff, 0x0, 0x0, 0x0, 0x0, 0x0⟩⟩]

/-- Field sheets of block 0x06 and the blocks it spans. -/
def sheets06 : List SheetRow := [
  ⟨P.MPU_BASE, 3, 256, ⟨0xffffff, 0x0, 0x0, 0x0, 0x0, 0x0⟩⟩,
  ⟨P.MPU_LIMIT, 3, 256, ⟨0xffffff, 0x0, 0x0, 0x0, 0x0, 0x0⟩⟩,
  ⟨P.MPU_ATTR, 3, 256, ⟨0xff, 0x0, 0x0, 0x0, 0x0, 0x0⟩⟩]

/-- Field sheets of block 0x09. -/
def sheets09 : List SheetRow := [
  ⟨P.DOM_REVOKE, 1, 1, ⟨0x0, 0x0, 0x0, 0x1f, 0x0, 0x0⟩⟩,
  ⟨P.DOM_REVSTAT, 1, 1, ⟨0x0, 0x0, 0x0, 0x0, 0x0, 0x0⟩⟩,
  ⟨P.DOM_REGLOCK, 1, 1, ⟨0xfffe, 0x0, 0x0, 0x0, 0x0, 0x0⟩⟩,
  ⟨P.DOM_PMSEL, 1, 1, ⟨0x1f, 0x0, 0x0, 0x0, 0x0, 0x0⟩⟩,
  ⟨P.DOM_PMASK, 1, 1, ⟨0xffffffff, 0x0, 0x0, 0x0, 0x30003, 0x0⟩⟩,
  ⟨P.DOM_LKSEL, 1, 1, ⟨0xff, 0x0, 0x0, 0x0, 0x0, 0x0⟩⟩,
  ⟨P.DOM_LKVIEW, 1, 1, ⟨0x1f, 0x0, 0x0, 0x0, 0x0, 0x0⟩⟩,
  ⟨P.DOM_VIOL, 1, 1, ⟨0x0, 0x800000000, 0x0, 0x0, 0x0, 0x0⟩⟩,
  ⟨P.DOM_VIOLCNT, 1, 1, ⟨0xffff, 0x0, 0x0, 0x0, 0x0, 0x0⟩⟩,
  ⟨P.DOM_LASTFLT, 1, 1, ⟨0x0, 0x0, 0x0, 0x0, 0x0, 0x0⟩⟩,
  ⟨P.DOM_CURDOM, 1, 1, ⟨0x0, 0x0, 0x0, 0x0, 0x11, 0x0⟩⟩,
  ⟨P.DOM_REVLOG, 1, 4, ⟨0x0, 0x0, 0x0, 0x0, 0x0, 0x0⟩⟩,
  ⟨P.DOM_LKSET, 1, 1, ⟨0x0, 0x0, 0x0, 0x0, 0x0, 0x0⟩⟩]

/-- Field sheets of block 0x0A. -/
def sheets0A : List SheetRow := [
  ⟨P.DMA_CTL, 16, 16, ⟨0xfffff, 0x0, 0x0, 0x0, 0x1, 0x0⟩⟩,
  ⟨P.DMA_CMD, 16, 16, ⟨0x0, 0x0, 0x0, 0x7, 0x0, 0x0⟩⟩,
  ⟨P.DMA_STATUS, 16, 16, ⟨0x0, 0x3e00, 0x0, 0x0, 0x0, 0x0⟩⟩,
  ⟨P.DMA_FADDR, 16, 16, ⟨0x0, 0x0, 0x0, 0x0, 0x0, 0x0⟩⟩,
  ⟨P.DMA_REMAIN, 16, 16, ⟨0x0, 0x0, 0x0, 0x0, 0x0, 0x0⟩⟩,
  ⟨P.DMA_DPTR, 16, 16, ⟨0x0, 0x0, 0x0, 0x0, 0x0, 0x0⟩⟩,
  ⟨P.DMA_DESC0, 16, 16, ⟨0xfffffffff, 0x0, 0x0, 0x0, 0x0, 0x0⟩⟩,
  ⟨P.DMA_DESC1, 16, 16, ⟨0xfffffffff, 0x0, 0x0, 0x0, 0x0, 0x0⟩⟩,
  ⟨P.DMA_DESC2, 16, 16, ⟨0xfffffffff, 0x0, 0x0, 0x0, 0x0, 0x0⟩⟩,
  ⟨P.DMA_DESC3, 16, 16, ⟨0xfffffffff, 0x0, 0x0, 0x0, 0x0, 0x0⟩⟩,
  ⟨P.DMA_DESC4, 16, 16, ⟨0xfffffffff, 0x0, 0x0, 0x0, 0x0, 0x0⟩⟩,
  ⟨P.DMA_DESC5, 16, 16, ⟨0xfffffffff, 0x0, 0x0, 0x0, 0x0, 0x0⟩⟩,
  ⟨P.DMA_DESC6, 16, 16, ⟨0xfffffffff, 0x0, 0x0, 0x0, 0x0, 0x0⟩⟩,
  ⟨P.DMA_CURSRC, 16, 16, ⟨0x0, 0x0, 0x0, 0x0, 0x0, 0x0⟩⟩,
  ⟨P.DMA_CURDST, 16, 16, ⟨0x0, 0x0, 0x0, 0x0, 0x0, 0x0⟩⟩,
  ⟨P.DMA_XFERCNT, 16, 16, ⟨0x0, 0x0, 0x0, 0x0, 0x0, 0x0⟩⟩]

/-- Field sheets of block 0x0B. -/
def sheets0B : List SheetRow := [
  ⟨P.SYNTH_ASTAT, 1, 1, ⟨0x0, 0x0, 0x0, 0x0, 0x0, 0x0⟩⟩,
  ⟨P.SYNTH_AFREQ, 1, 1, ⟨0x0, 0x0, 0x0, 0x0, 0x0, 0x0⟩⟩,
  ⟨P.SYNTH_ACALCNT, 1, 1, ⟨0xfffffffff, 0x0, 0x0, 0x0, 0x0, 0x0⟩⟩,
  ⟨P.SYNTH_AFAILCNT, 1, 1, ⟨0xfffffffff, 0x0, 0x0, 0x0, 0x0, 0x0⟩⟩,
  ⟨P.SYNTH_GCTL, 1, 1, ⟨0x7f, 0x0, 0x0, 0x0, 0x0, 0x0⟩⟩,
  ⟨P.SYNTH_GSTAT, 1, 1, ⟨0x0, 0x80, 0x0, 0x0, 0x0, 0x0⟩⟩,
  ⟨P.SYNTH_GCAL, 1, 1, ⟨0x0, 0x0, 0x0, 0x0, 0x0, 0x0⟩⟩,
  ⟨P.SYNTH_L1CLIP, 1, 1, ⟨0xfffffffff, 0x0, 0x0, 0x0, 0x0, 0x0⟩⟩,
  ⟨P.SYNTH_XOTRIM, 1, 1, ⟨0xff, 0x0, 0x0, 0x0, 0x80, 0x0⟩⟩,
  ⟨P.SYNTH_XOSENS, 1, 1, ⟨0x0, 0x0, 0x0, 0x0, 0xc8, 0x0⟩⟩,
  ⟨P.SYNTH_XONOW, 1, 1, ⟨0x0, 0x0, 0x0, 0x0, 0x80, 0x0⟩⟩,
  ⟨P.SYNTH_TEMPNOW, 1, 1, ⟨0x3ff, 0x0, 0x0, 0x0, 0x0, 0x0⟩⟩,
  ⟨P.SYNTH_TEMPIQ, 1, 1, ⟨0x0, 0x0, 0x0, 0x0, 0x0, 0x0⟩⟩,
  ⟨P.SYNTH_REFAMP, 1, 1, ⟨0x0, 0x0, 0x0, 0x0, 0x0, 0x0⟩⟩,
  ⟨P.SYNTH_XODRV, 1, 1, ⟨0x7, 0x0, 0x0, 0x0, 0x4, 0x0⟩⟩,
  ⟨P.SYNTH_GFREQ, 1, 1, ⟨0x0, 0x0, 0x0, 0x0, 0x0, 0x0⟩⟩,
  ⟨P.SYNTH_ACAL, 1, 40, ⟨0x0, 0x0, 0x0, 0x0, 0x0, 0x0⟩⟩,
  ⟨P.SYNTH_ALOCK, 1, 40, ⟨0x0, 0x0, 0x0, 0x0, 0x0, 0x0⟩⟩,
  ⟨P.SYNTH_TEST, 1, 64, ⟨0xfffffffff, 0x0, 0x0, 0x0, 0x0, 0x0⟩⟩]

/-- Field sheets of block 0x0C. -/
def sheets0C : List SheetRow := [
  ⟨P.RADIO_CMD, 1, 1, ⟨0x0, 0x0, 0x0, 0xf, 0x0, 0x0⟩⟩,
  ⟨P.RADIO_STATE, 1, 1, ⟨0x0, 0x0, 0x0, 0x0, 0x100, 0x0⟩⟩,
  ⟨P.RADIO_STATUS, 1, 1, ⟨0x0, 0x3fff, 0x0, 0x0, 0x0, 0x0⟩⟩,
  ⟨P.RADIO_CHAN, 1, 1, ⟨0x3f, 0x0, 0x0, 0x0, 0x0, 0x0⟩⟩,
  ⟨P.RADIO_RXCFG, 1, 1, ⟨0xff, 0x0, 0x0, 0x0, 0x9, 0x0⟩⟩,
  ⟨P.RADIO_TXCFG, 1, 1, ⟨0x1ff, 0x0, 0x0, 0x0, 0xa0, 0x0⟩⟩,
  ⟨P.RADIO_AUTORET, 1, 1, ⟨0xf, 0x0, 0x0, 0x0, 0x0, 0x0⟩⟩,
  ⟨P.RADIO_FAULTSTATE, 1, 1, ⟨0x1, 0x0, 0x0, 0x0, 0x0, 0x0⟩⟩,
  ⟨P.RADIO_ANT, 1, 1, ⟨0xf, 0x0, 0x0, 0x0, 0xa, 0x0⟩⟩,
  ⟨P.RADIO_DIV, 1, 1, ⟨0x0, 0x0, 0x0, 0x0, 0x0, 0x0⟩⟩,
  ⟨P.RADIO_CALCTL, 1, 1, ⟨0x1, 0x0, 0x0, 0x0, 0x1, 0x0⟩⟩,
  ⟨P.RADIO_CALSTAT, 1, 1, ⟨0x0, 0x0, 0x0, 0x0, 0x0, 0x0⟩⟩,
  ⟨P.RADIO_PAPOL, 1, 1, ⟨0xf, 0x0, 0x0, 0x0, 0x0, 0x0⟩⟩,
  ⟨P.RADIO_LEAD, 1, 1, ⟨0xffffff, 0x0, 0x0, 0x0, 0x6b46a7, 0x0⟩⟩,
  ⟨P.RADIO_LAG, 1, 1, ⟨0xffffff, 0x0, 0x0, 0x0, 0x2701a, 0x0⟩⟩,
  ⟨P.RADIO_PABIAS, 1, 1, ⟨0x3f, 0x0, 0x0, 0x0, 0x14, 0x0⟩⟩,
  ⟨P.RADIO_RSSI, 1, 1, ⟨0x0, 0x0, 0x0, 0x0, 0x0, 0x0⟩⟩,
  ⟨P.RADIO_GAIN, 1, 1, ⟨0x0, 0x0, 0x0, 0x0, 0x0, 0x0⟩⟩,
  ⟨P.RADIO_RXTO, 1, 1, ⟨0xffffff, 0x0, 0x0, 0x0, 0x0, 0x0⟩⟩,
  ⟨P.RADIO_FIFOCFG, 1, 1, ⟨0xffff, 0x0, 0x0, 0x30000, 0x0, 0x0⟩⟩,
  ⟨P.RADIO_FIFOSTAT, 1, 1, ⟨0x0, 0x0, 0x0, 0x0, 0x0, 0x0⟩⟩,
  ⟨P.RADIO_IRQEN, 1, 1, ⟨0x3fff, 0x0, 0x0, 0x0, 0x0, 0x0⟩⟩,
  ⟨P.RADIO_BURSTCFG, 1, 1, ⟨0x1ffff, 0x0, 0x0, 0x0, 0x11000, 0x0⟩⟩,
  ⟨P.RADIO_DIAG, 1, 1, ⟨0x0, 0x0, 0x0, 0x0, 0x0, 0x0⟩⟩,
  ⟨P.RADIO_CNT, 1, 8, ⟨0xfffffffff, 0x0, 0x0, 0x0, 0x0, 0x0⟩⟩,
  ⟨P.RADIO_DCOFS, 1, 12, ⟨0x0, 0x0, 0x0, 0x0, 0x0, 0x0⟩⟩,
  ⟨P.RADIO_IQCAL, 1, 8, ⟨0x0, 0x0, 0x0, 0x0, 0x0, 0x0⟩⟩,
  ⟨P.RADIO_RXGD0, 1, 1, ⟨0x0, 0x0, 0x0, 0x0, 0xd6c, 0x0⟩⟩,
  ⟨P.RADIO_RXGD1, 1, 1, ⟨0x0, 0x0, 0x0, 0x0, 0x864, 0x0⟩⟩,
  ⟨P.RADIO_RXGD2, 1, 1, ⟨0x0, 0x0, 0x0, 0x0, 0x5df, 0x0⟩⟩,
  ⟨P.RADIO_RXGD3, 1, 1, ⟨0x0, 0x0, 0x0, 0x0, 0x407, 0x0⟩⟩,
  ⟨P.RADIO_TXPWR, 1, 25, ⟨0x0, 0x0, 0x0, 0x0, 0x0, 0x0⟩⟩,
  ⟨P.RADIO_RSSICAL, 1, 40, ⟨0x0, 0x0, 0x0, 0x0, 0x0, 0x0⟩⟩,
  ⟨P.RADIO_TEST, 1, 79, ⟨0xfffffffff, 0x0, 0x0, 0x0, 0x0, 0x0⟩⟩]

/-- Field sheets of block 0x0D. -/
def sheets0D : List SheetRow := [
  ⟨P.LINK_CFG, 1, 1, ⟨0x7f, 0x0, 0x0, 0x0, 0x21, 0x0⟩⟩,
  ⟨P.LINK_SYNC, 1, 1, ⟨0xffffffff, 0x0, 0x0, 0x0, 0x9c3ae51d, 0x0⟩⟩,
  ⟨P.LINK_RXCFG, 1, 1, ⟨0x1f, 0x0, 0x0, 0x0, 0xf, 0x0⟩⟩,
  ⟨P.LINK_TXCTL, 1, 1, ⟨0x1, 0x0, 0x0, 0x0, 0x1, 0x0⟩⟩,
  ⟨P.LINK_STATUS, 1, 1, ⟨0x0, 0x1fff, 0x0, 0x0, 0x0, 0x0⟩⟩,
  ⟨P.LINK_IRQEN, 1, 1, ⟨0x1fff, 0x0, 0x0, 0x0, 0x0, 0x0⟩⟩,
  ⟨P.LINK_ACKTO, 1, 1, ⟨0xfff, 0x0, 0x0, 0x0, 0x64, 0x0⟩⟩,
  ⟨P.LINK_HISTIDX, 1, 1, ⟨0x0, 0x0, 0x0, 0x0, 0x0, 0x0⟩⟩,
  ⟨P.LINK_ADDR, 1, 4, ⟨0x1ffffff, 0x0, 0x0, 0x0, 0x0, 0x0⟩⟩,
  ⟨P.LINK_GROUP, 1, 4, ⟨0x1ffff, 0x0, 0x0, 0x0, 0x0, 0x0⟩⟩,
  ⟨P.LINK_WAKETX, 1, 1, ⟨0xffffff, 0x0, 0x0, 0x0, 0x0, 0x0⟩⟩,
  ⟨P.LINK_WAKEREP, 1, 1, ⟨0xffff, 0x0, 0x0, 0x0, 0xd0, 0x0⟩⟩,
  ⟨P.LINK_CNT, 1, 14, ⟨0xfffffffff, 0x0, 0x0, 0x0, 0x0, 0x0⟩⟩,
  ⟨P.LINK_HIST, 1, 112, ⟨0x0, 0x0, 0x0, 0x0, 0x0, 0x0⟩⟩]

/-- Field sheets of block 0x0E. -/
def sheets0E : List SheetRow := [
  ⟨P.WAKE_CFG, 1, 1, ⟨0x1f, 0x0, 0x0, 0x0, 0x3, 0x0⟩⟩,
  ⟨P.WAKE_STATUS, 1, 1, ⟨0x0, 0x5, 0x0, 0x0, 0x0, 0x0⟩⟩,
  ⟨P.WAKE_GRP, 1, 4, ⟨0x1ffffffff, 0x0, 0x0, 0x0, 0x0, 0x0⟩⟩,
  ⟨P.WAKE_REPORT, 1, 1, ⟨0x0, 0x0, 0x0, 0x0, 0x0, 0x0⟩⟩,
  ⟨P.WAKE_RTICK_LO, 1, 1, ⟨0x0, 0x0, 0x0, 0x0, 0x0, 0x0⟩⟩,
  ⟨P.WAKE_RTICK_HI, 1, 1, ⟨0x0, 0x0, 0x0, 0x0, 0x0, 0x0⟩⟩,
  ⟨P.WAKE_TRIM, 1, 1, ⟨0xff, 0x0, 0x0, 0x0, 0x80, 0x0⟩⟩,
  ⟨P.WAKE_THRESH, 1, 1, ⟨0x3f, 0x0, 0x0, 0x0, 0x20, 0x0⟩⟩,
  ⟨P.WAKE_WINCNT, 1, 1, ⟨0xfffffffff, 0x0, 0x0, 0x0, 0x0, 0x0⟩⟩,
  ⟨P.WAKE_EDGECNT, 1, 1, ⟨0xfffffffff, 0x0, 0x0, 0x0, 0x0, 0x0⟩⟩,
  ⟨P.WAKE_MATCHCNT, 1, 1, ⟨0xfffffffff, 0x0, 0x0, 0x0, 0x0, 0x0⟩⟩,
  ⟨P.WAKE_LOGIDX, 1, 1, ⟨0x0, 0x0, 0x0, 0x0, 0x0, 0x0⟩⟩,
  ⟨P.WAKE_LEVEL, 1, 1, ⟨0x0, 0x0, 0x0, 0x0, 0x0, 0x0⟩⟩,
  ⟨P.WAKE_LOG, 1, 32, ⟨0x0, 0x0, 0x0, 0x0, 0x0, 0x0⟩⟩]

/-- Field sheets of block 0x0F. -/
def sheets0F_0 : List SheetRow := [
  ⟨P.TRS_CTL, 1, 1, ⟨0x1, 0x0, 0x0, 0x0, 0x0, 0x0⟩⟩,
  ⟨P.TRS_STATUS, 1, 1, ⟨0x0, 0x1f, 0x0, 0x0, 0x0, 0x0⟩⟩,
  ⟨P.TRS_QCFG, 1, 2, ⟨0xf, 0x0, 0x0, 0x0, 0x5, 0x0⟩⟩,
  ⟨P.TRS_QSTAT, 1, 1, ⟨0x0, 0x0, 0x0, 0x0, 0x0, 0x0⟩⟩,
  ⟨P.TRS_SAMPCNT, 1, 1, ⟨0x0, 0x0, 0x0, 0x0, 0x0, 0x0⟩⟩,
  ⟨P.TRS_CHENLO, 1, 1, ⟨0x0, 0x0, 0x0, 0x0, 0x0, 0x0⟩⟩,
  ⟨P.TRS_CHENHI, 1, 1, ⟨0x0, 0x0, 0x0, 0x0, 0x0, 0x0⟩⟩,
  ⟨P.TRS_CHSTARTLO, 1, 1, ⟨0x0, 0x0, 0x0, 0xfffffffff, 0x0, 0x0⟩⟩,
  ⟨P.TRS_CHSTARTHI, 1, 1, ⟨0x0, 0x0, 0x0, 0xfff, 0x0, 0x0⟩⟩,
  ⟨P.TRS_DUMPBASE, 1, 1, ⟨0xffffff, 0x0, 0x0, 0x0, 0x0, 0x0⟩⟩,
  ⟨P.TRS_DUMPLEN, 1, 1, ⟨0x1fff, 0x0, 0x0, 0x0, 0x0, 0x0⟩⟩,
  ⟨P.TRS_DUMPWP, 1, 1, ⟨0x0, 0x0, 0x0, 0x0, 0x0, 0x0⟩⟩,
  ⟨P.TRS_DUMPRP, 1, 1, ⟨0x1fff, 0x0, 0x0, 0x0, 0x0, 0x0⟩⟩,
  ⟨P.TRS_FIFOLVL, 1, 1, ⟨0x0, 0x0, 0x0, 0x0, 0x0, 0x0⟩⟩,
  ⟨P.TRS_FIFOMAX, 1, 1, ⟨0xfff, 0x0, 0x0, 0x0, 0x0, 0x0⟩⟩,
  ⟨P.TRS_LATCHSTAT, 1, 1, ⟨0x0, 0x1, 0x0, 0x0, 0x0, 0x0⟩⟩,
  ⟨P.TRS_LATCHSAMP, 1, 1, ⟨0x0, 0x0, 0x0, 0x0, 0x0, 0x0⟩⟩,
  ⟨P.TRS_CMADDR, 1, 1, ⟨0xfff, 0x0, 0x0, 0x0, 0x0, 0x0⟩⟩,
  ⟨P.TRS_CMDATA, 1, 1, ⟨0x0, 0x0, 0x0, 0xffffffff, 0x0, 0x0⟩⟩,
  ⟨P.TRS_IRQEN, 1, 1, ⟨0x7, 0x0, 0x0, 0x0, 0x7, 0x0⟩⟩,
  ⟨P.TRS_DUMPIRQ, 1, 1, ⟨0xff, 0x0, 0x0, 0x0, 0x1, 0x0⟩⟩,
  ⟨P.TRS_DWFAULT, 1, 1, ⟨0x0, 0x800000000, 0x0, 0x0, 0x0, 0x0⟩⟩,
  ⟨P.TRS_DUMPOVF, 1, 1, ⟨0x0, 0x1, 0x0, 0x0, 0x0, 0x0⟩⟩,
  ⟨P.TRS_CNT, 1, 10, ⟨0xfffffffff, 0x0, 0x0, 0x0, 0x0, 0x0⟩⟩,
  ⟨P.TRS_SCMD, 1, 1, ⟨0x0, 0x0, 0x0, 0x3, 0x0, 0x0⟩⟩,
  ⟨P.TRS_SCFG, 1, 1, ⟨0xfff, 0x0, 0x0, 0x0, 0x0, 0x0⟩⟩,
  ⟨P.TRS_SSTART, 1, 1, ⟨0xfffffffff, 0x0, 0x0, 0x0, 0x0, 0x0⟩⟩,
  ⟨P.TRS_SCARR, 1, 1, ⟨0xffffffff, 0x0, 0x0, 0x0, 0x0, 0x0⟩⟩,
  ⟨P.TRS_SCODEF, 1, 1, ⟨0xffffffff, 0x0, 0x0, 0x0, 0x0, 0x0⟩⟩,
  ⟨P.TRS_SRESBASE, 1, 1, ⟨0xffffff, 0x0, 0x0, 0x0, 0x0, 0x0⟩⟩,
  ⟨P.TRS_SPSHIFT, 1, 1, ⟨0x1f, 0x0, 0x0, 0x0, 0x0, 0x0⟩⟩,
  ⟨P.TRS_SSTATUS, 1, 1, ⟨0x0, 0x1c, 0x0, 0x0, 0x0, 0x0⟩⟩,
  ⟨P.TRS_SPEAK, 1, 1, ⟨0x0, 0x0, 0x0, 0x0, 0x0, 0x0⟩⟩,
  ⟨P.TRS_SPEAKIDX, 1, 1, ⟨0x0, 0x0, 0x0, 0x0, 0x0, 0x0⟩⟩,
  ⟨P.TRS_SPEAK2, 1, 1, ⟨0x0, 0x0, 0x0, 0x0, 0x0, 0x0⟩⟩,
  ⟨P.TRS_SMEAN, 1, 1, ⟨0x0, 0x0, 0x0, 0x0, 0x0, 0x0⟩⟩,
  ⟨P.TRS_SCAPSAMP, 1, 1, ⟨0x0, 0x0, 0x0, 0x0, 0x0, 0x0⟩⟩,
  ⟨P.TRS_SPASSCNT, 1, 1, ⟨0x0, 0x0, 0x0, 0x0, 0x0, 0x0⟩⟩,
  ⟨P.TRS_SPK, 1, 16, ⟨0x0, 0x0, 0x0, 0x0, 0x0, 0x0⟩⟩,
  ⟨P.TRS_QHIST, 1, 16, ⟨0x0, 0x0, 0x0, 0x0, 0x0, 0x0⟩⟩]

/-- Field sheets of block 0x0F, continued. -/
def sheets0F_1 : List SheetRow := [
  ⟨P.TRS_CHLAST, 1, 48, ⟨0x0, 0x0, 0x0, 0x0, 0x0, 0x0⟩⟩,
  ⟨P.TRS_TEST, 1, 64, ⟨0xfffffffff, 0x0, 0x0, 0x0, 0x0, 0x0⟩⟩]

def sheets0F : List SheetRow := sheets0F_0 ++ sheets0F_1

/-- Field sheets of block 0x10 and the blocks it spans. -/
def sheets10_0 : List SheetRow := [
  ⟨P.CH_CTL, 64, 48, ⟨0x7, 0x0, 0x0, 0x0, 0x0, 0x0⟩⟩,
  ⟨P.CH_STATUS, 64, 48, ⟨0x0, 0x3f, 0x0, 0x0, 0x0, 0x0⟩⟩,
  ⟨P.CH_CODECFG, 64, 48, ⟨0xfffff, 0x0, 0x0, 0x0, 0xffc, 0x0⟩⟩,
  ⟨P.CH_G1CFG, 64, 48, ⟨0x1ffff, 0x0, 0x0, 0x0, 0x0, 0x0⟩⟩,
  ⟨P.CH_G1INIT, 64, 48, ⟨0x1fff, 0x0, 0x0, 0x0, 0x0, 0x0⟩⟩,
  ⟨P.CH_G2CFG, 64, 48, ⟨0x3ffff, 0x0, 0x0, 0x0, 0x0, 0x0⟩⟩,
  ⟨P.CH_G2INIT, 64, 48, ⟨0x1fff, 0x0, 0x0, 0x0, 0x0, 0x0⟩⟩,
  ⟨P.CH_SECCFG, 64, 48, ⟨0x7ff, 0x0, 0x0, 0x0, 0x0, 0x0⟩⟩,
  ⟨P.CH_SECPAT, 64, 48, ⟨0xffffffff, 0x0, 0x0, 0x0, 0x0, 0x0⟩⟩,
  ⟨P.CH_CARRFREQ, 64, 48, ⟨0xffffffff, 0x0, 0x0, 0x0, 0x0, 0x0⟩⟩,
  ⟨P.CH_CODEFREQ, 64, 48, ⟨0xffffffff, 0x0, 0x0, 0x0, 0x40000000, 0x0⟩⟩,
  ⟨P.CH_CARRADJ, 64, 48, ⟨0x0, 0x0, 0x0, 0xfffffffff, 0x0, 0x0⟩⟩,
  ⟨P.CH_CODEADJ, 64, 48, ⟨0x0, 0x0, 0x0, 0xfffffffff, 0x0, 0x0⟩⟩,
  ⟨P.CH_TAPSP, 64, 48, ⟨0x1fff, 0x0, 0x0, 0x0, 0x410, 0x0⟩⟩,
  ⟨P.CH_INTCFG, 64, 48, ⟨0xfff, 0x0, 0x0, 0x0, 0x1, 0x0⟩⟩,
  ⟨P.CH_EPOCHCNT, 64, 48, ⟨0x0, 0x0, 0x0, 0x0, 0x0, 0x0⟩⟩,
  ⟨P.CH_HIST0, 64, 48, ⟨0x0, 0x0, 0x0, 0x0, 0x0, 0x0⟩⟩,
  ⟨P.CH_HIST1, 64, 48, ⟨0x0, 0x0, 0x0, 0x0, 0x0, 0x0⟩⟩,
  ⟨P.CH_HIST2, 64, 48, ⟨0x0, 0x0, 0x0, 0x0, 0x0, 0x0⟩⟩,
  ⟨P.CH_HIST3, 64, 48, ⟨0x0, 0x0, 0x0, 0x0, 0x0, 0x0⟩⟩,
  ⟨P.CH_HIST4, 64, 48, ⟨0x0, 0x0, 0x0, 0x0, 0x0, 0x0⟩⟩,
  ⟨P.CH_HIST5, 64, 48, ⟨0x0, 0x0, 0x0, 0x0, 0x0, 0x0⟩⟩,
  ⟨P.CH_HIST6, 64, 48, ⟨0x0, 0x0, 0x0, 0x0, 0x0, 0x0⟩⟩,
  ⟨P.CH_HIST7, 64, 48, ⟨0x0, 0x0, 0x0, 0x0, 0x0, 0x0⟩⟩,
  ⟨P.CH_HIST8, 64, 48, ⟨0x0, 0x0, 0x0, 0x0, 0x0, 0x0⟩⟩,
  ⟨P.CH_HIST9, 64, 48, ⟨0x0, 0x0, 0x0, 0x0, 0x0, 0x0⟩⟩,
  ⟨P.CH_HIST10, 64, 48, ⟨0x0, 0x0, 0x0, 0x0, 0x0, 0x0⟩⟩,
  ⟨P.CH_HIST11, 64, 48, ⟨0x0, 0x0, 0x0, 0x0, 0x0, 0x0⟩⟩,
  ⟨P.CH_HIST12, 64, 48, ⟨0x0, 0x0, 0x0, 0x0, 0x0, 0x0⟩⟩,
  ⟨P.CH_HIST13, 64, 48, ⟨0x0, 0x0, 0x0, 0x0, 0x0, 0x0⟩⟩,
  ⟨P.CH_HIST14, 64, 48, ⟨0x0, 0x0, 0x0, 0x0, 0x0, 0x0⟩⟩,
  ⟨P.CH_HIST15, 64, 48, ⟨0x0, 0x0, 0x0, 0x0, 0x0, 0x0⟩⟩,
  ⟨P.CH_HIST16, 64, 48, ⟨0x0, 0x0, 0x0, 0x0, 0x0, 0x0⟩⟩,
  ⟨P.CH_HIST17, 64, 48, ⟨0x0, 0x0, 0x0, 0x0, 0x0, 0x0⟩⟩,
  ⟨P.CH_HIST18, 64, 48, ⟨0x0, 0x0, 0x0, 0x0, 0x0, 0x0⟩⟩,
  ⟨P.CH_HIST19, 64, 48, ⟨0x0, 0x0, 0x0, 0x0, 0x0, 0x0⟩⟩,
  ⟨P.CH_HIST20, 64, 48, ⟨0x0, 0x0, 0x0, 0x0, 0x0, 0x0⟩⟩,
  ⟨P.CH_HIST21, 64, 48, ⟨0x0, 0x0, 0x0, 0x0, 0x0, 0x0⟩⟩,
  ⟨P.CH_HIST22, 64, 48, ⟨0x0, 0x0, 0x0, 0x0, 0x0, 0x0⟩⟩,
  ⟨P.CH_HIST23, 64, 48, ⟨0x0, 0x0, 0x0, 0x0, 0x0, 0x0⟩⟩]

/-- Field sheets of block 0x10 and the blocks it spans, continued. -/
def sheets10_1 : List SheetRow := [
  ⟨P.CH_HIST24, 64, 48, ⟨0x0, 0x0, 0x0, 0x0, 0x0, 0x0⟩⟩,
  ⟨P.CH_HIST25, 64, 48, ⟨0x0, 0x0, 0x0, 0x0, 0x0, 0x0⟩⟩,
  ⟨P.CH_HIST26, 64, 48, ⟨0x0, 0x0, 0x0, 0x0, 0x0, 0x0⟩⟩,
  ⟨P.CH_HIST27, 64, 48, ⟨0x0, 0x0, 0x0, 0x0, 0x0, 0x0⟩⟩,
  ⟨P.CH_HIST28, 64, 48, ⟨0x0, 0x0, 0x0, 0x0, 0x0, 0x0⟩⟩,
  ⟨P.CH_HIST29, 64, 48, ⟨0x0, 0x0, 0x0, 0x0, 0x0, 0x0⟩⟩,
  ⟨P.CH_LATCH0, 64, 48, ⟨0x0, 0x0, 0x0, 0x0, 0x0, 0x0⟩⟩,
  ⟨P.CH_LATCH1, 64, 48, ⟨0x0, 0x0, 0x0, 0x0, 0x0, 0x0⟩⟩,
  ⟨P.CH_LATCH2, 64, 48, ⟨0x0, 0x0, 0x0, 0x0, 0x0, 0x0⟩⟩,
  ⟨P.CH_LATCH3, 64, 48, ⟨0x0, 0x0, 0x0, 0x0, 0x0, 0x0⟩⟩,
  ⟨P.CH_LATCH4, 64, 48, ⟨0x0, 0x0, 0x0, 0x0, 0x0, 0x0⟩⟩,
  ⟨P.CH_LATCH5, 64, 48, ⟨0x0, 0x0, 0x0, 0x0, 0x0, 0x0⟩⟩,
  ⟨P.CH_LATCH6, 64, 48, ⟨0x0, 0x0, 0x0, 0x0, 0x0, 0x0⟩⟩,
  ⟨P.CH_LATCH7, 64, 48, ⟨0x0, 0x0, 0x0, 0x0, 0x0, 0x0⟩⟩,
  ⟨P.CH_LATCH8, 64, 48, ⟨0x0, 0x0, 0x0, 0x0, 0x0, 0x0⟩⟩,
  ⟨P.CH_LATCH9, 64, 48, ⟨0x0, 0x0, 0x0, 0x0, 0x0, 0x0⟩⟩,
  ⟨P.CH_CODENOW, 64, 48, ⟨0x0, 0x0, 0x0, 0x0, 0x0, 0x0⟩⟩,
  ⟨P.CH_CARRNOW, 64, 48, ⟨0x0, 0x0, 0x0, 0x0, 0x0, 0x0⟩⟩,
  ⟨P.CH_CYCNOW, 64, 48, ⟨0x0, 0x0, 0x0, 0x0, 0x0, 0x0⟩⟩,
  ⟨P.CH_DROPCNT, 64, 48, ⟨0xfffffffff, 0x0, 0x0, 0x0, 0x0, 0x0⟩⟩,
  ⟨P.CH_SATCNT, 64, 48, ⟨0xfffffffff, 0x0, 0x0, 0x0, 0x0, 0x0⟩⟩,
  ⟨P.CH_CARRRATE, 64, 48, ⟨0xffffff, 0x0, 0x0, 0x0, 0x0, 0x0⟩⟩,
  ⟨P.CH_AIDRATIO, 64, 48, ⟨0xffffffff, 0x0, 0x0, 0x0, 0x0, 0x0⟩⟩,
  ⟨P.CH_HISTIDX, 64, 48, ⟨0x0, 0x0, 0x0, 0x0, 0x0, 0x0⟩⟩]

def sheets10 : List SheetRow := sheets10_0 ++ sheets10_1

/-- Field sheets of block 0x1C. -/
def sheets1C : List SheetRow := [
  ⟨P.CRYPT_CMD, 1, 1, ⟨0x0, 0x0, 0x0, 0xfffff, 0x0, 0x0⟩⟩,
  ⟨P.CRYPT_STATUS, 1, 1, ⟨0x0, 0x382, 0x0, 0x0, 0x0, 0x0⟩⟩,
  ⟨P.CRYPT_IN, 1, 1, ⟨0x0, 0x0, 0x0, 0xffffffff, 0x0, 0x0⟩⟩,
  ⟨P.CRYPT_OUT, 1, 1, ⟨0x0, 0x0, 0x0, 0x0, 0x0, 0x0⟩⟩,
  ⟨P.CRYPT_LEN, 1, 1, ⟨0xffffff, 0x0, 0x0, 0x0, 0x0, 0x0⟩⟩,
  ⟨P.CRYPT_ALEN, 1, 1, ⟨0xffff, 0x0, 0x0, 0x0, 0x0, 0x0⟩⟩,
  ⟨P.CRYPT_FIFOSTAT, 1, 1, ⟨0x0, 0x0, 0x0, 0x0, 0x0, 0x0⟩⟩,
  ⟨P.CRYPT_IRQEN, 1, 1, ⟨0x1, 0x0, 0x0, 0x0, 0x0, 0x0⟩⟩,
  ⟨P.CRYPT_KEYDOM, 1, 1, ⟨0x0, 0x0, 0x0, 0x0, 0x0, 0x0⟩⟩,
  ⟨P.CRYPT_CYCLES, 1, 1, ⟨0x0, 0x0, 0x0, 0x0, 0x0, 0x0⟩⟩,
  ⟨P.CRYPT_LASTOP, 1, 1, ⟨0x0, 0x0, 0x0, 0x0, 0x0, 0x0⟩⟩,
  ⟨P.CRYPT_OPCNT, 1, 1, ⟨0xfffffffff, 0x0, 0x0, 0x0, 0x0, 0x0⟩⟩,
  ⟨P.CRYPT_KEY, 1, 8, ⟨0x0, 0x0, 0x0, 0xffffffff, 0x0, 0x0⟩⟩,
  ⟨P.CRYPT_IV, 1, 4, ⟨0xffffffff, 0x0, 0x0, 0x0, 0x0, 0x0⟩⟩,
  ⟨P.CRYPT_SLOTINFO, 1, 16, ⟨0x0, 0x0, 0x0, 0x0, 0x0, 0x0⟩⟩,
  ⟨P.CRYPT_KREFUSE, 1, 1, ⟨0x0, 0x0, 0x0, 0x0, 0x0, 0x0⟩⟩,
  ⟨P.CRYPT_CNT, 1, 8, ⟨0xfffffffff, 0x0, 0x0, 0x0, 0x0, 0x0⟩⟩,
  ⟨P.RNG_CTL, 1, 1, ⟨0x3, 0x0, 0x0, 0x0, 0x0, 0x0⟩⟩,
  ⟨P.RNG_STATUS, 1, 1, ⟨0x0, 0x0, 0x0, 0x0, 0x0, 0x0⟩⟩,
  ⟨P.RNG_DATA, 1, 1, ⟨0x0, 0x0, 0x0, 0x0, 0x0, 0x0⟩⟩,
  ⟨P.RNG_RCMAX, 1, 1, ⟨0x0, 0x0, 0x0, 0x0, 0x0, 0x0⟩⟩,
  ⟨P.RNG_APCNT, 1, 1, ⟨0x0, 0x0, 0x0, 0x0, 0x0, 0x0⟩⟩,
  ⟨P.RNG_WORDCNT, 1, 1, ⟨0xfffffffff, 0x0, 0x0, 0x0, 0x0, 0x0⟩⟩,
  ⟨P.RNG_ALMINFO, 1, 1, ⟨0x0, 0x0, 0x0, 0x0, 0x0, 0x0⟩⟩,
  ⟨P.RNG_TESTPAT, 1, 8, ⟨0xffffffff, 0x0, 0x0, 0x0, 0x0, 0x0⟩⟩,
  ⟨P.CRYPT_TEST, 1, 32, ⟨0xfffffffff, 0x0, 0x0, 0x0, 0x0, 0x0⟩⟩]

/-- Field sheets of block 0x1D. -/
def sheets1D : List SheetRow := [
  ⟨P.LIFE_STATE, 1, 1, ⟨0x0, 0x0, 0x0, 0x0, 0x0, 0x0⟩⟩,
  ⟨P.LIFE_COPY1, 1, 1, ⟨0x0, 0x0, 0x0, 0x0, 0x0, 0x0⟩⟩,
  ⟨P.LIFE_COPY2, 1, 1, ⟨0x0, 0x0, 0x0, 0x0, 0x0, 0x0⟩⟩,
  ⟨P.LIFE_COPY3, 1, 1, ⟨0x0, 0x0, 0x0, 0x0, 0x0, 0x0⟩⟩,
  ⟨P.LIFE_TRANS, 1, 1, ⟨0x0, 0x0, 0x0, 0xffffffff, 0x0, 0x0⟩⟩,
  ⟨P.LIFE_TSTAT, 1, 1, ⟨0x0, 0x0, 0x0, 0x0, 0x0, 0x0⟩⟩,
  ⟨P.LIFE_UID_LO, 1, 1, ⟨0x0, 0x0, 0x0, 0x0, 0x0, 0x0⟩⟩,
  ⟨P.LIFE_UID_HI, 1, 1, ⟨0x0, 0x0, 0x0, 0x0, 0x0, 0x0⟩⟩,
  ⟨P.LIFE_OWNHASH, 1, 8, ⟨0x0, 0x0, 0x0, 0x0, 0x0, 0x0⟩⟩,
  ⟨P.LIFE_OWNSET, 1, 8, ⟨0xffffffff, 0x0, 0x0, 0x0, 0x0, 0x0⟩⟩,
  ⟨P.LIFE_OWNCMD, 1, 1, ⟨0x0, 0x0, 0x0, 0xfffffffff, 0x0, 0x0⟩⟩,
  ⟨P.LIFE_DBGSTAT, 1, 1, ⟨0x0, 0x0, 0x0, 0x0, 0x0, 0x0⟩⟩,
  ⟨P.LIFE_DBGCMD, 1, 1, ⟨0x0, 0x0, 0x0, 0x7, 0x0, 0x0⟩⟩,
  ⟨P.LIFE_DBGSCOPE, 1, 1, ⟨0xffffffff, 0x0, 0x0, 0x0, 0x0, 0x0⟩⟩,
  ⟨P.LIFE_FAILCNT, 1, 1, ⟨0x0, 0x0, 0x0, 0x0, 0x0, 0x0⟩⟩,
  ⟨P.LIFE_CERTSTAT, 1, 1, ⟨0x0, 0x0, 0x0, 0x0, 0x0, 0x0⟩⟩,
  ⟨P.LIFE_FUSESTAT, 1, 1, ⟨0x0, 0x0, 0x0, 0x0, 0x0, 0x0⟩⟩,
  ⟨P.LIFE_GRANTSEC, 1, 1, ⟨0x0, 0x0, 0x0, 0x0, 0x0, 0x0⟩⟩,
  ⟨P.LIFE_CHAL, 1, 8, ⟨0x0, 0x0, 0x0, 0x0, 0x0, 0x0⟩⟩,
  ⟨P.LIFE_RESP, 1, 16, ⟨0xffffffff, 0x0, 0x0, 0x0, 0x0, 0x0⟩⟩,
  ⟨P.LIFE_HIST, 1, 8, ⟨0x0, 0x0, 0x0, 0x0, 0x0, 0x0⟩⟩]

/-- Field sheets of block 0x1E. -/
def sheets1E_0 : List SheetRow := [
  ⟨P.MGMT_STATUS, 1, 1, ⟨0x0, 0x0, 0x0, 0x0, 0x0, 0x0⟩⟩,
  ⟨P.MGMT_VERSION, 1, 1, ⟨0x0, 0x0, 0x0, 0x0, 0x0, 0x0⟩⟩,
  ⟨P.MGMT_RSTCAUSE, 1, 1, ⟨0x0, 0x0, 0x0, 0x0, 0x0, 0x0⟩⟩,
  ⟨P.MGMT_BOOTSTAT, 1, 1, ⟨0x0, 0x0, 0x0, 0x0, 0x0, 0x0⟩⟩,
  ⟨P.MGMT_RBCNT, 1, 1, ⟨0x0, 0x0, 0x0, 0x0, 0x0, 0x0⟩⟩,
  ⟨P.MGMT_SLOTVERA, 1, 1, ⟨0x0, 0x0, 0x0, 0x0, 0x0, 0x0⟩⟩,
  ⟨P.MGMT_SLOTVERB, 1, 1, ⟨0x0, 0x0, 0x0, 0x0, 0x0, 0x0⟩⟩,
  ⟨P.MGMT_CFGSEQ, 1, 1, ⟨0x0, 0x0, 0x0, 0x0, 0x0, 0x0⟩⟩,
  ⟨P.MGMT_SVCREQ, 1, 8, ⟨0xfffffffff, 0x0, 0x0, 0x0, 0x0, 0x0⟩⟩,
  ⟨P.MGMT_SVCGO, 1, 1, ⟨0x0, 0x0, 0x0, 0x1, 0x0, 0x0⟩⟩,
  ⟨P.MGMT_SVCSTAT, 1, 1, ⟨0x0, 0x6, 0x0, 0x0, 0x0, 0x0⟩⟩,
  ⟨P.MGMT_SVCREPLY, 1, 4, ⟨0x0, 0x0, 0x0, 0x0, 0x0, 0x0⟩⟩,
  ⟨P.MGMT_WDCFG, 1, 1, ⟨0xffffff, 0x0, 0x0, 0x0, 0x10180, 0x0⟩⟩,
  ⟨P.MGMT_WDKICK, 1, 1, ⟨0x0, 0x0, 0x0, 0xfffffffff, 0x0, 0x0⟩⟩,
  ⟨P.MGMT_WDSTAT, 1, 1, ⟨0x0, 0x0, 0x0, 0x0, 0x0, 0x0⟩⟩,
  ⟨P.MGMT_NVMQSTAT, 1, 1, ⟨0x0, 0x0, 0x0, 0x0, 0x0, 0x0⟩⟩,
  ⟨P.MGMT_NVMWMASK, 1, 1, ⟨0xfffd, 0x0, 0x0, 0x0, 0x2, 0x0⟩⟩,
  ⟨P.MGMT_LOGMASK, 1, 1, ⟨0xffff, 0x0, 0x0, 0x0, 0x2, 0x0⟩⟩,
  ⟨P.MGMT_LOGHEAD, 1, 1, ⟨0x0, 0x0, 0x0, 0x0, 0x0, 0x0⟩⟩,
  ⟨P.MGMT_LOGCOUNT, 1, 1, ⟨0x0, 0x0, 0x0, 0x0, 0x0, 0x0⟩⟩,
  ⟨P.MGMT_LOGDROP, 1, 1, ⟨0x0, 0x0, 0x0, 0x0, 0x0, 0x0⟩⟩,
  ⟨P.MGMT_IRQEN, 1, 1, ⟨0xf, 0x0, 0x0, 0x0, 0x1, 0x0⟩⟩,
  ⟨P.MGMT_TEMP, 1, 1, ⟨0x0, 0x0, 0x0, 0x0, 0x0, 0x0⟩⟩,
  ⟨P.MGMT_VDD, 1, 1, ⟨0x0, 0x0, 0x0, 0x0, 0x0, 0x0⟩⟩,
  ⟨P.MGMT_VBK, 1, 1, ⟨0x0, 0x0, 0x0, 0x0, 0x0, 0x0⟩⟩,
  ⟨P.MGMT_PODR, 1, 1, ⟨0x0, 0x0, 0x0, 0x0, 0x0, 0x0⟩⟩,
  ⟨P.MGMT_LIGHT, 1, 1, ⟨0x0, 0x0, 0x0, 0x0, 0x0, 0x0⟩⟩,
  ⟨P.MGMT_XTAL, 1, 1, ⟨0x0, 0x0, 0x0, 0x0, 0x0, 0x0⟩⟩,
  ⟨P.MGMT_SENSCFG, 1, 1, ⟨0x3ffff, 0x0, 0x0, 0x0, 0x7, 0x0⟩⟩,
  ⟨P.MGMT_SENSSTAT, 1, 1, ⟨0x0, 0xff, 0x0, 0x0, 0x0, 0x0⟩⟩,
  ⟨P.MGMT_SENSTHR, 1, 8, ⟨0xfffffff1f, 0x0, 0x0, 0x0, 0x0, 0x0⟩⟩,
  ⟨P.MGMT_EVCFG, 1, 1, ⟨0x3ffff, 0x0, 0x0, 0x0, 0x0, 0x0⟩⟩,
  ⟨P.MGMT_EVFIFO, 1, 1, ⟨0x0, 0x0, 0xfffffffff, 0x0, 0x0, 0x0⟩⟩,
  ⟨P.MGMT_EVSTAT, 1, 1, ⟨0x1fe0, 0x0, 0x0, 0x0, 0x0, 0x0⟩⟩,
  ⟨P.MGMT_NVMQ, 1, 8, ⟨0x0, 0x0, 0x0, 0x0, 0x0, 0x0⟩⟩,
  ⟨P.MGMT_LASTLOG, 1, 4, ⟨0x0, 0x0, 0x0, 0x0, 0x0, 0x0⟩⟩,
  ⟨P.MGMT_LOGSTAT, 1, 1, ⟨0x0, 0x0, 0x0, 0x0, 0x0, 0x0⟩⟩,
  ⟨P.MGMT_SENSCAL, 1, 16, ⟨0x0, 0x0, 0x0, 0x0, 0x0, 0x0⟩⟩,
  ⟨P.MGMT_CNT, 1, 16, ⟨0xfffffffff, 0x0, 0x0, 0x0, 0x0, 0x0⟩⟩,
  ⟨P.MGMT_TEST, 1, 48, ⟨0xfffffffff, 0x0, 0x0, 0x0, 0x0, 0x0⟩⟩]

/-- Field sheets of block 0x1E, continued. -/
def sheets1E_1 : List SheetRow := [
  ⟨P.MGMT_SVCDATA, 1, 32, ⟨0xfffffffff, 0x0, 0x0, 0x0, 0x0, 0x0⟩⟩]

def sheets1E : List SheetRow := sheets1E_0 ++ sheets1E_1

/-- Field sheets of block 0x1F. -/
def sheets1F : List SheetRow := [
  ⟨P.DBG_BP, 1, 4, ⟨0x1ffffff, 0x0, 0x0, 0x0, 0x0, 0x0⟩⟩,
  ⟨P.DBG_WP0LO, 1, 1, ⟨0xffffff, 0x0, 0x0, 0x0, 0x0, 0x0⟩⟩,
  ⟨P.DBG_WP0HI, 1, 1, ⟨0xffffff, 0x0, 0x0, 0x0, 0x0, 0x0⟩⟩,
  ⟨P.DBG_WP0CTL, 1, 1, ⟨0x7, 0x0, 0x0, 0x0, 0x0, 0x0⟩⟩,
  ⟨P.DBG_WP1LO, 1, 1, ⟨0xffffff, 0x0, 0x0, 0x0, 0x0, 0x0⟩⟩,
  ⟨P.DBG_WP1HI, 1, 1, ⟨0xffffff, 0x0, 0x0, 0x0, 0x0, 0x0⟩⟩,
  ⟨P.DBG_WP1CTL, 1, 1, ⟨0x7, 0x0, 0x0, 0x0, 0x0, 0x0⟩⟩,
  ⟨P.DBG_CTL, 1, 1, ⟨0x7, 0x0, 0x0, 0x18, 0x0, 0x1⟩⟩,
  ⟨P.DBG_STAT, 1, 1, ⟨0x0, 0x0, 0x0, 0x0, 0x0, 0x0⟩⟩,
  ⟨P.DBG_HALTPC, 1, 1, ⟨0x0, 0x0, 0x0, 0x0, 0x0, 0x0⟩⟩,
  ⟨P.DBG_WPADDR, 1, 1, ⟨0x0, 0x0, 0x0, 0x0, 0x0, 0x0⟩⟩,
  ⟨P.DBG_HALTCNT, 1, 1, ⟨0xfffffffff, 0x0, 0x0, 0x0, 0x0, 0x0⟩⟩,
  ⟨P.DBG_STEPCNT, 1, 1, ⟨0xfffffffff, 0x0, 0x0, 0x0, 0x0, 0x0⟩⟩,
  ⟨P.DBG_BPHIT, 1, 4, ⟨0xfffffffff, 0x0, 0x0, 0x0, 0x0, 0x0⟩⟩,
  ⟨P.DBG_WPHIT, 1, 2, ⟨0xfffffffff, 0x0, 0x0, 0x0, 0x0, 0x0⟩⟩,
  ⟨P.DBG_TRCIDX, 1, 1, ⟨0x0, 0x0, 0x0, 0x0, 0x0, 0x0⟩⟩,
  ⟨P.DBG_EXCIDX, 1, 1, ⟨0x0, 0x0, 0x0, 0x0, 0x0, 0x0⟩⟩,
  ⟨P.DBG_MARK, 1, 12, ⟨0xfffffffff, 0x0, 0x0, 0x0, 0x0, 0x0⟩⟩,
  ⟨P.DBG_MARK12, 1, 5, ⟨0xfffffffff, 0x0, 0x0, 0x0, 0x0, 0x0⟩⟩,
  ⟨P.DBG_EXC, 1, 16, ⟨0x0, 0x0, 0x0, 0x0, 0x0, 0x0⟩⟩,
  ⟨P.DBG_TRC, 1, 160, ⟨0x0, 0x0, 0x0, 0x0, 0x0, 0x0⟩⟩,
  ⟨P.HOST_DOORIN, 1, 1, ⟨0x0, 0x0, 0x80000ffff, 0x0, 0x0, 0x0⟩⟩,
  ⟨P.HOST_DOOROUT, 1, 1, ⟨0x0, 0x0, 0x0, 0xff, 0x0, 0x0⟩⟩,
  ⟨P.HOST_STAT, 1, 1, ⟨0x0, 0x0, 0x0, 0x0, 0x0, 0x0⟩⟩,
  ⟨P.HOST_WRCNT, 1, 1, ⟨0xfffffffff, 0x0, 0x0, 0x0, 0x0, 0x0⟩⟩,
  ⟨P.POD_CMD, 1, 1, ⟨0x0, 0x0, 0x0, 0x3ffff, 0x0, 0x0⟩⟩,
  ⟨P.POD_STATUS, 1, 1, ⟨0x0, 0x7e, 0x0, 0x0, 0x0, 0x0⟩⟩,
  ⟨P.POD_CFG, 1, 1, ⟨0x1, 0x0, 0x0, 0x0, 0x0, 0x0⟩⟩,
  ⟨P.POD_QPULSE, 1, 1, ⟨0x0, 0x0, 0x0, 0x0, 0x9c40, 0x0⟩⟩,
  ⟨P.POD_BUF, 1, 16, ⟨0xffffffff, 0x0, 0x0, 0x0, 0x0, 0x0⟩⟩,
  ⟨P.FACE_CTL, 1, 1, ⟨0x1fff, 0x0, 0x0, 0x0, 0x0, 0x0⟩⟩,
  ⟨P.FACE_CMD, 1, 1, ⟨0x0, 0x0, 0x0, 0x3, 0x0, 0x0⟩⟩,
  ⟨P.FACE_STATUS, 1, 1, ⟨0x0, 0x3c0, 0x0, 0x0, 0x0, 0x0⟩⟩,
  ⟨P.FACE_TXD, 1, 1, ⟨0x0, 0x0, 0x0, 0xfffffffff, 0x0, 0x0⟩⟩,
  ⟨P.GPIO_CFG, 1, 8, ⟨0xff, 0x0, 0x0, 0x0, 0x0, 0x0⟩⟩,
  ⟨P.GPIO_OUT, 1, 1, ⟨0xff, 0x0, 0x0, 0x0, 0x0, 0x0⟩⟩,
  ⟨P.GPIO_IN, 1, 1, ⟨0x0, 0x0, 0x0, 0x0, 0x0, 0x0⟩⟩,
  ⟨P.GPIO_EDGE, 1, 1, ⟨0x0, 0xff, 0x0, 0x0, 0x0, 0x0⟩⟩]

/-- The sheet rows of a block (R619: the block is index bits 12:8). -/
def blockSheets (b : Nat) : List SheetRow :=
  match b with
  | 0x00 => sheets00
  | 0x01 => sheets01
  | 0x02 => sheets02
  | 0x03 => sheets03
  | 0x04 => sheets04
  | 0x05 => sheets05
  | 0x06 => sheets06
  | 0x07 => sheets06
  | 0x08 => sheets06
  | 0x09 => sheets09
  | 0x0A => sheets0A
  | 0x0B => sheets0B
  | 0x0C => sheets0C
  | 0x0D => sheets0D
  | 0x0E => sheets0E
  | 0x0F => sheets0F
  | 0x10 => sheets10
  | 0x11 => sheets10
  | 0x12 => sheets10
  | 0x13 => sheets10
  | 0x14 => sheets10
  | 0x15 => sheets10
  | 0x16 => sheets10
  | 0x17 => sheets10
  | 0x18 => sheets10
  | 0x19 => sheets10
  | 0x1A => sheets10
  | 0x1B => sheets10
  | 0x1C => sheets1C
  | 0x1D => sheets1D
  | 0x1E => sheets1E
  | 0x1F => sheets1F
  | _ => []

/-- The row that holds an index. -/
def SheetRow.holds (r : SheetRow) (i : Nat) : Bool :=
  decide (r.base ≤ i) && decide ((i - r.base) % r.stride = 0) && decide ((i - r.base) / r.stride < r.count)

/-- The field sheet of an index; none for an unpopulated index (R620, R625). -/
def sheetOf (i : Nat) : Option Sheet :=
  ((blockSheets (i / 256)).find? (fun r => r.holds i)).map SheetRow.sheet

/-- The index is populated (Table MAP-1). -/
def populated (i : Nat) : Bool := (sheetOf i).isSome

/-- The reset value of an index (R12, R13); an unpopulated one reads 0. -/
def resetOf (i : Nat) : Word :=
  match sheetOf i with
  | some sh => sh.reset
  | none => 0

end Sys2Proof.Machine
end

