-- ==== Sys2Proof/Machine/SMap.lean ====
section
/-!
DEFINITION. Sys2Proof/Machine/SMap.lean: sparse maps from addresses to values, in one canonical form: keys strictly rising and
no entry equal to what an unlisted key reads as. Equal maps are equal lists.
-/

namespace Sys2Proof.Machine

/-- A sparse map with natural keys. -/
abbrev SMap (α : Type) := List (Nat × α)

namespace SMap

/-- The listed entry of a key. -/
def find {α : Type} : SMap α → Nat → Option α
  | [], _ => none
  | (a, v) :: m, k => if a = k then some v else find m k

/-- The value of a key; an unlisted key reads as `d`. -/
def getD {α : Type} (m : SMap α) (k : Nat) (d : α) : α := (find m k).getD d

/-- The map without a key. -/
def erase {α : Type} : SMap α → Nat → SMap α
  | [], _ => []
  | (a, v) :: m, k => if a = k then erase m k else (a, v) :: erase m k

/-- The map with a key listed, keys kept rising. -/
def insert {α : Type} : SMap α → Nat → α → SMap α
  | [], k, v => [(k, v)]
  | (a, w) :: m, k, v =>
    if k < a then (k, v) :: (a, w) :: m
    else if a = k then (k, v) :: m
    else (a, w) :: insert m k v

/-- Write a value where an unlisted key reads as `d`: writing `d` removes the entry. -/
def put {α : Type} [DecidableEq α] (m : SMap α) (k : Nat) (d v : α) : SMap α :=
  if v = d then erase m k else insert m k v

/-- Keys strictly rising. -/
def Sorted {α : Type} (m : SMap α) : Prop := (m.map Prod.fst).Pairwise (· < ·)

/-- The canonical form: keys strictly rising, no entry equal to its unlisted value. -/
abbrev wf {α : Type} [DecidableEq α] (m : SMap α) (d : Nat → α) : Prop :=
  (m.map Prod.fst).Pairwise (· < ·) ∧ ∀ e ∈ m, e.2 ≠ d e.1

end SMap

end Sys2Proof.Machine
end

