-- ==== Sys2Proof/Machine/State.lean ====
section
/-!
DEFINITION. Sys2Proof/Machine/State.lean: the state of the OZ-3648 as plain data, its faults and refusals, and the state after reset. Every
populated parameter lives in one sparse map (`params`); what the spec gives the machine beyond its parameters has a field of its own.
-/

namespace Sys2Proof.Machine

/-- Whether Umber executes (R532, R554, R60). -/
inductive UmberRun where
  /-- Held in reset: before boot, or no slot qualifies (R554). -/
  | inReset
  | running
  /-- Its clock is gated in mode 3 (R60). -/
  | gated
  /-- Halted by debug (R532). -/
  | halted
  deriving DecidableEq, Repr

/-- A place an instruction writes and a later one reads (Table UMT-1). -/
inductive Loc where
  | d (r : Fin 16)
  | p (r : Fin 16)
  | n (r : Fin 8)
  | l (r : Fin 8)
  | ac (r : Fin 4)
  /-- SR bit 0-11. -/
  | flag (i : Fin 12)
  /-- A control register, by its index of Table UMM-2; index 0 stands for SR bits 35:12. -/
  | ctl (i : Fin 17)
  deriving DecidableEq, Repr

/-- The class of a producer (Table UMT-1). -/
inductive Prod where
  /-- ALU, shift, multiply, move, immediate: any D consumer at 0, use as an address at 2. -/
  | alu
  /-- Load from data SRAM, NVM, parameter space or radio FIFO, LR, ATADD, ATSWP: 2. -/
  | load
  /-- Load from the tile: 1. -/
  | loadTile
  /-- P15 of CALLM, CALLMR or RETM, and what RETM restores: 2. -/
  | frame
  /-- A post-modified pointer: 0. -/
  | postMod
  /-- An accumulator write: MAC-class accumulation at 0, other readers at 1. -/
  | acc
  /-- A flag write: 1. -/
  | flag
  /-- An F36 result or sticky flag: 2. -/
  | f36
  /-- MVTC: 2. -/
  | mvtc
  deriving DecidableEq, Repr

/-- One write of an instruction still within a possible distance: place, class and the value before it (zero-extended). -/
structure HWrite where
  loc : Loc
  prod : Prod
  old : BitVec 80
  deriving DecidableEq, Repr

/-- What lies between an instruction and the one that followed it (R257). -/
inductive Gap where
  | none
  | bubble
  | exception
  deriving DecidableEq, Repr

/-- A producer of an interrupted stream whose distance may still cover a consumer there, with the instructions of that stream since (R276). -/
structure Mark where
  loc : Loc
  prod : Prod
  age : Nat
  deriving DecidableEq, Repr

/-- The writes of one recent instruction, with what followed it; and, for a RETI, the producers of the stream it resumes (R276). -/
structure HEntry where
  writes : List HWrite
  gap : Gap
  lost : List Mark
  deriving DecidableEq, Repr

/-- Why the instruction at the program counter has begun and waits (R262-R264, R274). -/
inductive Hold where
  | none
  /-- SYNC waits at its boundary: the one that may be interrupted. -/
  | sync
  /-- STOP waits for its prerequisites. -/
  | stop
  /-- The access to a data-space address, which has passed its checks (R327). -/
  | data (a : Addr)
  /-- The access to a bit address, which has passed its checks. -/
  | bit (b : BitVec 12)
  deriving DecidableEq, Repr

/-- A branch whose delay slots are under way (R203): the slot the next instruction fills, and what happens after slot 2. -/
structure SlotSt where
  slot : BitVec 2
  taken : Bool
  target : Addr
  deriving DecidableEq, Repr

/-- A queued parameter, radio-FIFO or peripheral-bit write (R168, R263). -/
inductive PTarget where
  | par (idx : BitVec 13)
  /-- The transmit range of the radio FIFO, and the receive range, where a write is ignored (R368). -/
  | fifo
  | fifoRx
  | bit (b : BitVec 12)
  deriving DecidableEq, Repr

/-- One entry of the parameter write queue: the write, the domain and privilege of its issue, and, once its shell has latched it, the refusal
reason (0 accepted) (R263, R624). -/
structure PWrite where
  tgt : PTarget
  val : Word
  dom : Dom
  prv : Bool
  latched : Option (BitVec 4)
  /-- A refusal of it leaves BSTAT as it is: a store of the extension space (R198). -/
  quiet : Bool := false
  deriving DecidableEq, Repr

/-- One store-buffer entry (R265). -/
structure SbEntry where
  addr : BitVec 18
  mask : BitVec 4
  data : Word
  deriving DecidableEq, Repr

/-- Umber (05-08). -/
structure UmberSt where
  d : Vector Word 16
  p : Vector Addr 16
  n : Vector Addr 8
  l : Vector Addr 8
  ac : Vector Acc 4
  sr : Word
  pmode : Word
  rptc : Word
  epc : Word
  esr : Word
  ecause : Word
  eaddr : Word
  etgt : Word
  nepc : Word
  nesr : Word
  ncause : Word
  ien : Word
  ipend : Word
  ilvl0 : Word
  ilvl1 : Word
  bstat : Word
  vbase : Word
  pc : Addr
  run : UmberRun
  slots : Option SlotSt
  /-- An RPT waits for the instruction it repeats: the iterations to run (R228). -/
  rpt : Option (BitVec 13)
  /-- That repeat was resumed by RETI, so that its end clears RPTC (R230). -/
  rptRet : Bool
  /-- The instruction at the program counter waits, and the words a CALLM, CALLMR or RETM has dealt with before it had to wait. -/
  hold : Hold
  frame : List Word
  /-- The regions of SR.DOM by which the instruction at the program counter was checked just before a revocation disabled them (R185, R343). -/
  inFlight : BitVec 16
  /-- No instruction has completed since the last entry to vector 0 or 1 (R413, R423). -/
  fresh : Bool
  /-- HALT ended by an interrupt, which is taken before the instruction after STOP (R64). -/
  wakeIrq : Bool
  /-- The boundary just after an MVTC that set SR.IE (R183). -/
  ieFence : Bool
  /-- An NMI condition is waiting (R180), and whether NMIL turned one away, so that Sepia resets Umber (R181, R557). -/
  nmiPend : Bool
  escalate : Bool
  /-- Recent producers, newest first, at most two (R256, R257). -/
  hist : List HEntry
  /-- Producers of the streams left by an exception, by the address at which each resumes (R276). -/
  left : List (Addr × List Mark)
  /-- The repeat cache, most recent first, at most 8 program addresses (R229). -/
  rptCache : List Addr
  /-- The prefetch buffer, most recent first: at most 4 quads, by program address / 4 (R258). -/
  prefetch : List (BitVec 16)
  /-- Records of DBG.TRC and DBG.EXC that wait for the first instruction at their destination, oldest first (R629). -/
  trcPend : List Word
  excPend : List Word
  resv : Option (Addr × Dom)
  sb : List SbEntry
  pwq : List PWrite
  /-- Lock bits that are set, with their owner tags (R169). -/
  locks : SMap Dom
  /-- General bit RAM, bit 0 at bit address 0x200 (R167). -/
  bitRam : BitVec 1536
  /-- Debug (R532, R533): a halt requested, with its cause and number of DBG.STAT; a single step under way; the breakpoint passed once on resuming;
  a watchpoint hit waiting for its boundary, with its number, address and direction. -/
  haltReq : Option (BitVec 3 × BitVec 2)
  stepping : Bool
  bpPass : Bool
  wpHit : Option (BitVec 1 × Addr × Bool)
  deriving DecidableEq, Repr

/-- A demand write-back waiting for its bank (R299). -/
structure WBack where
  tile : Bool
  addr : BitVec 18
  finder : BitVec 3
  deriving DecidableEq, Repr

/-- The memories (09). A cell is 7 check bits above 36 data bits; an unlisted word is 0 with check bits 0. -/
structure MemSt where
  sram : SMap (BitVec 43)
  tile : SMap (BitVec 43)
  /-- Program NVM, by program address. -/
  prog : SMap (BitVec 43)
  /-- Data NVM, by offset from 0x20_0000. -/
  dnvm : SMap (BitVec 43)
  /-- Stuck bits of NVM cells, as delivered, by data-space address: they keep what they hold whatever is written (R307; log 84). -/
  defects : SMap (BitVec 43)
  /-- The poison map: the poisoned SRAM words (R302). -/
  poison : SMap Bool
  wbacks : List WBack
  /-- A scrub access waits for its bank (R301). -/
  scrubPend : Bool
  /-- The step under way in ENTERING removes power: bit k for arch k, bit 4 for the tile (R294). -/
  toOff : BitVec 5
  deriving DecidableEq, Repr

/-- The block masks (R324), read mask in bits 15:0 and write mask in bits 31:16; an unlisted block holds 0x0003_0003 (R628). -/
abbrev MaskMap := SMap (BitVec 32)

/-- What a channel does next (R337-R340). -/
inductive DmaPhase where
  | descriptor
  | source
  | dest
  deriving DecidableEq, Repr

/-- A DMA channel beyond its parameters (R330-R341). -/
structure DmaSt where
  /-- The descriptor in execution (R330). -/
  desc : Vector Word 7
  /-- Row and element in execution. -/
  row : BitVec 18
  elem : BitVec 18
  phase : DmaPhase
  /-- Source data kept for the destination phase: one or two words (R339). -/
  kept : Word × Word
  /-- A request held pending (R335). -/
  reqPend : Bool
  /-- The request for the element or row under way, or about to start, has been taken (R335). -/
  credit : Bool
  /-- The code with which ABORTING ends: 9 or 10 (R341, R344). -/
  abortCode : BitVec 5
  /-- The channel has completed with CHEN and starts CHNEXT in the next cycle (R336). -/
  chain : Bool
  /-- The channel counts toward a revocation in progress (R344). -/
  revoked : Bool
  /-- Its parameter or FIFO access has passed its checks and is across its crossing: the reply is outstanding (R337). -/
  sent : Bool
  /-- The channels whose accesses went into the same crossing before it and whose replies are still outstanding: they come back first (R47, R48). -/
  ahead : BitVec 16
  /-- The first word of a doubleword phase has been served, its data kept (Table DMA-7). -/
  half : Option Word
  /-- The descriptor in execution is the parameter descriptor (R330). -/
  param : Bool
  /-- Words of the next descriptor read so far (R330). -/
  words : BitVec 3
  deriving DecidableEq, Repr

/-- A revocation in progress (R342-R344). -/
structure RevSt where
  dom : Dom
  byKernel : Bool
  channels : BitVec 16
  lockCount : BitVec 9
  resv : Bool
  cipherAck : Bool
  deriving DecidableEq, Repr

/-- The package of the part (R1, R31). -/
inductive Package where
  | lq  -- OZ-3648-LQ
  | ab  -- OZ-3648-AB
  deriving DecidableEq, Repr

/-- Where the part stands among the operating modes and resets (R60, R638, R651). -/
inductive OpMode where
  /-- VDD below the brown-out level: no VDD island runs (R70). -/
  | vddOff
  /-- A system reset is released and waits for Sepia's cold boot (R642), or RST_N or TESTEN holds it (R651, R677). -/
  | reset
  /-- Mode 0. -/
  | pier
  /-- Mode 1. -/
  | doze
  /-- Mode 2. -/
  | retain
  /-- Mode 3: Umber's clock is gated (R60). -/
  | halt
  /-- Modes 4-7: the part is awake (R60). -/
  | active
  deriving DecidableEq, Repr

/-- Power, modes and clocks (02, 21). -/
structure PowerSt where
  /-- The package, fixed at manufacture (R1). -/
  package : Package
  mode : OpMode
  /-- VDD is above the brown-out detector's level (R68). -/
  vddOk : Bool
  /-- The Pier island is powered (R69). -/
  pierOn : Bool
  /-- The pins: RST_N is low (R651), TESTEN is high (R677). -/
  rstPin : Bool
  testen : Bool
  /-- Either of them holds the VDD islands in reset. -/
  rstLow : Bool
  /-- The reset code of the event in progress (Table BOO-1). -/
  code : BitVec 5
  /-- VDD was lost since the last boot: arches and tile initialise at boot (R296, R642). -/
  vddLost : Bool
  /-- A wake event has been accepted and the exit path runs (R64). -/
  exiting : Bool
  /-- PWR.RES0LO-RES7HI at that acceptance: the wake snapshot (R643). -/
  snap : Vector Word 16
  /-- PIER.TICK at that edge (R643). -/
  snapTick : Tick
  /-- The 26 MHz source has been started: at t0 of a boot, at an exit with RETCFG.REFWAKE (R66), or by REFEN (log 60). -/
  refOn : Bool
  /-- GPIO and HCS_N wake edges seen and not yet consumed (Table ISL-8). -/
  gpioWake : Bool
  hostWake : Bool
  /-- Core PLL relock in progress: CCLK runs from the 8 MHz RC (R55). -/
  relock : Bool
  /-- The DVFS point whose divisor is in force (R58, R59). -/
  point : BitVec 3
  /-- Synthesiser G lost lock: no samples until PWR.ISLAND.L1 is written 0 and then 1 (R359). -/
  gLost : Bool
  /-- An Umber reset has been requested and not yet begun: its reset code (R640). -/
  umberRst : Option (BitVec 5)
  deriving DecidableEq, Repr

/-- A pulse end waiting on a pin: the 92-bit store time at which the pin deasserts (R103). -/
structure PulseEnd where
  pin : BitVec 2
  at' : BitVec 92
  deriving DecidableEq, Repr

/-- The hidden part of one strike unit (R92-R101). -/
structure StrikeSt where
  /-- The store time of the arming edge, until the compare of the following cycle is made (R94, R101). -/
  armedAt : Option StoreTime
  /-- The targets that have fired for the present N (R94). -/
  fired : BitVec 6
  /-- COUNT was 0 at arming: no limit (R99). -/
  unlimited : Bool
  deriving DecidableEq, Repr

/-- A load pending (R86). -/
structure PendLoad where
  /-- The first TCLK edge after LOAD latched has taken it. -/
  taken : Bool
  /-- A Pier tick edge has been examined since (R89). -/
  examined : Bool
  /-- LOADS:LOADF, LOADT and LOADMODE as the writes before LOAD left them (R51). -/
  value : StoreTime
  atTick : BitVec 16
  onTick : Bool
  deriving DecidableEq, Repr

/-- A strike signal on its way from TIME to CORE: the strike, the TCLK count of the fire cycle, and the DMASEL mask of a DMA start; none: an interrupt
(R48, R102, R119). -/
structure StrikeSig where
  unit : BitVec 3
  sent : Word
  dma : Option (BitVec 16)
  deriving DecidableEq, Repr

/-- An epoch latch on its way to Trestle: the TCLK count of its freezing edge, and the store time of that edge once it has come (R97). -/
structure EpochPend where
  edge : Word
  time : Option StoreTime
  deriving DecidableEq, Repr

/-- What an arming takes from its unit: TSEC:TFRAC and REL, whether it is refused, and whether COUNT names no limit (R92, R99). -/
structure ArmTake where
  time : StoreTime
  rel : Bool
  refused : Bool
  unlimited : Bool
  deriving DecidableEq, Repr

/-- The TIME island (03). -/
structure TimeSt where
  /-- The store-time accumulator, 92 bits (R80). -/
  acc : BitVec 92
  /-- TCLK cycles since REF lock (Table TIM-4). -/
  tclk : Word
  /-- Phase steps latched and not yet applied, oldest first (R85). -/
  steps : List Word
  /-- The pending load (R86). -/
  load : Option PendLoad
  /-- The Pier capture is frozen (R88), with the Pier ticks seen since. -/
  capFrozen : Bool
  capTicks : BitVec 2
  /-- TCLK counts at the latest Pier ticks, newest first, at most 33 (PPER, Table TIM-4). -/
  tickMarks : List Word
  /-- The ARM = 1 that wait for the next TCLK edge, oldest first: the unit and what its arming takes (R51, R92). -/
  armPend : List (BitVec 3 × ArmTake)
  /-- Chained armings of the next TCLK edge: the unit that fired, the unit it names (R101). -/
  chainPend : List (BitVec 3 × BitVec 3)
  strikes : Vector StrikeSt 8
  /-- Levels of TP, STRK1-3 before INV (R103). -/
  pins : BitVec 4
  /-- TIME.PINCTL.INV as the island has taken it (R50, R103). -/
  pinInv : BitVec 4
  /-- Sub-cycle phase of the last edge placed on each pin, in quarters of a TCLK (R104). -/
  phases : Vector (BitVec 3) 4
  pulses : List PulseEnd
  /-- Strike signals under way, oldest first: radio actions (strike, RACT), DMA starts and interrupts, Sepia events (SEV) (R96-R98, R119, R543). -/
  radioActs : List (BitVec 3 × BitVec 9)
  signals : List StrikeSig
  sepiaEvs : List (BitVec 8)
  /-- Epoch latches under way, oldest first (R97). -/
  epochs : List EpochPend
  deriving DecidableEq, Repr

/-- A tick shadow (R123): frozen value and the mirror strobes since. -/
structure Shadow where
  frozen : Bool
  value : Tick
  strobes : BitVec 2
  /-- The shadow released itself: the next TICK_HI read carries STALE (R123). -/
  stale : Bool
  deriving DecidableEq, Repr

/-- A frozen residency counter: its mode and its shadow (R71, read as PIER.TICK). -/
structure ResShadow where
  mode : BitVec 3
  shadow : Shadow
  deriving DecidableEq, Repr

/-- An alarm setting in force for the comparison at the next edge (R129). -/
structure Alarm where
  value : Tick
  mask : BitVec 4
  en : Bool
  deriving DecidableEq, Repr

/-- The PIER island (04) beyond its parameters. -/
structure PierSt where
  tick : Tick
  /-- Mirrors in CORE and SEPIA (R122). -/
  coreMirror : Tick
  sepiaMirror : Tick
  umberShadow : Shadow
  sepiaShadow : Shadow
  umberRes : ResShadow
  sepiaRes : ResShadow
  /-- A PIER.SEC write latched and not yet applied (R125). -/
  secPend : Option (BitVec 33)
  /-- The writes of PIER.TICK_HI (`true`) and TICK_LO accepted behind it, oldest first (R51, R126). -/
  tickPend : List (Bool × Word)
  /-- The trim accumulator of the window, and the position in the window of the next crystal edge (R127). -/
  trimAcc : BitVec 11
  winNext : BitVec 20
  alarms : Vector Alarm 2
  /-- A PWRON acknowledgement latched (R142). -/
  ackPend : Bool
  /-- The Pier has been on VBK since the last lockout release (R142 SRCVDD). -/
  wasOnVbk : Bool
  /-- Pier event records not yet copied into the event log by Sepia, at most 8 (R140). -/
  evUncopied : BitVec 4
  /-- The levels of VDD and VBK as the comparators see them. -/
  sup : Supplies
  /-- PIER.SWCFG as it is in force: since the first crystal edge after its latch (R135). -/
  swcfg : BitVec 5
  /-- Ticks that VDD has stayed above the release point while LOCK is 1 (R137). -/
  above : BitVec 7
  deriving DecidableEq, Repr

/-- One event-log record (R559). -/
structure LogRec where
  type : BitVec 12
  source : BitVec 11
  untrusted : Bool
  tick : Tick
  w2 : Word
  w3 : Word
  deriving DecidableEq, Repr

/-- A request in the NVM write queue (R548). -/
structure NvmReq where
  ticket : BitVec 8
  dom : Dom
  /-- First destination word address (data space). -/
  dest : Addr
  /-- The words to write. -/
  data : List Word
  /-- Words already written. -/
  done : BitVec 13
  /-- A word of it has failed its verify (R307). -/
  bad : Bool
  deriving DecidableEq, Repr

/-- A service in progress (R544). -/
structure Service where
  code : BitVec 8
  tag : BitVec 8
  requester : Dom
  /-- The requester was the host (R584). -/
  host : Bool
  /-- The service has done its work: its status and REPLY1 stand below. -/
  worked : Bool
  status : BitVec 8
  reply1 : Word
  /-- KEYWRITE has started its WRAP, with this header (R545, R564). -/
  wrap : Option Word := none
  deriving DecidableEq, Repr

/-- One step of Sepia's NVM controller (R307, R316): a word at a data-space address, with its old and new cell; or rollback fuses, from a count to a count. -/
inductive NvmStep where
  | word (a : Addr) (old new : BitVec 43)
  | fuses (old new : BitVec 6)
  deriving DecidableEq, Repr

/-- Sepia's hidden state (17). -/
structure MgmtSt where
  evFifo : List Word
  logQ : List LogRec
  nvmQ : List NvmReq
  /-- The steps of the latest piece of work of the controller, in order: a loss of VDD may fall among them (R316; log 84). -/
  job : List NvmStep
  /-- A word of that work has failed its verify (R307). -/
  jobBad : Bool
  nextTicket : BitVec 8
  service : Option Service
  /-- The requester to whom SVCREQ, SVCDATA and SVCREPLY belong until it clears DONE (R544). -/
  svcLock : Option Dom
  /-- Watchdog stage, and the Pier ticks left to the next one (R556). -/
  wdStage : BitVec 2
  wdLeft : Nat
  /-- Slot booted (R554). -/
  slot : BitVec 1
  deriving DecidableEq, Repr

/-- A transition of the radio in progress (Tables RAD-4, RAD-5). -/
inductive RadioTrans where
  /-- Down to SLEEP (1), STANDBY (2) or WAKELISTEN (8), `next` after it; DONE sets at the end when it was commanded. -/
  | lower (code : BitVec 4) (next : Option (BitVec 4)) (done : Bool)
  /-- From SLEEP toward STANDBY, after REFRDY; then to WAKELISTEN (R370). -/
  | up (wl : Bool) (done : Bool)
  /-- Warm-up toward RX or TX, with the calibrations added to it: filter, image, all gains (R376). -/
  | warm (rx : Bool) (rc : Bool) (iq : Bool) (dcAll : Bool)
  /-- Turnaround toward RX or TX (R371). -/
  | turn (rx : Bool) (done : Bool)
  /-- TXSTART: to the first symbol. -/
  | start
  /-- The driver ramps down into holding (Table RAD-5). -/
  | ramp
  /-- Channel switch in RX or in holding. -/
  | chsw (rx : Bool)
  /-- CALRC (8), CALIQ (9), CALDC (10). -/
  | cal (code : BitVec 4)
  deriving DecidableEq, Repr

/-- A transition out of STANDBY that waits for REFLOCK (R370). -/
inductive RadioOut where
  | warm (rx : Bool)
  | cal (code : BitVec 4)
  deriving DecidableEq, Repr

/-- What a header is filtered with: LINK.RXCFG, ADDR0-3 and GROUP0-3 (R399). -/
structure LinkFilter where
  cfg : Word
  addr : List Word
  group : List Word
  deriving DecidableEq, Repr

/-- A frame under reception, from sync detection to tQ (R398). -/
structure RxFrame where
  stamp : StoreTime
  hist : BitVec 4
  rssi : BitVec 8
  rate : Bool
  ant : Bool
  /-- The filter as it stood when the last header bit was decided, once a later write has to leave it alone (R399; log 101). -/
  filter : Option LinkFilter
  deriving DecidableEq, Repr

/-- A transmission under way (Table RAD-2). -/
inductive TxWork where
  /-- A frame: the first record word once taken, and its rate (R402). -/
  | frame (head : Option Word) (rate : Bool)
  /-- An acknowledgement for an address, group and SEQ, at the rate and on the antenna of the frame (R403). -/
  | ack (addr : BitVec 24) (group : BitVec 16) (seq : Bool) (rate : Bool) (ant : Bool)
  | train (group : BitVec 16) (command : BitVec 8) (reps : BitVec 16)
  | burst (offset : BitVec 6) (periods : BitVec 10) (data : Bool)
  deriving DecidableEq, Repr

/-- What the last transmission put on the air (R393-R397, R408, R466-R468): a burst with the chip of every slot sent, one cut short with what was sent of it (R388). -/
inductive OnAir where
  | frame (rate : Bool) (chan : BitVec 6) (bits : List Bool)
  | train (pattern : BitVec 40) (reps : BitVec 16)
  | burst (chan : BitVec 6) (offset : BitVec 6) (periods : BitVec 10) (chips : List Bool)
  deriving DecidableEq, Repr

/-- An acknowledgement wait (R404): what was sent, and whether ACKTO has expired behind a detected sync. -/
structure AckWait where
  addr : BitVec 24
  seq : Bool
  due : Bool
  deriving DecidableEq, Repr

/-- A write latched in the radio's shell while the radio clock is stopped (R50, R76): a command with RADIO.CHAN as it then stood, a word for the transmit FIFO, or
flushes of the transmit and the receive FIFO. -/
inductive RadioLate where
  | cmd (code : BitVec 4) (chan : BitVec 6)
  | push (v : Word)
  | flush (tx rx : Bool)
  deriving DecidableEq, Repr

/-- The edge at which synthesiser A ends a settling (R472): store time, VALID, and the TCLK count. -/
structure SettleEdge where
  acc : BitVec 92
  valid : Bool
  tclk : Word
  deriving DecidableEq, Repr

/-- The carrier phase of synthesiser A (R472): in units of 2^-60 cycle at a TCLK count, and the frequency it advances with, in units of 0.5 MHz. -/
structure Carrier where
  phase : BitVec 60
  at' : Word
  freq : Nat
  deriving DecidableEq, Repr

/-- The RADIO region beyond its parameters (11, 12). -/
structure RadioSt where
  trans : Option RadioTrans
  /-- A transition out of STANDBY waiting for REFLOCK (R370). -/
  lockWait : Option RadioOut
  /-- TXCFG, RXCFG, ANT, BURSTCFG and PABIAS as sampled when the transition in force started (R371, R375, R391). -/
  txcfg : Word
  rxcfg : Word
  antcfg : Word
  burstcfg : Word
  pabias : BitVec 6
  /-- The channel in use (R356). -/
  chan : BitVec 6
  /-- Calibrations run since power-up: filter, image, and the DC offset of all gains by a warm-up toward RX (R376). -/
  rcDone : Bool
  iqDone : Bool
  dcDone : Bool
  txFifo : List Word
  rxFifo : List Word
  tx : Option TxWork
  /-- RX was commanded during a transmission: its end turns around (R371). -/
  rxNext : Bool
  rx : Option RxFrame
  ackWait : Option AckWait
  /-- RXTO has expired behind a frame (R419). -/
  rxtoDue : Bool
  /-- A diversity measurement of the wideband feed is under way; the one of a GFSK window is still to come, or under way since a preamble (R378). -/
  meas : Bool
  gfskMeas : Bool
  /-- An end has been reached and the automatic return is due: the after-RX column, and the AUTORET value (R373). -/
  ret : Option (Bool × BitVec 2)
  /-- The fault sequence ends in power-down (R379). -/
  down : Bool
  /-- The carrier phase since the last settling (R472). -/
  carrier : Option Carrier
  /-- TCLK cycles to the edge at which the settling under way ends, and that edge once it has passed (R358, R472). -/
  settleIn : Nat
  settled : Option SettleEdge
  /-- A channel switch has failed to lock and no command or action has been taken since (R486). -/
  hopFailed : Bool
  /-- Writes that wait for the radio clock, oldest first (R50, R76). -/
  late : List RadioLate
  /-- LINK.RXINFO: word 0 of the last record stored (R401). -/
  rxInfo : Word
  /-- LINK.CFG and LINK.SYNC as the last sending took them when it started (R393; log 93). -/
  sendCfg : Word
  sendSync : BitVec 32
  air : Option OnAir
  deriving DecidableEq, Repr

/-- The WAKE island beyond its parameters (R411-R415). -/
structure WakeSt where
  /-- Crystal cycles since the last scheduled opening, and whether an opening is due. -/
  cycle : BitVec 14
  openDue : Bool
  /-- Crystal cycles left of an open window. -/
  window : Option (BitVec 6)
  deriving DecidableEq, Repr

/-- A Trestle tracking channel beyond its parameters (R429-R439). -/
structure TrsCh where
  /-- CYC above the 32-bit carrier phase φ, as one signed value (R433, R435). -/
  carr : BitVec 68
  /-- Chip index above a 32-bit fraction (R429). -/
  code : BitVec 45
  /-- Secondary position, and a written position waiting for the next epoch (R432). -/
  sec : BitVec 5
  secNext : Option (BitVec 5)
  /-- VE, E, P, L, VL accumulators, re before im (R436). -/
  acc : Vector (BitVec 28) 10
  /-- Samples since the enabling sample or the last application of CARRRATE (R435). -/
  age : BitVec 15
  /-- INTCFG of the integration in progress, and its epochs so far (R437). -/
  intcfg : BitVec 12
  epochs : BitVec 8
  /-- The integration ended at the last sample: the next one starts at the next sample (R437, R445). -/
  ended : Bool
  /-- The secondary position of the last sample included (Table TRS-3). -/
  secAt : BitVec 5
  /-- Adjustments latched and not yet applied, oldest first (R435). -/
  carrAdj : List Word
  codeAdj : List Word
  /-- Marks of the integration in progress (Table TRS-3). -/
  adj : Bool
  qchg : Bool
  blank : Bool
  sat : Bool
  /-- A record was dropped since the last one delivered (R442). -/
  lossNext : Bool
  deriving DecidableEq, Repr

/-- An entry of the dump FIFO (R441, R451): a record, or one search result with its word, whether it is added there (R450), and whether it belongs to the
pass in progress. -/
inductive TrsItem where
  | record (w : Vector Word 10)
  | result (h : BitVec 12) (a : Addr) (add : Bool) (value : Word) (live : Bool)
  deriving DecidableEq, Repr

/-- What a write asks of Trestle's clocked logic (R432, R435, R447, R448). -/
inductive TrsReq where
  /-- CTL.EN of a channel, as the shell held it before and as written. -/
  | enable (c : Fin 48) (was on : Bool)
  /-- The channels of CHSTARTLO and CHSTARTHI whose enable is not refused, and the enables the shell held before. -/
  | start (marks was : BitVec 48)
  /-- SCMD, with SCFG as it stood then. -/
  | search (cmd : BitVec 2) (scfg : Word)
  /-- A word of code memory. -/
  | code (addr : BitVec 12) (v : BitVec 32)
  /-- CARRADJ or CODEADJ of a channel. -/
  | adjust (c : Fin 48) (carr : Bool) (v : Word)
  /-- SECCFG.POS of a channel. -/
  | secPos (c : Fin 48) (p : BitVec 5)
  /-- What a change of CARRFREQ adds to CODEFREQ. -/
  | aid (c : Fin 48) (d : BitVec 32)
  /-- CODEFREQ of a channel, written after such a change. -/
  | codeFreq (c : Fin 48) (v : BitVec 32)
  deriving DecidableEq, Repr

/-- The Trestle region beyond its parameters (13). -/
structure TrsSt where
  ch : Vector TrsCh 48
  /-- CHSTARTHI as latched (R447). -/
  chHi : BitVec 12
  /-- Quantiser shift in force per input and the one of its last sample, position in the block, and the level counts of the block (R428). -/
  shift : Vector (BitVec 3) 2
  used : Vector (BitVec 3) 2
  blockPos : BitVec 15
  counts : Vector (BitVec 17) 16
  /-- Requests latched while Trestle's clock is stopped, oldest first (R50, R76). -/
  late : List TrsReq
  /-- REF was lost and has not returned (R458). -/
  refLost : Bool
  fifo : List TrsItem
  /-- The writer waits for a full ring (R441). -/
  ringWait : Bool
  /-- Records written since the last TRSDUMP (R441). -/
  sinceIrq : BitVec 8
  /-- Code memory, 4,096 words of 32 chips (R431). -/
  codeMem : SMap (BitVec 32)
  /-- Bits 0x930 + c (R454). -/
  dumped : BitVec 48
  /-- Capture buffer: quantised I and Q levels, oldest first (R448). -/
  cap : List (BitVec 4 × BitVec 4)
  capValid : Bool
  /-- Samples the capture under way takes, COHMS × 26,000, and its input, as SCFG stood at its start (R448). -/
  capEnd : Nat
  capInp : Bool
  /-- Next hypothesis to push, hypotheses dealt with, where an abort stops (R448-R451). -/
  nextH : BitVec 13
  doneH : BitVec 13
  abortAt : Option (BitVec 13)
  /-- The values the map holds after the pass, by hypothesis (R450). -/
  vals : SMap Word
  deriving DecidableEq, Repr

/-- A cipher operation (R492-R497). -/
structure CryptOp where
  /-- CMD as written (Table CRY-5), with its owner. -/
  cmd : BitVec 20
  owner : Dom
  /-- LEN and ALEN as checked at the CMD write (R494). -/
  len : BitVec 24
  alen : BitVec 16
  /-- The counter block or nonce taken from IV0-3 (R493). -/
  iv : Vector (BitVec 32) 4
  /-- The working copy of the key, and whether it has 256 bits (R497, R499). -/
  key : Vector (BitVec 32) 8
  wide : Bool
  /-- Input words still expected, and the words taken from IN, in order. -/
  need : BitVec 23
  got : List (BitVec 32)
  /-- Words formed and not yet in OUT. -/
  outPend : List (BitVec 32)
  /-- Random words drawn for a nonce or a generated key (R493, R498). -/
  nonce : List (BitVec 32)
  deriving DecidableEq, Repr

/-- The cipher unit beyond its parameters (15). -/
structure CryptSt where
  op : Option CryptOp
  inFifo : List (BitVec 32)
  outFifo : List (BitVec 32)
  /-- CRYPT.KEY0-7, which read 0, and KT, which no master reads (R496, R497). -/
  keys : Vector (BitVec 32) 8
  kt : Vector (BitVec 32) 8
  deriving DecidableEq, Repr

/-- Where a waiting read of RNG.DATA stands (R503). -/
inductive RngWait where
  | waiting
  /-- Its word has come and awaits the reader. -/
  | word (w : Word)
  /-- It completes with 0 and a bus error. -/
  | failed
  deriving DecidableEq, Repr

/-- The random number generator beyond its parameters (R500-R503). -/
structure RngSt where
  /-- The conditioner. -/
  r : BitVec 64
  /-- Raw samples since the start of the start-up test. -/
  samples : BitVec 20
  /-- The start-up test has passed. -/
  passed : Bool
  /-- The present run of identical samples, and the ones among the start-up samples. -/
  last : Bool
  run : BitVec 6
  ones : BitVec 11
  /-- Position in TESTPAT. -/
  pat : BitVec 8
  fifo : List Word
  /-- The reads that wait at the CIPHER shell, in arrival order (R503). -/
  waiters : List (Master × RngWait)
  /-- Words that Sepia has read so far for the challenge or pod nonce it forms (R525, R600). -/
  sepiaGot : List (BitVec 32)
  deriving DecidableEq, Repr

/-- The fuse rows (R513, R518, R555). A blown fuse reads 1. -/
structure FuseSt where
  copies : Vector (BitVec 16) 3
  uid : BitVec 64
  uidSet : Bool
  ownHash : Vector (BitVec 32) 8
  /-- The device unique key, which no path reads (R498). -/
  duk : Vector (BitVec 32) 8
  dukSet : Bool
  /-- ROM and patch version words of MGMT.VERSION. -/
  version : BitVec 32
  rollback : BitVec 6
  /-- Repair selections of the banks, as MEM.REPAIR0-15 report them (R305). -/
  repair : Vector Word 16
  deriving DecidableEq, Repr

/-- A fuse operation running (R519-R521). -/
inductive FuseOp where
  | transition (target : BitVec 16)
  | ownerHash (hash : Vector (BitVec 32) 8)
  deriving DecidableEq, Repr

/-- The rights a valid certificate grants, with its window (R529, R530). -/
structure CertGrant where
  rights : BitVec 8
  timeBound : Bool
  notAfter : BitVec 32
  deriving DecidableEq, Repr

/-- Life-cycle and debug authorisation beyond the parameters (16). -/
structure LifeSt where
  fuses : FuseSt
  fuseOp : Option FuseOp
  /-- A system reset held until BUSY clears: its code (R521). -/
  heldReset : Option (BitVec 5)
  /-- A response check is running, a certificate check is due or running. -/
  respChk : Bool
  /-- The challenge record and the response it checks, as they stood at DBGCMD 2 (R526). -/
  chkChal : Vector (BitVec 32) 8
  chkResp : Vector (BitVec 32) 16
  /-- A challenge waits for random words (R503, R525). -/
  chalWait : Bool
  certChk : Bool
  grants : Vector (Option CertGrant) 8
  /-- Debug-gate events so far (LIFE.HIST). -/
  histCnt : BitVec 3
  deriving DecidableEq, Repr

/-- A host transaction (R569-R571). `addr` is the ADDR field, for a direct transaction the register of the next byte. -/
structure HostTxn where
  wr : Bool
  type : BitVec 2
  addr : BitVec 5
  /-- Every later byte is ignored (R571, R587). -/
  dead : Bool
  /-- An error token has ended the parameter or memory part, or the one debug operation is done (R576, R583). -/
  spent : Bool
  deriving DecidableEq, Repr

/-- Where a host access goes. -/
inductive HostTgt where
  | par (idx : BitVec 13)
  | mem (a : Addr) (lanes : BitVec 4)
  deriving DecidableEq, Repr

/-- An entry of the write queue (R577): once its destination has taken it, the error code to report (0 none). -/
structure HostWrite where
  tgt : HostTgt
  val : Word
  latched : Option (BitVec 4)
  /-- Doorbell bytes that wait behind it in the crossing to CORE (R48, R589). -/
  after : List (BitVec 8)
  deriving DecidableEq, Repr

/-- The HOST island (18) beyond its parameters. -/
structure HostSt where
  /-- The direct registers 0x00-0x1F (Table HST-3); H.STATUS holds NOPARAM and RDY, its other bits are formed on reading. -/
  regs : Vector (BitVec 8) 32
  txn : Option HostTxn
  wq : List HostWrite
  /-- A read issued and not yet made (R576). -/
  read : Option HostTgt
  /-- How many entries of the write queue were committed before it (R578, R580). -/
  readBehind : Nat
  /-- The transaction that issued it is still open, so its token and value go to HDO (R576, R591). -/
  readLive : Bool
  /-- Bytes chosen for HDO since the command byte of the transaction, latest last, where a rule says what they are. -/
  sent : List (BitVec 8)
  /-- Bit 0xAC0, the doorbell pending; and request line 10, asserted until HOST.DOORIN is read (R589). -/
  bell : Bool
  doorLine : Bool
  deriving DecidableEq, Repr

/-- Where a pod transaction stands (R598, R601). -/
inductive PodPhase where
  /-- The command frame is sent and its answer awaited. -/
  | sent
  /-- Accepted: RESULT is due at the operation time or 2 ms after a busy answer. -/
  | accepted
  /-- RESULT is sent and its answer awaited. -/
  | polled
  /-- The transaction has come to its end. -/
  | ended
  deriving DecidableEq, Repr

/-- A pod transaction (R601); `sepia` marks the charge meter's own, with its increment. -/
structure PodTxn where
  op : BitVec 3
  addr : BitVec 8
  count : BitVec 7
  sepia : Bool
  inc : BitVec 32
  phase : PodPhase
  deriving DecidableEq, Repr

/-- Pod line and charge meter beyond the parameters. -/
structure PodSt where
  txn : Option PodTxn
  /-- Increments the charge meter waits to send, oldest first (R601, R605). -/
  meterWait : List (BitVec 32)
  /-- The advance of LASTW for increments sent under lockout, whose write is made once LOCK has cleared (R604, R605). -/
  owed : Word
  /-- A release notice latched by the WAKE island (R606). -/
  notice : Bool
  /-- The last host frame sent after a break, its CRC included (R598). -/
  frame : List (BitVec 8)
  /-- The pod of this boot is still to be identified (R607). -/
  identDue : Bool
  /-- Sepia reads the words of the nonce for it (R600, R503). -/
  identRead : Bool
  /-- The WAKE island keeps the pull-up on POD_ID enabled through a mode 1 or 2 (R606). -/
  pullKept : Bool
  deriving DecidableEq, Repr

/-- The face port beyond its parameters (R608-R610). -/
structure FaceSt where
  fifo : List Word
  /-- FCS_N is low. -/
  active : Bool
  /-- The level of FBUSY. -/
  fbusy : Bool
  /-- The bytes sent in the transfer, latest last: FDC in bit 8 (R608, R609). -/
  sent : List (BitVec 9)
  /-- FACE.CTL has not been written since the reset: FRST_N stays low (R661, Table ELE-6). -/
  untouched : Bool
  deriving DecidableEq, Repr

/-- The levels at the GPIO pins, and which of them are driven from outside (R611). -/
structure GpioSt where
  pins : BitVec 8
  driven : BitVec 8
  deriving DecidableEq, Repr

/-- Why a run stops with a fault. No rule of the spec stops the part; see NOTES.md, Stops. -/
inductive Fault where
  /-- Raised by nothing in this model: the spec gives every command an effect. Safe. -/
  | unreachable
  deriving DecidableEq, Repr

/-- Why a command is refused. -/
inductive Refusal where
  /-- Raised by an arm of Machine/Dispatch.lean whose command has no meaning yet. Safe. -/
  | notModelled (mnemonic : String)
  deriving DecidableEq, Repr

/-- The records of the masters that lost a bank (R291, Table MEM-8): MEM.DENY0-15 and, for ranks 3-7, MEM.WAITMAX0-4. They stand here and not among the
parameters, since how long a master waits is a free value (log 11). -/
structure BankSt where
  deny : Vector Word 16
  waitMax : Vector Word 5
  deriving DecidableEq, Repr

def BankSt.init : BankSt := { deny := Vector.replicate 16 0, waitMax := Vector.replicate 5 0 }

/-- The machine. -/
structure State where
  /-- Commands waiting, first in first out. -/
  pending : List Instr
  /-- The parameter space: entries that differ from their reset value, by index (R619). -/
  params : SMap Word
  /-- The block masks, by block (R324). -/
  masks : MaskMap
  pwr : PowerSt
  umber : UmberSt
  mem : MemSt
  time : TimeSt
  pier : PierSt
  mgmt : MgmtSt
  dma : Vector DmaSt 16
  /-- The channel the engine served last (R337). -/
  dmaLast : BitVec 4
  rev : Option RevSt
  radio : RadioSt
  wake : WakeSt
  trs : TrsSt
  crypt : CryptSt
  rng : RngSt
  life : LifeSt
  host : HostSt
  pod : PodSt
  face : FaceSt
  gpio : GpioSt
  /-- Peripheral request lines raised and not yet delivered (Table DMA-6). -/
  lines : BitVec 16
  bank : BankSt
  /-- Draw counter of the free values: the model's own (log 2). -/
  freeCtr : Nat
  deriving DecidableEq, Repr

/-! ### Reset values -/

/-- Umber's registers at an entry to vector 0 or 1 (R161, R162); the bit RAM, lock bits and buffers empty (Table BOO-2). -/
def UmberSt.init : UmberSt :=
  { d := Vector.replicate 16 0, p := Vector.replicate 16 0, n := Vector.replicate 8 0, l := Vector.replicate 8 0, ac := Vector.replicate 4 0,
    sr := 0x000110000, pmode := 0, rptc := 0, epc := 0, esr := 0, ecause := 0, eaddr := 0, etgt := 0, nepc := 0, nesr := 0, ncause := 0,
    ien := 0, ipend := 0, ilvl0 := 0, ilvl1 := 0, bstat := 0, vbase := 0, pc := 0, run := .inReset, slots := none, rpt := none,
    rptRet := false, hold := .none, frame := [], inFlight := 0, fresh := true, wakeIrq := false, left := [], prefetch := [], trcPend := [], excPend := [], ieFence := false, nmiPend := false, escalate := false,
    hist := [], rptCache := [], resv := none, sb := [], pwq := [], locks := [],
    bitRam := 0, haltReq := none, stepping := false, bpPass := false, wpHit := none }

/-- The levels the strike pins take when the TIME island starts afresh (R103, Table TIM-4 PINCTL). -/
def TimeSt.init (levels : BitVec 4) : TimeSt :=
  { acc := 0, tclk := 0, steps := [], load := none, capFrozen := false, capTicks := 0, tickMarks := [], armPend := [], chainPend := [],
    strikes := Vector.replicate 8 { armedAt := none, fired := 0, unlimited := false }, pins := levels, pinInv := 0,
    phases := Vector.replicate 4 0, pulses := [], radioActs := [], signals := [], sepiaEvs := [], epochs := [] }

/-- The Pier at its P: values, with the comparators' states for the supplies present (R136, R646). -/
def PierSt.init : PierSt :=
  let free : Shadow := { frozen := false, value := 0, strobes := 0, stale := false }
  { tick := 0, coreMirror := 0, sepiaMirror := 0, umberShadow := free, sepiaShadow := free,
    umberRes := { mode := 0, shadow := free }, sepiaRes := { mode := 0, shadow := free }, secPend := none, tickPend := [], trimAcc := 0,
    winNext := 0, alarms := Vector.replicate 2 { value := 0, mask := 0, en := false }, ackPend := false, wasOnVbk := false,
    evUncopied := 0, sup := { vdd := 3000, vbk := 3000, band := 0 }, swcfg := 1, above := 0 }

/-- Sepia's state at a system reset (R559, R649): queues lost. -/
def MgmtSt.init : MgmtSt :=
  { evFifo := [], logQ := [], nvmQ := [], job := [], jobBad := false, nextTicket := 0, service := none, svcLock := none, wdStage := 0, wdLeft := 0, slot := 0 }

/-- A channel at its S: values. -/
def DmaSt.init : DmaSt :=
  { desc := Vector.replicate 7 0, row := 0, elem := 0, phase := .descriptor, kept := (0, 0), reqPend := false, credit := false, abortCode := 0,
    chain := false, revoked := false, sent := false, ahead := 0, half := none, param := true, words := 0 }

/-- The RADIO region at power-up: FIFOs empty, nothing in progress. -/
def RadioSt.init : RadioSt :=
  { trans := none, lockWait := none, txcfg := 0xA0, rxcfg := 9, antcfg := 0xA, burstcfg := 0x11000, pabias := 0x14, chan := 0,
    rcDone := false, iqDone := false, dcDone := false,
    txFifo := [], rxFifo := [], tx := none, rxNext := false, rx := none, ackWait := none, rxtoDue := false, meas := false, gfskMeas := false, ret := none,
    down := false, carrier := none, settleIn := 0, settled := none, hopFailed := false, late := [], rxInfo := 0, sendCfg := 0, sendSync := 0, air := none }

def WakeSt.init : WakeSt := { cycle := 0, openDue := false, window := none }

/-- Trestle's hidden state when nothing runs. -/
def TrsSt.init : TrsSt :=
  { ch := Vector.replicate 48 { carr := 0, code := 0, sec := 0, secNext := none, acc := Vector.replicate 10 0, age := 0, intcfg := 1, epochs := 0, ended := false, secAt := 0,
                                carrAdj := [], codeAdj := [], adj := false, qchg := false, blank := false, sat := false, lossNext := false },
    chHi := 0, shift := Vector.replicate 2 5, used := Vector.replicate 2 5, blockPos := 0, counts := Vector.replicate 16 0, late := [], refLost := false, fifo := [], sinceIrq := 0, codeMem := [],
    ringWait := false, dumped := 0, cap := [], capValid := false, capEnd := 0, capInp := false, nextH := 0, doneH := 0, abortAt := none, vals := [] }

/-- The generator as a power-up, a system reset or a mode entry leaves it (R500, R505). -/
def RngSt.init : RngSt :=
  { r := 0, samples := 0, passed := false, last := false, run := 0, ones := 0, pat := 0, fifo := [], waiters := [], sepiaGot := [] }

/-- The direct registers at their reset values (Table HST-3). -/
def hostRegsReset (ab : Bool) : Vector Byte 32 :=
  (((Vector.replicate 32 (0 : Byte)).set 0x03 0x04).set 0x0F 0x0F).set 0x18 0x36 |>.set 0x19 (putBit (1 : Byte) 4 ab)

/-- The HOST island at its S: values (R573). -/
def HostSt.init (ab : Bool) : HostSt :=
  { regs := hostRegsReset ab, txn := none, wq := [], read := none, readBehind := 0, readLive := false, sent := [], bell := false, doorLine := false }

/-- The pod line at its S: values (R613). -/
def PodSt.init : PodSt := { txn := none, meterWait := [], owed := 0, notice := false, frame := [], identDue := true, identRead := false, pullKept := false }

def FaceSt.init : FaceSt := { fifo := [], active := false, fbusy := false, sent := [], untouched := true }

/-- The part after a Pier power-on with VDD present (R638 code 1, R646): every parameter at its reset value, the system reset released and the cold boot
still to come. Memories and fuses are as delivered, the package is the OZ-3648-LQ (log 5). -/
def State.reset : State :=
  { pending := [], params := [], masks := [],
    pwr := { package := .lq, mode := .reset, vddOk := true, pierOn := true, rstPin := false, testen := false, rstLow := false, code := 1, vddLost := true, exiting := false,
             snap := Vector.replicate 16 0, snapTick := 0, refOn := true, gpioWake := false, hostWake := false, relock := true, point := 1, gLost := false,
             umberRst := none },
    umber := UmberSt.init,
    mem := { sram := [], tile := [], prog := [], dnvm := [], defects := [], poison := [], wbacks := [], scrubPend := false, toOff := 0 },
    time := TimeSt.init 0, pier := PierSt.init, mgmt := MgmtSt.init, dma := Vector.replicate 16 DmaSt.init, dmaLast := 15, rev := none,
    radio := RadioSt.init, wake := WakeSt.init, trs := TrsSt.init, crypt := { op := none, inFifo := [], outFifo := [], keys := Vector.replicate 8 0, kt := Vector.replicate 8 0 },
    rng := RngSt.init,
    life := { fuses := { copies := Vector.replicate 3 0, uid := 0, uidSet := false, ownHash := Vector.replicate 8 0, duk := Vector.replicate 8 0,
                         dukSet := false, version := 0, rollback := 0, repair := Vector.replicate 16 0 },
              fuseOp := none, heldReset := none, respChk := false, chkChal := Vector.replicate 8 0, chkResp := Vector.replicate 16 0, chalWait := false,
              certChk := false, grants := Vector.replicate 8 none, histCnt := 0 },
    host := HostSt.init false, pod := PodSt.init, face := FaceSt.init, gpio := { pins := 0, driven := 0 }, lines := 0, bank := BankSt.init, freeCtr := 0 }

end Sys2Proof.Machine
end

