-- ==== Sys2Proof/Machine/Ops.lean ====
section
/-!
DEFINITION. Sys2Proof/Machine/Ops.lean: named operations over the state that every family shares: parameters by index, interrupts, the event-log
queue, request lines, clocks and modes.
-/

namespace Sys2Proof.Machine

/-- The held value of a parameter. -/
def State.par (s : State) (i : Nat) : Word := SMap.getD s.params i (resetOf i)

/-- Hold a parameter value. -/
def State.setPar (s : State) (i : Nat) (v : Word) : State :=
  { s with params := SMap.put s.params i (resetOf i) v }

/-- Set bits of a parameter (OR). -/
def State.orPar (s : State) (i : Nat) (v : Word) : State := s.setPar i (s.par i ||| v)

/-- Set or clear one bit of a parameter. -/
def State.parBit (s : State) (i bit : Nat) (b : Bool) : State := s.setPar i (putBit (s.par i) bit b)

/-- Raise Umber interrupt source `n`: its IPEND bit sets; an event on a set bit is merged (R182). -/
def State.raiseIrq (s : State) (n : Nat) : State :=
  { s with umber := { s.umber with ipend := putBit s.umber.ipend n true } }

/-- Advance the draw counter of the free values. A draw uses keys from `128 * freeCtr` up, at most 128 of them, so two draws share none. -/
def State.drawn (s : State) : State := { s with freeCtr := s.freeCtr + 1 }

/-- Queue an event-log record (R559): up to 32 wait in Sepia RAM, more are counted in MGMT.LOGDROP; UNTRUSTED is PIER.STATUS.OSF at the event. -/
def State.pushLog (s : State) (type source : Nat) (w2 w3 : Word) : State :=
  if s.mgmt.logQ.length < 32 then
    let r : LogRec := { type := BitVec.ofNat 12 type, source := BitVec.ofNat 11 source,
                        untrusted := (s.par P.PIER_STATUS).getLsbD 0, tick := s.pier.sepiaMirror, w2 := w2, w3 := w3 }
    { s with mgmt := { s.mgmt with logQ := s.mgmt.logQ ++ [r] } }
  else s.setPar P.MGMT_LOGDROP (satAdd (s.par P.MGMT_LOGDROP) 1)

/-- A saturating MGMT event counter (Table SEP-9, CNT0-15). -/
def State.countMgmt (s : State) (k : Nat) : State :=
  s.setPar (P.MGMT_CNT + k) (satAdd (s.par (P.MGMT_CNT + k)) 1)

/-- The 26 MHz source runs and the REF PLL is locked: the REF group runs (R54). -/
def State.refRuns (s : State) : Bool :=
  let st := s.par P.PWR_STATUS
  (s.par P.PWR_CLKCTL).getLsbD 0 && st.getLsbD 3 && st.getLsbD 4

/-- VDD islands run: modes 3-7 (R60). -/
def State.awake (s : State) : Bool := decide (s.pwr.mode = .active) || decide (s.pwr.mode = .halt)

/-- The VDD islands have power and no reset holds them: modes 3-7, a boot under way, and an exit from mode 1 or 2 (Tables BOO-3, BOO-4, ISL-10). -/
def State.vddRuns (s : State) : Bool :=
  s.awake || (decide (s.pwr.mode = .reset) && s.pwr.vddOk && !s.pwr.rstLow) || s.pwr.exiting

/-- The radio FIFO levels that drive request lines 0 and 1: receive fill, transmit space; a level of 0 disables its line (R368, Table RAD-11; log 31). -/
def State.rxLevel (s : State) : Bool :=
  let l : BitVec 8 := fld (s.par P.RADIO_FIFOCFG) 0 8
  decide (l ≠ 0) && decide (l.toNat ≤ s.radio.rxFifo.length)
def State.txSpace (s : State) : Bool :=
  let l : BitVec 8 := fld (s.par P.RADIO_FIFOCFG) 8 8
  decide (l ≠ 0) && decide (l.toNat + s.radio.txFifo.length ≤ 256)

/-- PWR.STATUS.MODE (R60): 7 with the L1 path enabled (OZ-3648-AB, R72), 6 in TXWARM or TX, 5 in RXWARM, RX or WAKELISTEN or
with Trestle enabled, which this model takes as PWR.ISLAND.TRESTLE = 1 (log 61), otherwise 4; 3 while Umber's clock is gated. -/
def State.statusMode (s : State) : BitVec 3 :=
  let isl := s.par P.PWR_ISLAND
  let rs := (fld (s.par P.RADIO_STATE) 0 4 : BitVec 4).toNat
  if s.pwr.mode = .halt then 3
  else if isl.getLsbD 2 && decide (s.pwr.package = .ab) then 7
  else if rs = 6 ∨ rs = 7 then 6
  else if rs = 4 ∨ rs = 5 ∨ rs = 8 ∨ isl.getLsbD 0 then 5
  else 4

end Sys2Proof.Machine
end

