-- ==== Sys2Proof/Machine/DmaDesc.lean ====
section
/-!
DEFINITION. Sys2Proof/Machine/DmaDesc.lean: the fields of the descriptor in execution and element addresses (10 R330, R331).
-/

namespace Sys2Proof.Machine

/-! ### Descriptor fields (Table DMA-3) -/

def DmaSt.pace (d : DmaSt) : BitVec 2 := fld d.desc[0] 6 2
def DmaSt.irq (d : DmaSt) : Bool := (d.desc[0]).getLsbD 5
def DmaSt.last (d : DmaSt) : Bool := (d.desc[0]).getLsbD 4
def DmaSt.atomic (d : DmaSt) : Bool := (d.desc[0]).getLsbD 2
def DmaSt.esize (d : DmaSt) : Nat := (fld d.desc[0] 0 2 : BitVec 2).toNat
def DmaSt.icnt (d : DmaSt) : BitVec 18 := fld d.desc[3] 0 18
/-- Rows: OCNT 0 and 1 both mean one. -/
def DmaSt.ocnt (d : DmaSt) : BitVec 18 := let n : BitVec 18 := fld d.desc[3] 18 18; if n = 0 then 1 else n
def DmaSt.next (d : DmaSt) : Addr := fld d.desc[6] 0 24
/-- A paced descriptor uses the request line (R335). -/
def DmaSt.paced (d : DmaSt) : Bool := d.pace == 1 || d.pace == 2

/-- The width of an element address: 26 bits for nonets, 25 for halfwords, 24 for words and doublewords (R331). -/
def elemWidth (esize : Nat) : Nat := if esize = 0 then 26 else if esize = 1 then 25 else 24

/-- Element addresses of the element in execution: START + i × OSTRIDE + j × ISTRIDE modulo 2^width (R331). -/
def DmaSt.elemAddr (d : DmaSt) (dst : Bool) : Nat :=
  let start : Nat := (if dst then d.desc[2] else d.desc[1]).toNat
  let istr : BitVec 18 := fld d.desc[4] (if dst then 18 else 0) 18
  let ostr : BitVec 18 := fld d.desc[5] (if dst then 18 else 0) 18
  let a : Int := (start : Int) + (d.row.toNat : Int) * ostr.toInt + (d.elem.toNat : Int) * istr.toInt
  (a % ((2 : Int) ^ elemWidth d.esize)).toNat

/-- The word address of an element address. -/
def elemWord (esize n : Nat) : Addr := BitVec.ofNat 24 (if esize = 0 then n / 4 else if esize = 1 then n / 2 else n)

/-- The nonet lanes of an element address (R166). -/
def elemLanes (esize n : Nat) : BitVec 4 :=
  if esize = 0 then (1 : BitVec 4) <<< (n % 4) else if esize = 1 then (if n % 2 = 0 then 0x3 else 0xC) else 0xF

end Sys2Proof.Machine
end

