-- ==== Sys2Proof/Machine/Ecc.lean ====
section
/-!
DEFINITION. Sys2Proof/Machine/Ecc.lean: the SEC-DED code of every stored word (09 R686). A cell holds the 7 check bits above the 36 data bits.
-/

namespace Sys2Proof.Machine

abbrev Cell := BitVec 43

/-- The columns h_j of the data bits (Table MEM-15). -/
def eccColumns : List (BitVec 7) :=
  [0x07, 0x0B, 0x0D, 0x0E, 0x13, 0x15, 0x16, 0x19, 0x1A, 0x1C, 0x23, 0x25, 0x26, 0x29, 0x2A, 0x2C, 0x31, 0x32,
   0x34, 0x38, 0x43, 0x45, 0x46, 0x49, 0x4A, 0x4C, 0x51, 0x52, 0x54, 0x58, 0x61, 0x62, 0x64, 0x68, 0x70, 0x1F]

/-- XOR of the columns of the set data bits. -/
def checkFold : List (BitVec 7) → Nat → Word → BitVec 7
  | [], _, _ => 0
  | h :: hs, j, w => (if w.getLsbD j then h else 0) ^^^ checkFold hs (j + 1) w

/-- The check bits of a data word: bit i is the XOR of the data bits whose column has bit i set (R686). -/
def checkBits (w : Word) : BitVec 7 := checkFold eccColumns 0 w

/-- A data word with its correct check bits. -/
def cellOf (w : Word) : Cell := checkBits w ++ w

def cellData (c : Cell) : Word := fld c 0 36
def cellCheck (c : Cell) : BitVec 7 := fld c 36 7

/-- The syndrome of a cell (R686). -/
def syndrome (c : Cell) : BitVec 7 := cellCheck c ^^^ checkBits (cellData c)

/-- What the code makes of a cell (R686). -/
inductive EccRead where
  | good (w : Word)
  | corrected (w : Word) (synd : BitVec 7)
  | bad (synd : BitVec 7)
  deriving DecidableEq, Repr

/-- Decode a cell: syndrome 0 is no error, a column of a data bit or of a check bit is corrected, any other is uncorrectable. -/
def eccRead (c : Cell) : EccRead :=
  let y := syndrome c
  let w := cellData c
  if y = 0 then .good w
  else
    match eccColumns.findIdx? (fun h => h == y) with
    | some j => .corrected (w ^^^ ((1 : Word) <<< j)) y
    | none => if (List.range 7).any (fun i => y == (1 : BitVec 7) <<< i) then .corrected w y else .bad y

end Sys2Proof.Machine
end

