-- ==== Sys2Proof/Machine/MemOps.lean ====
section
/-!
DEFINITION. Sys2Proof/Machine/MemOps.lean: the data SRAM, the tile, the NVM macros and the store buffer (09; 08 R265-R271): reads with correction and
poison, full and partial writes, the poison map, arch states, the reservation and the drain.
-/

namespace Sys2Proof.Machine

/-- Finder codes of MEM.UEADDR (Table MEM-12). -/
def finScrub : BitVec 3 := 0
def finUmber : BitVec 3 := 1
def finDma : BitVec 3 := 2
def finDump : BitVec 3 := 3
def finSepia : BitVec 3 := 4
def finHost : BitVec 3 := 5
def finDrain : BitVec 3 := 6

/-- Where a data-space address lies (Table UMM-4, Table MEM-2). -/
inductive Place where
  | sram (a : BitVec 18)
  | tile (a : BitVec 12)
  /-- The key-store partition of data NVM (R285). -/
  | keys (a : BitVec 15)
  | dnvm (a : BitVec 15)
  /-- The program NVM read window. -/
  | prog (a : BitVec 18)
  | par (i : BitVec 13)
  | fifo
  | unmapped
  deriving DecidableEq, Repr

def place (a : Addr) : Place :=
  let n := a.toNat
  if n < 0x040000 then .sram (fld a 0 18)
  else if 0x100000 ≤ n ∧ n < 0x101000 then .tile (fld a 0 12)
  else if 0x200000 ≤ n ∧ n < 0x200100 then .keys (fld a 0 15)
  else if 0x200000 ≤ n ∧ n < 0x208000 then .dnvm (fld a 0 15)
  else if 0x300000 ≤ n ∧ n < 0x330000 then .prog (fld a 0 18)
  else if 0x400000 ≤ n ∧ n < 0x402000 then .par (fld a 0 13)
  else if 0x410000 ≤ n ∧ n < 0x410200 then .fifo
  else .unmapped

/-- The arch and the bank of an SRAM word (R283). -/
def archOf (a : BitVec 18) : Nat := (fld a 16 2 : BitVec 2).toNat
def bankOf (a : BitVec 18) : Nat := 4 * archOf a + (fld a 0 2 : BitVec 2).toNat

/-- The present state of arch 0-3, or of the tile at index 4 (Table MEM-10): 0 OFF, 1 INIT, 2 READY, 3 ENTERING, 4 SLEEP, 5 EXITING. -/
def State.archState (s : State) (k : Nat) : BitVec 3 := fld (s.par P.MEM_ARCHSTAT) (3 * k) 3

def State.setArchState (s : State) (k : Nat) (v : BitVec 3) : State :=
  s.setPar P.MEM_ARCHSTAT (putFld (s.par P.MEM_ARCHSTAT) (3 * k) v)

/-- An arch or the tile is asleep in any state but READY (R294). -/
def State.asleep (s : State) (k : Nat) : Bool := decide (s.archState k ≠ 2)

/-- The requested state of MEM.ARCHCTL: 0 on, 1 sleep, 2 off (Table MEM-9). -/
def State.archWant (s : State) (k : Nat) : BitVec 2 := fld (s.par P.MEM_ARCHCTL) (2 * k) 2

def State.setMem (s : State) (m : MemSt) : State := { s with mem := m }

/-- The stored cell of an SRAM word, and of a tile word. -/
def State.sramCell (s : State) (a : BitVec 18) : Cell := SMap.getD s.mem.sram a.toNat 0
def State.tileCell (s : State) (a : BitVec 12) : Cell := SMap.getD s.mem.tile a.toNat 0
def State.progCell (s : State) (a : BitVec 18) : Cell := SMap.getD s.mem.prog a.toNat 0
def State.dnvmCell (s : State) (a : BitVec 15) : Cell := SMap.getD s.mem.dnvm a.toNat 0

def State.poisoned (s : State) (a : BitVec 18) : Bool := SMap.getD s.mem.poison a.toNat false

def putSram (a : BitVec 18) (c : Cell) (s : State) : State :=
  s.setMem { s.mem with sram := SMap.put s.mem.sram a.toNat 0 c }
def putTile (a : BitVec 12) (c : Cell) (s : State) : State :=
  s.setMem { s.mem with tile := SMap.put s.mem.tile a.toNat 0 c }
def putPoison (a : BitVec 18) (b : Bool) (s : State) : State :=
  s.setMem { s.mem with poison := SMap.put s.mem.poison a.toNat false b }

/-- Count and log a correction (R299): CECNT, CEADDR, the CELOG slot CECNT mod 16 before it, the bank count of an SRAM word, and the threshold. -/
def noteCorrected (tile : Bool) (a : BitVec 18) (y : BitVec 7) (s : State) : State :=
  let n := s.par P.MEM_CECNT
  let rec' : Word := putBit (putFld (a.setWidth 36) 18 y) 25 tile
  let s := (s.setPar P.MEM_CEADDR rec').setPar (P.MEM_CELOG + n.toNat % 16) rec'
  let s := s.setPar P.MEM_CECNT (satAdd n 1)
  let s := if tile then s else s.setPar (P.MEM_BANKCE + bankOf a) (satAdd (s.par (P.MEM_BANKCE + bankOf a)) 1)
  if s.par P.MEM_CETHR ≠ 0 ∧ s.par P.MEM_CECNT = s.par P.MEM_CETHR then (s.parBit P.MEM_STATUS 0 true).raiseIrq 28 else s

/-- An uncorrectable SRAM word is found (R302): its poison bit sets, UECNT counts, UEADDR records it unless a record is held (then UEMISS), source MEM
is raised and Sepia logs the find. -/
def notePoison (finder : BitVec 3) (a : BitVec 18) (y : BitVec 7) (s : State) : State :=
  let s := putPoison a true s
  let s := s.setPar P.MEM_UECNT (bumpFld (s.par P.MEM_UECNT) 0 16)
  let s := if (s.par P.MEM_UEADDR).getLsbD 35 then s.parBit P.MEM_STATUS 1 true
    else s.setPar P.MEM_UEADDR (putBit (putFld (putFld (a.setWidth 36) 18 y) 25 finder) 35 true)
  let s := s.raiseIrq 28
  s.pushLog 0x006 0x011 (s.par P.MEM_UEADDR) (s.par P.MEM_STATUS)

/-- Schedule a demand write-back (R299). -/
def schedWb (tile : Bool) (a : BitVec 18) (finder : BitVec 3) (s : State) : State :=
  s.setMem { s.mem with wbacks := s.mem.wbacks ++ [{ tile := tile, addr := a, finder := finder }] }

/-- A read of an awake SRAM word (R299, R300, R302): `none` is the poison response of Table MEM-6. Masters other than the scrubber schedule the write-back
of a correction. -/
def sramRead (finder : BitVec 3) (a : BitVec 18) (s : State) : Option Word × State :=
  if s.poisoned a then (none, s)
  else
    match eccRead (s.sramCell a) with
    | .good w => (some w, s)
    | .corrected w y =>
      let s := noteCorrected false a y s
      (some w, if finder = finScrub then s else schedWb false a finder s)
    | .bad y => (none, notePoison finder a y s)

/-- A read of a tile word by Umber: no poison map; an uncorrectable word sets TILEUE (R300). -/
def tileRead (a : BitVec 12) (s : State) : Option Word × State :=
  match eccRead (s.tileCell a) with
  | .good w => (some w, s)
  | .corrected w y => (some w, schedWb true (a.setWidth 18) finUmber (noteCorrected true (a.setWidth 18) y s))
  | .bad _ => (none, s.parBit P.MEM_STATUS 5 true)

/-- A read of an NVM cell (R308): a correction is counted and not written back; an uncorrectable one records NVMERR and NVMUE, and Sepia logs it. -/
def nvmRead (c : Cell) (addr : Addr) (s : State) : Option Word × State :=
  match eccRead c with
  | .good w => (some w, s)
  | .corrected w _ =>
    (some w, (s.setPar P.MEM_NVMCECNT (satAdd (s.par P.MEM_NVMCECNT) 1)).parBit P.MEM_NVMSTAT 1 true)
  | .bad y =>
    let s := s.setPar P.MEM_NVMERR (putFld (addr.setWidth 36) 24 y)
    let s := s.parBit P.MEM_NVMSTAT 0 true
    (none, s.pushLog 0x008 0x011 (s.par P.MEM_NVMERR) (s.par P.MEM_NVMSTAT))

/-- Data-space addresses of NVM words. -/
def progAddr (a : BitVec 18) : Addr := 0x300000#24 + a.setWidth 24
def dnvmAddr (a : BitVec 15) : Addr := 0x200000#24 + a.setWidth 24

/-- The data-space address of a word of program NVM, or of data NVM. -/
def nvmAddr (prog : Bool) (k : Nat) : Addr := BitVec.ofNat 24 ((if prog then 0x300000 else 0x200000) + k)

/-- A range of data NVM, or of program NVM, is read where `may` permits: each word of it that needs correction is counted, each uncorrectable one recorded and logged, once
per reading of the range (R308; log 83). -/
def nvmSaw (may : Addr → Bool) (prog : Bool) (lo n : Nat) (s : State) : State :=
  let m := (if prog then s.mem.prog else s.mem.dnvm).filter (fun e => decide (lo ≤ e.1) && decide (e.1 < lo + n) && may (nvmAddr prog e.1))
  m.foldl (fun s e => (nvmRead e.2 (nvmAddr prog e.1) s).2) s

/-- The cipher unit reads words of a key slot. -/
def cipherSaw (lo n : Nat) (s : State) : State := nvmSaw (fun _ => true) false lo n s

/-- The cell a write stores: correct check bits, except that an armed MEM.INJECT inverts the named check bits at INJADDR once (R319). -/
def injected (a : BitVec 18) (w : Word) (s : State) : Cell × State :=
  let inj := s.par P.MEM_INJECT
  if inj.getLsbD 0 && decide ((fld (s.par P.MEM_INJADDR) 0 18 : BitVec 18) = a) then
    ((checkBits w ^^^ (fld inj 1 7 : BitVec 7)) ++ w, s.parBit P.MEM_INJECT 0 false)
  else (cellOf w, s)

/-- Any write to the reserved word clears the reservation (R242). -/
def clearResv (a : BitVec 18) (s : State) : State :=
  match s.umber.resv with
  | some (r, _) => if r = a.setWidth 24 then { s with umber := { s.umber with resv := none } } else s
  | none => s

/-- A write to a word makes its scheduled write-back void (R299, R312). -/
def dropWb (tile : Bool) (a : BitVec 18) (s : State) : State :=
  s.setMem { s.mem with wbacks := s.mem.wbacks.filter (fun b => !(decide (b.tile = tile) && decide (b.addr = a))) }

/-- A full-word write of an SRAM word: new data with correct check bits, and the poison bit clears (R304). -/
def sramWrite (a : BitVec 18) (w : Word) (s : State) : State :=
  let r := injected a w s
  clearResv a (dropWb false a (putPoison a false (putSram a r.1 r.2)))

/-- The lanes of a mask replaced in a word (R166). -/
def mergeLanes (mask : BitVec 4) (old new : Word) : Word :=
  (List.range 4).foldl (fun w k => if mask.getLsbD k then putFld w (9 * k) (fld new (9 * k) 9 : BitVec 9) else w) old

/-- A partial write inside the bank: read, merge and write (R288); `false` is the poison response, with memory unchanged. -/
def sramPartial (finder : BitVec 3) (a : BitVec 18) (mask : BitVec 4) (w : Word) (s : State) : Bool × State :=
  if mask = 0xF then (true, sramWrite a w s)
  else
    match sramRead finder a s with
    | (none, s) => (false, s)
    | (some old, s) =>
      let r := injected a (mergeLanes mask old w) s
      (true, clearResv a (dropWb false a (putSram a r.1 r.2)))

/-- An atomic at the bank: read with correction, form the new word, write it, return the old (R293); `none` is the poison response. -/
def sramAtomic (finder : BitVec 3) (a : BitVec 18) (f : Word → Word) (s : State) : Option Word × State :=
  match sramRead finder a s with
  | (none, s) => (none, s)
  | (some old, s) =>
    let r := injected a (f old) s
    (some old, clearResv a (dropWb false a (putSram a r.1 r.2)))

/-- A tile write, full or by lanes (R289). A partial write of an uncorrectable word answers `false`. -/
def tileWrite (a : BitVec 12) (mask : BitVec 4) (w : Word) (s : State) : Bool × State :=
  if mask = 0xF then (true, dropWb true (a.setWidth 18) (putTile a (cellOf w) s))
  else
    match tileRead a s with
    | (none, s) => (false, s)
    | (some old, s) => (true, dropWb true (a.setWidth 18) (putTile a (cellOf (mergeLanes mask old w)) s))

/-- A corrected word is written back over itself: a write like any other for a reservation on the word and for its other scheduled write-backs (R242, R299, R303). -/
def rewriteSram (a : BitVec 18) (w : Word) (s : State) : State := clearResv a (dropWb false a (putSram a (cellOf w) s))

/-- One scheduled demand write-back lands (R299): it reads again and writes only a clean or correctable word; an uncorrectable one is poisoned, or sets
TILEUE for the tile. A word poisoned since is not read again. -/
def writeBack (b : WBack) (s : State) : State :=
  if b.tile then
    let a : BitVec 12 := fld b.addr 0 12
    match eccRead (s.tileCell a) with
    | .good w => dropWb true b.addr (putTile a (cellOf w) s)
    | .corrected w _ => dropWb true b.addr (putTile a (cellOf w) s)
    | .bad _ => s.parBit P.MEM_STATUS 5 true
  else if s.poisoned b.addr then s
  else
    match eccRead (s.sramCell b.addr) with
    | .good w => rewriteSram b.addr w s
    | .corrected w _ => rewriteSram b.addr w s
    | .bad y => notePoison b.finder b.addr y s

/-- The poison bit count shown by MEM.PCOUNT. -/
def State.poisonCount (s : State) : Nat := s.mem.poison.length

/-! ### Store buffer -/

/-- One cycle of a bank granted to Umber is counted in MEM.UMBACC (09). -/
def umberGrant (a : BitVec 18) (s : State) : State :=
  s.setPar (P.MEM_UMBACC + bankOf a) (satAdd (s.par (P.MEM_UMBACC + bankOf a)) 1)

/-- One cycle of a bank granted to the dump writer, DMA, Sepia, the host or the scrubber is counted in MEM.GRANT (09). -/
def countGrant (a : BitVec 18) (s : State) : State :=
  s.setPar (P.MEM_GRANT + bankOf a) (satAdd (s.par (P.MEM_GRANT + bankOf a)) 1)

def State.setBank (s : State) (b : BankSt) : State := { s with bank := b }

/-- The master of index `k` in MEM.WAITMAX has lost the bank of a word in `n` more cycles, of a wait of `w`: MEM.DENY of the bank and the longest wait (R291, R309). -/
def bankLost (k : Fin 5) (a : BitVec 18) (n w : Word) (s : State) : State :=
  let b : Fin 16 := Fin.ofNat 16 (bankOf a)
  s.setBank { deny := s.bank.deny.set b (satAdd s.bank.deny[b] n.toNat),
              waitMax := s.bank.waitMax.set k (if s.bank.waitMax[k].toNat < w.toNat then w else s.bank.waitMax[k]) }

/-- Ranks 3-6 of Table MEM-3 as indices of MEM.WAITMAX: dump writer, DMA, Sepia, host; rank 7, the scrubber, is index 4. -/
def waitDump : Fin 5 := 0
def waitDma : Fin 5 := 1
def waitSepia : Fin 5 := 2
def waitHost : Fin 5 := 3

/-- A master of rank 3-6 is granted its bank, after a wait without limit whose length follows from what the others do: a free value (R290, R291; log 11). -/
def busGrant (k : Fin 5) (a : BitVec 18) (s : State) : State :=
  let w := Config.freeWord (s.freeCtr * 128)
  countGrant a (bankLost k a w w s.drawn)

/-- Channel `c`, running or aborting, has an element begun on the arch: its source is read, or the first word of it, and its destination is still to be written
(R295, R313). -/
def State.elemOn (s : State) (k : Nat) (c : Fin 16) : Bool :=
  let d := s.dma[c]
  let on := fun (dst : Bool) => match place (elemWord d.esize (d.elemAddr dst)) with
    | .sram b => decide (archOf b = k)
    | _ => false
  let st : BitVec 3 := fld (s.par (P.DMA_STATUS + 16 * c.val)) 0 3
  (decide (st = 1) || decide (st = 4)) && (decide (d.phase = .dest) || d.half.isSome) && (on false || on true)

/-- No store-buffer entry addresses the arch and no element is in progress on it (R295, R313). -/
def State.archQuiet (s : State) (k : Nat) : Bool :=
  k == 4 || !(s.umber.sb.any (fun e => decide (archOf e.addr = k)) || (List.finRange 16).any (s.elemOn k))

/-- Whether the step from READY or sleep goes to OFF is fixed as it begins (R294). -/
def setToOff (k : Nat) (b : Bool) (s : State) : State := s.setMem { s.mem with toOff := putBit s.mem.toOff k b }

/-- The step an arch begins from a state in which it rests, toward its requested state (R294, R295, Table MEM-4): READY leaves only when quiet. -/
def archStart (k : Nat) (s : State) : State :=
  let st := s.archState k
  let want := s.archWant k
  if st = 2 then
    if want = 0 || !s.archQuiet k then s else (setToOff k (want == 2) s).setArchState k 3
  else if st = 4 then
    if want = 0 then s.setArchState k 5
    else if want = 2 then (setToOff k true s).setArchState k 3
    else s
  else if st = 0 then
    if want = 0 then s.setArchState k 1 else s
  else s

/-- A wait at READY for the conditions of R295 ends when they are met (R313): with the drain of a buffered store, or as a DMA channel ends an element or stops. -/
def archesSettle (s : State) : State :=
  (List.range 4).foldl (fun s k => if s.archState k = 2 then archStart k s else s) s

/-- One store-buffer entry writes its bank (R267, R310, R311): a full word always; a partial one into a word already poisoned, or whose read is
uncorrectable, is discarded with PDROP. -/
def drainEntry (e : SbEntry) (s : State) : State :=
  if e.mask ≠ 0xF ∧ s.poisoned e.addr then
    let s := (s.parBit P.MEM_STATUS 2 true).raiseIrq 28
    s.pushLog 0x006 0x011 (putFld (e.addr.setWidth 36) 25 finDrain) (s.par P.MEM_STATUS)
  else
    match sramPartial finDrain e.addr e.mask e.data (umberGrant e.addr s) with
    | (true, s) => s
    | (false, s) => s.parBit P.MEM_STATUS 2 true

/-- The oldest entry drains (R267). -/
def drainOne (s : State) : State :=
  match s.umber.sb with
  | [] => s
  | e :: rest => drainEntry e { s with umber := { s.umber with sb := rest } }

/-- Every entry drains, oldest first: at most four (R265, R269). -/
def drainAll (s : State) : State := drainOne (drainOne (drainOne (drainOne s)))

/-- Every entry drains, and the arches that waited for one begin their steps (R295). -/
def drainSettled (s : State) : State := archesSettle (drainAll s)

/-- The drain of a reset that leaves CORE its power (R269, R270): every entry drains, but for those whose arch is not READY, which the 64-cycle timeout loses;
their number is answered (log 94). -/
def resetDrain (s : State) : Nat × State :=
  let held := s.umber.sb.filter (fun e => s.asleep (archOf e.addr))
  (held.length, drainAll { s with umber := { s.umber with sb := s.umber.sb.filter (fun e => !s.asleep (archOf e.addr)) } })

/-- Sepia logs a loss of buffered stores at a reset (R269, Table SEP-7). -/
def logLost (n : Nat) (s : State) : State := if n = 0 then s else s.pushLog 0x004 0x000 (BitVec.ofNat 36 n) 0

/-- A store allocates an entry: with four occupied the oldest drains in that cycle (R267), for which an arch may have waited (R295); the reservation on the word
clears at once (R266). -/
def allocStore (a : BitVec 18) (mask : BitVec 4) (w : Word) (s : State) : State :=
  let full := decide (4 ≤ s.umber.sb.length)
  let s := if full then drainOne s else s
  let s := clearResv a s
  let s := { s with umber := { s.umber with sb := s.umber.sb ++ [{ addr := a, mask := mask, data := w }] } }
  if full then archesSettle s else s

/-- The lanes of a word that buffered entries cover, and their data: the youngest covering entry wins per lane (R268). -/
def forwardLanes (a : BitVec 18) (sb : List SbEntry) : BitVec 4 × Word :=
  sb.foldl (fun r e => if e.addr = a then (r.1 ||| e.mask, mergeLanes e.mask r.2 e.data) else r) (0, 0)

/-- A load of an awake SRAM word by Umber with forwarding (R268): the bank read is made in every case; when every lane forwards, the word's ECC and
poison status is ignored. -/
def umberSramRead (a : BitVec 18) (s : State) : Option Word × State :=
  let f := forwardLanes a s.umber.sb
  let s := umberGrant a s
  if f.1 = 0xF then (some f.2, s)
  else
    match sramRead finUmber a s with
    | (none, s) => (none, s)
    | (some w, s) => (some (mergeLanes f.1 w f.2), s)

/-! ### Arches -/

/-- Initialise an arch (0-3) or the tile (4): every word 0 with correct check bits, poison map cleared (R296); a reservation in the arch ends with the write of
its word (R242, R287). -/
def initArch (k : Nat) (s : State) : State :=
  let s := match s.umber.resv with
    | some (r, _) => if r.toNat / 65536 = k then { s with umber := { s.umber with resv := none } } else s
    | none => s
  if k = 4 then s.setMem { s.mem with tile := [], wbacks := s.mem.wbacks.filter (fun b => !b.tile) }
  else s.setMem { s.mem with sram := s.mem.sram.filter (fun e => decide (e.1 / 65536 ≠ k)),
                             poison := s.mem.poison.filter (fun e => decide (e.1 / 65536 ≠ k)),
                             wbacks := s.mem.wbacks.filter (fun b => b.tile || decide (archOf b.addr ≠ k)) }

/-- The step in progress of an arch or the tile completes, and the next one toward the requested state begins (R294): ENTERING ends in OFF, contents and poison
map lost, or in SLEEP; EXITING in READY. At READY a wait for the conditions of R295 ends. -/
def archStepDone (k : Nat) (s : State) : State :=
  let st := s.archState k
  if st = 3 then
    if s.mem.toOff.getLsbD k then archStart k ((initArch k (setToOff k false s)).setArchState k 0)
    else archStart k (s.setArchState k 4)
  else if st = 5 then archStart k (s.setArchState k 2)
  else if st = 2 then archStart k s
  else s

/-- The initialiser has written every word (R296): READY, and on toward the requested state (R318). -/
def archInitDone (k : Nat) (s : State) : State :=
  if s.archState k = 1 then archStart k ((initArch k s).setArchState k 2) else s

/-! ### The scrubber and write-backs (R299, R301-R303) -/

/-- The next word to scrub from a position, with the wraps passed: asleep arches and poisoned words are skipped; `none` where no word is left to read. -/
def State.scrubFrom (s : State) : Nat → Nat → Nat → Option (BitVec 18 × Nat)
  | 0, _, _ => none
  | f + 1, pos, wraps =>
    if 2 ^ 18 ≤ pos then s.scrubFrom f 0 (wraps + 1)
    else if s.asleep (pos / 65536) then s.scrubFrom f ((pos / 65536 + 1) * 65536) wraps
    else if s.poisoned (BitVec.ofNat 18 pos) then s.scrubFrom f (pos + 1) wraps
    else some (BitVec.ofNat 18 pos, wraps)

/-- SCRUBPASS counts wraps. -/
def countPasses (n : Nat) (s : State) : State := if n = 0 then s else s.setPar P.MEM_SCRUBPASS (satAdd (s.par P.MEM_SCRUBPASS) n)

/-- One scrub access (R301-R303): a corrected word is written back in the same bank cycle, an uncorrectable one is poisoned. -/
def scrubWord (s : State) : State :=
  match s.scrubFrom (s.mem.poison.length + 12) (fld (s.par P.MEM_SCRUBPOS) 0 18 : BitVec 18).toNat 0 with
  | none => s
  | some (a, wraps) =>
    let r := sramRead finScrub a (countGrant a (countPasses wraps s))
    let s := match eccRead (s.sramCell a), r.1 with
      | .corrected _ _, some w => rewriteSram a w r.2
      | _, _ => r.2
    let s := s.setPar P.MEM_SCRUBPOS ((a + 1).setWidth 36)
    if a + 1 = 0 then countPasses 1 s else s

/-- The scrubber has lost its bank for `n` cycles more, of a wait of `w` cycles (R291, R309). -/
def scrubDenied (n w : Word) (s : State) : State :=
  match s.scrubFrom (s.mem.poison.length + 12) (fld (s.par P.MEM_SCRUBPOS) 0 18 : BitVec 18).toNat 0 with
  | none => s
  | some (a, _) => bankLost 4 a n w s

/-- A scrub access falls due: it is granted, or it stays pending; with one pending already the due one is dropped with SCRUBLAG (R301). The access loses its
bank for at least one cycle when it is not granted; how many more it has lost when it is granted is a free value (log 11). -/
def scrubRead (granted : Bool) (s : State) : State :=
  if s.awake && (s.par P.MEM_SCRUBCFG).getLsbD 0 then
    if granted then
      let more := Config.freeWord (s.freeCtr * 128)
      let s := if s.mem.scrubPend then scrubDenied more (satAdd more 1) s.drawn else s
      scrubWord (s.setMem { s.mem with scrubPend := false })
    else if s.mem.scrubPend then s.parBit P.MEM_STATUS 4 true
    else scrubDenied 1 1 (s.setMem { s.mem with scrubPend := true })
  else s

/-- The array of a scheduled write-back is ready. -/
def State.wbReady (s : State) (b : WBack) : Bool := !s.asleep (if b.tile then 4 else archOf b.addr)

/-- The oldest scheduled write-back whose array is ready lands (R299). -/
def demandWriteback (s : State) : State :=
  match s.mem.wbacks.find? s.wbReady with
  | none => s
  | some b => writeBack b (s.setMem { s.mem with wbacks := s.mem.wbacks.erase b })

end Sys2Proof.Machine
end

