-- ==== Sys2Proof/Machine/RngOps.lean ====
section
/-!
DEFINITION. Sys2Proof/Machine/RngOps.lean: the random number generator (15 R500-R503): raw samples, conditioner, health tests, output FIFO.
The raw samples of the noise source are the operands of the commands (log 41); with RNG.CTL.SRC = 1 the test pattern takes their place.
-/

namespace Sys2Proof.Machine

def State.setRng (s : State) (g : RngSt) : State := { s with rng := g }

/-- The CIPHER island is powered (Table ISL-18). -/
def State.cipherOn (s : State) : Bool := s.vddRuns && (s.par P.PWR_ISLAND).getLsbD 3

/-- RNG.STATUS.ALARM (Table CRY-7). -/
def State.rngAlarm (s : State) : Bool := (s.par P.RNG_STATUS).getLsbD 1

/-- The generator as it starts afresh at a power-down or a system reset (R501, R505). The reads that still wait complete with 0 and a bus error (R503), but for
those that have their word; Sepia's words are with Sepia. -/
def RngSt.fresh (g : RngSt) : RngSt :=
  { RngSt.init with
    waiters := g.waiters.map (fun e => if e.2 = RngWait.waiting then (e.1, RngWait.failed) else e), sepiaGot := g.sepiaGot }

/-- The start-up test starts again (R500, R501): FIFO empty, counts 0. -/
def RngSt.restart (g : RngSt) : RngSt :=
  { g with samples := 0, passed := false, run := 0, ones := 0, pat := 0, fifo := [] }

/-- Bit j of RNG.TESTPAT0-7, bit 0 of TESTPAT0 first, repeated after 256 bits (R500). -/
def State.patBit (s : State) (j : Nat) : Bool := (s.par (P.RNG_TESTPAT + j / 32 % 8)).getLsbD (j % 32)

/-- The raw samples in effect: the source's, or the test pattern's with CTL.SRC = 1 (R500). -/
def State.rawSamples (s : State) (xs : List Bool) : List Bool :=
  if (s.par P.RNG_CTL).getLsbD 0 then (List.range xs.length).map (fun i => s.patBit (s.rng.pat.toNat + i)) else xs

/-- One raw sample (R500, R501): the conditioner shifts, the run and the start-up count advance. -/
def RngSt.feed (g : RngSt) (b : Bool) : RngSt :=
  let f := xor (xor (xor (xor (g.r.getLsbD 63) (g.r.getLsbD 62)) (g.r.getLsbD 60)) (g.r.getLsbD 59)) b
  let same := decide (g.run ≠ 0) && (b == g.last)
  { g with r := (g.r <<< 1) ||| (BitVec.ofBool f).setWidth 64, samples := g.samples + 1, last := b,
           run := (if same then satAdd g.run 1 else 1), pat := g.pat + 1,
           ones := (if g.passed || !b then g.ones else g.ones + 1) }

/-- The start-up window is complete without a failure (R501): the test passes at its 1,024th sample. -/
def RngSt.windowEnd (g : RngSt) : RngSt := if !g.passed && decide (g.samples = 1024) then { g with passed := true } else g

/-- The larger value count of the start-up window. -/
def RngSt.larger (g : RngSt) : Nat := max g.ones.toNat (1024 - g.ones.toNat)

/-- The failure a sample completes (R501, Table CRY-7 CAUSE): 1 start-up repetition, 2 start-up proportion, 3 continuous repetition; 0 none. -/
def RngSt.fault (g : RngSt) : BitVec 2 :=
  if 40 ≤ g.run.toNat then (if g.passed then 3 else 1)
  else if !g.passed && decide (g.samples = 1024) && decide (624 ≤ g.larger) then 2
  else 0

/-- Feed samples until one fails: the failure, the state, the longest run met after the start-up pass, and the output bits, formed after every 8th sample (R500,
R501, Table CRY-4 RCMAX). -/
def rngRun : List Bool → Nat → RngSt → BitVec 2 × RngSt × Nat × List Bool
  | [], _, g => (0, g, 0, [])
  | b :: bs, i, g =>
    let since := g.passed
    let g := g.feed b
    let m := if since then g.run.toNat else 0
    if g.fault ≠ 0 then (g.fault, g, m, [])
    else
      let t := rngRun bs (i + 1) g.windowEnd
      (t.1, t.2.1, max m t.2.2.1, if i % 8 = 7 then g.r.getLsbD 63 :: t.2.2.2 else t.2.2.2)

/-- RCMAX and APCNT after samples `t` were fed (Table CRY-4): APCNT at the end of the start-up window, where it passes and where it fails by proportion; RCMAX
starts from 0 at the pass and takes the longest run since. -/
def showCounts (before : RngSt) (fault : BitVec 2) (after : RngSt) (longest : Nat) (s : State) : State :=
  let ends := !before.passed && (after.passed || fault == 2)
  let s := if ends then s.setPar P.RNG_APCNT (BitVec.ofNat 36 after.larger) else s
  if after.passed then
    s.setPar P.RNG_RCMAX (BitVec.ofNat 36 (max (if before.passed then (s.par P.RNG_RCMAX).toNat else 0) longest))
  else s

/-- A word of output bits, first bit in bit 0 (R500). -/
def wordOfBits (bs : List Bool) : Word :=
  (bs.zip (List.range bs.length)).foldl (fun (w : Word) x => putBit w x.2 x.1) 0

/-- The bits of a word of samples, sample i in bit i. -/
def bitList {n : Nat} (x : BitVec n) : List Bool := (List.range n).map (fun i => x.getLsbD i)

/-- LEVEL and READY of RNG.STATUS as the FIFO stands (Table CRY-7). -/
def showRng (s : State) : State :=
  let st := s.par P.RNG_STATUS
  let ctl := s.par P.RNG_CTL
  s.setPar P.RNG_STATUS (putBit (putFld st 4 (BitVec.ofNat 5 s.rng.fifo.length)) 9 (ctl.getLsbD 0 || ctl.getLsbD 1))

/-- The start-up test passes over these 1,024 samples (R501); a window that fails is no pass. -/
def rngStartupPass (x : BitVec 1024) (s : State) : State :=
  if s.cipherOn && !s.rngAlarm && !s.rng.passed && decide (s.rng.samples = 0) then
    let t := rngRun (s.rawSamples (bitList x)) 0 s.rng
    if t.1 ≠ 0 then s else showCounts s.rng 0 t.2.1 t.2.2.1 (s.setRng t.2.1)
  else s

/-- The conditioner forms one word from 288 raw samples, or with CTL.RAW one from 36 (R500); the first word after the pass sets READY (R501). With 16 words in the
FIFO none is formed, and the samples are tested all the same (R500, R501). -/
def rngWord (x : BitVec 288) (s : State) : State :=
  if s.cipherOn && !s.rngAlarm && s.rng.passed then
    let raw := (s.par P.RNG_CTL).getLsbD 1
    let xs := s.rawSamples ((bitList x).take (if raw then 36 else 288))
    let t := rngRun xs 0 s.rng
    if t.1 ≠ 0 then s
    else
      let w := wordOfBits (if raw then xs else t.2.2.2)
      let u := showCounts s.rng 0 t.2.1 t.2.2.1 (s.setRng { t.2.1 with fifo := if s.rng.fifo.length < 16 then s.rng.fifo ++ [w] else s.rng.fifo })
      if s.rng.fifo.length < 16 then showRng (u.parBit P.RNG_STATUS 0 true) else u
  else s

/-- Every read that waits completes with 0 and a bus error (R503). -/
def failReads (s : State) : State :=
  s.setRng { s.rng with waiters := s.rng.waiters.map (fun e => if e.2 = RngWait.waiting then (e.1, RngWait.failed) else e) }

/-- A health test fails at the last of these samples (R502): ALARM, CAUSE and ALMINFO set, the FIFO empties, and the RNG interrupt and Sepia's log
record follow. -/
def rngAlarm (xs : List Bool) (s : State) : State :=
  if s.cipherOn && !s.rngAlarm && !xs.isEmpty then
    let ys := s.rawSamples xs
    let before := rngRun ys.dropLast 0 s.rng
    let t := rngRun ys 0 s.rng
    if before.1 = 0 ∧ t.1 ≠ 0 then
      let n := if t.1 = 2 then t.2.1.larger else t.2.1.run.toNat
      let s := showCounts s.rng t.1 t.2.1 t.2.2.1 (failReads (s.setRng { t.2.1 with fifo := [] }))
      let s := s.setPar P.RNG_STATUS (putFld (putBit (putBit (s.par P.RNG_STATUS) 0 false) 1 true) 2 t.1)
      let s := showRng (s.setPar P.RNG_ALMINFO (putFld ((t.2.1.samples - 1).setWidth 36) 20 (BitVec.ofNat 11 n)))
      (s.raiseIrq 20).pushLog 0x009 0x012 (s.par P.RNG_STATUS) (s.par P.RNG_ALMINFO)
    else s
  else s

/-- What a read of RNG.DATA answers (R503). -/
inductive RngRead where
  | word (w : Word)
  | waits
  | busError
  deriving DecidableEq, Repr

/-- A word leaves the FIFO and is counted (R503, Table CRY-4). -/
def rngPop (s : State) : State :=
  let s := s.setRng { s.rng with fifo := s.rng.fifo.drop 1 }
  showRng (s.setPar P.RNG_WORDCNT (s.par P.RNG_WORDCNT + 1))

/-- The waiting reads of some readers are gone: answered, or no longer made. -/
def rngForget (gone : Master → Bool) (s : State) : State :=
  s.setRng { s.rng with waiters := s.rng.waiters.filter (fun e => !gone e.1) }

/-- An Umber reset ends the reads of Umber and of every channel (R640). -/
def rngForgetCore (s : State) : State := rngForget (fun m => decide (m ≠ .sepia)) s

/-- A read of RNG.DATA by a master (R503): made once, it waits in arrival order while the FIFO is empty and takes the answer that has come for it when its master
asks again. A host read with nothing there is not made (R579). -/
def rngTake (m : Master) (s : State) : RngRead × State :=
  match s.rng.waiters.find? (fun e => decide (e.1 = m)) with
  | some (_, .word w) => (.word w, rngForget (fun r => decide (r = m)) s)
  | some (_, .failed) => (.busError, rngForget (fun r => decide (r = m)) s)
  | some (_, .waiting) => (.waits, s)
  | none =>
    if s.rngAlarm || !s.cipherOn then (.busError, s)
    else
      match s.rng.fifo with
      | w :: _ => (.word w, rngPop s)
      | [] => (.waits, if m = .host then s else s.setRng { s.rng with waiters := s.rng.waiters ++ [(m, .waiting)] })

/-- Words that have come go to the waiting reads in arrival order (R503). -/
def rngServe : Nat → State → State
  | 0, s => s
  | n + 1, s =>
    match s.rng.fifo, s.rng.waiters.findIdx? (fun e => decide (e.2 = .waiting)) with
    | w :: _, some k =>
      let s := rngPop s
      rngServe n (s.setRng { s.rng with waiters := s.rng.waiters.modify k (fun e => (e.1, .word w)) })
    | _, _ => s

/-- Sepia reads the words of a nonce one after another, each in its turn among the readers, until it has four (R503, R525, R600). -/
def sepiaReads : Nat → State → State
  | 0, s => s
  | n + 1, s =>
    if 4 ≤ s.rng.sepiaGot.length then s
    else
      match rngTake .sepia s with
      | (.word w, s) => sepiaReads n (s.setRng { s.rng with sepiaGot := s.rng.sepiaGot ++ [fld w 0 32] })
      | (_, s) => s

/-- A read of Sepia's has ended with an error: the generator has failed or its island has no power. -/
def State.sepiaFails (s : State) : Bool :=
  s.rngAlarm || !s.cipherOn || s.rng.waiters.any (fun e => decide (e = (Master.sepia, RngWait.failed)))

/-- Sepia gives up the words it has read and the read it makes. -/
def sepiaDrops (s : State) : State :=
  let s := rngForget (fun r => decide (r = .sepia)) s
  s.setRng { s.rng with sepiaGot := [] }

/-- A write of RNG.CTL empties the FIFO and starts the start-up test again (R500). -/
def rngCtlWrite (v : Word) (s : State) : State :=
  let s := (s.setPar P.RNG_CTL (v &&& 3)).setRng s.rng.restart
  showRng (s.parBit P.RNG_STATUS 0 false)

end Sys2Proof.Machine
end

