-- ==== Sys2Proof/Machine/CryptOps.lean ====
section
/-!
DEFINITION. Sys2Proof/Machine/CryptOps.lean: the cipher unit (15 R491-R499, R504-R511): commands, keys and slots, the input and output FIFOs, the end of an
operation. Computation takes no time of its own: words pass through as soon as the FIFOs let them, and the end is CIPHER_OP_DONE (log 42).
-/

namespace Sys2Proof.Machine

def State.setCrypt (s : State) (c : CryptSt) : State := { s with crypt := c }

/-! ### Fields of CMD (Table CRY-5) -/

def CryptOp.code (o : CryptOp) : Nat := (fld o.cmd 0 5 : BitVec 5).toNat
def cmdSlot (v : BitVec 20) : BitVec 4 := fld v 5 4
def cmdKsrc (v : BitVec 20) : Nat := (fld v 9 2 : BitVec 2).toNat
def cmdMic (v : BitVec 20) : Nat := 2 * (fld v 11 4 : BitVec 4).toNat + 2
def cmdL (v : BitVec 20) : Nat := (fld v 17 3 : BitVec 3).toNat + 2

/-- The counter or nonce block of IV0-3 as bytes (R493). -/
def CryptOp.ivBytes (o : CryptOp) : List Byte := wordsToBytes o.iv.toList
def CryptOp.nonceBytes (o : CryptOp) : List Byte := o.ivBytes.take (15 - cmdL o.cmd)
def CryptOp.keyBytes (o : CryptOp) : List Byte := (wordsToBytes o.key.toList).take (if o.wide then 32 else 16)
def CryptOp.rks (o : CryptOp) : List (List Byte) := roundKeys o.wide o.keyBytes

/-- Words of a string of n bytes. -/
def wordsOf (n : Nat) : Nat := (n + 3) / 4

/-- The first payload word among the input, and the payload's words. -/
def CryptOp.payOff (o : CryptOp) : Nat := if o.code = 4 ∨ o.code = 5 then wordsOf o.alen.toNat else 0
def CryptOp.payWords (o : CryptOp) : Nat := wordsOf o.len.toNat

/-- The input words an operation expects (Table CRY-1). -/
def inputWords (code len alen mic : Nat) : Nat :=
  match code with
  | 4 => wordsOf alen + wordsOf len
  | 5 => wordsOf alen + wordsOf len + wordsOf mic
  | 9 => 8
  | 10 => 40
  | 11 => 16
  | 12 => 0
  | 13 => 0
  | 14 => 1
  | _ => wordsOf len

/-- Bytes of the input taken so far: a string of `n` bytes that starts at word `w`. -/
def CryptOp.bytes (o : CryptOp) (w n : Nat) : List Byte := (wordsToBytes ((o.got.drop w).take (wordsOf n))).take n

def CryptOp.adata (o : CryptOp) : List Byte := o.bytes 0 o.alen.toNat
def CryptOp.payload (o : CryptOp) : List Byte := o.bytes o.payOff o.len.toNat

/-! ### The end of an operation (R496) -/

/-- BUSY clears, DONE sets, CODE and the records take the outcome, and CIPHER is raised with IRQEN (R496, Table CRY-4). -/
def endOp (code : BitVec 5) (cmd : BitVec 20) (owner : Dom) (s : State) : State :=
  let s := s.setCrypt { s.crypt with op := none }
  let st := putFld (putFld (putBit (putBit (s.par P.CRYPT_STATUS) 0 false) 1 true) 2 code) 10 owner
  let s := s.setPar P.CRYPT_STATUS st
  let s := s.setPar P.CRYPT_LASTOP
    (putFld (putFld (putFld ((fld cmd 0 5 : BitVec 5).setWidth 36) 5 (cmdSlot cmd)) 9 owner) 13 code)
  let s := s.setPar P.CRYPT_OPCNT (s.par P.CRYPT_OPCNT + 1)
  let s := if code = 0 then s
    else s.setPar (P.CRYPT_CNT + (code.toNat - 1)) (satAdd (s.par (P.CRYPT_CNT + (code.toNat - 1))) 1)
  if (s.par P.CRYPT_IRQEN).getLsbD 0 then s.raiseIrq 19 else s

/-- An operation ends before its result, after a number of cipher cycles that no rule gives: CYCLES takes a free value (R497, Table CRY-2). -/
def endEarly (code : BitVec 5) (cmd : BitVec 20) (owner : Dom) (s : State) : State :=
  endOp code cmd owner (s.drawn.setPar P.CRYPT_CYCLES ((fld (Config.freeWord (s.freeCtr * 128)) 0 24 : BitVec 24).setWidth 36))

/-- An event that CNT7 counts with the CODE 8 outcomes (Table CRY-4). -/
def countCnt7 (s : State) : State := s.setPar (P.CRYPT_CNT + 7) (satAdd (s.par (P.CRYPT_CNT + 7)) 1)

def setCryptStatus (bit : Nat) (s : State) : State := s.parBit P.CRYPT_STATUS bit true

/-- FIFOSTAT as the FIFOs stand (Table CRY-4); an expected count above its 15 bits is left open there and is a free value. -/
def State.cryptFifoStat (s : State) : Word :=
  let need := match s.crypt.op with
    | some o => o.need.toNat
    | none => 0
  let n : BitVec 15 := if need < 32768 then BitVec.ofNat 15 need else Config.longCount need
  putFld (putFld (putFld (0 : Word) 0 (BitVec.ofNat 5 s.crypt.inFifo.length)) 5 (BitVec.ofNat 5 s.crypt.outFifo.length)) 10 n

/-! ### The data path -/

/-- The output words of the payload block that word count `k` completes (R493). -/
def CryptOp.block (o : CryptOp) (k : Nat) : List (BitVec 32) :=
  let j := (k - 1) / 4
  let bs := ((o.payload).drop (16 * j)).take 16
  let out := match o.code with
    | 1 => aesEnc o.rks bs
    | 2 => aesDec o.rks bs
    | 3 => xorBytes bs (aesEnc o.rks (incBlock o.ivBytes j))
    | _ => xorBytes bs (aesEnc o.rks (ccmCounter (cmdL o.cmd) o.nonceBytes (j + 1)))
  bytesToWords out

/-- One input word taken by the unit: a completed payload block of OP 1-5 gives its output. -/
def CryptOp.take (o : CryptOp) (w : BitVec 32) : CryptOp :=
  let o := { o with got := o.got ++ [w] }
  let k := o.got.length - o.payOff
  if 1 ≤ o.code ∧ o.code ≤ 5 ∧ o.payOff < o.got.length ∧ k ≤ o.payWords ∧ (k % 4 = 0 ∨ k = o.payWords) then
    { o with outPend := o.block k }
  else o

/-- One move of the data path: a formed word enters OUT, or an input word is taken; the operation stops while OUT is full (R495). -/
def cryptMove (o : CryptOp) (c : CryptSt) : CryptOp × CryptSt :=
  match o.outPend with
  | w :: rest =>
    if c.outFifo.length < 16 then ({ o with outPend := rest }, { c with outFifo := c.outFifo ++ [w] }) else (o, c)
  | [] =>
    match c.inFifo with
    | w :: rest => (o.take w, { c with inFifo := rest })
    | [] => (o, c)

def cryptMoves : Nat → CryptOp × CryptSt → CryptOp × CryptSt
  | 0, x => x
  | n + 1, x => cryptMoves n (cryptMove x.1 x.2)

/-- The operation draws random words: a signature's nonce, or a generated key (R493, R498). -/
def CryptOp.draws (o : CryptOp) : Bool :=
  decide (o.code = 9) || (decide (o.code = 14) && decide (cmdKsrc o.cmd = 3))

/-- The input of the operation is complete. -/
def State.inputDone (s : State) (o : CryptOp) : Bool := decide (o.need = 0) && s.crypt.inFifo.isEmpty

/-- Random words go to a waiting operation first (R503). -/
def cryptDraw : Nat → State → State
  | 0, s => s
  | n + 1, s =>
    match s.crypt.op, s.rng.fifo with
    | some o, w :: _ =>
      if o.draws && s.inputDone o && decide (o.nonce.length < 8) && !s.rngAlarm then
        cryptDraw n (rngPop (s.setCrypt { s.crypt with op := some { o with nonce := o.nonce ++ [fld w 0 32] } }))
      else s
    | _, _ => s

/-- The data path runs as far as the FIFOs let it. -/
def cryptPump (s : State) : State :=
  match s.crypt.op with
  | none => s
  | some o =>
    let r := cryptMoves 64 (o, s.crypt)
    cryptDraw 8 (s.setCrypt { r.2 with op := some r.1 })

/-! ### Key store (R498, R499) -/

/-- The wrap key: HMAC-SHA-256 of "OZ-KS-WRAP" under the device unique key (R498). -/
def State.wrapKey (s : State) : List Byte :=
  hmac (wordsToBytes s.life.fuses.duk.toList) [0x4F, 0x5A, 0x2D, 0x4B, 0x53, 0x2D, 0x57, 0x52, 0x41, 0x50]

/-- The 8-byte unit ID, least significant byte first (R491, R518). -/
def State.uidBytes (s : State) : List Byte :=
  wordBytes (fld s.life.fuses.uid 0 32) ++ wordBytes (fld s.life.fuses.uid 32 32)

/-- The CCM nonce of a slot: unit ID, slot number, header bytes 0-3 (R498). -/
def State.slotNonce (s : State) (slot : BitVec 4) (header : BitVec 32) : List Byte :=
  s.uidBytes ++ [slot.setWidth 8] ++ wordBytes header

/-- A data word of slot `slot` in data NVM, as the cipher unit reads it. -/
def State.slotWord (s : State) (slot : BitVec 4) (i : Nat) : Option Word :=
  match eccRead (s.dnvmCell (BitVec.ofNat 15 (16 * slot.toNat + i))) with
  | .good w => some w
  | .corrected w _ => some w
  | .bad _ => none

/-- The header of a slot; an unreadable one is taken as empty. -/
def State.slotHeader (s : State) (slot : BitVec 4) : Word := (s.slotWord slot 0).getD 0

/-- The body that WRAP forms: 40 bytes of ciphertext and MIC, then five zero words (R498). -/
def State.wrapBody (s : State) (slot : BitVec 4) (header : BitVec 32) (key : List Byte) : List (BitVec 32) :=
  let rks := roundKeys true s.wrapKey
  let nonce := s.slotNonce slot header
  bytesToWords (ccmCrypt rks 2 nonce key ++ ccmMic rks 2 8 nonce (wordBytes header) key) ++ List.replicate 5 0

/-- The key of a slot, unwrapped; none where its MIC fails (R498, R499). -/
def State.unwrap (s : State) (slot : BitVec 4) : Option (List Byte) :=
  let header : BitVec 32 := fld (s.slotHeader slot) 0 32
  let ws := (List.range 10).map (fun i => s.slotWord slot (i + 1))
  if ws.any Option.isNone then none
  else
    let body := wordsToBytes (ws.map (fun w => fld (w.getD 0) 0 32))
    let rks := roundKeys true s.wrapKey
    let nonce := s.slotNonce slot header
    let key := ccmCrypt rks 2 nonce (body.take 32)
    if ccmMic rks 2 8 nonce (wordBytes header) key = body.drop 32 then some key else none

/-- The slot TYPE suits an operation, and its use bit (Tables CRY-1, CRY-3). -/
def slotSuits (code : Nat) (header : Word) : Bool :=
  let t := (fld header 0 4 : BitVec 4).toNat
  match code with
  | 7 => t == 3 && header.getLsbD 22
  | 8 => t == 3 && header.getLsbD 22
  | 9 => t == 4 && header.getLsbD 23
  | 12 => t == 4 && header.getLsbD 23
  | 11 => t == 4 && header.getLsbD 24
  | 2 => (t == 1 || t == 2) && header.getLsbD 21
  | 5 => (t == 1 || t == 2) && header.getLsbD 21
  | _ => (t == 1 || t == 2) && header.getLsbD 20

/-- A vector of eight key words from bytes. -/
def keyWords (bs : List Byte) : Vector (BitVec 32) 8 := Vector.ofFn (fun i => (packWords 8 bs).getD i.val 0)

/-- The key of an operation (R497, R499): the words with their width, or the CODE that ends it, and whether a slot failed its unwrap. -/
inductive KeyRes where
  | key (k : Vector (BitVec 32) 8) (wide : Bool)
  | denied (code : BitVec 5) (unwrap : Bool)
  deriving DecidableEq, Repr

/-- The key of a slot (R499). -/
def State.slotKey (s : State) (code : Nat) (slot : BitVec 4) (owner : Dom) : KeyRes :=
  let h := s.slotHeader slot
  let t := (fld h 0 4 : BitVec 4).toNat
  if t = 0 ∨ 5 ≤ t then .denied 3 false
  else if !(slotSuits code h) || (slot == 15 && code != 8) || (s.par P.CRYPT_KREFUSE).getLsbD owner.toNat
      || !(owner == 0 || h.getLsbD (4 + owner.toNat)) then .denied 2 false
  else
    match s.unwrap slot with
    | none => .denied 3 true
    | some k => .key (keyWords k) (t != 1)

/-- The key that CMD.KSRC names (R497): the KEY registers serve OP 1-5, 7 and 8, KT every keyed operation, and each must belong to the owner; one that holds no
key ends with CODE 3, any other source with CODE 2 (log 43). -/
def State.opKey (s : State) (cmd : BitVec 20) (owner : Dom) : KeyRes :=
  let code := (fld cmd 0 5 : BitVec 5).toNat
  let kd := s.par P.CRYPT_KEYDOM
  let direct := decide (code ≤ 5) || decide (code = 7) || decide (code = 8)
  match cmdKsrc cmd with
  | 0 => s.slotKey code (cmdSlot cmd) owner
  | 1 =>
    if !direct then .denied 2 false
    else if !kd.getLsbD 4 then .denied 3 false
    else if (fld kd 0 4 : BitVec 4) ≠ owner then .denied 2 false
    else .key s.crypt.keys (cmd.getLsbD 16)
  | 2 =>
    if !kd.getLsbD 9 then .denied 3 false
    else if (fld kd 5 4 : BitVec 4) ≠ owner then .denied 2 false
    else .key s.crypt.kt (cmd.getLsbD 16)
  | _ => .denied 2 false

/-- The key of an operation that uses one; SHA-256, ECDSA verify and CLEAR use none, and WRAP runs only for owner 0, from KEY0-7 of that owner or generated
(R498; log 43). -/
def State.keyFor (s : State) (cmd : BitVec 20) (owner : Dom) : KeyRes :=
  let code := (fld cmd 0 5 : BitVec 5).toNat
  let kd := s.par P.CRYPT_KEYDOM
  if code = 6 ∨ code = 10 ∨ code = 13 then .key (Vector.replicate 8 0) false
  else if code = 14 then
    if owner ≠ 0 then .denied 2 false
    else if cmdKsrc cmd = 3 then .key (Vector.replicate 8 0) true
    else if !kd.getLsbD 4 then .denied 3 false
    else if (fld kd 0 4 : BitVec 4) ≠ 0 then .denied 2 false
    else .key s.crypt.keys true
  else s.opKey cmd owner

/-! ### Commands -/

/-- A length error (R494). -/
def lengthError (code len alen l : Nat) : Bool :=
  ((code == 1 || code == 2) && len % 16 != 0) || ((code == 4 || code == 5) && (decide (65280 ≤ alen) || decide (2 ^ (8 * l) ≤ len)))

/-- The command is ignored with CMDREJ (R492, Table CRY-5): an unassigned OP, CCML 7, or a MIC code out of range for CCM. -/
def cmdInvalid (cmd : BitVec 20) : Bool :=
  let code := (fld cmd 0 5 : BitVec 5).toNat
  let mic := (fld cmd 11 4 : BitVec 4).toNat
  code == 0 || decide (15 ≤ code) || (fld cmd 17 3 : BitVec 3) == 7
    || ((code == 4 || code == 5) && (mic == 0 || decide (8 ≤ mic)))

/-- KT and the KEY registers are cleared, with their domains (R496). -/
def clearKeys (s : State) : State :=
  (s.setCrypt { s.crypt with keys := Vector.replicate 8 0, kt := Vector.replicate 8 0 }).setPar P.CRYPT_KEYDOM 0

/-- The KEY registers and KT of the domains that `p` names are cleared, each with its part of KEYDOM (R504, R640). -/
def clearKeysOf (p : Dom → Bool) (s : State) : State :=
  let kd := s.par P.CRYPT_KEYDOM
  let s := if kd.getLsbD 4 && p (fld kd 0 4) then
      (s.setCrypt { s.crypt with keys := Vector.replicate 8 0 }).setPar P.CRYPT_KEYDOM (putFld (s.par P.CRYPT_KEYDOM) 0 (0 : BitVec 5))
    else s
  if kd.getLsbD 9 && p (fld kd 5 4) then
    (s.setCrypt { s.crypt with kt := Vector.replicate 8 0 }).setPar P.CRYPT_KEYDOM (putFld (s.par P.CRYPT_KEYDOM) 5 (0 : BitVec 5))
  else s

/-- Both FIFOs empty. -/
def clearFifos (s : State) : State := s.setCrypt { s.crypt with inFifo := [], outFifo := [] }

/-- The running operation ends early with a CODE (R504, R505, R510). -/
def stopOp (code : BitVec 5) (s : State) : State :=
  match s.crypt.op with
  | some o => endEarly code o.cmd o.owner s
  | none => s

/-- Start the operation of a valid command: lengths first, then the key (R494, R497, R499, R502). -/
def startOp (cmd : BitVec 20) (owner : Dom) (s : State) : State :=
  let code := (fld cmd 0 5 : BitVec 5).toNat
  let len : BitVec 24 := fld (s.par P.CRYPT_LEN) 0 24
  let alen : BitVec 16 := fld (s.par P.CRYPT_ALEN) 0 16
  if lengthError code len.toNat alen.toNat (cmdL cmd) then endEarly 8 cmd owner s
  else
    let slotted := decide (cmdKsrc cmd = 0) && code != 6 && code != 10 && code != 13 && code != 14
    let s := if slotted then cipherSaw (16 * (cmdSlot cmd).toNat) 11 s else s
    match s.keyFor cmd owner with
    | .denied c bad =>
      let s := if bad then s.pushLog 0x00D 0x016 ((cmdSlot cmd).setWidth 36) 0 else s
      endEarly c cmd owner s
    | .key k wide =>
      let o : CryptOp :=
        { cmd := cmd, owner := owner, len := len, alen := alen, key := k, wide := wide,
          iv := Vector.ofFn (fun i => fld (s.par (P.CRYPT_IV + i.val)) 0 32),
          need := BitVec.ofNat 23 (inputWords code len.toNat alen.toNat (cmdMic cmd)), got := [], outPend := [], nonce := [] }
      if o.draws && s.rngAlarm then endEarly 5 cmd owner s
      else
        let s := if code = 13 then clearKeys (clearFifos s) else s
        let s := s.setPar P.CRYPT_STATUS (putFld (putBit (s.par P.CRYPT_STATUS) 0 true) 10 owner)
        cryptPump (s.setCrypt { s.crypt with op := some o })

/-- A write of CRYPT.CMD by an owner (R492, R510, R511): while an operation runs it is ignored with CMDREJ, except that its owner's CLEAR ends it with
CODE 7 and then runs (log 44). -/
def cryptCmd (owner : Dom) (v : Word) (s : State) : State :=
  let cmd : BitVec 20 := fld v 0 20
  if cmdInvalid cmd then setCryptStatus 7 s
  else
    match s.crypt.op with
    | none => startOp cmd owner s
    | some o =>
      if (fld cmd 0 5 : BitVec 5) = 13 ∧ o.owner = owner then startOp cmd owner (stopOp 7 s) else setCryptStatus 7 s

/-! ### Input and output (R495) -/

/-- Another domain than the owner reaches IN, OUT, LEN, ALEN or IV while BUSY (R495). -/
def State.cryptForeign (s : State) (dom : Dom) : Bool :=
  match s.crypt.op with
  | some o => decide (o.owner ≠ dom)
  | none => false

/-- The running operation expects input words. -/
def State.cryptExpects (s : State) : Bool :=
  match s.crypt.op with
  | some o => decide (o.need ≠ 0)
  | none => false

/-- A refused write of IN (R495). -/
def cryptInRefused (s : State) : State := countCnt7 (setCryptStatus 8 s)

/-- An accepted write of IN: the FIFO has room and input is expected (R495). -/
def cryptIn (v : Word) (s : State) : State :=
  match s.crypt.op with
  | some o =>
    cryptPump (s.setCrypt { s.crypt with op := some { o with need := o.need - 1 }, inFifo := s.crypt.inFifo ++ [fld v 0 32] })
  | none => s

/-- A read of OUT pops a word, or answers 0 with OUTERR (R495). -/
def cryptOut (s : State) : Word × State :=
  match s.crypt.outFifo with
  | w :: rest => (w.setWidth 36, cryptPump (s.setCrypt { s.crypt with outFifo := rest }))
  | [] => (0, countCnt7 (setCryptStatus 9 s))

/-- A write of KEY0-7: the register and the writer's domain (R497). -/
def cryptKey (i : Fin 8) (dom : Dom) (v : Word) (s : State) : State :=
  let s := s.setCrypt { s.crypt with keys := s.crypt.keys.set i (fld v 0 32) }
  s.setPar P.CRYPT_KEYDOM (putBit (putFld (s.par P.CRYPT_KEYDOM) 0 dom) 4 true)

/-- Request lines 6 and 7 (R495, Table DMA-6). -/
def State.cryptInReady (s : State) : Bool := s.cryptExpects && decide (s.crypt.inFifo.length < 16)
def State.cryptOutReady (s : State) : Bool := !s.crypt.outFifo.isEmpty

/-! ### Completion -/

/-- A coordinate or scalar as a 32-byte big-endian string in words (R491). -/
def beWords (v : Nat) : List (BitVec 32) := bytesToWords (natBe 32 v)

/-- Coordinates of a point; the point at infinity has none, and its words are free values. -/
def pointWords (key : Nat) : Point → List (BitVec 32)
  | some (x, y) => beWords x ++ beWords y
  | none => (List.range 16).map (fun i => fld (Config.freeWord (key + i)) 0 32)

/-- What an operation ends with. -/
inductive OpEnd where
  /-- Output words, CODE, and words for KT. -/
  | done (out : List (BitVec 32)) (code : BitVec 5) (kt : Option (List (BitVec 32)))
  /-- The nonce must be drawn again, or is not there yet. -/
  | redraw
  deriving DecidableEq, Repr

/-- The result of an operation whose input is complete (Table CRY-1, R493, R496, R498). -/
def State.opResult (s : State) (o : CryptOp) : OpEnd :=
  let m := cmdMic o.cmd
  let l := cmdL o.cmd
  let d := beNat (wordsToBytes o.key.toList)
  let k := beNat (wordsToBytes o.nonce)
  match o.code with
  | 4 => .done (bytesToWords (ccmMic o.rks l m o.nonceBytes o.adata o.payload)) 0 none
  | 5 =>
    let plain := ccmCrypt o.rks l o.nonceBytes o.payload
    let mic := o.bytes (o.payOff + o.payWords) m
    .done [] (if ccmMic o.rks l m o.nonceBytes o.adata plain = mic then 0 else 1) none
  | 6 => .done (bytesToWords (sha256 o.payload)) 0 none
  | 7 => .done (bytesToWords (hmac o.keyBytes o.payload)) 0 none
  | 8 => .done [] 0 (some (bytesToWords (hmac o.keyBytes o.payload)))
  | 9 =>
    if s.rngAlarm then .done [] 5 none
    else if o.nonce.length < 8 then .redraw
    else
      match ecdsaSign d (beNat (o.bytes 0 32)) k with
      | some (r, t) => .done (beWords r ++ beWords t) 0 none
      | none => .redraw
  | 10 =>
    let n := fun i => beNat (o.bytes (8 * i) 32)
    if onCurve (n 1) (n 2) then .done [] (if ecdsaVerify (n 0) (n 1) (n 2) (n 3) (n 4) then 0 else 1) none
    else .done [] 4 none
  | 11 =>
    let x := beNat (o.bytes 0 32)
    let y := beNat (o.bytes 8 32)
    if onCurve x y then
      let z := (pointWords (s.freeCtr * 128) (pointMul 256 (d % p256n) (some (x, y)))).take 8
      if o.cmd.getLsbD 15 then .done [] 0 (some z) else .done z 0 none
    else .done [] 4 none
  | 12 => .done (pointWords (s.freeCtr * 128) (pointMul 256 (d % p256n) (some p256g))) 0 none
  | 14 =>
    let header := o.got.getD 0 0
    let t := (fld header 0 4 : BitVec 4).toNat
    if cmdKsrc o.cmd = 3 then
      if t ≠ 4 then .done [] 2 none
      else if s.rngAlarm then .done [] 5 none
      else if o.nonce.length < 8 then .redraw
      else if k = 0 ∨ p256n ≤ k then .redraw
      else .done (s.wrapBody (cmdSlot o.cmd) header (wordsToBytes o.nonce)) 0 none
    else
      let key := wordsToBytes o.key.toList
      .done (s.wrapBody (cmdSlot o.cmd) header (if t = 1 then key.take 16 ++ List.replicate 16 0 else key)) 0 none
  | _ => .done [] 0 none

/-- Cipher cycles of an operation on a direct key (Table CRY-2); the others' count is not printed and is a free value. -/
def CryptOp.cycles (o : CryptOp) (key : Nat) : BitVec 24 :=
  let blk := if o.wide then 16 else 12
  let len := o.len.toNat
  let sha := fun n => (n + 9 + 63) / 64
  let direct := decide (cmdKsrc o.cmd ≠ 0)
  match o.code with
  | 6 => BitVec.ofNat 24 (68 * sha len)
  | 13 => 0
  | c =>
    if direct && (c == 1 || c == 2 || c == 3) then BitVec.ofNat 24 (blk * ((len + 15) / 16))
    else if direct && (c == 4 || c == 5) then
      BitVec.ofNat 24 (blk * ((ccmMacInput (cmdL o.cmd) (cmdMic o.cmd) o.nonceBytes o.adata o.payload).length / 16 + (len + 15) / 16 + 1))
    else if direct && (c == 7 || c == 8) then BitVec.ofNat 24 (68 * (sha (64 + len) + sha 96))
    else fld (Config.freeWord key) 0 24

/-- The operation ends (R496): its last output enters OUT, KT and IV take what it gives them; with CODE other than 0 from OP 5, OUT empties. Where input is
missing, OUT has no room, or random words are awaited, the end does not come about; a rejected nonce is drawn again (R493). -/
def cryptDone (s : State) : State :=
  match s.crypt.op with
  | none => s
  | some o =>
    if s.inputDone o && o.outPend.isEmpty then
      match s.opResult o with
      | .redraw =>
        if 8 ≤ o.nonce.length then cryptDraw 8 (s.setCrypt { s.crypt with op := some { o with nonce := [] } }) else s
      | .done out code kt =>
        if s.crypt.outFifo.length + out.length ≤ 16 then
          let s := s.setCrypt { s.crypt with outFifo := (if o.code = 5 ∧ code ≠ 0 then [] else s.crypt.outFifo ++ out) }
          let s := s.setPar P.CRYPT_CYCLES ((o.cycles (s.freeCtr * 128 + 16)).setWidth 36)
          let s := match kt with
            | some ws =>
              (s.setCrypt { s.crypt with kt := Vector.ofFn (fun i => ws.getD i.val 0) }).setPar P.CRYPT_KEYDOM
                (putBit (putFld (s.par P.CRYPT_KEYDOM) 5 o.owner) 9 true)
            | none => s
          let s := if o.code = 3 then
              let iv := bytesToWords (incBlock o.ivBytes ((o.len.toNat + 15) / 16))
              (List.range 4).foldl (fun s i => s.setPar (P.CRYPT_IV + i) ((iv.getD i 0).setWidth 36)) s
            else s
          endOp code o.cmd o.owner s.drawn
        else s
    else s

/-! ### Revocation and power (R504, R505) -/

/-- The cipher unit's part of a revocation of domain `d` (R504). -/
def cryptRevoke (d : Dom) (s : State) : State :=
  let s := s.orPar P.CRYPT_KREFUSE (putBit (0 : Word) d.toNat true)
  let s := match s.crypt.op with
    | some o => if o.owner = d then stopOp 6 (clearFifos s) else s
    | none => s
  clearKeysOf (fun e => e == d) s

/-- A running operation ends with CODE 7; KT, KEY, both FIFOs and the generator clear (R505). -/
def cipherStop (s : State) : State :=
  let s := clearKeys (clearFifos (stopOp 7 s))
  showRng ((s.setRng s.rng.fresh).parBit P.RNG_STATUS 0 false)

/-- The CIPHER shell takes its S: values; KREFUSE, RNG.STATUS.ALARM and RNG.ALMINFO stay in the CORE shell (R502, R504, R506). -/
def cipherShellReset (s : State) : State :=
  let alarm := s.rngAlarm
  let s := { s with params := s.params.filter (fun e => decide (e.1 / 256 ≠ 0x1C) || decide (e.1 = P.CRYPT_KREFUSE) || decide (e.1 = P.RNG_ALMINFO)) }
  s.setPar P.RNG_STATUS (if alarm then 2 else 0)

/-- PWR.ISLAND.CIPHER = 0 (R505). -/
def cipherOff (s : State) : State := cipherShellReset (cipherStop s)

/-- Power-up restarts the start-up test (R501, R505). -/
def cipherPowerUp (s : State) : State := (cipherShellReset s).setRng s.rng.fresh

/-- The CODE of the last operation (Table CRY-6). -/
def State.cryptCode (s : State) : BitVec 5 := fld (s.par P.CRYPT_STATUS) 2 5

/-- Sepia has the cipher unit verify a signature as owner 0 (OP 10, R492): hash, Qx, Qy, r and s, which it feeds as IN takes them. -/
def sepiaVerify (ws : List (BitVec 32)) (s : State) : State :=
  let s := startOp 10 0 s
  match s.crypt.op with
  | some o => cryptDone (s.setCrypt { s.crypt with inFifo := [], op := some { o with got := ws, need := 0 } })
  | none => s

end Sys2Proof.Machine
end

