-- ==== Sys2Proof/Machine/HostCore.lean ====
section
/-!
DEFINITION. Sys2Proof/Machine/HostCore.lean: the direct registers of the host port, its error record and its interrupt bits (18 R573, R574, R584), which other
blocks set.
-/

namespace Sys2Proof.Machine

def State.setHost (s : State) (h : HostSt) : State := { s with host := h }

/-- Register numbers of Table HST-3. -/
def hSTATUS : Fin 32 := 0x00
def hERR : Fin 32 := 0x01
def hIRQ : Fin 32 := 0x02
def hMASK : Fin 32 := 0x03
def hCTL : Fin 32 := 0x04
def hPIDXL : Fin 32 := 0x05
def hPIDXH : Fin 32 := 0x06
def hPDAT : Fin 32 := 0x07
def hMADDR : Fin 32 := 0x0C
def hMLANE : Fin 32 := 0x0F
def hMDAT : Fin 32 := 0x10
def hDOORBELL : Fin 32 := 0x15
def hMBOX : Fin 32 := 0x16
def hWQ : Fin 32 := 0x17
def hEADDR : Fin 32 := 0x1A
def hPSTAT : Fin 32 := 0x1D
def hTOCNT : Fin 32 := 0x1E

/-- The held value of a direct register. -/
def State.hreg (s : State) (r : Fin 32) : Byte := s.host.regs[r]

def State.setHreg (s : State) (r : Fin 32) (v : Byte) : State := s.setHost { s.host with regs := s.host.regs.set r v }

/-- Set a bit of H.IRQ (Table HST-3): 0 DOOR, 1 ERR, 2 READY, 3 SVC, 4 HALT, 5 LOCKREL, 6 TIMEOUT. -/
def hostIrq (bit : Nat) (s : State) : State := s.setHreg hIRQ (putBit (s.hreg hIRQ) bit true)

/-- Record an error (R574, Table HST-4): the first since clearing takes CODE and H.EADDR and sets H.IRQ.ERR, a later one sets MORE. -/
def hostError (code : BitVec 4) (addr : Addr) (s : State) : State :=
  if s.hreg hERR = 0 then
    let s := s.setHreg hERR (code.setWidth 8)
    let s := s.setHreg 0x1A (fld addr 0 8)
    let s := s.setHreg 0x1B (fld addr 8 8)
    let s := s.setHreg 0x1C (fld addr 16 8)
    hostIrq 1 s
  else s.setHreg hERR (putBit (s.hreg hERR) 7 true)

/-- The window address of a parameter, as H.EADDR shows it (Table HST-3). -/
def parAddr (i : Nat) : Addr := 0x400000#24 + BitVec.ofNat 24 i

/-- H.STATUS.RDY (R590) is held in bit 7 of register 0. -/
def State.hostRdy (s : State) : Bool := (s.hreg hSTATUS).getLsbD 7

/-- RDY rises: H.IRQ.READY sets (Table HST-3, R590). -/
def hostReady (s : State) : State :=
  if s.hostRdy then s else hostIrq 2 ((s.setHreg hSTATUS (putBit (s.hreg hSTATUS) 7 true)).parBit P.HOST_STAT 1 true)

/-- A doorbell byte reaches HOST.DOORIN with source HOST; request line 10 is asserted (R589). -/
def ringBell (b : Byte) (s : State) : State :=
  let v := s.par P.HOST_DOORIN
  let v := putBit (putFld (putFld v 0 b) 8 ((fld v 8 8 : BitVec 8) + 1)) 35 true
  ((s.setPar P.HOST_DOORIN v).setHost { s.host with bell := true, doorLine := true }).raiseIrq 21

/-- Doorbell bytes that waited behind a write arrive in their order (R48). -/
def ringAll (bs : List Byte) (s : State) : State := bs.foldl (fun s b => ringBell b s) s

/-- Umber is halted by debug (R532). -/
def State.umberHalted (s : State) : Bool := decide (s.umber.run = .halted)

/-- HIRQ would be asserted: (H.IRQ AND H.MASK) is not 0 (R584). -/
def State.hirq (s : State) : Bool := (s.hreg hIRQ &&& s.hreg hMASK) != 0

/-- H.STATUS as it reads (Table HST-5). -/
def State.hostStatus (s : State) : Byte :=
  let v : Byte := s.hreg hSTATUS &&& 0x81
  let v := putBit v 6 (s.hreg hERR != 0)
  let v := putBit v 5 s.umberHalted
  let v := putBit v 4 ((s.par P.PIER_STATUS).getLsbD 3)
  let v := putBit v 3 (decide (4 ≤ s.host.wq.length))
  let v := putBit v 2 (!s.host.wq.isEmpty)
  putBit v 1 s.hirq

end Sys2Proof.Machine
end

