-- ==== Sys2Proof/Machine/Flags.lean ====
section
/-!
DEFINITION. Sys2Proof/Machine/Flags.lean: results and flags of the ALU, shift, multiply and accumulator instructions (06 R193, R199; 07 R216-R218,
R226-R227, R233-R234). A flag write is a list of (SR bit, value); SR bits 11:0 are those of Table UMM-3.
-/

namespace Sys2Proof.Machine

/-- SR bits 11:0 (Table UMM-3). -/
def fPB0 : Nat := 0
def fPB1 : Nat := 1
def fZ : Nat := 2
def fN : Nat := 3
def fC : Nat := 4
def fV : Nat := 5
def fSV : Nat := 6
def fINX : Nat := 7
def fUNF : Nat := 8
def fOVF : Nat := 9
def fDZ : Nat := 10
def fINV : Nat := 11

/-- A list of flag writes. -/
abbrev FlagW := List (Nat × Bool)

/-- A word result with its flag writes. -/
structure Alu where
  val : Word
  flags : FlagW
  deriving DecidableEq, Repr

/-- Apply flag writes to SR. -/
def applyFlags (fs : FlagW) (sr : Word) : Word := fs.foldl (fun sr f => putBit sr f.1 f.2) sr

/-- The largest and smallest signed words (R234). -/
def wordMax : Word := 0x7FFFFFFFF#36
def wordMin : Word := 0x800000000#36

/-- "ZN": Z and N from the result, V cleared, C unchanged (R199). -/
def znFlags (r : Word) : FlagW := [(fZ, r == 0), (fN, r.msb), (fV, false)]

def aluZN (r : Word) : Alu := { val := r, flags := znFlags r }

/-- Signed range of a word. -/
def inWord (x : Int) : Bool := decide (-(2 ^ 35) ≤ x) && decide (x < 2 ^ 35)

/-- A signed result under the saturation bit (R193): outside the range with S = 1 it is the nearest end, with SV and V set; with S = 0 it
wraps, and V is set on signed overflow with SV unchanged. -/
def satWord (sat : Bool) (x : Int) : Word × FlagW :=
  if inWord x then (BitVec.ofInt 36 x, [(fV, false)])
  else if sat then ((if x < 0 then wordMin else wordMax), [(fV, true), (fSV, true)])
  else (BitVec.ofInt 36 x, [(fV, true)])

/-- "ZNCV": all four flags from the result (R199). -/
def aluZNCV (sat : Bool) (x : Int) (c : Bool) : Alu :=
  let r := satWord sat x
  { val := r.1, flags := (fZ, r.1 == 0) :: (fN, r.1.msb) :: (fC, c) :: r.2 }

/-- Addition with carry in (ADD, ADC, ADDI): C is the carry out of bit 35. -/
def aluAdd (sat : Bool) (a b : Word) (cin : Bool) : Alu :=
  aluZNCV sat (a.toInt + b.toInt + cin.toNat) (decide (2 ^ 36 ≤ a.toNat + b.toNat + cin.toNat))

/-- Subtraction with borrow in (SUB, SBC, CMP, CMPI, NEG): C is not-borrow. -/
def aluSub (sat : Bool) (a b : Word) (bin : Bool) : Alu :=
  aluZNCV sat (a.toInt - b.toInt - bin.toNat) (decide (b.toNat + bin.toNat ≤ a.toNat))

/-- ABS: the most negative word gives itself with V = 1, or the largest word with S = 1; C = 0 (Table UMI-4). -/
def aluAbs (sat : Bool) (a : Word) : Alu := aluZNCV sat (a.toInt.natAbs : Int) false

/-- Flags of a shift: ZN with C the last bit out, unchanged for a shift by 0 (Table UMI-5). -/
def shiftFlags (r : Word) (k : Nat) (out : Bool) : FlagW :=
  znFlags r ++ (if k = 0 then [] else [(fC, out)])

/-- LSL: k ≥ 36 gives 0. V on signed overflow (R193; log 20); with S = 1 it saturates when any bit shifted out, or bit 35 of the result, differs from
bit 35 of Da. -/
def aluLsl (sat : Bool) (a : Word) (k : Nat) : Alu :=
  let r := satWord sat (a.toInt * 2 ^ k)
  let out := if k ≤ 36 then a.getLsbD (36 - k) else false
  { val := r.1, flags := [(fZ, r.1 == 0), (fN, r.1.msb)] ++ (if k = 0 then [] else [(fC, out)]) ++ r.2 }

/-- LSR: k ≥ 36 gives 0. -/
def aluLsr (a : Word) (k : Nat) : Alu :=
  let r := a >>> k
  { val := r, flags := shiftFlags r k (if k ≤ 36 then a.getLsbD (k - 1) else false) }

/-- ASR: k ≥ 36 gives 36 copies of bit 35. -/
def aluAsr (a : Word) (k : Nat) : Alu :=
  let r := a.sshiftRight k
  { val := r, flags := shiftFlags r k (if k ≤ 36 then a.getLsbD (k - 1) else a.msb) }

/-- ROL by k mod 36: ZN. -/
def aluRol (a : Word) (k : Nat) : Alu := aluZN (a.rotateLeft (k % 36))

/-- Number of leading bits of `a` equal to `b`, from bit 35 down. -/
def leadCount (a : Word) (b : Bool) : Nat :=
  ((List.range 36).takeWhile (fun i => a.getLsbD (35 - i) == b)).length

def wClz (a : Word) : Word := BitVec.ofNat 36 (leadCount a false)
def wCls (a : Word) : Word := BitVec.ofNat 36 (leadCount a a.msb - 1)

/-- EXTS: sign-extend from bit b. -/
def wExts (a : Word) (b : Nat) : Word := ((a.setWidth (b + 1)).signExtend 36)

/-- EXTZ: clear the bits above bit b. -/
def wExtz (a : Word) (b : Nat) : Word := ((a.setWidth (b + 1)).setWidth 36)

/-- SWAPH: exchange the halfword lanes. -/
def wSwaph (a : Word) : Word := (fld a 0 18 : BitVec 18) ++ (fld a 18 18 : BitVec 18)

def wMul (a b : Word) : Word := a * b
def wMulh (a b : Word) : Word := BitVec.ofInt 36 ((a.toInt * b.toInt) / 2 ^ 36)
def wMulhu (a b : Word) : Word := BitVec.ofNat 36 (a.toNat * b.toNat / 2 ^ 36)

/-- Division by 2^k truncated toward zero (R233). -/
def truncDiv (x : Int) (k : Nat) : Int := x.tdiv (2 ^ k)

/-- MULQ: the Q1.35 product truncated toward zero; −1 × −1 overflows (Table UMI-5, R233). -/
def aluMulq (sat : Bool) (a b : Word) : Alu := aluZNCV sat (truncDiv (a.toInt * b.toInt) 35) false

/-! ### Accumulators -/

/-- An accumulator result with its flag writes. -/
structure AccR where
  val : Acc
  flags : FlagW
  deriving DecidableEq, Repr

/-- The 72-bit signed range of R218. -/
def in72 (x : Int) : Bool := decide (-(2 ^ 71) ≤ x) && decide (x < 2 ^ 71)

/-- A MAC-class result (R218): with S = 0 it wraps modulo 2^80 and no flag changes; with S = 1 it saturates to the 72-bit range with SV and V set, and
otherwise V is cleared. -/
def satAcc (sat : Bool) (x : Int) : AccR :=
  if sat then
    if in72 x then { val := BitVec.ofInt 80 x, flags := [(fV, false)] }
    else { val := BitVec.ofInt 80 (if x < 0 then -(2 ^ 71) else 2 ^ 71 - 1), flags := [(fV, true), (fSV, true)] }
  else { val := BitVec.ofInt 80 x, flags := [] }

/-- The real and imaginary parts of a C18 word as exact integers (Table UMM-7). -/
def c18Re (a : Word) : Int := (fld a 18 18 : BitVec 18).toInt
def c18Im (a : Word) : Int := (fld a 0 18 : BitVec 18).toInt

/-- The flags of two accumulators saturated separately: V is 1 if either saturated (R218). -/
def pairFlags (r i : AccR) : FlagW :=
  if r.flags.contains (fV, true) || i.flags.contains (fV, true) then [(fV, true), (fSV, true)]
  else if r.flags.isEmpty then [] else [(fV, false)]

/-- The complex product a·b (or a·conj b) aligned to Q10.70: shifted left by 36 bits (R216, Table UMD-1). -/
def c18Mul (conj : Bool) (a b : Word) : Int × Int :=
  let x := c18Re a; let y := c18Im a; let u := c18Re b; let v := c18Im b
  if conj then ((x * u + y * v) * 2 ^ 36, (y * u - x * v) * 2 ^ 36)
  else ((x * u - y * v) * 2 ^ 36, (x * v + y * u) * 2 ^ 36)

/-- The redundant sign bits r of an accumulator: the bits from 78 down that equal bit 79 (R227). -/
def signRun (a : Acc) : Nat := ((List.range 79).takeWhile (fun i => a.getLsbD (78 - i) == a.msb)).length

/-- The NORM shift count k = r − 8 (R227). -/
def normCount (a : Acc) : Int := (signRun a : Int) - 8

/-- NORM of an accumulator: left by k, or right by −k truncating toward zero; 0 stays 0 (R227). -/
def normAcc (a : Acc) : Acc :=
  let k := normCount a
  if 0 ≤ k then a <<< k.toNat else BitVec.ofInt 80 (truncDiv a.toInt (-k).toNat)

/-- EXTA: the accumulator divided by 2^k truncated toward zero; V and SV only with S = 1 (Table UMD-5). -/
def aluExta (sat : Bool) (a : Acc) (k : Nat) : Alu :=
  let q := truncDiv a.toInt k
  if sat then
    let r := satWord true q
    { val := r.1, flags := r.2 }
  else { val := BitVec.ofInt 36 q, flags := [] }

/-- The part of an accumulator (R157): 0 ACnL, 1 ACnM, 2 ACnG sign-extended. -/
def accPart (a : Acc) (part : Nat) : Word :=
  match part with
  | 0 => fld a 0 36
  | 1 => fld a 36 36
  | _ => (fld a 72 8 : BitVec 8).signExtend 36

/-- An accumulator with one part replaced; ACnG takes bits 7:0 (R157). -/
def setAccPart (a : Acc) (part : Nat) (w : Word) : Acc :=
  match part with
  | 0 => putFld a 0 w
  | 1 => putFld a 36 w
  | _ => putFld a 72 (fld w 0 8 : BitVec 8)

/-! ### Pointer arithmetic -/

/-- The smallest power of two not below `l` (R231). -/
def pow2Above (l : Nat) : Nat := 2 ^ Nat.clog 2 l

/-- Modulo stepping of a pointer (R231). -/
def modStep (p : Addr) (len : Addr) (d : Int) : Addr :=
  let m := pow2Above len.toNat
  let b := p.toNat / m * m
  let o : Int := p.toNat - b
  BitVec.ofNat 24 (b + ((o + d) % (len.toNat : Int)).toNat)

/-- Reverse-carry stepping of a pointer (R232). -/
def revStep (p n : Addr) : Addr := (p.reverse + n.reverse).reverse

/-- The pointer after a post-modification by `d` under a PMODE mode: 1 modulo on L when L > 0, 2 reverse carry when the step is N, otherwise linear
(R159, R231, R232). -/
def stepPointer (mode : BitVec 2) (p n l : Addr) (byN : Bool) (d : Int) : Addr :=
  if mode = 1 && l != 0 then modStep p l d
  else if mode = 2 && byN then revStep p n
  else p + BitVec.ofInt 24 d

end Sys2Proof.Machine
end

