-- ==== Sys2Proof/Machine/Protect.lean ====
section
/-!
DEFINITION. Sys2Proof/Machine/Protect.lean: the protection unit (10 R320-R328): regions, block masks, and the records of refused accesses.
-/

namespace Sys2Proof.Machine

/-- The master of an access with what its checks need: its domain (Table DMA-1), privilege (SR.PRV of Umber, right PARAM of the host), and for DMA
its channel. -/
structure Accessor where
  master : Master
  dom : Dom
  prv : Bool
  deriving DecidableEq, Repr

/-- Spaces of ATTR.SPACE (R321). -/
def spData : BitVec 2 := 0
def spProg : BitVec 2 := 1
def spBit : BitVec 2 := 2

/-- The index of MPU.BASE of domain d region r (R321). -/
def regionIdx (d r : Nat) : Nat := P.MPU_BASE + 48 * d + 3 * r

/-- Region r of domain d matches an access (R321). `late` names the regions disabled since the access was checked (R343). -/
def State.regionMatches (s : State) (d r : Nat) (space : BitVec 2) (a : Addr) (prvUmber dma : Bool) (late : BitVec 16) : Bool :=
  let attr := s.par (regionIdx d r + 2)
  let lo : Addr := fld (s.par (regionIdx d r)) 0 24
  let hi : Addr := fld (s.par (regionIdx d r + 1)) 0 24
  (attr.getLsbD 3 || late.getLsbD r) && decide ((fld attr 4 2 : BitVec 2) = space) && decide (lo.toNat ≤ a.toNat) && decide (a.toNat ≤ hi.toNat)
    && (!attr.getLsbD 7 || prvUmber) && (!attr.getLsbD 6 || !dma)

/-- Some matching region grants the permission: 0 R, 1 W, 2 X (R322). -/
def State.grants (s : State) (d : Dom) (space : BitVec 2) (a : Addr) (perm : Nat) (prvUmber dma : Bool) (late : BitVec 16) : Bool :=
  (List.range 16).any (fun r => s.regionMatches d.toNat r space a prvUmber dma late && (s.par (regionIdx d.toNat r + 2)).getLsbD perm)

/-- The permissions an access needs (R322). -/
inductive Need where
  | r
  | w
  | rw
  | x
  deriving DecidableEq, Repr

/-- The region check (R322): `none` permitted, otherwise the sub-cause 0 read, 1 write, 2 execute, W before R (R323). -/
def State.regionFail (s : State) (acc : Accessor) (space : BitVec 2) (a : Addr) (need : Need) : Option (BitVec 3) :=
  let prvU := decide (acc.master = .umber) && acc.prv
  let dma := acc.master.isDma
  let late := if acc.master = .umber then s.umber.inFlight else 0
  let g := fun p => s.grants acc.dom space a p prvU dma late
  match need with
  | .r => if g 0 then none else some 0
  | .w => if g 1 then none else some 1
  | .rw => if !g 1 then some 1 else if !g 0 then some 0 else none
  | .x => if g 2 then none else some 2

/-- Umber as the accessor of its present access (Table DMA-1, R172). -/
def State.umberAcc (s : State) : Accessor :=
  { master := .umber, dom := fld s.umber.sr 16 4, prv := s.umber.sr.getLsbD 20 }

def sepiaAcc : Accessor := { master := .sepia, dom := 0, prv := true }

/-- The masks of a block: read mask in bits 15:0, write mask in bits 31:16 (R324, R628). -/
def State.blockMask (s : State) (b : Nat) : BitVec 32 := SMap.getD s.masks b 0x00030003#32

def State.setBlockMask (s : State) (b : Nat) (v : BitVec 32) : State :=
  { s with masks := SMap.put s.masks b 0x00030003#32 v }

/-- The domain mask of the block of a populated index permits the access (R324); Sepia is never masked (Table DMA-1). -/
def State.maskOk (s : State) (acc : Accessor) (idx : Nat) (write : Bool) : Bool :=
  decide (acc.master = .sepia) || (s.blockMask (idx / 256)).getLsbD ((if write then 16 else 0) + acc.dom.toNat)

/-- Master code of SYS.PERR (Table MAP-2). -/
def perrCode (m : Master) : BitVec 3 :=
  match m with
  | .sepia => 0
  | .umber => 1
  | .dma _ => 2
  | .host => 3

/-- SYS.PERR records the first refused or denied access and SYS.PERRCNT counts each (R624). -/
def notePerr (m : Master) (idx : Nat) (reason : BitVec 4) (write : Bool) (s : State) : State :=
  let s := s.setPar P.SYS_PERRCNT (bumpFld (s.par P.SYS_PERRCNT) 0 16)
  if (s.par P.SYS_PERR).getLsbD 35 then s
  else
    let v : Word := putFld (putFld ((BitVec.ofNat 13 idx).setWidth 36) 13 (perrCode m)) 16 reason
    s.setPar P.SYS_PERR (putBit (putBit v 20 write) 35 true)

/-- A bus status of Umber: a BSTAT bit sets, and for a parameter access bits 20:8 take the index (R160, R624, R625). -/
def noteBstat (bit : Nat) (idx : Option Nat) (s : State) : State :=
  let b := putBit s.umber.bstat bit true
  let b := match idx with
    | some i => putFld b 8 (BitVec.ofNat 13 i)
    | none => b
  { s with umber := { s.umber with bstat := b } }

/-- A refused access of a master other than Umber: DOM.VIOL keeps the first record, DOM.VIOLCNT counts (R323). -/
def noteViol (code : BitVec 3) (dom : Dom) (a : Addr) (write : Bool) (s : State) : State :=
  let s := s.setPar P.DOM_VIOLCNT (bumpFld (s.par P.DOM_VIOLCNT) 0 16)
  if (s.par P.DOM_VIOL).getLsbD 35 then s
  else s.setPar P.DOM_VIOL (putBit (putBit (putFld (putFld (a.setWidth 36) 24 dom) 28 code) 31 write) 35 true)

/-- The regions of a domain that are enabled. -/
def State.enabledRegions (s : State) (d : Nat) : BitVec 16 :=
  (List.range 16).foldl (fun w r => putBit w r ((s.par (regionIdx d r + 2)).getLsbD 3)) 0

/-- Sepia may read a word of data NVM or of the program window: the check of Table DMA-1 in domain 0 (R320, R322). While no region of domain 0 is enabled it refuses
nothing, since R328 leaves them all disabled when R550 has Sepia read the owner configuration: that is the model's reading (log 83). -/
def State.sepiaMayRead (s : State) (a : Addr) : Bool := s.enabledRegions 0 == 0 || (s.regionFail sepiaAcc spData a .r).isNone

/-- An NVM cell as Sepia reads it at its data-space address: none where it is uncorrectable, or where the check refuses the read (R320, R323). -/
def State.sepiaWord (s : State) (a : Addr) (c : Cell) : Option Word :=
  if s.sepiaMayRead a then
    match eccRead c with
    | .good w => some w
    | .corrected w _ => some w
    | .bad _ => none
  else none

/-- Sepia reads a range of data NVM, or of program NVM: the words that the check refuses are recorded with master 4 (R323), the others read as any NVM word (R308). -/
def sepiaSaw (prog : Bool) (lo n : Nat) (s : State) : State :=
  let t := if s.enabledRegions 0 == 0 then s
    else ((List.range n).filter (fun k => !s.sepiaMayRead (nvmAddr prog (lo + k)))).foldl (fun t k => noteViol 4 0 (nvmAddr prog (lo + k)) false t) s
  nvmSaw s.sepiaMayRead prog lo n t

/-- DOM.LASTFLT records an Umber protection fault (Table DMA-11). -/
def noteLastFlt (a : Addr) (sub : BitVec 3) (s : State) : State :=
  s.setPar P.DOM_LASTFLT (putFld (putFld (a.setWidth 36) 24 sub) 27 (fld s.umber.sr 16 4 : BitVec 4))

/-- A region of a domain, written whole (R328, R551). -/
def setRegion (d r : Nat) (base limit : Addr) (attr : BitVec 8) (s : State) : State :=
  ((s.setPar (regionIdx d r) (base.setWidth 36)).setPar (regionIdx d r + 1) (limit.setWidth 36)).setPar
    (regionIdx d r + 2) (attr.setWidth 36)

/-- Domain 1's regions at boot (Table DMA-2). Permission bits: 0 R, 1 W, 2 X; bit 3 EN; bits 5:4 SPACE. -/
def loadBootRegions (vbase : Addr) (s : State) : State :=
  let s := setRegion 1 0 vbase (vbase + 0x017FFF#24) 0x1C s
  let s := setRegion 1 1 0x000000 0x100FFF 0x0B s
  let s := setRegion 1 2 0x200000 0x32FFFF 0x09 s
  let s := setRegion 1 3 0x400000 0x4101FF 0x0B s
  setRegion 1 4 0x000100 0x000FFF 0x2B s

/-- Every region of a domain is disabled (R343, R640). -/
def disableRegions (d : Nat) (s : State) : State :=
  (List.range 16).foldl (fun s r => s.parBit (regionIdx d r + 2) 3 false) s

/-! ### Lock bits -/

/-- A lock bit is set, with its owner tag (R169). -/
def State.lockOwner (s : State) (k : BitVec 8) : Option Dom := SMap.find s.umber.locks k.toNat

def State.setLocks (s : State) (l : SMap Dom) : State := { s with umber := { s.umber with locks := l } }

/-- Set a clear lock bit with an owner (R169, R353). -/
def takeLock (k : BitVec 8) (d : Dom) (s : State) : State :=
  match s.lockOwner k with
  | some _ => s
  | none => s.setLocks (SMap.insert s.umber.locks k.toNat d)

def freeLock (k : BitVec 8) (s : State) : State := s.setLocks (SMap.erase s.umber.locks k.toNat)

/-- Revocation releases every lock bit whose owner tag is d (R343). -/
def releaseLocks (d : Dom) (s : State) : State := s.setLocks (s.umber.locks.filter (fun e => decide (e.2 ≠ d)))

end Sys2Proof.Machine
end

