-- ==== Sys2Proof/Machine/UmberCore.lean ====
section
/-!
DEFINITION. Sys2Proof/Machine/UmberCore.lean: what every Umber instruction shares (05, 06 R192-R204, 07 R228-R230, 08 R254-R257): reading operands under the
distances, committing writes, conditions, delay slots, repeats, the fetch, and taking and leaving exceptions.
-/

namespace Sys2Proof.Machine

def State.setUmber (s : State) (u : UmberSt) : State := { s with umber := u }

/-! ### SR fields (Table UMM-3) -/

def srDom (sr : Word) : Dom := fld sr 16 4
def srPrv (sr : Word) : Bool := sr.getLsbD 20
def srIe (sr : Word) : Bool := sr.getLsbD 21
def srIpl (sr : Word) : BitVec 3 := fld sr 22 3
def srExl (sr : Word) : Bool := sr.getLsbD 25
def srNmil (sr : Word) : Bool := sr.getLsbD 26
def srFtrap (sr : Word) : Bool := sr.getLsbD 27
def srRpta (sr : Word) : Bool := sr.getLsbD 28

/-- The reset value of SR (R161). -/
def srReset : Word := 0x000110000#36

/-- The bits of SR that exist (Table UMM-3). -/
def srMask : Word := 0x01FFF0FFF#36

/-! ### Operands and distances (Table UMT-1) -/

/-- How an instruction uses a value. -/
inductive Use where
  | data
  | addr
  | cond
  | mac
  deriving DecidableEq, Repr

/-- The distance of a producer class to a use (Table UMT-1). -/
def minDist (p : Prod) (u : Use) : Nat :=
  match p with
  | .alu => if u = .addr then 2 else 0
  | .load => 2
  | .loadTile => 1
  | .frame => 2
  | .postMod => 0
  | .acc => if u = .mac then 0 else 1
  | .flag => 1
  | .f36 => 2
  | .mvtc => 2

/-- The control register of an index of Table UMM-2. -/
def UmberSt.ctl (u : UmberSt) (i : Fin 17) : Word :=
  match i.val with
  | 0 => u.sr
  | 1 => u.pmode
  | 2 => u.rptc
  | 3 => u.epc
  | 4 => u.esr
  | 5 => u.ecause
  | 6 => u.eaddr
  | 7 => u.etgt
  | 8 => u.nepc
  | 9 => u.nesr
  | 10 => u.ncause
  | 11 => u.ien
  | 12 => u.ipend
  | 13 => u.ilvl0
  | 14 => u.ilvl1
  | 15 => u.bstat
  | _ => u.vbase

def UmberSt.setCtl (u : UmberSt) (i : Fin 17) (w : Word) : UmberSt :=
  match i.val with
  | 0 => { u with sr := w }
  | 1 => { u with pmode := w }
  | 2 => { u with rptc := w }
  | 3 => { u with epc := w }
  | 4 => { u with esr := w }
  | 5 => { u with ecause := w }
  | 6 => { u with eaddr := w }
  | 7 => { u with etgt := w }
  | 8 => { u with nepc := w }
  | 9 => { u with nesr := w }
  | 10 => { u with ncause := w }
  | 11 => { u with ien := w }
  | 12 => { u with ipend := w }
  | 13 => { u with ilvl0 := w }
  | 14 => { u with ilvl1 := w }
  | 15 => { u with bstat := w }
  | _ => { u with vbase := w }

/-- The held value of a place, zero-extended to 80 bits. -/
def UmberSt.get (u : UmberSt) : Loc → BitVec 80
  | .d r => u.d[r].setWidth 80
  | .p r => u.p[r].setWidth 80
  | .n r => u.n[r].setWidth 80
  | .l r => u.l[r].setWidth 80
  | .ac r => u.ac[r]
  | .flag i => (BitVec.ofBool (u.sr.getLsbD i.val)).setWidth 80
  | .ctl i => (u.ctl i).setWidth 80

/-- Hold a value in a place. -/
def UmberSt.put (u : UmberSt) (l : Loc) (v : BitVec 80) : UmberSt :=
  match l with
  | .d r => { u with d := u.d.set r (v.setWidth 36) }
  | .p r => { u with p := u.p.set r (v.setWidth 24) }
  | .n r => { u with n := u.n.set r (v.setWidth 24) }
  | .l r => { u with l := u.l.set r (v.setWidth 24) }
  | .ac r => { u with ac := u.ac.set r v }
  | .flag i => { u with sr := putBit u.sr i.val (v.getLsbD 0) }
  | .ctl i => u.setCtl i (v.setWidth 36)

/-- A number for each place, so that free values of one instruction differ. -/
def Loc.code : Loc → Nat
  | .d r => r.val
  | .p r => 16 + r.val
  | .n r => 32 + r.val
  | .l r => 40 + r.val
  | .ac r => 48 + r.val
  | .flag i => 52 + i.val
  | .ctl i => 64 + i.val

/-- The stronger of two gaps. -/
def Gap.join : Gap → Gap → Gap
  | .exception, _ => .exception
  | _, .exception => .exception
  | .bubble, _ => .bubble
  | _, .bubble => .bubble
  | .none, .none => .none

/-- The value a consumer reads (R257): the place's value after its latest visible producer; inside a distance the value before the producer, across a
fetch bubble either of the two (free), across an exception a free value, also once the handler has returned (R276). `between` instructions lie after the
entry looked at. -/
def seenFrom (l : Loc) (u : Use) (key : Nat) : List HEntry → Nat → Gap → BitVec 80 → BitVec 80
  | [], _, _, cur => cur
  | e :: es, between, g, cur =>
    let g := g.join e.gap
    match e.writes.find? (fun w => decide (w.loc = l)) with
    | none =>
      if e.lost.any (fun m => decide (m.loc = l) && decide (m.age + between < minDist m.prod u)) then Config.freeAcc key
      else seenFrom l u key es (between + 1) g cur
    | some w =>
      if minDist w.prod u ≤ between then cur
      else
        match g with
        | .none => seenFrom l u key es (between + 1) g w.old
        | .bubble => if Config.freeBool key then cur else seenFrom l u key es (between + 1) g w.old
        | .exception => Config.freeAcc key

/-- What the next instruction reads at a place for a use (R256, R257). -/
def State.seen (s : State) (l : Loc) (u : Use) : BitVec 80 :=
  seenFrom l u (s.freeCtr * 128 + l.code) s.umber.hist 0 .none (s.umber.get l)

def State.rdD (s : State) (r : Fin 16) : Word := (s.seen (.d r) .data).setWidth 36
def State.rdP (s : State) (r : Fin 16) (u : Use) : Addr := (s.seen (.p r) u).setWidth 24
def State.rdN (s : State) (r : Fin 8) (u : Use) : Addr := (s.seen (.n r) u).setWidth 24
def State.rdL (s : State) (r : Fin 8) (u : Use) : Addr := (s.seen (.l r) u).setWidth 24
def State.rdAc (s : State) (r : Fin 4) (u : Use) : Acc := s.seen (.ac r) u
def State.rdFlag (s : State) (i : Fin 12) : Bool := (s.seen (.flag i) .cond).getLsbD 0
def State.rdCtl (s : State) (i : Fin 17) : Word := (s.seen (.ctl i) .data).setWidth 36

/-- SR as an instruction reads it: bits 11:0 under the flag distance, the rest under that of MVTC. -/
def State.rdSr (s : State) : Word :=
  (List.finRange 12).foldl (fun sr i => putBit sr i.val (s.rdFlag i)) (s.rdCtl 0)

/-- A write an instruction makes. -/
abbrev Wr := Loc × Prod × BitVec 80

def wD (r : Fin 16) (p : Prod) (v : Word) : Wr := (.d r, p, v.setWidth 80)
def wP (r : Fin 16) (p : Prod) (v : Addr) : Wr := (.p r, p, v.setWidth 80)
def wN (r : Fin 8) (p : Prod) (v : Addr) : Wr := (.n r, p, v.setWidth 80)
def wL (r : Fin 8) (p : Prod) (v : Addr) : Wr := (.l r, p, v.setWidth 80)
def wAc (r : Fin 4) (v : Acc) : Wr := (.ac r, .acc, v)

/-- Flag writes as writes of SR bits. -/
def wFlags (p : Prod) (fs : FlagW) : List Wr :=
  fs.map (fun f => (.flag (Fin.ofNat 12 f.1), p, (BitVec.ofBool f.2).setWidth 80))

/-- Commit the writes of one instruction: the registers take their values, the values before them are kept for the distances, and nothing of it waits. -/
def commit (ws : List Wr) (s : State) : State :=
  let hs := ws.map (fun w => ({ loc := w.1, prod := w.2.1, old := s.umber.get w.1 } : HWrite))
  let u := ws.foldl (fun u w => u.put w.1 w.2.2) s.umber
  { s with umber := { u with hist := { writes := hs, gap := .none, lost := [] } :: u.hist.take 1, hold := .none, frame := [], inFlight := 0 },
           freeCtr := s.freeCtr + 1 }

/-- Mark what lies between the latest instruction and the next one (R257). -/
def markGap (g : Gap) (s : State) : State :=
  match s.umber.hist with
  | [] => s
  | e :: es => s.setUmber { s.umber with hist := { e with gap := e.gap.join g } :: es }

/-! ### Traces (Table MAP-6) -/

/-- The DBG.TRC record of a taken branch, call, return, exception entry or RETI, with TRCEN: it waits for the first instruction at the destination (R629;
log 99). -/
def traceJump (dest src : Addr) (exc : Bool) (s : State) : State :=
  if (s.par P.DBG_CTL).getLsbD 1 then
    let w := putBit (putBit (putFld (dest.setWidth 36) 24 (fld src 0 10 : BitVec 10)) 34 exc) 35 true
    s.setUmber { s.umber with trcPend := s.umber.trcPend ++ [w] }
  else s

/-- The DBG.EXC record of an exception or NMI entry, with EXCEN: it waits as that of the jump does (R629). -/
def traceExc (pc : Addr) (vec : Nat) (dom : Dom) (s : State) : State :=
  if (s.par P.DBG_CTL).getLsbD 2 then
    let w := putBit (putFld (putFld (pc.setWidth 36) 24 (BitVec.ofNat 6 vec)) 30 dom) 35 true
    s.setUmber { s.umber with excPend := s.umber.excPend ++ [w] }
  else s

/-- A record goes into the ring DBG.TRC (Table MAP-6). -/
def putTrc (s : State) (w : Word) : State :=
  let x := s.par P.DBG_TRCIDX
  let i : BitVec 8 := fld x 0 8
  let n : BitVec 8 := if i.toNat + 1 < 160 then i + 1 else 0
  (s.setPar (P.DBG_TRC + i.toNat) w).setPar P.DBG_TRCIDX (putFld (putFld x 0 n) 8 ((fld x 8 8 : BitVec 8) + 1))

/-- A record goes into the ring DBG.EXC (Table MAP-6). -/
def putExc (s : State) (w : Word) : State :=
  let x := s.par P.DBG_EXCIDX
  let i : BitVec 4 := fld x 0 4
  (s.setPar (P.DBG_EXC + i.toNat) w).setPar P.DBG_EXCIDX (putFld (putFld x 0 (i + 1)) 4 ((fld x 4 8 : BitVec 8) + 1))

/-- The first instruction at a destination issues: the records of the way there are written, in program order (R629). -/
def flushTraces (s : State) : State :=
  let t := s.umber.excPend.foldl putExc (s.umber.trcPend.foldl putTrc s)
  t.setUmber { t.umber with trcPend := [], excPend := [] }

/-! ### Exceptions -/

/-- A fault or trap an instruction raises: vector, protection sub-cause, TRAP code, and the data address of a data fault. -/
structure Trap where
  vec : Nat
  sub : BitVec 3 := 0
  code : BitVec 8 := 0
  eaddr : Option Addr := none
  deriving DecidableEq, Repr

/-- Protection fault (vector 3) with a sub-cause and address (R323). -/
def trapProt (sub : BitVec 3) (a : Addr) : Trap := { vec := 3, sub := sub, eaddr := some a }
/-- Privilege fault, sub-cause 4, of an instruction without data address (R160, R174). -/
def trapPriv : Trap := { vec := 3, sub := 4 }
def trapPoison (a : Addr) : Trap := { vec := 4, eaddr := some a }
def trapBus (a : Addr) : Trap := { vec := 5, eaddr := some a }
def trapAlign (a : Addr) : Trap := { vec := 6, eaddr := some a }
/-- The reserved-opcode trap (R197). -/
def trapRsv : Trap := { vec := 7 }
def trapF36 : Trap := { vec := 8 }

/-- The cause record of Table UMM-10. -/
def causeWord (vec : Nat) (rpta dbl : Bool) (slots : Option SlotSt) (code : BitVec 8) (sub : BitVec 3) : Word :=
  let w : Word := (BitVec.ofNat 6 vec).setWidth 36
  let w := putBit (putBit w 8 dbl) 9 rpta
  let w := match slots with
    | some k => putBit (putFld w 10 k.slot) 12 k.taken
    | none => w
  putFld (putFld w 13 code) 21 sub

/-- SR at the start of a handler: DOM = 1, PRV = 1, IE = 0, and no repeat in progress (R178, R180). -/
def handlerSr (sr : Word) : Word :=
  putBit (putBit (putBit (putFld sr 16 (1 : Dom)) 20 true) 21 false) 28 false

/-- Vector v is at VBASE + 4v (R176). -/
def vectorAddr (vbase : Word) (v : Nat) : Addr := fld vbase 0 24 + BitVec.ofNat 24 (4 * v)

/-- The producers of an entry of the history, `k` instructions after it. -/
def HEntry.marks (e : HEntry) (k : Nat) : List Mark :=
  e.writes.map (fun w => { loc := w.loc, prod := w.prod, age := k }) ++ e.lost.map (fun m => { m with age := m.age + k })

/-- The producers whose distance may still cover the next instruction of the stream. -/
def UmberSt.marks (u : UmberSt) : List Mark := ((u.hist.mapIdx (fun k e => e.marks k)).flatten).filter (fun m => decide (m.age < 2))

/-- What every entry clears: the reservation (R242), the slots, a waiting repeat, the prefetch buffer (R258), the breakpoint passed on resuming (R533); the values inside distances become undefined
(R257), also for the stream left when it resumes at `back` (R276). -/
def leaveStream (back : Addr) (s : State) : State :=
  let left := (if s.umber.marks.isEmpty then [] else [(back, s.umber.marks)]) ++ s.umber.left.filter (fun e => decide (e.1 ≠ back))
  let s := markGap .exception s
  s.setUmber { s.umber with resv := none, slots := none, rpt := none, rptRet := false, hold := .none, frame := [], inFlight := 0, wakeIrq := false,
                            left := left, prefetch := [], ieFence := false, bpPass := false }

/-- The stream that resumes at an address, or one before it where the handler has emulated an instruction (R246, R276): its address, and its producers. -/
def UmberSt.resumed (u : UmberSt) (pc : Addr) : Addr × List Mark :=
  match u.left.find? (fun e => decide (e.1 = pc)) with
  | some e => e
  | none =>
    match u.left.find? (fun e => decide (e.1 = pc - 1)) with
    | some e => (e.1, e.2.map (fun m => { m with age := m.age + 1 }))
    | none => (pc, [])

/-- RETI, committed, takes up the stream at an address: a bubble follows it (R257, R258, R276). -/
def resumeStream (pc : Addr) (s : State) : State :=
  let r := s.umber.resumed pc
  s.setUmber { s.umber with hist := { writes := [], gap := .bubble, lost := r.2 } :: (s.umber.hist.drop 1).take 1,
                            left := s.umber.left.filter (fun e => decide (e.1 ≠ r.1)), prefetch := [] }

/-- NMI entry (R180): NEPC, NESR and NCAUSE are written, NMIL, DOM, PRV and IE set, and vector 2 follows. A watchdog NMI that waits when a double fault enters is
merged with it: the spec is silent, and this is the model's choice (log 99). -/
def enterNmi (pc : Addr) (ncause : Word) (s : State) : State :=
  let sr := s.umber.sr
  let s := traceExc pc 2 (srDom sr) s
  let v := vectorAddr s.umber.vbase 2
  let s := traceJump v pc true s
  let s := leaveStream pc s
  s.setUmber { s.umber with nepc := pc.setWidth 36, nesr := sr, ncause := ncause,
                            sr := putBit (handlerSr sr) 26 true, pc := v, nmiPend := false }

/-- Exception entry (R178): EPC, ESR and ECAUSE are written, EADDR for a data fault, ETGT for a delay slot (R177); DOM = 1, PRV = 1, IE = 0, EXL = 1
and the vector follows. `ipl` is the level of an interrupt. -/
def enterException (vec : Nat) (pc : Addr) (cause : Word) (eaddr : Option Addr) (slots : Option SlotSt) (ipl : Option (BitVec 3))
    (sr : Word) (s : State) : State :=
  let s := traceExc pc vec (srDom sr) s
  let v := vectorAddr s.umber.vbase vec
  let s := traceJump v pc true s
  let s := leaveStream pc s
  let sr' := putBit (handlerSr sr) 25 true
  let sr' := match ipl with
    | some l => putFld sr' 22 l
    | none => sr'
  s.setUmber { s.umber with
    epc := pc.setWidth 36, esr := sr, ecause := cause, sr := sr', pc := v,
    eaddr := (match eaddr with | some a => a.setWidth 36 | none => s.umber.eaddr),
    etgt := (match slots with | some k => k.target.setWidth 36 | none => s.umber.etgt) }

/-- What a fault leaves of its instruction: nothing waits, a protection fault notes DOM.LASTFLT (R323), and a repeat notes RPTC (R177, R230). TRAP lies between
what precedes it and what follows (Table UMM-9). -/
def faultNoted (t : Trap) (rem : Option Nat) (s : State) : State :=
  let s := if t.vec = 9 then commit [] s else s.setUmber { s.umber with hold := .none, frame := [], inFlight := 0 }
  let s := if t.vec = 3 then noteLastFlt (t.eaddr.getD 0) t.sub s else s
  match rem with
  | some n => s.setUmber { s.umber with rptc := putBit (BitVec.ofNat 36 n) 35 true }
  | none => s

/-- A synchronous fault at the present instruction (R175-R181). `rem` is the count of a repeat including the faulting iteration. While NMIL = 1 it is
not taken and Sepia is signalled; until Sepia's reset Umber issues the instruction again, with RPTC and DOM.LASTFLT already written: R181 does not say what it does
then, and this is the model's choice (log 102). While EXL = 1 it is a double fault, of which EADDR and ETGT take the record: R181 names EPC, ESR and ECAUSE alone as kept, and
this is the model's choice (log 99). -/
def raiseFault (t : Trap) (rem : Option Nat) (s : State) : State :=
  let s := faultNoted t rem s
  let u := s.umber
  let pc := if t.vec = 9 then u.pc + 1 else u.pc
  let sr := putBit u.sr 28 rem.isSome
  if srNmil u.sr then s.setUmber { s.umber with escalate := true }
  else if srExl u.sr then
    let s := s.setUmber { s.umber with
      eaddr := (match t.eaddr with | some a => a.setWidth 36 | none => u.eaddr),
      etgt := (match u.slots with | some k => k.target.setWidth 36 | none => u.etgt) }
    enterNmi pc (causeWord t.vec rem.isSome true u.slots t.code t.sub) (s.setUmber { s.umber with sr := sr })
  else enterException t.vec pc (causeWord t.vec rem.isSome false u.slots t.code t.sub) t.eaddr u.slots none sr s

/-- The SR that RETI loads (R172, R178, R180), but for RPTA: existing bits only, DOM 0 becomes 1, PRV needs DOM 1; from the exception registers EXL clears, from
those of the NMI NMIL does. A saved DOM of 0 with PRV = 1 keeps PRV: the test of DOM follows the substitution of 1, which is this model's reading (log 99). -/
def returnSr (saved : Word) (clearExl : Bool) : Word :=
  let sr := saved &&& srMask
  let sr := if srDom sr = 0 then putFld sr 16 (1 : Dom) else sr
  let sr := if srDom sr = 1 then sr else putBit sr 20 false
  if clearExl then putBit sr 25 false else putBit sr 26 false

/-- The slots that RETI resumes from a cause record (R177): DS ≠ 0 with BT and the target in ETGT. A DS of 3, which Table UMM-10 does not define and which only a write of the
record leaves, resumes none: this is the model's choice (log 102). -/
def returnSlots (cause etgt : Word) : Option SlotSt :=
  let ds : BitVec 2 := fld cause 10 2
  if ds = 1 ∨ ds = 2 then some { slot := ds, taken := cause.getLsbD 12, target := fld etgt 0 24 } else none

/-- The repeat that RETI resumes (R230): with RPTA set and RPTC valid, COUNT 1-4,096 iterations; otherwise none. -/
def returnRepeat (saved rptc : Word) : Option (BitVec 13) :=
  let n : BitVec 13 := fld rptc 0 13
  if srRpta saved ∧ rptc.getLsbD 35 ∧ n ≠ 0 ∧ n.toNat ≤ 4096 then some n else none

/-- RETI (R172, R177, R178, R180): from an NMI while NMIL = 1, otherwise from the exception registers. -/
def doReturn (s : State) : State :=
  let nmi := srNmil s.umber.sr
  let saved := if nmi then s.rdCtl 9 else s.rdCtl 4
  let pc : Addr := fld (if nmi then s.rdCtl 8 else s.rdCtl 3) 0 24
  let cause := if nmi then s.rdCtl 10 else s.rdCtl 5
  let rep := returnRepeat saved (s.rdCtl 2)
  let slots := returnSlots cause (s.rdCtl 7)
  let old := s.umber.pc
  let s := commit [] s
  let s := traceJump pc old true s
  let s := resumeStream pc s
  s.setUmber { s.umber with sr := putBit (returnSr saved (!nmi)) 28 rep.isSome, pc := pc, slots := slots, rpt := rep, rptRet := rep.isSome, resv := none,
                            ieFence := false }

/-! ### Issue -/

/-- What an instruction does, its condition true. -/
inductive Body where
  /-- It completes with these register and flag writes, after memory effects in the state. -/
  | ok (s : State) (ws : List Wr)
  /-- A branch: its two slots follow, then the target if taken (R203). -/
  | branch (s : State) (ws : List Wr) (taken : Bool) (target : Addr)
  /-- It raises a fault; the state holds only what remains of it (R175). -/
  | trap (t : Trap) (s : State)
  /-- It has set the program counter and the rest itself (RETI, STOP). -/
  | jump (s : State)
  /-- It waits and goes on when it is issued again (R262-R264, R274). -/
  | wait (s : State) (h : Hold)

/-- Reads of program NVM take r CCLK cycles (Table ISL-5): at r = 1 a taken branch leaves no fetch bubble (Table UMT-3). -/
def State.fetchCycles (s : State) : Nat :=
  match s.pwr.point with
  | 0 => 1
  | 1 => 1
  | 2 => 2
  | _ => 3

/-- Move past an instruction: through the delay slots of a branch to its target if it was taken (R203); a target quad outside the prefetch buffer brings a fetch
bubble where its read takes more than a cycle (R257, R258). -/
def advancePc (s : State) : State :=
  let u := s.umber
  match u.slots with
  | none => s.setUmber { u with pc := u.pc + 1 }
  | some k =>
    if k.slot = 1 then s.setUmber { u with pc := u.pc + 1, slots := some { k with slot := 2 } }
    else if k.taken then
      let s := traceJump k.target (u.pc - 2) false s
      let s := if decide (1 < s.fetchCycles) && !s.umber.prefetch.contains (fld k.target 2 16) then markGap .bubble s else s
      s.setUmber { s.umber with pc := k.target, slots := none }
    else s.setUmber { u with pc := u.pc + 1, slots := none }

/-- Finish a branch: its first slot is next (R203). -/
def startSlots (taken : Bool) (target : Addr) (s : State) : State :=
  s.setUmber { s.umber with pc := s.umber.pc + 1, slots := some { slot := 1, taken := taken, target := target } }

/-- The condition of Table UMI-2 on SR as the instruction reads it (R195). -/
def condTrue (c : BitVec 4) (s : State) : Bool :=
  let z := s.rdFlag 2; let n := s.rdFlag 3; let cy := s.rdFlag 4; let v := s.rdFlag 5
  match c with
  | 0x0 => true
  | 0x1 => z
  | 0x2 => !z
  | 0x3 => xor n v
  | 0x4 => !(xor n v)
  | 0x5 => z || xor n v
  | 0x6 => !z && !(xor n v)
  | 0x7 => !cy
  | 0x8 => cy
  | 0x9 => s.rdFlag 6
  | 0xA => n
  | 0xB => cy
  | 0xC => s.rdFlag 0
  | 0xD => !s.rdFlag 0
  | 0xE => s.rdFlag 1
  | _ => !s.rdFlag 1

/-- Static properties of an instruction: it is a reserved form (R197); it is control flow, which a slot may not hold (R203); RPT accepts it (R228). -/
structure IClass where
  rsv : Bool := false
  cf : Bool := false
  rep : Bool := true
  deriving DecidableEq, Repr

/-- The fetch unit reads a quad of four program words into the prefetch buffer, which keeps four (R258, R308). -/
def readQuad (q : BitVec 16) (s : State) : State :=
  let s := [0#2, 1#2, 2#2, 3#2].foldl (fun s k => (nvmRead (s.progCell (q ++ k)) (0x300000#24 + (q ++ k).setWidth 24) s).2) s
  s.setUmber { s.umber with prefetch := q :: s.umber.prefetch.take 3 }

/-- The fetch unit reads on while the buffer has room: the next three quads of program NVM, those that it does not hold (R258). That it has got so far when an
instruction is fetched is this model's choice (log 11). -/
def readAhead (q : BitVec 16) (s : State) : State :=
  [1#16, 2#16, 3#16].foldl (fun s k =>
    if decide (q.toNat + k.toNat < 0xC000) && !s.umber.prefetch.contains (q + k) then readQuad (q + k) s else s) s

/-- A cell holds no readable word (R300, R308). -/
def cellBad (c : Cell) : Bool :=
  match eccRead c with
  | .bad _ => true
  | _ => false

/-- The instruction fetch (R164, R173, R179): bus fault outside program NVM, X of SR.DOM inside it, poison on an uncorrectable word. The quad is read unless
the prefetch buffer holds it, and those after it are read ahead (R258). -/
def fetchCheck (s : State) : Option Trap × State :=
  let pc := s.umber.pc
  if 0x030000 ≤ pc.toNat then (some { vec := 5 }, s)
  else
    match s.regionFail s.umberAcc spProg pc .x with
    | some _ => (some (trapProt 2 pc), s)
    | none =>
      let q : BitVec 16 := fld pc 2 16
      let s := readAhead q (if s.umber.prefetch.contains q then s else readQuad q s)
      (if cellBad (s.progCell (fld pc 0 18)) then some { vec := 4 } else none, s)

/-- Rights in effect (Table LIF-5), as LIFE.DBGSTAT shows them. -/
def State.right (s : State) (bit : Nat) : Bool := (s.par P.LIFE_DBGSTAT).getLsbD bit
def rightHalt : Nat := 0
def rightRegs : Nat := 1
def rightBrk : Nat := 2
def rightMemR : Nat := 3
def rightMemW : Nat := 4
def rightParam : Nat := 5
def rightNvmW : Nat := 6
def rightEolReq : Nat := 7

/-- The instruction at the program counter has been fetched and checked, and its access waits; a waiting SYNC stands at its boundary (R274). -/
def UmberSt.holds (u : UmberSt) : Bool :=
  match u.hold with
  | .none => false
  | .sync => false
  | _ => true

/-- An acceptance boundary (R183): not before a delay slot, not inside an RPT, not just after an MVTC that set SR.IE, not at a held instruction (R274). -/
def State.atBoundary (s : State) : Bool :=
  decide (s.umber.run = .running) && decide (s.pwr.mode = .active) && s.umber.slots.isNone && s.umber.rpt.isNone && !s.umber.ieFence && !s.umber.holds

/-- The enabled instruction breakpoint at the next instruction, while right BRK is in effect (R533, R629). -/
def State.breakpoint (s : State) : Option (Fin 4) :=
  if s.right rightBrk && !s.umber.bpPass then
    (List.finRange 4).find? (fun n =>
      let b := s.par (P.DBG_BP + n.val)
      b.getLsbD 24 && decide ((fld b 0 24 : BitVec 24) = s.umber.pc))
  else none

/-- Debug stops Umber at this boundary: a halt, a breakpoint or a watchpoint hit waits (R532, R533). -/
def State.debugStops (s : State) : Bool :=
  s.atBoundary && (s.umber.haltReq.isSome || s.umber.wpHit.isSome || s.breakpoint.isSome)

/-- The level of source n: its ILVL field + 1 (R182). -/
def State.irqLevel (s : State) (n : Nat) : Nat :=
  let w := if n < 16 then s.umber.ilvl0 else s.umber.ilvl1
  (fld w (2 * (n % 16)) 2 : BitVec 2).toNat + 1

/-- The sources pending, enabled and above SR.IPL (R182). -/
def State.irqReady (s : State) : List Nat :=
  (List.range 32).filter (fun n =>
    s.umber.ipend.getLsbD n && s.umber.ien.getLsbD n && decide ((srIpl s.umber.sr).toNat < s.irqLevel n))

/-- The source taken: the highest level first, the lowest number within it (R182). -/
def State.irqNext (s : State) : Option Nat :=
  s.irqReady.foldl (fun best n =>
    match best with
    | none => some n
    | some b => if s.irqLevel b < s.irqLevel n then some n else some b) none

/-- Umber runs, and no halt stops it (R532, R533). -/
def State.umberRuns (s : State) : Bool :=
  decide (s.umber.run = .running) && decide (s.pwr.mode = .active) && !s.debugStops

/-- An NMI is taken at the next boundary (R180). -/
def State.nmiTakes (s : State) : Bool := s.umberRuns && s.atBoundary && s.umber.nmiPend && !srNmil s.umber.sr

/-- An interrupt is taken at the next boundary, no NMI before it (R179, R182, R183). -/
def State.irqTakes (s : State) : Bool :=
  s.umberRuns && s.atBoundary && srIe s.umber.sr && !srExl s.umber.sr && s.irqNext.isSome && !s.nmiTakes

/-- Umber executes the next instruction: it runs, and the interrupt that ended HALT does not come first (R64). -/
def State.umberReady (s : State) : Bool := s.umberRuns && !(s.umber.wakeIrq && s.irqTakes)

/-- One execution of an instruction at its address, condition included: the writes made, or how it ends (R195, R196). -/
def runOnce (c : BitVec 4) (pm : State → List Wr) (body : State → Body) (s : State) : Body :=
  if condTrue c s then body s else .ok s (pm s)

/-- The last iteration is done: RPTA clears, and RPTC if RETI had resumed the repeat (R228, R230). -/
def endRepeat (s : State) : State :=
  s.setUmber { s.umber with rpt := none, rptRet := false, sr := putBit s.umber.sr 28 false, rptc := (if s.umber.rptRet then 0 else s.umber.rptc) }

/-- The repeat of an instruction for `n` more iterations (R228, R230, R177). -/
def runRepeat (c : BitVec 4) (pm : State → List Wr) (body : State → Body) : Nat → State → State
  | 0, s => advancePc (endRepeat s)
  | n + 1, s =>
    match runOnce c pm body s with
    | .ok s ws => runRepeat c pm body n (commit ws s)
    | .branch s _ _ _ => s
    | .jump s => s
    | .trap t s => raiseFault t (some (n + 1)) s
    | .wait s h => s.setUmber { s.umber with rpt := some (BitVec.ofNat 13 (n + 1)), hold := h }

/-- A repeat begins: RPTA is 1 (R228), and the repeat cache takes the instruction's address (R229). -/
def beginRepeat (s : State) : State :=
  s.setUmber { s.umber with sr := putBit s.umber.sr 28 true, rptCache := (s.umber.pc :: s.umber.rptCache.filter (fun a => decide (a ≠ s.umber.pc))).take 8 }

/-- A breakpoint address issued inside a run without a boundary takes effect at the first boundary after it (R533). -/
def noteBreakpoint (s : State) : State :=
  match s.breakpoint with
  | some n => if s.umber.haltReq.isNone then s.setUmber { s.umber with haltReq := some (2, BitVec.ofNat 2 n.val) } else s
  | none => s

/-- After an instruction: the WAKEM interrupt that waited for the first one is raised (R413, R423), and a single step halts at its boundary (R532). -/
def afterInstr (s : State) : State :=
  let s := s.setUmber { s.umber with fresh := false }
  let s := if (s.par P.WAKE_STATUS).getLsbD 1 then (s.parBit P.WAKE_STATUS 1 false).raiseIrq 10 else s
  if s.umber.stepping && s.umber.slots.isNone && s.umber.rpt.isNone then
    s.setUmber { s.umber with stepping := false, haltReq := some (1, 0) }
  else s

/-- Execute one instruction at the program counter, the trace records of the way to it written first (R629; R179 orders its faults: fetch, reserved opcode, then its own). A repeated instruction in the repeat
cache is not fetched (R229), nor again one that has begun and waits. -/
def issueAt (c : BitVec 4) (k : IClass) (pm : State → List Wr) (body : State → Body) (s : State) : State :=
  let s := if s.atBoundary then s else noteBreakpoint s
  let pass := s.umber.bpPass
  let s := s.setUmber { s.umber with bpPass := false, ieFence := false, wakeIrq := false }
  match (if s.umber.holds || (s.umber.rpt.isSome && s.umber.rptCache.contains s.umber.pc) then (none, s) else fetchCheck s) with
  | (some t, s) => raiseFault t (s.umber.rpt.map (fun n => n.toNat)) s
  | (none, s) =>
    let s := flushTraces s
    match s.umber.rpt with
    | some n =>
      if k.rsv || !k.rep then raiseFault trapRsv none (s.setUmber { s.umber with rpt := none, rptRet := false })
      else runRepeat c pm body n.toNat (beginRepeat s)
    | none =>
      if k.rsv || (k.cf && s.umber.slots.isSome) then raiseFault trapRsv none s
      else
        match runOnce c pm body s with
        | .ok s ws => advancePc (commit ws s)
        | .branch s ws taken target => startSlots taken target (commit ws s)
        | .trap t s => raiseFault t none s
        | .jump s => s
        | .wait s h => s.setUmber { s.umber with bpPass := pass, hold := h }

/-- Issue one instruction; one that waits has not ended. Where Umber is not ready the instruction does not come about (log 4). -/
def issue (c : BitVec 4) (k : IClass) (pm : State → List Wr) (body : State → Body) (s : State) : State :=
  if s.umberReady then
    let t := issueAt c k pm body s
    if t.umber.hold = .none then afterInstr t else t
  else s

/-- No pointer modification with a false condition. -/
def noPm (_ : State) : List Wr := []

/-- An instruction as a command: the next state always exists. -/
def umberStep (c : BitVec 4) (k : IClass) (body : State → Body) (s : State) : Host.Outcome State Fault Refusal :=
  .next (issue c k noPm body s)

/-- A branch whose condition is false is untaken and still has its slots, its target known for the cause record (R177, R203, R204). -/
def branchStep (c : BitVec 4) (k : IClass) (target : State → Addr) (body : State → Body) (s : State) : Host.Outcome State Fault Refusal :=
  .next (issue 0 { k with cf := true, rep := false } noPm
    (fun s => if condTrue c s then body s else .branch s [] false (target s)) s)

end Sys2Proof.Machine
end

