-- ==== Sys2Proof/Machine/LifeOps.lean ====
section
/-!
DEFINITION. Sys2Proof/Machine/LifeOps.lean: life-cycle states, debug authorisation and the debug functions (16 R513-R540).
-/

namespace Sys2Proof.Machine

def State.setLife (s : State) (l : LifeSt) : State := { s with life := l }

/-! ### States and the vote (R513) -/

/-- The codes of Table LIF-1, by state. -/
def lifeCode (st : Nat) : BitVec 16 :=
  match st with
  | 0 => 0x0000
  | 1 => 0x0F0F
  | 2 => 0x3F3F
  | _ => 0xFFFF

/-- The state of a code (Table LIF-1). -/
def lifeOfCode (c : BitVec 16) : Option (BitVec 2) :=
  if c = 0x0000 then some 0 else if c = 0x0F0F then some 1 else if c = 0x3F3F then some 2 else if c = 0xFFFF then some 3 else none

/-- The value on which at least two copies agree, whatever it is (R513). -/
def majority (fs : Vector (BitVec 16) 3) : Option (BitVec 16) :=
  if fs[0] = fs[1] ∨ fs[0] = fs[2] then some fs[0] else if fs[1] = fs[2] then some fs[1] else none

/-- The voted code: the value on which at least two copies agree, if it is one of the four (R513). -/
def votedCode (fs : Vector (BitVec 16) 3) : Option (BitVec 16) :=
  (majority fs).bind (fun x => (lifeOfCode x).map (fun _ => x))

/-- LIFE.STATE as the vote gives it (Table LIF-8); without a valid majority END OF LIFE with VOTEFAIL. AGREE marks the copies that hold the value voted, also
one that is no code. -/
def lifeStateWord (fs : Vector (BitVec 16) 3) : Word :=
  let fail := (votedCode fs).isNone
  let code : BitVec 16 := (votedCode fs).getD 0xFFFF
  let st : BitVec 2 := (lifeOfCode code).getD 3
  let w : Word := putBit (putFld (code.setWidth 36) 16 st) 18 fail
  (List.finRange 3).foldl (fun w k => putBit w (19 + k.val) (decide (majority fs = some fs[k]))) w

/-- The state in effect (R514): 0 BLANK, 1 TEST, 2 PRODUCTION, 3 END OF LIFE. -/
def State.lifeState (s : State) : Nat := (fld (s.par P.LIFE_STATE) 16 2 : BitVec 2).toNat

def State.voted (s : State) : BitVec 16 := fld (s.par P.LIFE_STATE) 0 16

/-- Fuses read at a reset: state, copies, unit ID, owner hash and FUSESTAT (R513, R518, Table LIF-7). -/
def loadFuses (s : State) : State :=
  let f := s.life.fuses
  let s := s.setPar P.LIFE_STATE (lifeStateWord f.copies)
  let s := (List.finRange 3).foldl (fun s k => s.setPar (P.LIFE_COPY1 + k.val) (f.copies[k].setWidth 36)) s
  let s := s.setPar P.LIFE_UID_LO ((fld f.uid 0 32 : BitVec 32).setWidth 36)
  let s := s.setPar P.LIFE_UID_HI ((fld f.uid 32 32 : BitVec 32).setWidth 36)
  let s := (List.finRange 8).foldl (fun s k => s.setPar (P.LIFE_OWNHASH + k.val) (f.ownHash[k].setWidth 36)) s
  let owner := f.ownHash.toList.any (fun w => w != 0)
  let s := s.setPar P.LIFE_FUSESTAT (putBit (putBit (boolWord owner) 1 f.uidSet) 2 f.dukSet)
  let s := s.setPar P.MGMT_VERSION (f.version.setWidth 36)
  s.setPar P.MGMT_RBCNT (f.rollback.setWidth 36)

/-! ### Rights (Table LIF-5) -/

/-- Rights that the valid certificates grant together (R529). -/
def State.certRights (s : State) : BitVec 8 :=
  s.life.grants.toList.foldl (fun r g => match g with | some c => r ||| c.rights | none => r) 0

/-- Rights in effect: all in BLANK and TEST, none in END OF LIFE, in PRODUCTION those of a Dararvor grant or the certificates. -/
def State.rightsNow (s : State) (dar : Bool) : BitVec 8 :=
  match s.lifeState with
  | 0 => 0xFF
  | 1 => 0xFF
  | 2 => if dar then 0xFF else s.certRights
  | _ => 0

/-! ### Halting (R532, R538) -/

/-- The records of a halt or a resume in DBG.STAT and LIFE.DBGSTAT (Tables MAP-6, LIF-10). -/
def showHalted (b : Bool) (s : State) : State :=
  (s.parBit P.DBG_STAT 0 b).parBit P.LIFE_DBGSTAT 11 b

/-- A watchpoint hit that waits is recorded in WPADDR and WPHIT (R533, Table MAP-6). -/
def noteWatch (s : State) : State :=
  match s.umber.wpHit with
  | some (n, a, w) =>
    let s := (s.setPar P.DBG_WPADDR (putBit (a.setWidth 36) 24 w)).setPar (P.DBG_WPHIT + n.toNat) (s.par (P.DBG_WPHIT + n.toNat) + 1)
    s.setUmber { s.umber with wpHit := none }
  | none => s

/-- Umber halts (R532): the store buffer drains, HALTED sets, DBG.STAT takes the cause and number, HALTPC the next instruction, and H.IRQ.HALT sets; a
watchpoint hit by the latest instruction is recorded, whatever the cause of the halt. -/
def haltUmber (cause : BitVec 3) (num : BitVec 2) (s : State) : State :=
  let s := noteWatch (drainSettled s)
  let s := s.setUmber { s.umber with run := .halted, haltReq := none, stepping := false }
  let s := s.setPar P.DBG_STAT (putFld (putFld (s.par P.DBG_STAT) 1 cause) 4 num)
  let s := (showHalted true s).setPar P.DBG_HALTPC (s.umber.pc.setWidth 36)
  hostIrq 4 (s.setPar P.DBG_HALTCNT (s.par P.DBG_HALTCNT + 1))

/-- Umber resumes from a halt and passes the breakpoint it stands at (R532, R533). -/
def resumeUmber (s : State) : State :=
  if s.umberHalted then
    showHalted false (s.setUmber { s.umber with run := .running, haltReq := none, bpPass := true, stepping := false })
  else s

/-- Rights change: DBGSTAT shows the rights and their sources; without BRK no watchpoint hit and no breakpoint halt waits any more (R629), and a halt that no right
holds ends (R538). -/
def showRights (dar : Bool) (s : State) : State :=
  let r := s.rightsNow dar
  let d := s.par P.LIFE_DBGSTAT
  let open' := decide (s.lifeState ≤ 1)
  let d := putFld d 0 r
  let d := putBit (putBit (putBit d 8 open') 9 dar) 10 (s.certRights != 0)
  let s := s.setPar P.LIFE_DBGSTAT d
  let s := if r.getLsbD rightBrk then s else s.setUmber { s.umber with wpHit := none, haltReq := s.umber.haltReq.filter (fun q => q.1 != 2) }
  if r.getLsbD rightHalt then s else resumeUmber (s.setUmber { s.umber with haltReq := none, stepping := false })

/-- A Dararvor grant is in effect. -/
def State.darGrant (s : State) : Bool := (s.par P.LIFE_DBGSTAT).getLsbD 9

/-! ### The debug-gate record (Table LIF-7) -/

/-- PIER.SEC as Sepia's mirror shows it. -/
def State.sepiaSec (s : State) : BitVec 33 := fld s.pier.sepiaMirror 15 33

/-- A debug-gate event in LIFE.HIST: 1 grant, 2 refusal, 3 withdrawal, 4 transition; source and code fields are coded by Config.histDetail. -/
def gateEvent (event : BitVec 3) (detail : Nat) (s : State) : State :=
  let n := s.life.histCnt
  let w : Word := putFld (putFld (event.setWidth 36) 3 (Config.histDetail event.toNat detail)) 12 (fld s.sepiaSec 0 24 : BitVec 24)
  (s.setPar (P.LIFE_HIST + n.toNat) w).setLife { s.life with histCnt := n + 1 }

/-- The latest LIFE.HIST entry. -/
def State.lastGate (s : State) : Word := s.par (P.LIFE_HIST + (s.life.histCnt - 1).toNat)

/-- A debug-gate event with its log record of type 0x00C, source 0x015 (Table SEP-7). -/
def gateLog (event : BitVec 3) (detail : Nat) (s : State) : State :=
  let s := gateEvent event detail s
  s.pushLog 0x00C 0x015 s.lastGate (s.par P.LIFE_CERTSTAT)

def setLastRes (r : BitVec 3) (s : State) : State := s.setPar P.LIFE_DBGSTAT (putFld (s.par P.LIFE_DBGSTAT) 16 r)

/-- Rights are withdrawn (R531): Dararvor grant and certificate rights end, and the nonce is discarded at a reset (R525). -/
def withdrawRights (reset : Bool) (s : State) : State :=
  let had := s.darGrant || s.certRights != 0
  let s := s.setLife { s.life with grants := Vector.replicate 8 none }
  let s := if reset then s.setLife { s.life with respChk := false, chalWait := false } else s
  let s := if reset then s.parBit P.LIFE_DBGSTAT 12 false else s
  let s := showRights false s
  if had then gateLog 3 0 s else s

/-! ### Owner certificates (R528-R530) -/

/-- Word `w` of certificate `i`, bits 31:0, as Sepia reads it. -/
def State.certWord (s : State) (i w : Nat) : Option (BitVec 32) :=
  let a := 0x100 + 40 * i + w
  (s.sepiaWord (nvmAddr false a) (s.dnvmCell (BitVec.ofNat 15 a))).map (fun v => fld v 0 32)

/-- A P-256 coordinate or scalar held as a 32-byte big-endian string in eight words (R491). -/
def wordsBeNat (ws : List (BitVec 32)) : Nat := beNat (wordsToBytes ws)

/-- The owner-hash fuses as 32 bytes (R518). -/
def State.ownHashBytes (s : State) : List Byte := wordsToBytes s.life.fuses.ownHash.toList

/-- An owner root exists: not every owner-hash fuse is 0 (R518). -/
def State.ownerRoot (s : State) : Bool := s.life.fuses.ownHash.toList.any (fun w => w != 0)

/-- The CERTSTAT code of certificate `i` and, for a valid one, what it grants (R529). -/
def State.checkCert (s : State) (i : Nat) : BitVec 4 × Option CertGrant :=
  let ws := (List.range 40).map (s.certWord i)
  let w := fun k => (ws.getD k none).getD 0
  let cls := (w 2).getLsbD 0
  let tb := (w 2).getLsbD 1
  let uid := s.life.fuses.uid
  let malformed := ws.any Option.isNone || decide ((fld (w 0) 16 16 : BitVec 16) ≠ 0) || decide (w 2 >>> 2 ≠ 0) || decide (w 7 ≠ 0)
    || (cls && (decide (w 3 ≠ 0) || decide ((fld (w 4) 0 8 : BitVec 8) ≠ 0)))
    || (!tb && (decide (w 5 ≠ 0) || decide (w 6 ≠ 0)))
  let keyB := wordsToBytes ((List.range 16).map (fun k => w (8 + k)))
  let msg := wordsToBytes ((List.range 24).map w)
  let qx := beNat (keyB.take 32)
  let qy := beNat (keyB.drop 32)
  let r := wordsBeNat ((List.range 8).map (fun k => w (24 + k)))
  let sg := wordsBeNat ((List.range 8).map (fun k => w (32 + k)))
  let unit := if cls then decide ((fld (w 4) 8 24 : BitVec 24) = fld uid 40 24)
    else decide (w 3 = fld uid 0 32) && decide (w 4 = fld uid 32 32)
  let sec := s.sepiaSec.toNat
  if (ws.getD 0 none).isSome ∧ (fld (w 0) 0 16 : BitVec 16) ≠ 0x0C01 then (0, none)
  else if malformed then (7, none)
  else if !s.ownerRoot || sha256 keyB != s.ownHashBytes then (3, none)
  else if !(onCurve qx qy && ecdsaVerify (beNat (sha256 msg)) qx qy r sg) then (2, none)
  else if !unit then (4, none)
  else if tb && (s.par P.PIER_STATUS).getLsbD 0 then (6, none)
  else if tb && !(decide ((w 5).toNat ≤ sec) && decide (sec ≤ (w 6).toNat)) then (5, none)
  else (1, some { rights := fld (w 1) 0 8, timeBound := tb, notAfter := w 6 })

/-- Every certificate is checked (R529): CERTSTAT, the rights, a log record for each that fails, and the events of rights lost and granted. In END OF LIFE and where the state opens debug the
rights stay those of the state. -/
def checkCerts (s : State) : State :=
  let s := sepiaSaw false 0x100 320 s
  let before := s.certRights
  let rs := (List.range 8).map s.checkCert
  let stat := (List.range 8).foldl (fun (w : Word) i => putFld w (4 * i) ((rs.getD i (0, none)).1)) 0
  let s := s.setPar P.LIFE_CERTSTAT stat
  let s := s.setLife { s.life with certChk := false, grants := Vector.ofFn (fun i => (rs.getD i.val (0, none)).2) }
  let s := rs.foldl (fun s r => if r.1 = 0 ∨ r.1 = 1 then s else gateLog 2 (8 + r.1.toNat) s) s
  let s := showRights s.darGrant s
  let s := if s.lifeState = 2 ∧ before &&& ~~~s.certRights ≠ 0 then gateLog 3 1 s else s
  if s.lifeState = 2 ∧ s.certRights ≠ 0 ∧ s.certRights ≠ before then
    gateLog 1 1 (s.setPar P.LIFE_GRANTSEC (s.sepiaSec.setWidth 36))
  else s

/-- The window of the time-bound grants is checked again (R530, R538): under OSF, or past NOTAFTER, a certificate's rights end. -/
def certWindows (s : State) : State :=
  let osf := (s.par P.PIER_STATUS).getLsbD 0
  let late := fun (g : CertGrant) => g.timeBound && (osf || decide (g.notAfter.toNat < s.sepiaSec.toNat))
  let lost := (List.finRange 8).filter (fun i => match s.life.grants[i] with | some g => late g | none => false)
  if lost.isEmpty then s
  else
    let stat := lost.foldl (fun (w : Word) i => putFld w (4 * i.val) (if osf then (6 : BitVec 4) else 5)) (s.par P.LIFE_CERTSTAT)
    let grants := lost.foldl (fun (g : Vector (Option CertGrant) 8) (i : Fin 8) => g.set i none) s.life.grants
    let s := (s.setPar P.LIFE_CERTSTAT stat).setLife { s.life with grants := grants }
    gateLog 3 1 (showRights s.darGrant s)

/-! ### Challenge and response (R525-R527) -/

/-- The challenge record of four random words (R525). -/
def formChallenge (ws : List (BitVec 32)) (s : State) : State :=
  let s := (List.range 4).foldl (fun s k => s.setPar (P.LIFE_CHAL + k) ((ws.getD k 0).setWidth 36)) s
  let s := s.setPar (P.LIFE_CHAL + 4) ((fld s.life.fuses.uid 0 32 : BitVec 32).setWidth 36)
  let s := s.setPar (P.LIFE_CHAL + 5) ((fld s.life.fuses.uid 32 32 : BitVec 32).setWidth 36)
  let s := s.setPar (P.LIFE_CHAL + 6) (s.par P.LIFE_DBGSCOPE)
  let s := s.setPar (P.LIFE_CHAL + 7) (((1 : BitVec 16) ++ s.voted).setWidth 36)
  s.parBit P.LIFE_DBGSTAT 12 true

/-- A challenge is refused with a code (R527). -/
def refuseChallenge (c : BitVec 3) (s : State) : State := gateLog 2 c.toNat (setLastRes c s)

/-- A challenge reads its random words, each in its turn among the readers (R503, R525): with four the record is formed, a read that fails refuses it with code
5 (R527), and until then it waits. -/
def challengeWords (s : State) : State :=
  if s.sepiaFails then refuseChallenge 5 (sepiaDrops (s.setLife { s.life with chalWait := false }))
  else
    let s := sepiaReads 4 s
    if 4 ≤ s.rng.sepiaGot.length then formChallenge s.rng.sepiaGot (sepiaDrops (s.setLife { s.life with chalWait := false }))
    else s.setLife { s.life with chalWait := true }

/-- DBGCMD 1 (R525, R527): a challenge record from four random words, or a refusal in LASTRES. While Sepia reads the words of a pod's nonce the challenge waits
for that read to end. -/
def challenge (s : State) : State :=
  let drop := if s.life.chalWait then sepiaDrops (s.setLife { s.life with chalWait := false }) else s
  if s.lifeState ≠ 2 then refuseChallenge 4 drop
  else if s.rngAlarm || !(s.par P.RNG_STATUS).getLsbD 0 then refuseChallenge 5 drop
  else if 8 ≤ (s.par P.LIFE_FAILCNT).toNat then refuseChallenge 6 drop
  else if s.pod.identRead then s.setLife { s.life with chalWait := true }
  else challengeWords s

/-- A challenge that waits goes on when a word has come or a read has failed (R503, R527). -/
def challengeRetry (s : State) : State := if s.life.chalWait && !s.pod.identRead then challengeWords s else s

/-- A failed response: LASTRES, FAILCNT and a log record (R527). -/
def responseFails (code : BitVec 3) (s : State) : State :=
  let s := s.setPar P.LIFE_FAILCNT (bumpFld (s.par P.LIFE_FAILCNT) 0 4)
  gateLog 2 code.toNat (setLastRes code s)

/-- DBGCMD 2 (R526, R527): with a challenge pending the check of the record and response as they stand starts and consumes
the nonce; without one it fails with code 3. -/
def checkResponse (s : State) : State :=
  if (s.par P.LIFE_DBGSTAT).getLsbD 12 then
    (s.parBit P.LIFE_DBGSTAT 12 false).setLife { s.life with
      respChk := true,
      chkChal := Vector.ofFn (fun (k : Fin 8) => fld (s.par (P.LIFE_CHAL + k.val)) 0 32),
      chkResp := Vector.ofFn (fun (k : Fin 16) => fld (s.par (P.LIFE_RESP + k.val)) 0 32) }
  else responseFails 3 s

/-- The check ends (R526): a valid signature of the vendor debug key over SHA-256 of the challenge record grants every right. Sepia verifies it with the cipher unit, once
that has power and runs no operation; the hash is its own, since R526 has only the signature verified there (log 103). -/
def responseDone (s : State) : State :=
  if s.life.respChk && s.cipherOn && s.crypt.op.isNone then
    let s := s.setLife { s.life with respChk := false }
    let hash := bytesToWords (sha256 (wordsToBytes s.life.chkChal.toList))
    let s := sepiaVerify (hash ++ Config.vendorDebugKey.1.toList ++ Config.vendorDebugKey.2.toList ++ s.life.chkResp.toList) s
    if s.cryptCode = 0 then
      let s := setLastRes 1 (showRights true s)
      gateLog 1 0 (s.setPar P.LIFE_GRANTSEC (s.sepiaSec.setWidth 36))
    else responseFails 2 s
  else s

/-- DBGCMD 3 (R531). -/
def dropRights (s : State) : State := withdrawRights false s

/-- DBGCMD 4 starts the certificate check (R529). -/
def startCerts (s : State) : State := s.setLife { s.life with certChk := true }

/-- The certificate check ends (R529). -/
def certsDone (s : State) : State := if s.life.certChk then checkCerts s else s

/-- A write of LIFE.DBGCMD (Table LIF-7); the other codes do nothing. -/
def debugCmd (v : Word) (s : State) : State :=
  match (fld v 0 3 : BitVec 3).toNat with
  | 1 => challenge s
  | 2 => checkResponse s
  | 3 => dropRights s
  | 4 => startCerts s
  | _ => s

/-! ### Transitions and the owner root (R519-R523) -/

/-- TSTAT.BUSY (Table LIF-9). -/
def State.fuseBusy (s : State) : Bool := (s.par P.LIFE_TSTAT).getLsbD 0

/-- The TRANS value is acceptable: the key in bits 31:16 and a target later than the state in effect (R520). -/
def State.transTarget (s : State) (v : Word) : Option (BitVec 16) :=
  if (fld v 16 16 : BitVec 16) ≠ 0xA55A then none
  else
    match lifeOfCode (fld v 0 16) with
    | some t => if s.lifeState < t.toNat then some (fld v 0 16) else none
    | none => none

/-- An accepted transition starts (R520, Table LIF-9); while it runs TSTAT.STEP reads as the copy it has got to (readStep). -/
def startTransition (target : BitVec 16) (s : State) : State :=
  let t := putBit (putFld (putBit (putBit (s.par P.LIFE_TSTAT) 0 true) 2 false) 3 (1 : BitVec 2)) 1 (decide (target = 0xFFFF))
  (s.setPar P.LIFE_TSTAT t).setLife { s.life with fuseOp := some (.transition target) }

/-- Accepted owner-hash programming starts (R519). -/
def startOwnerHash (s : State) : State :=
  let t := putFld (putBit (putBit (s.par P.LIFE_TSTAT) 0 true) 2 true) 3 (0 : BitVec 2)
  (s.setPar P.LIFE_TSTAT t).setLife
    { s.life with fuseOp := some (.ownerHash (Vector.ofFn (fun i => fld (s.par (P.LIFE_OWNSET + i.val)) 0 32))) }

/-- A read of TSTAT (Table LIF-9): while a transition runs STEP is the copy it has got to, 1 to 3, which no command tells: a free value (log 99). -/
def readStep (s : State) : Word × State :=
  let t := s.par P.LIFE_TSTAT
  if t.getLsbD 0 && !t.getLsbD 2 then
    let k := (Config.freeWord (s.freeCtr * 128)).toNat % 3 + 1
    (putFld t 3 (BitVec.ofNat 2 k), s.drawn)
  else (t, s)

/-- Copy k blown toward a target, except the bits that fail to blow after their retries. -/
def blownCopy (old target stuck : BitVec 16) : BitVec 16 := old ||| (target &&& ~~~stuck)

/-- The copies and RESULT of a transition (R521, Table LIF-4). `vdd` bit 0: VDD at 2.4 V or more at step 1; bit k: before COPYk. `stuck`: the bits of each copy
that do not blow. The last copy written is returned for STEP. -/
def runTransition (fs : Vector (BitVec 16) 3) (target : BitVec 16) (vdd : BitVec 4) (stuck : BitVec 48) :
    Vector (BitVec 16) 3 × BitVec 3 × BitVec 2 :=
  let n := fun (k : Fin 3) => blownCopy fs[k] target (fld stuck (16 * k.val) 16)
  if !(vdd.getLsbD 0) || !(vdd.getLsbD 1) then (fs, 2, 1)
  else
    let c1 := fs.set 0 (n 0)
    if n 0 ≠ target then (c1, 3, 1)
    else if !(vdd.getLsbD 2) then (c1, 2, 2)
    else
      let c2 := c1.set 1 (n 1)
      if !(vdd.getLsbD 3) then (c2, 2, 3)
      else
        let c3 := c2.set 2 (n 2)
        (c3, if n 1 = target ∧ n 2 = target then 1 else 4, 3)

/-- TSTAT as an operation ends: BUSY 0, RESULT and STEP. -/
def endTstat (result : BitVec 3) (step : BitVec 2) (s : State) : State :=
  s.setPar P.LIFE_TSTAT (putFld (putFld (putBit (s.par P.LIFE_TSTAT) 0 false) 5 result) 3 step)

/-- The transition ends (R521): fuses, RESULT, records. The reset it may cause follows separately. -/
def finishTransition (target : BitVec 16) (vdd : BitVec 4) (stuck : BitVec 48) (s : State) : State :=
  let r := runTransition s.life.fuses.copies target vdd stuck
  let s := s.setLife { s.life with fuseOp := none, fuses := { s.life.fuses with copies := r.1 } }
  let s := gateEvent 4 r.2.1.toNat (endTstat r.2.1 r.2.2 s)
  s.pushLog 0x011 0x015 (s.par P.LIFE_TSTAT) (target.setWidth 36)

/-- The owner-hash fuses blown, except the bits that do not blow; RESULT 1 or 3 (R519, Table LIF-9). -/
def finishOwnerHash (hash : Vector (BitVec 32) 8) (stuck : BitVec 256) (s : State) : State :=
  let f := s.life.fuses
  let h := Vector.ofFn (fun (i : Fin 8) => f.ownHash[i] ||| (hash[i] &&& ~~~(fld stuck (32 * i.val) 32 : BitVec 32)))
  let s := s.setLife { s.life with fuseOp := none, fuses := { f with ownHash := h } }
  let s := endTstat (if h = hash then 1 else 3) 0 s
  s.pushLog 0x011 0x015 (s.par P.LIFE_TSTAT) 0

/-- Bits blown one after another in ascending order until `n` have blown: what loss of VDD leaves (R522). -/
def blowUpTo : List (Nat × Nat) → Nat → Vector (BitVec 16) 3 → Vector (BitVec 16) 3
  | [], _, fs => fs
  | _, 0, fs => fs
  | (k, b) :: rest, n + 1, fs =>
    let i : Fin 3 := Fin.ofNat 3 k
    blowUpTo rest n (fs.set i (putBit fs[i] b true))

/-- VDD is lost during a fuse operation (R522, R523, R519): the bits of the sequence blow up to a point that is a free choice. -/
def tearFuses (s : State) : State :=
  let n := (Config.freeWord (s.freeCtr * 128)).toNat
  match s.life.fuseOp with
  | none => s
  | some (.transition target) =>
    let f := s.life.fuses
    let todo := (List.finRange 3).flatMap (fun k =>
      ((List.range 16).filter (fun b => target.getLsbD b && !(f.copies[k].getLsbD b))).map (fun b => (k.val, b)))
    let c := blowUpTo todo (n % (todo.length + 1)) f.copies
    s.drawn.setLife { s.life with fuseOp := none, fuses := { f with copies := c } }
  | some (.ownerHash hash) =>
    let f := s.life.fuses
    let todo := (List.range 256).filter (fun b => (hash[(Fin.ofNat 8 (b / 32))]).getLsbD (b % 32))
    let done := todo.take (n % (todo.length + 1))
    let h := done.foldl (fun (h : Vector (BitVec 32) 8) b =>
      let i : Fin 8 := Fin.ofNat 8 (b / 32)
      h.set i (putBit h[i] (b % 32) true)) f.ownHash
    s.drawn.setLife { s.life with fuseOp := none, fuses := { f with ownHash := h } }

/-! ### Debug requests (R532, R533) -/

/-- A halt is requested for the next acceptance boundary. -/
def requestHalt (cause : BitVec 3) (s : State) : State :=
  if s.umberHalted then s else s.setUmber { s.umber with haltReq := some (cause, 0) }

/-- Umber reaches the boundary with a halt request (R532). -/
def umberHalts (s : State) : State :=
  match s.umber.haltReq with
  | some (c, n) =>
    if s.atBoundary then
      let s := if c = 2 then s.setPar (P.DBG_BPHIT + n.toNat) (s.par (P.DBG_BPHIT + n.toNat) + 1) else s
      haltUmber c n s
    else s
  | none => s

/-- One instruction or complete unit runs, and Umber halts again (R532). -/
def stepUmber (s : State) : State :=
  if s.umberHalted then
    let s := resumeUmber s
    (s.setUmber { s.umber with stepping := true }).setPar P.DBG_STEPCNT (s.par P.DBG_STEPCNT + 1)
  else s

/-- An instruction breakpoint stops Umber before the instruction (R533). -/
def breakHits (s : State) : State :=
  if s.atBoundary then
    match s.breakpoint with
    | some n => haltUmber 2 (BitVec.ofNat 2 n.val) (s.setPar (P.DBG_BPHIT + n.val) (s.par (P.DBG_BPHIT + n.val) + 1))
    | none => s
  else s

/-- A watchpoint hit stops Umber at the first boundary after the access (R533). -/
def watchHits (s : State) : State :=
  if s.atBoundary then
    match s.umber.wpHit with
    | some (n, _, _) => haltUmber 3 (n.setWidth 2) s
    | none => s
  else s

/-- A data access of Umber against the watchpoints, while right BRK is in effect (R533, Table MAP-6); the lower number wins. -/
def watchAccess (a : Addr) (write : Bool) (s : State) : State :=
  if s.right rightBrk && s.umber.wpHit.isNone then
    let hit := fun (n : Nat) =>
      let c := s.par (P.DBG_WP0LO + 3 * n + 2)
      let lo : Addr := fld (s.par (P.DBG_WP0LO + 3 * n)) 0 24
      let hi : Addr := fld (s.par (P.DBG_WP0LO + 3 * n + 1)) 0 24
      c.getLsbD 0 && (if write then c.getLsbD 2 else c.getLsbD 1) && decide (lo.toNat ≤ a.toNat) && decide (a.toNat ≤ hi.toNat)
    if hit 0 then s.setUmber { s.umber with wpHit := some (0, a, write) }
    else if hit 1 then s.setUmber { s.umber with wpHit := some (1, a, write) }
    else s
  else s

/-- Umber starts at vector 0 with HALTVEC and right HALT: it halts before its first instruction (R654). -/
def haltVector (s : State) : State :=
  if (s.par P.DBG_CTL).getLsbD 0 && s.right rightHalt then s.setUmber { s.umber with haltReq := some (4, 0) } else s

end Sys2Proof.Machine
end

