-- ==== Sys2Proof/Machine/MgmtOps.lean ====
section
/-!
DEFINITION. Sys2Proof/Machine/MgmtOps.lean: Sepia (17): NVM writes, event log, owner configuration, images and slot selection, service mailbox, strike events,
watchdog, sensors.
-/

namespace Sys2Proof.Machine

def State.setMgmt (s : State) (m : MgmtSt) : State := { s with mgmt := m }

/-! ### NVM cells written by Sepia (R285, R307) -/

def putDnvm (a : Nat) (c : Cell) (s : State) : State := s.setMem { s.mem with dnvm := SMap.put s.mem.dnvm a 0 c }

/-- A write to program NVM also empties the repeat cache and the prefetch buffer (R229, R258, R307): a fetch bubble may follow (R257). -/
def putProg (a : Nat) (c : Cell) (s : State) : State :=
  let s := markGap .bubble (s.setMem { s.mem with prog := SMap.put s.mem.prog a 0 c })
  { s with umber := { s.umber with rptCache := [], prefetch := [] } }

/-- Store a raw cell at a data-space NVM address. -/
def putNvm (a : Addr) (c : Cell) (s : State) : State :=
  if 0x300000 ≤ a.toNat then putProg (a.toNat - 0x300000) c s else putDnvm (a.toNat - 0x200000) c s

def State.nvmCellAt (s : State) (a : Addr) : Cell :=
  if 0x300000 ≤ a.toNat then s.progCell (BitVec.ofNat 18 (a.toNat - 0x300000)) else s.dnvmCell (BitVec.ofNat 15 (a.toNat - 0x200000))

/-- The controller has finished its latest piece of work: no loss of VDD can fall into it any more (log 84). -/
def nvmSettled (s : State) : State := s.setMgmt { s.mgmt with job := [], jobBad := false }

/-- One word by the NVM write controller, verified raw (R307): stuck bits of the cell keep what they hold, and `flip` gives bits that read back wrong after the
last of three attempts. A failed verify sets WFAIL and is logged. -/
def nvmPut (a : Addr) (w : Word) (flip : BitVec 43) (s : State) : State :=
  let old := s.nvmCellAt a
  let d := SMap.getD s.mem.defects a.toNat 0
  let new : Cell := ((cellOf w ^^^ flip) &&& ~~~d) ||| (old &&& d)
  let s := putNvm a new s
  let s := s.setMgmt { s.mgmt with job := s.mgmt.job ++ [.word a old new] }
  if new = cellOf w then s
  else
    let s := s.setMgmt { s.mgmt with jobBad := true }
    let s := (s.parBit P.MEM_NVMSTAT 4 true).setPar P.MEM_NVMERR (a.setWidth 36)
    s.pushLog 0x008 0x011 (s.par P.MEM_NVMERR) (s.par P.MEM_NVMSTAT)

/-- Data NVM words at their offsets, one after another. -/
def writeWords (xs : List (Nat × Word)) (s : State) : State :=
  xs.foldl (fun s x => nvmPut (BitVec.ofNat 24 (0x200000 + x.1)) x.2 0 s) s

/-- A run of data NVM words from an offset. -/
def writeDnvm (a : Nat) (ws : List Word) (s : State) : State :=
  writeWords ((ws.zip (List.range ws.length)).map (fun x => (a + x.2, x.1))) s

/-- A word as data NVM holds it; none where it is uncorrectable. -/
def State.readDnvm (s : State) (a : Nat) : Option Word :=
  match eccRead (s.dnvmCell (BitVec.ofNat 15 a)) with
  | .good w => some w
  | .corrected w _ => some w
  | .bad _ => none

/-- A word of data NVM, or of the program window, as Sepia reads it (R320). -/
def State.sepiaDnvm (s : State) (a : Nat) : Option Word := s.sepiaWord (nvmAddr false a) (s.dnvmCell (BitVec.ofNat 15 a))
def State.sepiaProg (s : State) (a : Nat) : Option Word := s.sepiaWord (nvmAddr true a) (s.progCell (BitVec.ofNat 18 a))

/-- Sepia's interrupt source, 22 (Table UMM-11), under a bit of MGMT.IRQEN: 0 SVC, 1 NVM, 2 EV, 3 SENS. -/
def sepiaIrq (bit : Nat) (s : State) : State := if (s.par P.MGMT_IRQEN).getLsbD bit then s.raiseIrq 22 else s

/-! ### Event log (R559) -/

/-- Sepia writes the oldest queued record to slot LOGHEAD: word 1 as 0, then words 0, 2 and 3, then word 1 (R559), so that a record torn by loss of VDD reads as
absent; LOGHEAD, LOGCOUNT and LASTLOG follow (R559). -/
def writeLog (s : State) : State :=
  match s.mgmt.logQ with
  | [] => s
  | r :: rest =>
    let s := s.setMgmt { s.mgmt with logQ := rest }
    let n := (fld (s.par P.MGMT_LOGHEAD) 0 12 : BitVec 12)
    let w0 : Word := fld r.tick 0 36
    let w1 : Word := putBit (putFld (putFld ((fld r.tick 36 12 : BitVec 12).setWidth 36) 12 r.type) 24 r.source) 35 r.untrusted
    let b := 0x1000 + 4 * n.toNat
    let s := writeWords [(b + 1, 0), (b, w0), (b + 2, r.w2), (b + 3, r.w3), (b + 1, w1)] (nvmSettled s)
    let s := (s.setPar P.MGMT_LOGHEAD ((n + 1).setWidth 36)).setPar P.MGMT_LOGCOUNT (s.par P.MGMT_LOGCOUNT + 1)
    let s := (([w0, w1, r.w2, r.w3]).zip (List.range 4)).foldl (fun s x => s.setPar (P.MGMT_LASTLOG + x.2) x.1) s
    s.countMgmt 5

/-! ### Owner configuration (R550, R551) -/

/-- The words of copy `k` if it is valid: mark in word 0, sum 0 modulo 2^36. -/
def State.cfgCopy (s : State) (k : Nat) : Option (List Word) :=
  let ws := (List.range 128).map (fun i => s.sepiaDnvm (0x5000 + 128 * k + i))
  if ws.any Option.isNone then none
  else
    let ws : List Word := ws.map (fun w => w.getD 0)
    if (fld (ws.getD 0 0) 0 16 : BitVec 16) = 0x0C0F ∧ ws.foldl (· + ·) (0 : Word) = 0 then some ws else none

def cfgSeq (ws : List Word) : BitVec 20 := fld (ws.getD 0 0) 16 20

/-- The copy in use, with its number: the valid one whose SEQ is greater modulo 2^20; at a difference of exactly 2^19 copy 1 (R550). -/
def State.cfgInUse (s : State) : Option (Nat × List Word) :=
  match s.cfgCopy 0, s.cfgCopy 1 with
  | none, none => none
  | some a, none => some (0, a)
  | none, some b => some (1, b)
  | some a, some b =>
    let d := (cfgSeq b - cfgSeq a).toNat
    if d ≠ 0 ∧ d ≤ 2 ^ 19 then some (1, b) else some (0, a)

/-- The configuration words in use; with no valid copy every field 0 (R550). -/
def State.cfgWords (s : State) : List Word := ((s.cfgInUse).map Prod.snd).getD (List.replicate 128 0)

/-- A changed configuration is written to the other copy with SEQ increased by 1 and its check word, words 1-127 and then word 0 (R550). With neither copy valid
the model writes copy 0 with SEQ 1, which the spec leaves open (log 82). -/
def writeCfg (f : List Word → List Word) (s : State) : State :=
  let s := sepiaSaw false 0x5000 256 s
  let use := s.cfgInUse
  let old := s.cfgWords
  let k := match use with
    | some (k, _) => 1 - k
    | none => 0
  let seq := cfgSeq old + 1
  let body := ((f old).drop 1).take 126
  let w0 : Word := putFld ((0x0C0F : BitVec 16).setWidth 36) 16 seq
  let check : Word := 0 - (body.foldl (· + ·) w0)
  let s := writeDnvm (0x5000 + 128 * k) [w0] (writeDnvm (0x5001 + 128 * k) (body ++ [check]) s)
  s.setPar P.MGMT_CFGSEQ (putBit (seq.setWidth 36) 20 (decide (k = 1)))

/-- The boot state word of a configuration (Table SEP-4). -/
def bootWord (ws : List Word) : Word := ws.getD 2 0
def bActive (w : Word) : BitVec 1 := fld w 0 1
def bPending (w : Word) : Bool := w.getLsbD 1
def bPslot (w : Word) : BitVec 1 := fld w 2 1
def bTries (w : Word) : BitVec 2 := fld w 3 2

/-- Change the boot state, with MGMT.BOOTSTAT. -/
def setBoot (w : Word) (s : State) : State :=
  let s := writeCfg (fun ws => ws.set 2 w) s
  s.setPar P.MGMT_BOOTSTAT (putFld (s.par P.MGMT_BOOTSTAT) 0 (fld w 0 6 : BitVec 6))

/-! ### Images (R552, R553) -/

/-- Word `w` of the header of slot `k`, bits 31:0. -/
def State.imgWord (s : State) (k : BitVec 1) (w : Nat) : Option (BitVec 32) :=
  (s.sepiaProg (98304 * k.toNat + 98240 + w)).map (fun v => fld v 0 32)

/-- The header words of a slot; an unreadable word is none. -/
def State.header (s : State) (k : BitVec 1) : List (Option (BitVec 32)) := (List.range 64).map (s.imgWord k)

def hdr (h : List (Option (BitVec 32))) (i : Nat) : BitVec 32 := (h.getD i none).getD 0

def hdrBytes (h : List (Option (BitVec 32))) (is : List Nat) : List Byte := wordsToBytes (is.map (hdr h))

def hdrVersion (h : List (Option (BitVec 32))) : BitVec 32 := hdr h 1
def hdrRollback (h : List (Option (BitVec 32))) : BitVec 6 := fld (hdr h 2) 0 6
def hdrLength (h : List (Option (BitVec 32))) : Nat := (fld (hdr h 3) 0 24 : BitVec 24).toNat

/-- Format and zero fields are correct and LENGTH is within its range (R552, R553). -/
def hdrFormed (h : List (Option (BitVec 32))) : Bool :=
  !h.any Option.isNone && decide (hdr h 0 = 0x00014F5A) && decide (hdr h 2 >>> 7 = 0) && decide (hdr h 3 >>> 24 = 0)
    && decide (0xC0 ≤ hdrLength h) && decide (hdrLength h ≤ 0x17FC0) && (List.range 4).all (fun i => decide (hdr h (60 + i) = 0))

/-- The five bytes of an image word (R552). -/
def imageBytes (w : Word) : List Byte := wordBytes (fld w 0 32) ++ [(fld w 32 4 : BitVec 4).setWidth 8]

/-- The body of a slot as bytes; none where a word is uncorrectable. -/
def State.bodyBytes (s : State) (k : BitVec 1) (n : Nat) : Option (List Byte) :=
  let ws := (List.range n).map (fun i => s.sepiaProg (98304 * k.toNat + i))
  if ws.any Option.isNone then none else some (ws.flatMap (fun w => imageBytes (w.getD 0)))

/-- The seal of a header: HMAC-SHA-256 of words 0-59 under a key derived from the device unique key (R553). -/
def State.sealOf (s : State) (h : List (Option (BitVec 32))) : List (BitVec 32) :=
  bytesToWords (hmac (wordsToBytes (Config.sealKey s.life.fuses.duk).toList) (hdrBytes h (List.range 60)))

/-- A slot is sealed: the stored seal matches its header (R553). -/
def State.isSealed (s : State) (k : BitVec 1) : Bool :=
  let h := s.header k
  let stored := (List.range 8).map (fun i => (fld (s.cfgWords.getD (3 + 8 * k.toNat + i) 0) 0 32 : BitVec 32))
  !h.any Option.isNone && stored == s.sealOf h

/-- The root key an image names: the vendor root, or the owner root while one exists (R518, R553). -/
def State.imageRoot (s : State) (h : List (Option (BitVec 32))) : Option (Nat × Nat) :=
  if (hdr h 2).getLsbD 6 then (if s.ownerRoot then some (Config.ownerRoot s.life.fuses.ownHash) else none)
  else some Config.vendorRoot

def hdrNat (h : List (Option (BitVec 32))) (i : Nat) : Nat := wordsBeNat ((List.range 8).map (fun k => hdr h (i + k)))

/-- The endorsement and the image signature verify (R552, R553). -/
def sigsOk (root : Nat × Nat) (h : List (Option (BitVec 32))) : Bool :=
  let qx := hdrNat h 12
  let qy := hdrNat h 20
  let e1 := beNat (sha256 (hdrBytes h (2 :: (List.range 16).map (· + 12))))
  let e2 := beNat (sha256 (hdrBytes h (List.range 44)))
  ecdsaVerify e1 root.1 root.2 (hdrNat h 28) (hdrNat h 36) && onCurve qx qy && ecdsaVerify e2 qx qy (hdrNat h 44) (hdrNat h 52)

/-- The verification of ARMUPDATE: the result code of Table SEP-8 (R553). In TEST the root and signature checks are skipped. -/
def State.verifySlot (s : State) (k : BitVec 1) (booted : Bool) : Nat :=
  let h := s.header k
  if booted then 6
  else if !hdrFormed h then 1
  else if (hdrRollback h).toNat < (s.par P.MGMT_RBCNT).toNat then 2
  else
    let body := match s.bodyBytes k (hdrLength h) with
      | some bs => if bytesToWords (sha256 bs) = (List.range 8).map (fun i => hdr h (4 + i)) then 0 else 5
      | none => 5
    if s.lifeState = 1 then body
    else
      match s.imageRoot h with
      | none => 3
      | some root => if sigsOk root h then body else 4

/-- A log record of the update path: type 0x00E, source 0x017 (Table SEP-7). -/
def updateLog (result : Nat) (k : BitVec 1) (s : State) : State :=
  s.pushLog 0x00E 0x017 (BitVec.ofNat 36 result) ((hdrVersion (s.header k)).setWidth 36)

/-- Rollback fuses are blown up to the ROLLBACK of the image in slot `k`, with the record of it (R555, Table SEP-7). MGMT.RBCNT shows them when the blow is over
(showRollback). -/
def blowRollback (k : BitVec 1) (s : State) : State :=
  let n := hdrRollback (s.header k)
  let f := s.life.fuses
  if f.rollback.toNat < n.toNat then
    let s := s.setMgmt { s.mgmt with job := s.mgmt.job ++ [.fuses f.rollback n] }
    updateLog 0 k (s.setLife { s.life with fuses := { f with rollback := n } })
  else s

/-- MGMT.RBCNT counts the fuses blown (R555): from here on no loss of VDD finds fewer (R514). -/
def showRollback (s : State) : State := (nvmSettled s).setPar P.MGMT_RBCNT (s.life.fuses.rollback.setWidth 36)

/-- Seal states and versions of the slots (Table SEP-9 BOOTSTAT, SLOTVERA, SLOTVERB). -/
def showSlots (s : State) : State :=
  let s := sepiaSaw true 0x17FC0 64 (sepiaSaw true 0x2FFC0 64 s)
  let a := s.isSealed 0
  let b := s.isSealed 1
  let s := s.setPar P.MGMT_BOOTSTAT (putBit (putBit (s.par P.MGMT_BOOTSTAT) 7 a) 8 b)
  let s := s.setPar P.MGMT_SLOTVERA (if a then (hdrVersion (s.header 0)).setWidth 36 else 0)
  (s.setPar P.MGMT_SLOTVERB (if b then (hdrVersion (s.header 1)).setWidth 36 else 0)).countMgmt 6

/-- A slot may boot: sealed, with ROLLBACK at least RBCNT (R554). -/
def State.bootable (s : State) (k : BitVec 1) : Bool :=
  s.isSealed k && decide ((s.par P.MGMT_RBCNT).toNat ≤ (hdrRollback (s.header k)).toNat)

/-- ACTIVE if it may boot, else the other slot if it may (R554). -/
def State.activeSlot (s : State) (w : Word) : Option (BitVec 1) :=
  if s.bootable (bActive w) then some (bActive w)
  else if s.bootable (~~~(bActive w)) then some (~~~(bActive w))
  else none

/-- Entry to END OF LIFE: Sepia reads the key store (R308) and zeroises it (R517). -/
def zeroiseKeys (s : State) : State :=
  (List.range 256).foldl (fun s a => if s.sepiaDnvm a = some 0 then s else writeWords [(a, 0)] s) (sepiaSaw false 0 256 s)

/-- Slot selection at a reset (R554), its changes to the boot state written first; a confirmed image with a higher ROLLBACK blows the remaining fuses
(R555). -/
def selectSlot (s : State) : Option (BitVec 1) × State :=
  let w := bootWord s.cfgWords
  let s := s.setPar P.MGMT_BOOTSTAT (putFld (s.par P.MGMT_BOOTSTAT) 0 (fld w 0 6 : BitVec 6))
  let s := showSlots s
  let confirmed := fun (r : Option (BitVec 1)) (s : State) =>
    match r with
    | some k => if bActive w = k then blowRollback k s else s
    | none => s
  if bPending w ∧ bTries w ≠ 3 then
    let s := setBoot (putFld w 3 (bTries w + 1)) s
    if s.isSealed (bPslot w) then (some (bPslot w), s)
    else let r := s.activeSlot w; (r, confirmed r s)
  else if bPending w then
    let w' := putBit (putBit w 1 false) 5 true
    let s := updateLog 7 (bActive w) ((setBoot w' s).countMgmt 8)
    let r := s.activeSlot w'
    (r, confirmed r s)
  else let r := s.activeSlot w; (r, confirmed r s)

/-- The slot of a warm wake: PSLOT while PENDING, otherwise ACTIVE, TRIES unchanged; a slot that fails its seal is treated as in R554 (R643). -/
def warmSlot (s : State) : Option (BitVec 1) × State :=
  let w := bootWord s.cfgWords
  let s := s.setPar P.MGMT_BOOTSTAT (putFld (s.par P.MGMT_BOOTSTAT) 0 (fld w 0 6 : BitVec 6))
  let s := showSlots s
  let k := if bPending w then bPslot w else bActive w
  if s.isSealed k then (some k, s) else (s.activeSlot w, s)

/-! ### Role and regions of the configuration (R27, R28, R37, R551) -/

/-- The package accepts a role value (Table SYS-2). -/
def State.roleAccepted (s : State) (v : BitVec 2) : Bool := v == 0 || (decide (s.pwr.package = .ab) && v != 3)

/-- Which copies are valid, as the log record of type 0x002 reports (Table SEP-7): copy k in bit k, which is this model's choice (log 82). -/
def State.cfgValidity (s : State) : Word :=
  putBit (boolWord (s.cfgCopy 0).isSome) 1 (s.cfgCopy 1).isSome

/-- The role in effect at a system reset (R27, R28, R37): SYS.ROLE and SYS.ROLEACT; an unreadable or refused one gives label role and a log record. A stored
word with a 1 in bits 35:2 counts as refused, and with no valid copy the record's stored role word is 0: the spec leaves both open (log 82). -/
def loadRole (s : State) : State :=
  let s := sepiaSaw false 0x5000 256 s
  let bad := s.cfgInUse.isNone
  let word := s.cfgWords.getD 1 0
  let v : BitVec 2 := fld word 0 2
  let ok := s.roleAccepted v && decide (word >>> 2 = 0)
  let role : BitVec 2 := if ok then v else 0
  let s := if bad || !ok then s.pushLog 0x002 0x000 word s.cfgValidity else s
  let s := s.parBit P.MGMT_STATUS 2 bad
  let seq := match s.cfgInUse with
    | some (k, ws) => putBit ((cfgSeq ws).setWidth 36) 20 (decide (k = 1))
    | none => 0
  ((s.setPar P.SYS_ROLE (role.setWidth 36)).setPar P.SYS_ROLEACT (role.setWidth 36)).setPar P.MGMT_CFGSEQ seq

/-- The stored region set, after domain 1's boot regions, in entry order; domain 0 and entries without VALID are skipped (R328, R551). -/
def loadRegionSet (s : State) : State :=
  let ws := s.cfgWords
  (List.range 32).foldl (fun s i =>
    let w0 := ws.getD (19 + 3 * i) 0
    let d : BitVec 4 := fld w0 28 4
    let r : BitVec 4 := fld w0 24 4
    if w0.getLsbD 35 && d != 0 then
      setRegion d.toNat r.toNat (fld w0 0 24) (fld (ws.getD (20 + 3 * i) 0) 0 24) (fld (ws.getD (21 + 3 * i) 0) 0 8) s
    else s) s

/-- SYS.ROLE is written: the owner configuration takes the role before the shell acknowledges (R27, R551). -/
def writeRole (v : BitVec 2) (s : State) : State :=
  (writeCfg (fun ws => ws.set 1 (v.setWidth 36)) (nvmSettled s)).setPar P.SYS_ROLE (v.setWidth 36)

/-! ### NVM write queue (R546-R549) -/

/-- The program slot of a data-space address in the read window. -/
def nvmSlot (a : Addr) : BitVec 1 := if a.toNat < 0x318000 then 0 else 1

/-- The partition a destination lies in (Table SEP-3): 1 program slot A, 2 slot B, 3 certificates, 4 application data; 0 refused. -/
def nvmPart (a : Addr) : Nat :=
  let n := a.toNat
  if 0x300000 ≤ n ∧ n < 0x318000 then 1
  else if 0x318000 ≤ n ∧ n < 0x330000 then 2
  else if 0x200100 ≤ n ∧ n < 0x201000 then 3
  else if 0x206000 ≤ n ∧ n < 0x208000 then 4
  else 0

/-- The slot Umber runs from: the one that holds VBASE, once Umber has been started (R546). -/
def State.bootedSlot (s : State) : Option (BitVec 1) := if s.umber.run = .inReset then none else some s.mgmt.slot

/-- A requester may write a destination range (R546, Table SEP-3). -/
def State.nvmAllowed (s : State) (dom : Dom) (dest : Addr) (n : Nat) : Bool :=
  let p := nvmPart dest
  let last := dest + BitVec.ofNat 24 (n - 1)
  decide (p ≠ 0) && decide (nvmPart last = p) && decide (dest.toNat ≤ last.toNat)
    && (if p = 4 then dom == 1 || (s.par P.MGMT_NVMWMASK).getLsbD dom.toNat else dom == 1)
    && !(decide (p ≤ 2) && decide (s.bootedSlot = some (nvmSlot dest)))

/-- NVMQSTAT of the request in progress and of the last one completed; NVMSTAT.WMACRO; NVMQ0-7 (R548, Tables SEP-9, MEM-13). -/
def showNvmQ (s : State) : State :=
  let q := s.mgmt.nvmQ
  let st := s.par P.MGMT_NVMQSTAT
  let st := match q with
    | r :: _ => putFld (putFld st 0 r.ticket) 8 (fld r.done 0 12 : BitVec 12)
    | [] => putFld st 0 (0 : BitVec 20)
  let mac : BitVec 2 := match q with
    | r :: _ => (match nvmPart r.dest with | 1 => 1 | 2 => 2 | _ => 3)
    | [] => 0
  let s := (s.setPar P.MGMT_NVMQSTAT st).setPar P.MEM_NVMSTAT (putFld (s.par P.MEM_NVMSTAT) 2 mac)
  (List.range 8).foldl (fun s i =>
    s.setPar (P.MGMT_NVMQ + i) (match q[i]? with
      | some r => putFld (putFld (r.ticket.setWidth 36) 8 r.dom) 12 (BitVec.ofNat 13 r.data.length)
      | none => 0)) s

/-- The request in progress ends with a result (R548, R549). -/
def endNvmReq (result : BitVec 3) (s : State) : State :=
  match s.mgmt.nvmQ with
  | [] => s
  | r :: rest =>
    let s := s.setMgmt { s.mgmt with nvmQ := rest }
    let s := s.setPar P.MGMT_NVMQSTAT (putFld (putFld (s.par P.MGMT_NVMQSTAT) 20 r.ticket) 28 result)
    sepiaIrq 1 (showNvmQ s)

/-- The seal of a program slot is cleared before any word of it is written (R547). -/
def clearSeal (k : BitVec 1) (s : State) : State :=
  showSlots (writeCfg (fun ws => (List.range 8).foldl (fun ws i => ws.set (3 + 8 * k.toNat + i) 0) ws) s)

/-- The owner configuration holds a seal for a slot. -/
def State.hasSeal (s : State) (k : BitVec 1) : Bool := (List.range 8).any (fun i => s.cfgWords.getD (3 + 8 * k.toNat + i) 0 != 0)

/-- What comes before a word of a request is written (R547, R565): the seal of its program slot goes at the first word, and again where an ARMUPDATE has sealed
the slot since. -/
def unsealFor (r : NvmReq) (s : State) : State :=
  let k := nvmSlot r.dest
  if nvmPart r.dest ≤ 2 ∧ (r.done = 0 ∨ s.hasSeal k = true) then clearSeal k s else s

/-- One word of the request in progress is written and verified (R307, R548). `stuck`: the bits of the cell that read back wrong after the last of three
attempts; a failed verify sets WFAIL and is logged, and the request goes on and ends with result 6. -/
def nvmWordWrite (stuck : BitVec 43) (s : State) : State :=
  match s.mgmt.nvmQ with
  | [] => s
  | r :: rest =>
    match r.data[r.done.toNat]? with
    | none => endNvmReq 0 s
    | some w =>
      let s := unsealFor r s
      let a := r.dest + r.done.setWidth 24
      let s := (nvmPut a w stuck s).countMgmt 2
      let bad := r.bad || decide (s.nvmCellAt a ≠ cellOf w)
      let s := s.setMgmt { s.mgmt with nvmQ := { r with done := r.done + 1, bad := bad } :: rest }
      if r.done.toNat + 1 = r.data.length then endNvmReq (if bad then 6 else 0) s else showNvmQ s

/-- A cell as an interrupted word write leaves it (R316): whole old value, whole new value, or an uncorrectable one. -/
def tornCell (key : Nat) (old new : Cell) : Cell :=
  let c : Cell := fld (Config.freeAcc key) 0 43
  if Config.freeBool key then old
  else if Config.freeBool (key + 1) then new
  else match eccRead c with
    | .bad _ => c
    | _ => new

/-- A word write not completed within 8 ms is aborted (R548): the word follows R316, the request ends with STALL, and a record of type 0x00F is written. -/
def nvmAbort (s : State) : State :=
  match s.mgmt.nvmQ with
  | [] => s
  | r :: _ =>
    let s := unsealFor r s
    let a := r.dest + r.done.setWidth 24
    let new := cellOf ((r.data[r.done.toNat]?).getD 0)
    let s := putNvm a (tornCell (s.freeCtr * 128) (s.nvmCellAt a) new) s
    let s := (s.drawn.pushLog 0x00F 0x000 (a.setWidth 36) (r.ticket.setWidth 36)).countMgmt 3
    endNvmReq 5 s

/-- A step of the controller's work undone, as if VDD had gone before it. -/
def undoStep (s : State) : NvmStep → State
  | .word a old _ => putNvm a old s
  | .fuses old _ => s.setLife { s.life with fuses := { s.life.fuses with rollback := old } }

/-- A step cut off by loss of VDD (R316): a word keeps its old cell, takes its new one or becomes uncorrectable; of the rollback fuses some are blown. -/
def tearStep (key : Nat) (s : State) : NvmStep → State
  | .word a old new => putNvm a (tornCell key old new) s
  | .fuses old new =>
    let n := old.toNat + (Config.freeWord (key + 1)).toNat % (new.toNat - old.toNat + 1)
    s.setLife { s.life with fuses := { s.life.fuses with rollback := BitVec.ofNat 6 n } }

/-- A step at which a reset that keeps VDD finds the controller (R649): a word attempt in progress finishes whole, so that the step counts among those done or is not
begun; of the rollback fuses some are blown. -/
def stopStep (key : Nat) (s : State) : NvmStep → State
  | .word .. => s
  | .fuses old new => tearStep key s (.fuses old new)

/-- The controller is stopped at some step of its latest work, or after its last (log 84): the steps before it stand, it ends as `cut` says, and the later ones were
not begun. -/
def cutJob (cut : Nat → State → NvmStep → State) (s : State) : State :=
  let job := s.mgmt.job
  let key := s.freeCtr * 128
  let k := (Config.freeWord key).toNat % (job.length + 1)
  let s := (s.setMgmt { s.mgmt with job := [] }).drawn
  match job.drop k with
  | [] => s
  | t :: rest => cut key (undoStep (rest.reverse.foldl undoStep s) t) t

/-- VDD is lost at some step of that work (R316, R36, R563). -/
def tearJob (s : State) : State := cutJob tearStep s

/-- A reset that keeps VDD comes at some step of that work (R36, R649). -/
def stopJob (s : State) : State := cutJob stopStep s

/-- A revoked domain's requests are dropped with result 7; the one in progress stops (R549). -/
def nvmRevoke (d : Dom) (s : State) : State :=
  let dropped := s.mgmt.nvmQ.filter (fun r => decide (r.dom = d))
  let s := s.setMgmt { s.mgmt with nvmQ := s.mgmt.nvmQ.filter (fun r => decide (r.dom ≠ d)) }
  let s := match dropped.getLast? with
    | some r => s.setPar P.MGMT_NVMQSTAT (putFld (putFld (s.par P.MGMT_NVMQSTAT) 20 r.ticket) 28 (7 : BitVec 3))
    | none => s
  showNvmQ s

/-- The NVM write controller is idle (R62, R548, R568). -/
def State.nvmIdle (s : State) : Bool := s.mgmt.nvmQ.isEmpty && s.mgmt.logQ.isEmpty

/-! ### Service mailbox (R544, R545) -/

/-- SVCSTAT.BUSY. -/
def State.svcBusy (s : State) : Bool := (s.par P.MGMT_SVCSTAT).getLsbD 0

/-- SVCREQ, SVCDATA and SVCREPLY belong to the requester while BUSY is 1 and until the requester clears DONE (R544). -/
def State.svcForeign (s : State) (dom : Dom) : Bool :=
  match s.mgmt.svcLock with
  | some d => decide (d ≠ dom)
  | none => false

/-- DONE is cleared by a master of domain `dom` (R544): a requester that does so after the completion gives its registers up. -/
def svcRelease (dom : Dom) (s : State) : State :=
  if s.mgmt.svcLock = some dom ∧ s.svcBusy = false then s.setMgmt { s.mgmt with svcLock := none } else s

/-- A request of a service (R544): while BUSY it is ignored with REJ. -/
def svcGo (dom : Dom) (host : Bool) (s : State) : State :=
  if s.svcBusy then (s.parBit P.MGMT_SVCSTAT 2 true).countMgmt 1
  else
    let r0 := s.par P.MGMT_SVCREQ
    let s := s.setPar P.MGMT_SVCSTAT (putFld (putBit (s.par P.MGMT_SVCSTAT) 0 true) 3 dom)
    let v : Service := { code := fld r0 0 8, tag := fld r0 8 8, requester := dom, host := host, worked := false, status := 0, reply1 := 0 }
    (s.setMgmt { s.mgmt with service := some v, svcLock := some dom }).countMgmt 0

def State.svcReq (s : State) (i : Nat) : Word := s.par (P.MGMT_SVCREQ + i)

/-- The work of a service is done: status and REPLY1. -/
def svcResult (v : Service) (status : BitVec 8) (reply : Word) (s : State) : State :=
  s.setMgmt { s.mgmt with service := some { v with worked := true, status := status, reply1 := reply } }

/-- The result of a service that has written NVM: status 6 where a word failed its verify (R307, Table SEP-2). -/
def svcWritten (v : Service) (reply : Word) (s : State) : State := svcResult v (if s.mgmt.jobBad then 6 else 0) reply s

/-- Run the work of service `code` if it is the one requested and not yet done. -/
def onService (code : BitVec 8) (f : Service → State → State) (s : State) : State :=
  match s.mgmt.service with
  | some v => if v.code = code ∧ v.worked = false then f v (nvmSettled s) else s
  | none => s

/-- One word of a buffer read as the requester (R545): status 3 refused, with DOM.VIOL where a region check fails (R323), 4 poisoned. -/
def readAs (dom : Dom) (a : Addr) (s : State) : (BitVec 8 × Word) × State :=
  let acc : Accessor := { master := .sepia, dom := dom, prv := false }
  if (s.regionFail acc spData a .r).isSome then ((3, 0), noteViol 4 dom a false s)
  else
    match place a with
    | .sram b =>
      if s.asleep (archOf b) then ((3, 0), s)
      else
        match sramRead finSepia b (busGrant waitSepia b s) with
        | (some w, s) => ((0, w), s)
        | (none, s) => ((4, 0), s)
    | _ => ((3, 0), s)

/-- A buffer of `n` words, up to the first failure. -/
def readBuffer (dom : Dom) : Nat → Addr → State → (BitVec 8 × List Word) × State
  | 0, _, s => ((0, []), s)
  | n + 1, a, s =>
    let r := readAs dom a s
    if r.1.1 ≠ 0 then ((r.1.1, []), r.2)
    else
      let t := readBuffer dom n (a + 1) r.2
      ((t.1.1, r.1.2 :: t.1.2), t.2)

/-- A buffer of words; sepia reads as the requester. -/
def withBuffer (v : Service) (n : Nat) (a : Addr) (f : List Word → State → State) (s : State) : State :=
  let r := readBuffer v.requester n a s
  if r.1.1 ≠ 0 then svcResult v r.1.1 0 r.2 else f r.1.2 r.2

/-- NVMWRITE (R546, R548). -/
def svcNvmWrite (v : Service) (s : State) : State :=
  let dest : Addr := fld (s.svcReq 1) 0 24
  let n := (s.svcReq 2).toNat
  if n = 0 ∨ 4096 < n ∨ !(s.nvmAllowed v.requester dest n) ∨ (v.host && !s.right rightNvmW) then svcResult v 2 0 s
  else if 8 ≤ s.mgmt.nvmQ.length then svcResult v 5 0 s
  else
    withBuffer v n (fld (s.svcReq 3) 0 24) (fun ws s =>
      let t := s.mgmt.nextTicket
      let req : NvmReq := { ticket := t, dom := v.requester, dest := dest, data := ws, done := 0, bad := false }
      let s := s.setMgmt { s.mgmt with nextTicket := t + 1, nvmQ := s.mgmt.nvmQ ++ [req] }
      svcResult v 0 (t.setWidth 36) (showNvmQ s)) s

/-- LOGAPPEND (R560): the record's index is the slot it will take. -/
def svcLogAppend (v : Service) (s : State) : State :=
  let ty := (s.svcReq 1).toNat
  if !(s.par P.MGMT_LOGMASK).getLsbD v.requester.toNat ∨ ty < 0x800 ∨ 0xFFF < ty then svcResult v 2 0 s
  else if 32 ≤ s.mgmt.logQ.length then svcResult v 5 0 (s.pushLog ty v.requester.toNat (s.svcReq 2) (s.svcReq 3))
  else
    let idx : BitVec 12 := fld (s.par P.MGMT_LOGHEAD) 0 12 + BitVec.ofNat 12 s.mgmt.logQ.length
    svcResult v 0 (idx.setWidth 36) (s.pushLog ty v.requester.toNat (s.svcReq 2) (s.svcReq 3))

/-! ### Sensors (R558, Table SEP-6) -/

/-- A reading by its mask bit. -/
def readingOf (r : Readings) (k : Nat) : Word :=
  match k with
  | 0 => r.temp
  | 1 => r.vdd
  | 2 => r.vbk
  | 3 => r.podr
  | 4 => r.light
  | _ => r.xtal

/-- The crystal check can be made: REFRDY = 1 and OSCFAIL = 0 (R558). -/
def State.xtalCheckable (s : State) : Bool := (s.par P.PWR_STATUS).getLsbD 3 && !(s.par P.PIER_STATUS).getLsbD 2

/-- The result of one sensor enters its parameter; XTAL carries INVALID where it cannot be made. -/
def storeSensor (r : Readings) (k : Nat) (s : State) : State :=
  let v := if k = 5 then (if s.xtalCheckable then putBit (readingOf r 5) 35 false else putBit (s.par (P.MGMT_TEMP + 5)) 35 true) else readingOf r k
  s.setPar (P.MGMT_TEMP + k) v

/-- A result lies beyond threshold `t` of sensor `k` (Table SEP-9 SENSTHR): limits and results are signed. -/
def State.beyond (s : State) (t k : Nat) : Bool :=
  let th := s.par (P.MGMT_SENSTHR + t)
  let lim := (fld th 8 28 : BitVec 28).toInt
  let v := s.par (P.MGMT_TEMP + k)
  let x := if k = 5 then (fld v 0 35 : BitVec 35).toInt else v.toInt
  th.getLsbD 4 && decide ((fld th 0 3 : BitVec 3).toNat = k) && !(decide (k = 5) && v.getLsbD 35)
    && (if th.getLsbD 3 then decide (lim < x) else decide (x < lim))

/-- The thresholds of one measured sensor (R558). -/
def checkSensor (k : Nat) (s : State) : State :=
  (List.range 8).foldl (fun s t =>
    if s.beyond t k then
      let s := sepiaIrq 3 (s.parBit P.MGMT_SENSSTAT t true)
      (s.pushLog 0x013 0x000 (s.par P.MGMT_SENSSTAT) (s.par (P.MGMT_TEMP + k))).countMgmt 13
    else s) s

/-- Measure the sensors of a mask (R558). -/
def measure (mask : BitVec 6) (r : Readings) (s : State) : State :=
  (bitsSet mask 6).foldl (fun s k => checkSensor k (storeSensor r k s)) s

/-- Periodic sampling, every SENSCFG.PER seconds (R558). -/
def samplePeriodic (r : Readings) (s : State) : State :=
  let c := s.par P.MGMT_SENSCFG
  if (fld c 6 12 : BitVec 12) = 0 then s else measure (fld c 0 6) r s

/-- SENSE. -/
def svcSense (r : Readings) (v : Service) (s : State) : State := svcResult v 0 0 (measure (fld (s.svcReq 1) 0 6) r s)

/-- PODTEST: refused with status 5 while the radio is in TXWARM or TX, or a pod transaction runs (R545, R601). -/
def svcPodTest (podr : Word) (v : Service) (s : State) : State :=
  let rs := (fld (s.par P.RADIO_STATE) 0 4 : BitVec 4).toNat
  if rs = 6 ∨ rs = 7 ∨ (s.par P.POD_STATUS).getLsbD 0 then svcResult v 5 0 s
  else svcResult v 0 podr ((s.setPar (P.MGMT_TEMP + 3) podr).countMgmt 14)

/-- XTALCHK (R558): REPLY1 returns the signed measurement (Table SEP-2), and where none can be made MGMT.XTAL with its INVALID. -/
def svcXtalChk (ppm : Word) (v : Service) (s : State) : State :=
  let s := (storeSensor { temp := 0, vdd := 0, vbk := 0, podr := 0, light := 0, xtal := ppm } 5 s).countMgmt 15
  svcResult v 0 (if s.xtalCheckable then ppm else s.par (P.MGMT_TEMP + 5)) s

/-! ### Update path services -/

/-- The result of a verification (R553, R565): while a request into the slot waits or is written, the slot may be found changed, code 5. -/
def State.armResult (s : State) (k : BitVec 1) : Nat :=
  let code := s.verifySlot k (decide (s.bootedSlot = some k))
  let writing := s.mgmt.nvmQ.any (fun r => decide (nvmPart r.dest ≤ 2) && decide (nvmSlot r.dest = k))
  if code = 0 && writing && Config.freeBool (s.freeCtr * 128) then 5 else code

/-- ARMUPDATE (R553). -/
def svcArmUpdate (v : Service) (s : State) : State :=
  let k : BitVec 1 := fld (s.svcReq 1) 0 1
  let s := sepiaSaw true (98304 * k.toNat) 98304 s
  let code := s.armResult k
  let s := s.drawn
  if code = 0 then
    let sl := s.sealOf (s.header k)
    let w := putFld (putFld (putBit (bootWord s.cfgWords) 1 true) 2 k) 3 (0 : BitVec 2)
    let s := writeCfg (fun ws =>
      ((List.range 8).foldl (fun (ws : List Word) i => ws.set (3 + 8 * k.toNat + i) ((sl.getD i 0).setWidth 36)) ws).set 2 w) s
    let s := showSlots (s.setPar P.MGMT_BOOTSTAT (putFld (s.par P.MGMT_BOOTSTAT) 0 (fld w 0 6 : BitVec 6)))
    svcWritten v 0 (updateLog 0 k s)
  else svcResult v (if code = 6 then 2 else 6) (BitVec.ofNat 36 code) (updateLog code k (s.countMgmt 7))

/-- CONFIRM (R555). -/
def svcConfirm (v : Service) (s : State) : State :=
  if v.requester ≠ 1 then svcResult v 2 0 s
  else
    match s.bootedSlot with
    | none => svcResult v 2 0 s
    | some k =>
      let w := putFld (putBit (putFld (bootWord s.cfgWords) 0 k) 1 false) 3 (0 : BitVec 3)
      let s := sepiaSaw true (98304 * k.toNat + 98240) 64 s
      let s := blowRollback k (setBoot w s)
      svcWritten v 0 (updateLog 0 k s)

/-- REGIONS (R551). -/
def svcRegions (v : Service) (s : State) : State :=
  if v.requester ≠ 1 then svcResult v 2 0 s
  else
    withBuffer v 96 (fld (s.svcReq 1) 0 24) (fun xs s =>
      svcWritten v 0 (writeCfg (fun ws => ws.take 19 ++ xs ++ ws.drop 115) s)) s

/-- SLOTINFO: header words 1-3 and seal state of each slot into SVCDATA0-7 (Table SEP-2). -/
def svcSlotInfo (v : Service) (s : State) : State :=
  let put := fun (k : BitVec 1) (s : State) =>
    let h := s.header k
    let b := P.MGMT_SVCDATA + 4 * k.toNat
    let s := (List.range 3).foldl (fun s i => s.setPar (b + i) ((hdr h (1 + i)).setWidth 36)) s
    s.setPar (b + 3) (boolWord (s.isSealed k))
  svcResult v 0 0 (put 1 (put 0 (sepiaSaw true 0x17FC0 64 (sepiaSaw true 0x2FFC0 64 s))))

/-- WRAP as Sepia commands it for KEYWRITE (R498): OP 14 on a slot, from KEY0-7 or generated. -/
def wrapCmd (slot : BitVec 4) (ksrc : BitVec 2) : BitVec 20 := putFld (putFld (14 : BitVec 20) 5 slot) 9 ksrc

/-- Sepia starts WRAP as owner 0 and feeds it the header (R498, R545); an operation that ends at once leaves the resource busy. -/
def startWrap (v : Service) (slot : BitVec 4) (ksrc : BitVec 2) (header : Word) (s : State) : State :=
  let s := startOp (wrapCmd slot ksrc) 0 s
  if s.crypt.op.isSome then cryptIn header (s.setMgmt { s.mgmt with service := some { v with wrap := some header } }) else svcResult v 5 0 s

/-- The WRAP of a KEYWRITE has ended (R545, R564): with CODE 0 the header and the body from OUT are written to the slot; CODE 2 says that the key may not be
formed, and any other end leaves the resource busy, statuses that the spec leaves open (log 84). -/
def wrapEnd (v : Service) (slot : BitVec 4) (header : Word) (s : State) : State :=
  let last := s.par P.CRYPT_LASTOP
  let code : BitVec 5 := fld last 13 5
  let own := decide ((fld last 0 5 : BitVec 5) = 14) && decide ((fld last 9 4 : BitVec 4) = 0)
  if own && code == 0 && decide (15 ≤ s.crypt.outFifo.length) then
    let body := (s.crypt.outFifo.take 15).map (fun w => w.setWidth 36)
    svcWritten v 0 (writeDnvm (16 * slot.toNat) (header :: body) (clearFifos s))
  else svcResult v (if own && code == 2 then 2 else 5) 0 s

/-- A WRAP that Sepia has started goes on until it ends; it may wait for random words (R498). -/
def wrapStep (v : Service) (slot : BitVec 4) (header : Word) (s : State) : State :=
  let s := match s.crypt.op with
    | some o => if o.owner = 0 then cryptDone s else s
    | none => s
  match s.crypt.op with
  | some o => if o.owner = 0 then s else wrapEnd v slot header s
  | none => wrapEnd v slot header s

/-- KEYWRITE (R545, R498): the slot's header with its generation count increased, and the body that WRAP forms from the key of the buffer, which Sepia copies
into CRYPT.KEY0-7, or from a generated P-256 key. A cipher unit that runs, holds output or has no power is a busy resource. -/
def svcKeyWrite (v : Service) (s : State) : State :=
  let slot : BitVec 4 := fld (s.svcReq 1) 0 4
  match v.wrap with
  | some header => wrapStep v slot header s
  | none =>
    let s := sepiaSaw false (16 * slot.toNat) 1 s
    let old := s.slotHeader slot
    if v.requester ≠ 1 ∨ s.lifeState = 3 ∨ 16 ≤ (s.svcReq 1).toNat then svcResult v 2 0 s
    else if !s.sepiaMayRead (nvmAddr false (16 * slot.toNat)) then svcResult v 3 0 s
    else if old.getLsbD 29 then svcResult v 2 0 s
    else if s.crypt.op.isSome ∨ !s.crypt.outFifo.isEmpty ∨ !s.cipherOn then svcResult v 5 0 s
    else
      let gen : BitVec 4 := fld old 25 4
      let header : Word := putFld ((fld (s.svcReq 2) 0 30 : BitVec 30).setWidth 36) 25 (gen + 1)
      if s.svcReq 3 = 0 then startWrap v slot 3 header s
      else
        withBuffer v 8 (fld (s.svcReq 3) 0 24) (fun xs s =>
          startWrap v slot 1 header ((List.finRange 8).foldl (fun s i => cryptKey i 0 (xs.getD i.val 0) s) s)) s

/-- The service codes of Table SEP-2. -/
def serviceKnown (c : BitVec 8) : Bool := decide (1 ≤ c.toNat) && decide (c.toNat ≤ 10)

/-- A service completes (R544, R545): REPLY0 holds the status and the tag, REPLY1 the result; DONE sets and SEPIA is raised. An unassigned code ends with
status 1. -/
def svcDone (s : State) : State :=
  match s.mgmt.service with
  | none => s
  | some v =>
    if v.worked || !serviceKnown v.code then
      let s := if v.worked && v.code == 7 then showRollback s else nvmSettled s
      let st : BitVec 8 := if v.worked then v.status else 1
      let s := s.setMgmt { s.mgmt with service := none }
      let s := s.setPar P.MGMT_SVCREPLY ((v.tag ++ st).setWidth 36)
      let s := s.setPar (P.MGMT_SVCREPLY + 1) v.reply1
      let s := s.setPar P.MGMT_SVCSTAT (putBit (putBit (s.par P.MGMT_SVCSTAT) 0 false) 1 true)
      let s := if v.host then hostIrq 3 s else s
      sepiaIrq 0 s
    else s

/-- A revocation ends a running service of the domain with status 7; a KEYWRITE whose WRAP has started goes on to its end (R564), with the status of that end,
which is this model's choice (log 84). -/
def svcRevoke (d : Dom) (s : State) : State :=
  match s.mgmt.service with
  | some v => if v.requester = d ∧ v.worked = false ∧ v.wrap = none then svcResult v 7 0 s else s
  | none => s

/-! ### Strike events (R543) -/

/-- Sepia takes the oldest strike event: the FIFO entry or DROP, the action of EVCFG, and SEPIA. -/
def strikeEvent (r : Readings) (s : State) : State :=
  match s.time.sepiaEvs with
  | [] => s
  | ev :: rest =>
    let s := { s with time := { s.time with sepiaEvs := rest } }
    let w : Word := putBit (putFld (ev.setWidth 36) 8 (fld s.pier.sepiaMirror 0 27 : BitVec 27)) 35 true
    let s := if s.mgmt.evFifo.length < 16 then s.setMgmt { s.mgmt with evFifo := s.mgmt.evFifo ++ [w] }
      else s.setPar P.MGMT_EVSTAT (bumpFld (s.par P.MGMT_EVSTAT) 5 8)
    let s := s.countMgmt 4
    let cfg := s.par P.MGMT_EVCFG
    let s := if cfg.getLsbD 16 && decide ((fld cfg 0 8 : BitVec 8) = ev) then measure 0x3F r s else s
    let s := if cfg.getLsbD 17 && decide ((fld cfg 8 8 : BitVec 8) = ev) then s.pushLog 0x014 0x000 (ev.setWidth 36) 0 else s
    sepiaIrq 2 s

/-- A read of EVFIFO pops one entry; an empty FIFO reads 0 (R543). -/
def popEvent (s : State) : Word × State :=
  match s.mgmt.evFifo with
  | [] => (0, s)
  | w :: rest => (w, s.setMgmt { s.mgmt with evFifo := rest })

/-! ### Watchdog (R556, R557) -/

/-- An NMI condition: taken at a boundary, or while NMIL is 1 signalled to Sepia (R181, R557). -/
def raiseNmi (s : State) : State :=
  if srNmil s.umber.sr then s.setUmber { s.umber with escalate := true } else s.setUmber { s.umber with nmiPend := true }

def State.wdEnabled (s : State) : Bool := (s.par P.MGMT_WDCFG).getLsbD 0

/-- Stage times in Pier ticks: T1 = 16 c, T2, T3, each × 32 (R556, Table SEP-9). -/
def State.wdTicks (s : State) (stage : Nat) : Nat :=
  let c := s.par P.MGMT_WDCFG
  match stage with
  | 0 => 512 * (fld c 1 7 : BitVec 7).toNat
  | 1 => 32 * (fld c 8 8 : BitVec 8).toNat
  | _ => 32 * (fld c 16 8 : BitVec 8).toNat

/-- The watchdog stands at a stage with its full time ahead. -/
def wdEnter (stage : BitVec 2) (s : State) : State :=
  s.setMgmt { s.mgmt with wdStage := stage, wdLeft := s.wdTicks stage.toNat }

/-- Stage 1 begins: WDT, source 23. -/
def wdStage1 (s : State) : State :=
  if s.wdEnabled ∧ s.mgmt.wdStage = 0 ∧ s.mgmt.wdLeft = 0 then ((wdEnter 1 s).raiseIrq 23).countMgmt 9 else s

/-- Stage 2 begins: the NMI. -/
def wdStage2 (s : State) : State :=
  if s.wdEnabled ∧ s.mgmt.wdStage = 1 ∧ s.mgmt.wdLeft = 0 then raiseNmi ((wdEnter 2 s).countMgmt 10) else s

/-- A write of WDKICK (R556): the key returns to stage 0, any other value moves to stage 2 at once, while the watchdog is enabled. -/
def wdKick (v : Word) (s : State) : State :=
  if !s.wdEnabled then s
  else if v = 0x00000C3A5 then (if s.mgmt.wdStage = 3 then s else wdEnter 0 s)
  else if s.mgmt.wdStage = 2 then s
  else raiseNmi ((wdEnter 2 s).countMgmt 10)

/-- WDSTAT: stage, ticks to the next one, stage-3 resets (Table SEP-9). -/
def State.wdStat (s : State) : Word :=
  putFld (putFld (s.par P.MGMT_WDSTAT) 0 s.mgmt.wdStage) 2 (BitVec.ofNat 16 (if s.wdEnabled then s.mgmt.wdLeft else 0))

/-- WDCFG is written (R556): EN stays 1 once set; setting it starts stage 0. -/
def writeWdcfg (v : Word) (s : State) : State :=
  let was := s.wdEnabled
  let s := s.setPar P.MGMT_WDCFG (putBit (v &&& 0x000FFFFFF) 0 (was || v.getLsbD 0))
  if !was && v.getLsbD 0 then wdEnter 0 s else s

end Sys2Proof.Machine
end

