-- ==== Sys2Proof/Machine/TimeOps.lean ====
section
/-!
DEFINITION. Sys2Proof/Machine/TimeOps.lean: store time, steps, loads, strikes and pins (03). One TCLK edge is `tclkEdge`: it is what
the block does on an empty queue while the REF group runs (log 3), and what the rows that take place at a TCLK edge share.
-/

namespace Sys2Proof.Machine

/-- Software's view S32.F32 of an accumulator value: bits 27:0 are truncated (R82). -/
def softTime (a : BitVec 92) : StoreTime := fld a 28 64

/-- The accumulator value of a store time, bits 27:0 clear (R86). -/
def accOf (t : StoreTime) : BitVec 92 := t.setWidth 92 <<< 28

/-- The increment in force (R80). -/
def State.inc (s : State) : BitVec 92 := (s.par P.TIME_INC).setWidth 92

/-- A signed 36-bit step in units of 2^-32 s as an accumulator amount (R85). -/
def stepAmount (v : Word) : BitVec 92 := v.signExtend 92 <<< 28

/-- floor(2.5 × TIME.INC), the synchroniser allowance of a Pier edge (R87, R89). -/
def State.edgeLag (s : State) : BitVec 92 := BitVec.ofNat 92 (5 * (s.par P.TIME_INC).toNat / 2)

/-- Log one applied step or load: STEPLOG slot STEPCNT mod 16, STEPPED, STEPCNT, STEPTF and STEPTS (R85, R86). -/
def logStep (v : Word) (s : State) : State :=
  let st := s.par P.TIME_STATUS
  let n : BitVec 8 := fld st 7 8
  let t := softTime s.time.acc
  let s := s.setPar (P.TIME_STEPLOG + n.toNat % 16) v
  let s := s.setPar P.TIME_STATUS (putBit (putFld st 7 (n + 1)) 2 true)
  let s := s.setPar P.TIME_STEPTF ((fld t 0 32).setWidth 36)
  s.setPar P.TIME_STEPTS ((fld t 32 32).setWidth 36)

/-- A difference of store times saturated to the STEP range (R86). -/
def satStep (d : StoreTime) : Word :=
  let i := d.toInt
  if i < -(2 ^ 35) then BitVec.ofInt 36 (-(2 ^ 35))
  else if 2 ^ 35 ≤ i then BitVec.ofInt 36 (2 ^ 35 - 1)
  else BitVec.ofInt 36 i

/-- A load completes with the accumulator set to `a`: LOADPEND clears, LOADDONE and VALID set, and it is logged as a step with
the applied difference saturated (R86). -/
def finishLoad (a : BitVec 92) (s : State) : State :=
  let d := softTime a - softTime s.time.acc
  let s := { s with time := { s.time with acc := a, load := none } }
  let st := s.par P.TIME_STATUS
  let st := putBit (putBit (putBit st 3 false) 4 true) 0 true
  logStep (satStep d) (s.setPar P.TIME_STATUS st)

/-- A pending load ends without effect: LOADPEND clears and the given status bit sets (R89, R90). -/
def dropLoad (bit : Nat) (s : State) : State :=
  let s := { s with time := { s.time with load := none } }
  s.setPar P.TIME_STATUS (putBit (putBit (s.par P.TIME_STATUS) 3 false) bit true)

/-- Writing 1 to TIME.CTL.LOAD: LOADPEND sets and any pending load is replaced. The next TCLK edge takes its values (R86), which are those of the writes issued
before it: a LOADS, LOADF, LOADT or LOADMODE that latches after it is for a later load (R51). -/
def startLoad (s : State) : State :=
  let v : StoreTime := (fld (s.par P.TIME_LOADS) 0 32) ++ (fld (s.par P.TIME_LOADF) 0 32)
  let l : PendLoad := { taken := false, examined := false, value := v, atTick := fld (s.par P.TIME_LOADT) 0 16, onTick := (s.par P.TIME_CTL).getLsbD 1 }
  let s := { s with time := { s.time with load := some l } }
  s.setPar P.TIME_STATUS (putBit (s.par P.TIME_STATUS) 3 true)

/-- The first TCLK edge after LOAD latched takes the load (R86); a Pier-tick load while OSF is 1 is refused with LOADREF (R90). -/
def takeLoad (s : State) : State :=
  match s.time.load with
  | none => s
  | some l =>
    if l.taken then s
    else if l.onTick && (s.par P.PIER_STATUS).getLsbD 0 then dropLoad 6 s
    else { s with time := { s.time with load := some { l with taken := true } } }

/-- A load of mode 0 waits for the next TCLK edge (R86). -/
def State.loadAtTclk (s : State) : Bool :=
  match s.time.load with
  | some l => !l.taken && !l.onTick
  | none => false

/-! ### Pins -/

/-- Strike pins 2 and 3 exist only in the OZ-3648-AB (R31, R32). -/
def State.pinPresent (s : State) (pin : BitVec 2) : Bool :=
  decide (pin.toNat < 2) || decide (s.pwr.package = .ab)

def setPin (pin : BitVec 2) (b : Bool) (phase : BitVec 3) (s : State) : State :=
  { s with time := { s.time with pins := putBit s.time.pins pin.toNat b, phases := s.time.phases.set pin.toNat phase } }

/-- The level a strike pin drives: its level with the polarity of TIME.PINCTL.INV, which the island takes at a TCLK edge (R50, R103, Table TIM-4). A pin that is absent drives nothing (R18, R31, R41). -/
def State.pinOut (s : State) (pin : BitVec 2) : Bool :=
  s.pinPresent pin && xor (s.time.pins.getLsbD pin.toNat) (s.time.pinInv.getLsbD pin.toNat)

/-- The width of a pulse in accumulator units: values below 3 TCLK cycles are taken as 3 (R103). STRK.WIDTH counts in bits 31:0, which is this model's choice
(log 12): Table TIM-7 gives it no bit range. -/
def State.pulseWidth (s : State) (n : Fin 8) : BitVec 92 :=
  let w := accOf (((fld (s.par (P.STRK_WIDTH + 16 * n.val)) 0 32)).setWidth 64)
  if w.toNat < 3 * s.inc.toNat then BitVec.ofNat 92 (3 * s.inc.toNat) else w

/-- F lies in the past of the store time `c`: their difference as S32.F32 values is negative (R82). -/
def inPast (f : StoreTime) (c : BitVec 92) : Bool := (f - softTime c).msb

/-- The sub-cycle phase round(4(F − C_k)/INC) of an edge due at the accumulator value `f` (R104); 0 where `f` does not lie after the start of the cycle. -/
def firePhase (f c inc : BitVec 92) : BitVec 3 :=
  if (f - c).msb then 0
  else BitVec.ofNat 3 (((8 * (f - c).toNat + inc.toNat) / (2 * inc.toNat)) % 5)

/-- A pulse end is due before the end of the cycle that starts at `c` (R103). -/
def pulseDue (c inc : BitVec 92) (p : PulseEnd) : Bool := inPast (softTime p.at') (c + inc)

/-- How far after the start `c` of its cycle an edge due at `f` is placed, in accumulator units: 0 for one that is past (R104). -/
def cycleOffset (f c : BitVec 92) : Nat := if (f - c).msb then 0 else (f - c).toNat

/-- Deassert the pins of the pulse ends that `sel` selects, each at its phase (R103, R104); the others stay scheduled. -/
def endPulsesWhere (sel : PulseEnd → Bool) (s : State) : State :=
  let c := s.time.acc
  let due := s.time.pulses.filter sel
  let rest := s.time.pulses.filter (fun p => !sel p)
  let s := due.foldl (fun s p => setPin p.pin false (firePhase p.at' c s.inc) s) s
  { s with time := { s.time with pulses := rest } }

/-- Every pulse end that comes due in this cycle takes place (R103). A pulse that fires late, or that a step or load has passed, with its F + WIDTH already past asserts and
deasserts at this one edge, so that its pin shows no pulse: R103 does not say, and this is the model's choice (log 95). -/
def endPulses (s : State) : State := endPulsesWhere (pulseDue s.time.acc s.inc) s

/-- The pulse ends that were past when this cycle began take place at its start (R103): those of late pulses, and those a step or load has passed. -/
def endPastPulses (s : State) : State :=
  endPulsesWhere (fun p => pulseDue s.time.acc s.inc p && (p.at' - s.time.acc).msb) s

/-- The pulse ends of a pin that come due in this cycle no later than an action on it, due at `f`, take place before it: the actions and deassertions of one
cycle apply in the order of their times (R103, R104). That an end due at the very time of the action comes first is this model's choice (log 95). -/
def endPulsesBefore (pin : BitVec 2) (f : BitVec 92) (s : State) : State :=
  let c := s.time.acc
  endPulsesWhere (fun p => pulseDue c s.inc p && !(p.at' - c).msb && decide (p.pin = pin) && decide (cycleOffset p.at' c ≤ cycleOffset f c)) s

/-- The action of STRK.PIN at fire time `f` (R103); on an absent pin without effect (R32). -/
def pinAction (n : Fin 8) (f : StoreTime) (phase : BitVec 3) (s : State) : State :=
  let c := s.par (P.STRK_PIN + 16 * n.val)
  let pin : BitVec 2 := fld c 0 2
  if s.pinPresent pin then
    let s := endPulsesBefore pin (accOf f) s
    match (fld c 2 2 : BitVec 2) with
    | 0 => setPin pin true phase s
    | 1 => setPin pin false phase s
    | 2 => setPin pin (!s.time.pins.getLsbD pin.toNat) phase s
    | _ =>
      let s' := setPin pin true phase s
      { s' with time := { s'.time with pulses := s'.time.pulses ++ [{ pin := pin, at' := accOf f + s.pulseWidth n }] } }
  else s

/-! ### Strike units -/

/-- The unit is armed: STRK.CTL.ARM reads 1 (Table TIM-7). -/
def State.armed (s : State) (n : Fin 8) : Bool := (s.par (P.STRK_CTL + 16 * n.val)).getLsbD 0

def State.setStrike (s : State) (n : Fin 8) (u : StrikeSt) : State :=
  { s with time := { s.time with strikes := s.time.strikes.set n u } }

/-- The armed time N (R92). -/
def State.strikeN (s : State) (n : Fin 8) : StoreTime :=
  (fld (s.par (P.STRK_NSEC + 16 * n.val)) 0 32) ++ (fld (s.par (P.STRK_NFRAC + 16 * n.val)) 0 32)

def State.setStrikeN (s : State) (n : Fin 8) (t : StoreTime) : State :=
  (s.setPar (P.STRK_NSEC + 16 * n.val) ((fld t 32 32).setWidth 36)).setPar (P.STRK_NFRAC + 16 * n.val)
    ((fld t 0 32).setWidth 36)

/-- The compensation C of a target: PINCOMP for a pin with PCEN, SYS.TXLAUNCH for a compensated transmit start, else 0 (R93). -/
def State.strikeComp (s : State) (n : Fin 8) (t : Nat) : StoreTime :=
  let ract := s.par (P.STRK_RACT + 16 * n.val)
  if t = 0 && (s.par P.TIME_CTL).getLsbD 2 then (fld (s.par P.TIME_PINCOMP) 0 8).setWidth 64
  else if t = 1 && ract.getLsbD 8 && (fld ract 0 2 : BitVec 2) == 0 then (fld (s.par P.SYS_TXLAUNCH) 0 16).setWidth 64
  else 0

/-- The fire time F = N − C of a target (R93). -/
def State.fireTime (s : State) (n : Fin 8) (t : Nat) : StoreTime := s.strikeN n - s.strikeComp n t

/-- The targets enabled in STRK.TGT (R95); a write to an armed unit counts from the next TCLK edge. -/
def State.strikeTgt (s : State) (n : Fin 8) : BitVec 6 := fld (s.par (P.STRK_TGT + 16 * n.val)) 0 6

/-- In the first cycle after the arming edge, F lies less than 2 TCLK cycles after that edge, or before it: the target is late (R94, R101; log 12). -/
def State.lateArmed (s : State) (n : Fin 8) (f : StoreTime) : Bool :=
  match s.time.strikes[n].armedAt with
  | some a => (f - a).msb || decide ((f - a).toNat * 2 ^ 28 < 2 * s.inc.toNat)
  | none => false

/-- A target fires in the cycle that starts at the accumulator: store time passes F in it (R93), or F was late at the arming, or F lay in the past already
before this edge's step or load, at `prior` (R94, R113). An F that a write of TIME.INC between two edges leaves in the interval of neither cycle fires at the later
edge, late: R93 does not say, and this is the model's choice (log 95). `prior` is none where VALID has only just set: a past target then waits for the next edge. -/
def State.targetDue (s : State) (prior : Option (BitVec 92)) (n : Fin 8) (t : Nat) : Bool :=
  let f := s.fireTime n t
  let c := s.time.acc
  match prior with
  | some b => (!inPast f c && inPast f (c + s.inc)) || s.lateArmed n f || (inPast f c && inPast f b)
  | none => !inPast f c && inPast f (c + s.inc)

/-- The target fires late: F is past, or was too near at the arming (R94). -/
def State.targetLate (s : State) (n : Fin 8) (t : Nat) : Bool :=
  inPast (s.fireTime n t) s.time.acc || s.lateArmed n (s.fireTime n t)

/-- What a target does (Table TIM-1): pin action, radio action, epoch latch, DMA starts, Umber interrupt, Sepia event. The signals to CORE leave in this
order and cross later (R48, R102, R119). -/
def targetAction (n : Fin 8) (t : Nat) (s : State) : State :=
  let unit := BitVec.ofNat 3 n.val
  let signal := fun (d : Option (BitVec 16)) =>
    { s with time := { s.time with signals := s.time.signals ++ [{ unit := unit, sent := s.time.tclk, dma := d }] } }
  match t with
  | 0 => pinAction n (s.fireTime n 0) (firePhase (accOf (s.fireTime n 0)) s.time.acc s.inc) s
  | 1 => { s with time := { s.time with radioActs := s.time.radioActs ++ [(unit, fld (s.par (P.STRK_RACT + 16 * n.val)) 0 9)] } }
  | 2 => { s with time := { s.time with epochs :=
      s.time.epochs ++ [{ edge := s.time.tclk + 1 + (s.time.tclk + 1) % 2 + 4, time := none }] } }
  | 3 => signal (some (fld (s.par (P.STRK_DMASEL + 16 * n.val)) 0 16))
  | 4 => signal none
  | _ => { s with time := { s.time with sepiaEvs :=
      s.time.sepiaEvs ++ [fld (s.par (P.STRK_DMASEL + 16 * n.val)) 16 8] } }

/-- The target has an effect: a pin target on an absent pin has none (R32). -/
def State.targetActs (s : State) (n : Fin 8) (t : Nat) : Bool := decide (t ≠ 0) || s.pinPresent (fld (s.par (P.STRK_PIN + 16 * n.val)) 0 2)

/-- One target of an armed unit in this cycle: if it is enabled, unfired and due it fires; a late one that has an effect sets LATE and LTGT (R32, R93, R94). -/
def fireTarget (prior : Option (BitVec 92)) (n : Fin 8) (t : Nat) (s : State) : State :=
  let u := s.time.strikes[n]
  if (s.strikeTgt n).getLsbD t && !u.fired.getLsbD t && s.targetDue prior n t then
    let s' := if s.targetLate n t && s.targetActs n t then
        let l := s.par (P.STRK_LATE + 16 * n.val)
        s.setPar (P.STRK_LATE + 16 * n.val) (putBit (putBit l 0 true) (1 + t) true)
      else s
    targetAction n t (s'.setStrike n { u with fired := putBit u.fired t true })
  else s

/-- The interrupts that may arrive now, and the signals that stay under way: an interrupt passes only a DMA start of its own strike (R48, R102, R119). -/
def splitSignals : List StrikeSig → List StrikeSig → List StrikeSig × List StrikeSig
  | kept, [] => ([], kept)
  | kept, g :: gs =>
    if g.dma.isNone && kept.all (fun h => decide (h.unit = g.unit) && decide (h.sent = g.sent)) then
      let r := splitSignals kept gs
      (g :: r.1, r.2)
    else splitSignals (kept ++ [g]) gs

/-- Strike interrupts reach CORE: each raises its source STRKn (Table TIM-1). -/
def raiseStrikes (gs : List StrikeSig) (s : State) : State := gs.foldl (fun s g => s.raiseIrq g.unit.toNat) s

/-- The strike interrupts under way that nothing sent earlier holds back arrive (log 3). -/
def arriveIrqs (s : State) : State :=
  let r := splitSignals [] s.time.signals
  raiseStrikes r.1 { s with time := { s.time with signals := r.2 } }

/-- The period PSEC:PFRAC (R99). -/
def State.period (s : State) (n : Fin 8) : StoreTime :=
  (fld (s.par (P.STRK_PSEC + 16 * n.val)) 0 32) ++ (fld (s.par (P.STRK_PFRAC + 16 * n.val)) 0 32)

def disarm (n : Fin 8) (s : State) : State :=
  s.setPar (P.STRK_CTL + 16 * n.val) (putBit (s.par (P.STRK_CTL + 16 * n.val)) 0 false)

def setStrikeStatus (n : Fin 8) (bit : Nat) (s : State) : State :=
  s.setPar (P.STRK_STATUS + 16 * n.val) (putBit (s.par (P.STRK_STATUS + 16 * n.val)) bit true)

/-- The repetition of a firing unit: the period is added to N, skipping the periods already past, COUNT counts down and the unit disarms at 0, N keeping the
time it fired for (R99, R100, Table TIM-7). Past and future are judged at the store time of the next edge, which N may equal (log 12). A period of 0 read at a firing cannot advance N: the unit disarms with CFGERR (log 12).
A COUNT written to 0 while a limited unit is armed counts down from 2^24, and the unit goes on: R99 does not say, and this is the model's choice (log 95). -/
def repeatUnit (n : Fin 8) (s : State) : State :=
  let per := s.period n
  let now := softTime (s.time.acc + s.inc)
  let u := s.time.strikes[n]
  let left : BitVec 24 := (fld (s.par (P.STRK_COUNT + 16 * n.val)) 0 24) - 1
  let s := if u.unlimited then s else s.setPar (P.STRK_COUNT + 16 * n.val) (left.setWidth 36)
  let s := s.setStrike n { u with fired := 0 }
  if !u.unlimited && left == 0 then disarm n s
  else if per = 0 then setStrikeStatus n 5 (disarm n s)
  else
    let n1 := s.strikeN n + per
    let behind := now - n1
    let k := if (n1 - now).msb then (behind.toNat + per.toNat - 1) / per.toNat else 0
    let s := s.setStrikeN n (n1 + BitVec.ofNat 64 (k * per.toNat))
    let l := s.par (P.STRK_LATE + 16 * n.val)
    if k = 0 then s else s.setPar (P.STRK_LATE + 16 * n.val) (putFld l 8 (satAdd (fld l 8 8) k))

/-- A chained arming: the unit named arms at the following TCLK edge (R101). -/
def chainUnit (n : Fin 8) (s : State) : State :=
  let c := s.par (P.STRK_CHAIN + 16 * n.val)
  if c.getLsbD 3 then
    { s with time := { s.time with chainPend := s.time.chainPend ++ [(BitVec.ofNat 3 n.val, fld c 0 3)] } }
  else s

/-- The unit has fired (R94): the firing count advances; a repeating unit takes its period (R99), any other disarms with FIRED;
then the chain (R101). -/
def unitFired (n : Fin 8) (s : State) : State :=
  let st := s.par (P.STRK_STATUS + 16 * n.val)
  let s := s.setPar (P.STRK_STATUS + 16 * n.val) (putFld st 12 ((fld st 12 24) + 1))
  let s := if (s.par (P.STRK_CTL + 16 * n.val)).getLsbD 1 then repeatUnit n s
    else setStrikeStatus n 0 (disarm n s)
  chainUnit n s

/-- Every enabled target of the unit has fired (R94). A unit with no target enabled counts as fired when store time passes N (log 12). -/
def State.allFired (s : State) (prior : Option (BitVec 92)) (n : Fin 8) : Bool :=
  if s.strikeTgt n = 0 then s.targetDue prior n 6 else s.strikeTgt n &&& ~~~s.time.strikes[n].fired == 0

/-- One unit in one TCLK cycle: nothing fires while VALID is 0 or the unit is not armed (R83). -/
def strikeCycle (prior : Option (BitVec 92)) (n : Fin 8) (s : State) : State :=
  if s.armed n && (s.par P.TIME_STATUS).getLsbD 0 then
    let s := (List.range 6).foldl (fun s t => fireTarget prior n t s) s
    if s.allFired prior n then unitFired n s else s
  else s

/-- Arming refused with CFGERR: a period below 64 TCLK cycles with REPEAT (R99), radio action 3, or a radio channel above 39
(Table TIM-7). -/
def State.armRefused (s : State) (n : Fin 8) : Bool :=
  let ract := s.par (P.STRK_RACT + 16 * n.val)
  ((s.par (P.STRK_CTL + 16 * n.val)).getLsbD 1 && decide ((s.period n).toNat * 2 ^ 28 < 64 * s.inc.toNat))
    || (fld ract 0 2 : BitVec 2) == 3 || decide (40 ≤ (fld ract 2 6).toNat)

/-- What an arming takes from the parameters of its unit as they stand: when ARM = 1 is latched, since writes of one island take effect in issue order (R51), or at
the edge of a chained arming (R92, R99, R101). -/
def State.armTake (s : State) (n : Fin 8) : ArmTake :=
  { time := (fld (s.par (P.STRK_TSEC + 16 * n.val)) 0 32) ++ (fld (s.par (P.STRK_TFRAC + 16 * n.val)) 0 32),
    rel := (s.par (P.STRK_CTL + 16 * n.val)).getLsbD 2, refused := s.armRefused n, unlimited := decide (s.par (P.STRK_COUNT + 16 * n.val) = 0) }

/-- Arming at a TCLK edge (R92): N is TSEC:TFRAC, or the store time of the edge plus TSEC:TFRAC with REL. A unit that is armed takes a new N; one whose
arming is refused stays as it was (log 12). -/
def armUnit (n : Fin 8) (k : ArmTake) (s : State) : State :=
  if k.refused then setStrikeStatus n 5 s
  else
    let s := s.setStrikeN n (if k.rel then softTime s.time.acc + k.time else k.time)
    let s := s.setPar (P.STRK_CTL + 16 * n.val) (putBit (s.par (P.STRK_CTL + 16 * n.val)) 0 true)
    s.setStrike n { armedAt := some (softTime s.time.acc), fired := 0, unlimited := k.unlimited }

/-- The chained armings of this edge, in the order of the firings (R101, R102): a unit that `busy` says was armed when the edge came, or that an arming of
this edge has armed, is passed over with CHBUSY of the unit that fired. A unit armed when the edge came that fires and disarms at that same edge counts as armed
here: R101 says nothing of it, and this is the model's choice (log 95). -/
def armChained (busy : Fin 8 → Bool) (due : List (BitVec 3 × BitVec 3)) (armedNow : BitVec 8) (s : State) : State :=
  match due with
  | [] => s
  | (n, m) :: rest =>
    let m' : Fin 8 := Fin.ofNat 8 m.toNat
    if busy m' || armedNow.getLsbD m.toNat then armChained busy rest armedNow (setStrikeStatus (Fin.ofNat 8 n.toNat) 4 s)
    else
      let k := s.armTake m'
      armChained busy rest (putBit armedNow m.toNat (!k.refused)) (armUnit m' k s)

/-- The accumulator's part of a TCLK edge: INC is added, with the oldest latched step (R80, R85), or the load of mode 0 is applied (R86). Where a step and a
load fall on the same edge the step applies first and the load over it, and both are logged: the spec is silent, and this is the model's choice (log 95). -/
def advanceTime (s : State) : State :=
  let s := { s with time := { s.time with acc := s.time.acc + s.inc, tclk := s.time.tclk + 1 } }
  let s := match s.time.steps with
    | [] => s
    | v :: rest =>
      logStep v { s with time := { s.time with acc := s.time.acc + stepAmount v, steps := rest } }
  let s := takeLoad s
  match s.time.load with
  | some l => if l.onTick then s else finishLoad (accOf l.value) s
  | none => s

/-- The store time this edge would have without a step or load, where VALID was 1 before it: what R94 and R113 judge a past target by. -/
def State.edgePrior (s : State) : Option (BitVec 92) :=
  if (s.par P.TIME_STATUS).getLsbD 0 then some (s.time.acc + s.inc) else none

/-- The epoch latches whose freezing edge this is take its store time (R97). -/
def stampEpochs (s : State) : State :=
  let mark := fun (e : EpochPend) => if e.edge = s.time.tclk then { e with time := some (softTime s.time.acc) } else e
  { s with time := { s.time with epochs := s.time.epochs.map mark } }

/-- The first compare after the armings has been made (R94). -/
def settleArmings (s : State) : State :=
  { s with time := { s.time with strikes := s.time.strikes.map (fun u => { u with armedAt := none }) } }

/-! ### Carrier phase (R472; log 92) -/

/-- Store time of one TCLK cycle of the nominal rate, in units of 2^-60 s (R80). -/
def nominalInc : Nat := 0x14A61D149

/-- Cycles of a frequency in units of 0.5 MHz over a time in units of 2^-60 s, in units of 2^-60 cycle, modulo one cycle. -/
def cyclesOf (freq : Nat) (t : Int) : BitVec 60 := BitVec.ofInt 60 ((freq * 500000 : Nat) * t)

/-- The phase at the present TCLK cycle: it advances at f × (1 + δ) in store time, which is f cycles per second of REF (R472). -/
def Carrier.now (c : Carrier) (tclk : Word) : BitVec 60 := c.phase + cyclesOf c.freq (((tclk - c.at').toNat * nominalInc : Nat) : Int)

/-- A carrier is counted from a later cycle once the TCLK count has gone half its range since. -/
def Carrier.renew (tclk : Word) (c : Carrier) : Carrier :=
  if 2 ^ 35 ≤ (tclk - c.at').toNat then { c with phase := c.now tclk, at' := tclk } else c

/-- The synthesiser at a TCLK edge: the settling under way counts down, and its last edge is kept with its store time (R358, R472). -/
def synthTick (s : State) : State :=
  let r := s.radio
  let edge : SettleEdge := { acc := s.time.acc, valid := (s.par P.TIME_STATUS).getLsbD 0, tclk := s.time.tclk }
  { s with radio := { r with settleIn := r.settleIn - 1, settled := (if r.settleIn = 1 then some edge else r.settled),
                             carrier := r.carrier.map (Carrier.renew s.time.tclk) } }

/-- A TCLK edge at which a Pier-tick load may apply: the value it gives the accumulator, after what `advanceTime` does at any edge (R89). -/
def advanceTo (load : Option (BitVec 92)) (s : State) : State :=
  match load with
  | some a => finishLoad a (advanceTime s)
  | none => advanceTime s

/-- One TCLK edge: interrupts of earlier cycles arrive, time advances, the units compare in index order (R102) with the pulse ends placed among their actions,
and the armings that waited for this edge take place (R92, R101). A step or load, a Pier-tick load too, applies before the compare (R113). A unit armed again at the
edge at which its old N comes due fires for the old N first and is then armed with the new one: R92 does not say which N that edge compares, and this is the model's
choice (log 95). -/
def tclkCycle (load : Option (BitVec 92)) (s : State) : State :=
  let s := arriveIrqs s
  let prior := s.edgePrior
  let busy := s.armed
  let due := s.time.armPend
  let chained := s.time.chainPend
  let inv : BitVec 4 := fld (s.par P.TIME_PINCTL) 0 4
  let s := synthTick (stampEpochs (advanceTo load { s with time := { s.time with armPend := [], chainPend := [], pinInv := inv } }))
  let s := endPastPulses s
  let s := endPulses (settleArmings ((List.finRange 8).foldl (fun s n => strikeCycle prior n s) s))
  let s := due.foldl (fun s e => armUnit (Fin.ofNat 8 e.1.toNat) e.2 s) s
  armChained busy chained (bitsOf (fun n => s.armed n && due.any (fun e => decide (e.1 = BitVec.ofNat 3 n.val)))) s
where
  /-- The units of a predicate as a mask. -/
  bitsOf (p : Fin 8 → Bool) : BitVec 8 := (List.finRange 8).foldl (fun w n => putBit w n.val (p n)) 0

/-- A TCLK edge at which no Pier-tick load applies. -/
def tclkEdge (s : State) : State := tclkCycle none s

/-- Some target of unit `n` fires at the next TCLK edge, or its firing count changes. -/
def State.strikeDue (s : State) (n : Fin 8) : Bool :=
  let prior := s.edgePrior
  let a := advanceTime { s with time := { s.time with armPend := [] } }
  a.armed n && (a.par P.TIME_STATUS).getLsbD 0 &&
    ((List.range 6).any (fun t => (a.strikeTgt n).getLsbD t && !a.time.strikes[n].fired.getLsbD t && a.targetDue prior n t)
      || a.allFired prior n)

/-- A pulse end comes due at the next TCLK edge. -/
def State.pulseEndDue (s : State) : Bool :=
  let a := advanceTime { s with time := { s.time with armPend := [] } }
  a.time.pulses.any (pulseDue a.time.acc a.inc)

/-- A read of TIME.NOWF: the accumulator and TCLKCNT are captured (R84). With the REF group stopped there is no TCLK cycle to capture in, and the held
values stand (R626). -/
def captureNow (s : State) : State :=
  if !s.refRuns then s else
  let a := s.time.acc
  let s := s.setPar P.TIME_NOWF ((fld a 28 32).setWidth 36)
  let s := s.setPar P.TIME_NOWS ((fld a 60 32).setWidth 36)
  let s := s.setPar P.TIME_NOWX ((fld a 0 28).setWidth 36)
  s.setPar P.TIME_TCLKCNT s.time.tclk

/-- TIME at a Pier tick edge with PIER.TICK bits 15:0 equal to `t`: the capture of R87 unless frozen (R88), PPER, and the Pier-tick
load: applied at its tick with the lag added, at a TCLK edge whose cycle compares from the loaded time (R113), abandoned as late when the first edge examined
finds the tick past (R89), refused when OSF is 1 (R90). TCLK edges lie between two Pier edges, so a load of mode 1 has been taken by then. The second Pier tick
after a PIERCAP read releases the capture and is itself captured: R88 does not say, and this is the model's choice (log 95). -/
def timeAtPierEdge (t : BitVec 16) (s : State) : State :=
  let cap := s.time.acc - s.edgeLag
  let n := if s.time.capFrozen then s.time.capTicks + 1 else 0
  let s := { s with time := { s.time with capTicks := (if s.time.capFrozen && decide (2 ≤ n.toNat) then 2 else n) } }
  let s := if s.time.capFrozen && decide (n.toNat < 2) then s else
    let s := s.setPar P.TIME_PIERCAP ((fld cap 28 32).setWidth 36)
    let s := s.setPar P.TIME_PIERCAPS ((fld cap 60 32).setWidth 36)
    s.setPar P.TIME_PIERCAPT (t.setWidth 36)
  let marks := (s.time.tclk :: s.time.tickMarks).take 33
  let s := { s with time := { s.time with tickMarks := marks } }
  let s := match marks[32]? with
    | some old => s.setPar P.TIME_PPER (s.time.tclk - old)
    | none => s
  let s := if s.loadAtTclk then s else takeLoad s
  match s.time.load with
  | none => s
  | some l =>
    if !l.taken || !l.onTick then s
    else if (s.par P.PIER_STATUS).getLsbD 0 then dropLoad 6 s
    else if l.atTick = t then tclkCycle (some (accOf l.value + s.edgeLag)) s
    else if !l.examined && decide (32768 < (l.atTick - t).toNat) then dropLoad 5 s
    else { s with time := { s.time with load := some { l with examined := true } } }

/-- REF is lost (R77, R83, R86, R114): the pending load is abandoned, VALID clears, every armed unit disarms with ABORTED and no target
in flight completes: not one whose event has reached Sepia and waits to be taken either, which is this model's choice (log 95). The accumulator's value is lost. A STEP or ARM = 1 that the shell has latched and TIME has not yet taken waits for the first TCLK edge after
the restart (R50, R76). A pin asserted by a pulse under way keeps its level and the deassertion is dropped: R114 does not state it, and this is the model's
choice (log 95). -/
def timeRefLost (s : State) : State :=
  let s := (List.finRange 8).foldl (fun s n => if s.armed n then setStrikeStatus n 1 (disarm n s) else s) s
  let s := s.setPar P.TIME_STATUS (putBit (putBit (s.par P.TIME_STATUS) 0 false) 3 false)
  { s with time := { s.time with acc := 0, tclk := 0, load := none, chainPend := [], pulses := [],
                                 radioActs := [], signals := [], sepiaEvs := [], epochs := [] } }

/-- The REF PLL locks: store time starts from 0 (R83). -/
def timeStart (s : State) : State :=
  { s with time := { s.time with acc := 0, tclk := 0, tickMarks := [] } }

end Sys2Proof.Machine
end

