-- ==== Sys2Proof/Machine/PierOps.lean ====
section
/-!
DEFINITION. Sys2Proof/Machine/PierOps.lean: the crystal edge, trim, alarms, records, shadows and PWRON of the Pier (04).
-/

namespace Sys2Proof.Machine

def State.setPier (s : State) (p : PierSt) : State := { s with pier := p }

/-- Write one Pier event record of the given type, stamped with PIER.TICK, and advance EVIDX (R140). -/
def pierRecord (type : Nat) (s : State) : State :=
  let idx := s.par P.PIER_EVIDX
  let n : BitVec 3 := fld idx 0 3
  let c : BitVec 8 := fld idx 3 8
  let s := s.setPar (P.PIER_EV + 2 * n.toNat) (fld s.pier.tick 0 36)
  let s := s.setPar (P.PIER_EV + 2 * n.toNat + 1) (putFld ((fld s.pier.tick 36 12).setWidth 36) 12 (BitVec.ofNat 4 type))
  let s := s.setPar P.PIER_EVIDX (putFld (putFld idx 0 (n + 1)) 3 (c + 1))
  s.setPier { s.pier with evUncopied := satMin8 s.pier.evUncopied }
where
  satMin8 (k : BitVec 4) : BitVec 4 := if k.toNat < 8 then k + 1 else 8

def setPierStatus (bit : Nat) (b : Bool) (s : State) : State :=
  s.setPar P.PIER_STATUS (putBit (s.par P.PIER_STATUS) bit b)

/-- The windows of the time-bound grants as Sepia checks them while it runs (R530). -/
def sepiaWindows (s : State) : State := if s.vddRuns then certWindows s else s

/-- OSF sets, and OSFCNT counts the setting (R132, R151); what time-bound certificates grant is withdrawn at once (R530, R538). -/
def setOsf (s : State) : State :=
  sepiaWindows ((setPierStatus 0 true s).setPar P.PIER_OSFCNT (bumpFld (s.par P.PIER_OSFCNT) 0 16))

/-- PWRON asserts with a cause bit (0 ALM0, 1 ALM1, 2 VDD) if that source is enabled (R142). An enable latched just before the edge of a match counts at it: R50 and R142
leave open whether the old one does, as R129 says for the alarms, and this is the model's choice (log 96). -/
def pwronSource (src : Nat) (s : State) : State :=
  if (s.par P.PIER_PWRCTL).getLsbD (src + 1) then
    s.setPar P.PIER_PWRSTAT (putBit (putBit (s.par P.PIER_PWRSTAT) 0 true) (src + 1) true)
  else s

/-- The level of the PWRON pin: `true` is high-impedance, `false` pulls low (R141). An unpowered Pier leaves it high-impedance (R152). -/
def State.pwronHighZ (s : State) : Bool :=
  let asserted := (s.par P.PIER_PWRSTAT).getLsbD 0
  if !s.pwr.pierOn then true else if (s.par P.PIER_PWRCTL).getLsbD 0 then asserted else !asserted

/-- An alarm matches a value: every unmasked field of Table PIE-2 is equal (R129). -/
def Alarm.hits (a : Alarm) (t : Tick) : Bool :=
  a.en && (a.mask.getLsbD 0 || decide ((fld t 0 15 : BitVec 15) = fld a.value 0 15))
    && (a.mask.getLsbD 1 || decide ((fld t 15 12 : BitVec 12) = fld a.value 15 12))
    && (a.mask.getLsbD 2 || decide ((fld t 27 12 : BitVec 12) = fld a.value 27 12))
    && (a.mask.getLsbD 3 || decide ((fld t 39 9 : BitVec 9) = fld a.value 39 9))

/-- The alarm setting held in the parameters of alarm `n` (Table PIE-5). -/
def State.alarmParams (s : State) (n : Fin 2) : Alarm :=
  let ctl := s.par (P.PIER_ALM0CTL + 3 * n.val)
  { value := (fld (s.par (P.PIER_ALM0_HI + 3 * n.val)) 0 12) ++ (s.par (P.PIER_ALM0_LO + 3 * n.val)),
    mask := fld ctl 0 4, en := ctl.getLsbD 4 }

/-- The trim value in force as a signed number (R127). -/
def State.trimActive (s : State) : Int := (fld (s.par P.PIER_TRIM) 20 10 : BitVec 10).toInt

/-- The correction of the edge at window position `i` (R127): at the last edge of a slot |T| is added to the accumulator, and at 1,024
or more a tick is added (+1) or swallowed (−1). The new accumulator is returned with it. -/
def trimStep (i : Nat) (acc : Nat) (t : Int) : Nat × Int :=
  if i % 1024 = 1023 then
    let sum := acc + t.natAbs
    if 1024 ≤ sum then (sum - 1024, if 0 < t then 1 else -1) else (sum, 0)
  else (acc, 0)

/-- The values PIER.TICK takes at an edge, in order, the last one being its new value (R125, R127, R129). A swallowing edge gives none, so that an alarm with every
field masked has no match there: R126 and R129 can be read both ways, and this is the model's choice (log 96). -/
def ticksTaken (sec : Option (BitVec 33)) (halt : Bool) (corr : Int) (t : Tick) : List Tick :=
  match sec with
  | some v => [v ++ (0 : BitVec 15)]
  | none => if halt then [] else if corr = 0 then [t + 1] else if corr = 1 then [t + 1, t + 2] else []

/-- PIER.TICK with a word written to TICK_LO, or to TICK_HI (R126). -/
def tickWith (hi : Bool) (v : Word) (t : Tick) : Tick := if hi then putFld t 36 (fld v 0 12 : BitVec 12) else putFld t 0 v

/-- One mirror strobe at a shadow (R123). -/
def Shadow.strobe (h : Shadow) : Shadow :=
  if h.frozen then
    if h.strobes = 1 then { h with frozen := true, strobes := 2 } else { h with strobes := (if h.strobes = 2 then 2 else h.strobes + 1) }
  else h

def ResShadow.strobe (h : ResShadow) : ResShadow := { h with shadow := h.shadow.strobe }

/-- A shadow is held: frozen, with fewer than two strobes since (R123). -/
def Shadow.held (h : Shadow) : Bool := h.frozen && decide (h.strobes.toNat < 2)

/-- The mode that the residency counters count (R71): 0-3 in the modes of that number, otherwise as PWR.STATUS.MODE reports. Loss of VDD
counts as mode 0 (R70). From a wake's acceptance to the end of an exit from mode 1 or 2 the count is still that of the mode left, while PWR.STATUS.MODE forms 4: Umber's
clock does not run yet, R60 gives no mode, and this is the model's choice (log 61). -/
def State.resMode (s : State) : Nat :=
  match s.pwr.mode with
  | .vddOff => 0
  | .pier => 0
  | .doze => 1
  | .retain => 2
  | .halt => 3
  | .reset => 4
  | .active => s.statusMode.toNat

/-- Count one crystal edge in the residency counter of the current mode (R71). -/
def countResidency (s : State) : State :=
  let b := P.PWR_RES + 2 * s.resMode
  let v : BitVec 48 := (fld (s.par (b + 1)) 0 12 : BitVec 12) ++ (s.par b)
  let v := v + 1
  (s.setPar b (fld v 0 36)).setPar (b + 1) ((fld v 36 12).setWidth 36)

/-- Alarm `n` at an edge: a match sets ALMnF, raises source ALMn and drives PWRON if selected (R130, R142). -/
def alarmAt (n : Fin 2) (taken : List Tick) (s : State) : State :=
  if taken.any (s.pier.alarms[n]).hits then
    pwronSource n.val ((setPierStatus (7 + n.val) true s).raiseIrq (8 + n.val))
  else s

/-- The PWRON acknowledgement applies at this edge: PWRON deasserts and CAUSE clears (R142). -/
def applyAck (s : State) : State :=
  if s.pier.ackPend then
    (s.setPar P.PIER_PWRSTAT 0).setPier { s.pier with ackPend := false }
  else s

/-- The watchdog counts the Pier ticks that the mirror takes, `n` at this edge, while it is enabled, Umber's clock runs and Umber is not halted by debug (R556). -/
def watchdogTick (n : Nat) (s : State) : State :=
  if (s.par P.MGMT_WDCFG).getLsbD 0 && decide (s.pwr.mode = .active) && decide (s.umber.run = .running) then
    { s with mgmt := { s.mgmt with wdLeft := s.mgmt.wdLeft - n } }
  else s

/-- The wake schedule counts crystal cycles in modes 1 and 2 with WAKE.CFG.EN (R411): an opening every 8,389 cycles, and 40 cycles of an open window. -/
def wakeCycle (s : State) : State :=
  if (decide (s.pwr.mode = .doze) || decide (s.pwr.mode = .retain)) && !s.pwr.exiting && (s.par P.WAKE_CFG).getLsbD 0 then
    let w := s.wake
    let again := decide (8388 ≤ w.cycle.toNat)
    { s with wake := { w with cycle := if again then 0 else w.cycle + 1, openDue := w.openDue || again,
                              window := w.window.map (fun n => if n = 0 then 0 else n - 1) } }
  else s

/-- One crystal edge (R120-R130): window and trim, a pending PIER.SEC write with the TICK writes accepted behind it, the count, the alarms, the PWRON acknowledgement, residency,
mirrors and strobes, the wake schedule, the watchdog count, and the capture in TIME while the REF group runs (R87). Three points are the model's choice (log 95):
every crystal edge is a Pier tick edge for TIME, one at which HALT holds the count or a correction swallows the tick too (R87); ticks that pass while the REF group
is stopped do not count toward a release of the capture, whose freeze outlasts the loss (R88). -/
def crystalEdge (s : State) : State :=
  let i := s.pier.winNext.toNat
  let trim := s.par P.PIER_TRIM
  let s := if i = 0 then
      (s.setPar P.PIER_TRIM (putFld trim 20 (fld trim 0 10 : BitVec 10))).setPier { s.pier with trimAcc := 0 }
    else s
  let step := trimStep i s.pier.trimAcc.toNat s.trimActive
  let halt := (s.par P.PIER_CTL).getLsbD 0
  let taken := ticksTaken s.pier.secPend halt step.2 s.pier.tick
  let tick := s.pier.tickPend.foldl (fun t w => tickWith w.1 w.2 t) (taken.getLastD s.pier.tick)
  let s := s.setPar P.PIER_WINCNT (s.pier.winNext.setWidth 36)
  let s := s.setPier { s.pier with tick := tick, winNext := s.pier.winNext + 1, trimAcc := BitVec.ofNat 11 step.1, secPend := none, tickPend := [] }
  let s := applyAck s
  let s := if halt then s else (List.finRange 2).foldl (fun s n => alarmAt n taken s) s
  let s := s.setPier { s.pier with alarms := Vector.ofFn s.alarmParams }
  let s := countResidency s
  let s := s.setPier { s.pier with coreMirror := tick, sepiaMirror := tick, umberShadow := s.pier.umberShadow.strobe,
                                   sepiaShadow := s.pier.sepiaShadow.strobe, umberRes := s.pier.umberRes.strobe,
                                   sepiaRes := s.pier.sepiaRes.strobe }
  let s := watchdogTick taken.length (wakeCycle s)
  if s.refRuns then timeAtPierEdge (fld tick 0 16) s else s

/-- The crystal runs: the Pier is powered and OSCFAIL is 0 (R132, R133). -/
def State.crystalRuns (s : State) : Bool := s.pwr.pierOn && !(s.par P.PIER_STATUS).getLsbD 2

/-- Lockout is in force: the PIER shell discards writes (R137). -/
def State.locked (s : State) : Bool := (s.par P.PIER_STATUS).getLsbD 3

/-- Lockout trips (R137, R140, R150). -/
def lockoutTrip (s : State) : State :=
  let s := setPierStatus 6 true (setPierStatus 3 true s)
  let s := s.setPar P.PIER_LOCKCNT (bumpFld (s.par P.PIER_LOCKCNT) 0 16)
  let s := pierRecord 3 s
  if (s.par P.PIER_CTL).getLsbD 0 then pierRecord 7 (setPierStatus 9 true (s.setPar P.PIER_CTL 0)) else s

/-- Lockout releases: LOCK clears, a record of type 4 is written, and SRCVDD drives PWRON if the supply has been on VBK (R137, R140, R142). -/
def lockoutRelease (s : State) : State :=
  let s := pierRecord 4 (setPierStatus 3 false s)
  let s := if s.pier.wasOnVbk then pwronSource 2 s else s
  s.setPier { s.pier with wasOnVbk := false }

/-- The supply moves to VBK, or back to VDD (R136, R140). -/
def supplyMove (toVbk : Bool) (s : State) : State :=
  if toVbk then
    let s := pierRecord 1 (setPierStatus 4 true s)
    s.setPier { s.pier with wasOnVbk := true }
  else pierRecord 2 (setPierStatus 4 false s)

/-- A read of PIER.TICK_LO by the master of a shadow freezes it at the mirror value (R123). -/
def freezeShadow (mirror : Tick) : Shadow := { frozen := true, value := mirror, strobes := 0, stale := false }

/-- A read of PIER.TICK_HI: the shadow's bits with STALE 0 and the release, or the live mirror, with STALE 1 when the shadow released
itself (R123). -/
def readHi (h : Shadow) (mirror : Tick) : Word × Shadow :=
  let free : Shadow := { frozen := false, value := h.value, strobes := 0, stale := false }
  if h.held then ((fld h.value 36 12).setWidth 36, free)
  else if h.frozen || h.stale then (putBit ((fld mirror 36 12).setWidth 36) 35 true, free)
  else ((fld mirror 36 12).setWidth 36, free)

/-- A residency counter, 48 bits (R71). -/
def State.residency (s : State) (m : BitVec 3) : Tick := (fld (s.par (P.PWR_RES + 2 * m.toNat + 1)) 0 12 : BitVec 12) ++ s.par (P.PWR_RES + 2 * m.toNat)

/-- Reads of PWR.RESmLO and RESmHI, coherent as those of PIER.TICK (R71, R123; log 64). -/
def readResLo (s : State) (m : BitVec 3) : ResShadow := { mode := m, shadow := freezeShadow (s.residency m) }
def readResHi (s : State) (m : BitVec 3) (h : ResShadow) : Word × ResShadow :=
  if h.mode = m then let r := readHi h.shadow (s.residency m); (r.1, { h with shadow := r.2 })
  else ((fld (s.residency m) 36 12 : BitVec 12).setWidth 36, h)

/-- The shadow releases itself after two strobes; the next TICK_HI read carries STALE (R123). -/
def releaseShadow (h : Shadow) : Shadow :=
  if h.frozen && decide (2 ≤ h.strobes.toNat) then { frozen := false, value := h.value, strobes := 0, stale := true } else h

def ResShadow.release (h : ResShadow) : ResShadow := { h with shadow := releaseShadow h.shadow }

end Sys2Proof.Machine
end

