-- ==== Sys2Proof/Machine/PodOps.lean ====
section
/-!
DEFINITION. Sys2Proof/Machine/PodOps.lean: the pod line and the charge meter, the face port and the general pins (19 R597-R618).
-/

namespace Sys2Proof.Machine

def State.setPod (s : State) (p : PodSt) : State := { s with pod := p }

/-- Raise a request line that carries an event (Table DMA-6). -/
def raiseLine (n : Nat) (s : State) : State := { s with lines := putBit s.lines n true }

/-! ### Pod line -/

/-- One bit into the CRC-8 (R598). -/
def crc8Step (c : Byte) (b : Bool) : Byte :=
  let f := xor b (c.getLsbD 7)
  let c := c <<< 1
  if f then c ^^^ 0x07 else c

/-- The CRC-8 of the bytes of a frame in transmission order, each byte least significant bit first (R597, R598). -/
def crc8 (bs : List Byte) : Byte :=
  bs.foldl (fun c b => (List.range 8).foldl (fun c i => crc8Step c (b.getLsbD i)) c) 0

/-- The CRC as its byte in a frame: it is sent bit 7 first, while a byte is sent least significant bit first (R597, R598). -/
def crc8Byte (bs : List Byte) : Byte :=
  let c := crc8 bs
  (List.range 8).foldl (fun b i => putBit b i (c.getLsbD (7 - i))) 0

/-- The bytes of POD.BUF0-15 (R491, R601). -/
def State.podBytes (s : State) : List Byte :=
  (List.range 64).map (fun i => fld (s.par (P.POD_BUF + i / 4)) (8 * (i % 4)) 8)

/-- Bytes written to POD.BUF from byte 0 on. -/
def putPodBytes (bs : List Byte) (s : State) : State :=
  ((bs.take 64).zip (List.range 64)).foldl (fun s x =>
    s.setPar (P.POD_BUF + x.2 / 4) (putFld (s.par (P.POD_BUF + x.2 / 4)) (8 * (x.2 % 4)) x.1)) s

/-- The bytes of a command frame (Table POD-2). -/
def podFrame (t : PodTxn) (buf : List Byte) : List Byte :=
  match t.op.toNat with
  | 1 => [0xA2, t.addr, t.count.setWidth 8]
  | 2 => [0xA4, t.addr, t.count.setWidth 8] ++ buf.take t.count.toNat
  | 3 => 0xA8 :: (if t.sepia then wordBytes t.inc else buf.take 4)
  | 4 => 0xB1 :: buf.take 16
  | _ => [0xA1]

/-- A transaction starts: BUSY, and the command frame follows the break (R598, R601). -/
def startPod (t : PodTxn) (s : State) : State :=
  let f := podFrame t s.podBytes
  let s := s.setPod { s.pod with txn := some t, frame := f ++ [crc8Byte f] }
  (s.parBit P.POD_STATUS 0 true).parBit P.POD_STATUS 7 t.sepia

def State.podBusy (s : State) : Bool := (s.par P.POD_STATUS).getLsbD 0

/-- A write of POD.CMD (R601): ignored with CMDREJ while BUSY is 1. The codes 0, 6 and 7 of op name no transaction. -/
def podCommand (v : Word) (s : State) : State :=
  let op : BitVec 3 := fld v 0 3
  if s.podBusy then s.parBit P.POD_STATUS 5 true
  else if op = 0 ∨ 6 ≤ op.toNat then s
  else startPod { op := op, addr := fld v 3 8, count := fld v 11 7, sepia := false, inc := 0, phase := .sent } s

/-- The transaction in progress has come to its end (its DONE follows). -/
def podEnds (t : PodTxn) (s : State) : State := s.setPod { s.pod with txn := some { t with phase := .ended } }

/-- The status byte of an answer, shown in POD.STATUS bits 15:8. -/
def podStatus (b : Byte) (s : State) : State := s.setPar P.POD_STATUS (putFld (s.par P.POD_STATUS) 8 b)

/-- A checked answer (R598, R601; log 50): its bytes enter POD.BUF; READ data carries no status byte, every other answer ends in one. -/
def podTakes (t : PodTxn) (bs : List Byte) (s : State) : State :=
  let s := if t.sepia then s else putPodBytes bs s
  let st := bs.getLastD 0
  if t.phase = .sent then
    if t.op = 1 ∧ bs.length = t.count.toNat then podEnds t s
    else
      let s := podStatus st s
      if st = 0x5A ∧ (t.op = 2 ∨ t.op = 3 ∨ t.op = 4) then s.setPod { s.pod with txn := some { t with phase := .accepted } }
      else podEnds t s
  else
    let s := podStatus st s
    if st = 0x64 then s.setPod { s.pod with txn := some { t with phase := .accepted } } else podEnds t s

/-- The transaction that the pod line controller works on; one that modes 1 and 2 find running stands still, since Sepia is stopped in them (R606). -/
def State.podTxn (s : State) : Option PodTxn := if s.awake then s.pod.txn else none

/-- A pod frame arrives within the turnaround, or none does (R598): `none` sets NOPOD, a bad CRC CRCERR. -/
def podAnswer (frame : Option (List Byte)) (s : State) : State :=
  match s.podTxn with
  | none => s
  | some t =>
    if t.phase = .sent ∨ t.phase = .polled then
      match frame with
      | none => podEnds t (s.parBit P.POD_STATUS 2 true)
      | some f =>
        let bs := f.dropLast
        if f.length < 2 ∨ crc8Byte bs ≠ f.getLastD 0 then podEnds t (s.parBit P.POD_STATUS 3 true)
        else podTakes t bs s
    else s

/-- RESULT is sent at the operation time and every 2 ms while the pod is busy (R598). -/
def podPoll (s : State) : State :=
  match s.podTxn with
  | some t =>
    if t.phase = .accepted then s.setPod { s.pod with txn := some { t with phase := .polled }, frame := [0xB2, crc8Byte [0xB2]] } else s
  | none => s

/-- No completion within 25 ms of acceptance (R598). -/
def podTimeout (s : State) : State :=
  match s.podTxn with
  | some t => if t.phase = .accepted ∨ t.phase = .polled then podEnds t (s.parBit P.POD_STATUS 4 true) else s
  | none => s

/-- The charge meter's ADDCHG waits for a running transaction (R601). -/
def startMeter (s : State) : State :=
  match s.pod.meterWait with
  | inc :: rest =>
    if s.podBusy then s
    else startPod { op := 3, addr := 0, count := 0, sepia := true, inc := inc, phase := .sent } (s.setPod { s.pod with meterWait := rest })
  | [] => s

/-- The end of a transaction shows (R601): BUSY clears, DONE sets, POD is raised under CFG.IRQ, and line 5. -/
def podShown (s : State) : State :=
  let st := putBit (putBit (putBit (s.par P.POD_STATUS) 0 false) 7 false) 1 true
  let s := raiseLine 5 (s.setPar P.POD_STATUS st)
  if (s.par P.POD_CFG).getLsbD 0 then s.raiseIrq 25 else s

/-- A transaction ends (R601); a waiting meter transaction follows. -/
def podDone (s : State) : State :=
  match s.podTxn with
  | some t => if t.phase = .ended then startMeter (podShown (s.setPod { s.pod with txn := none })) else s
  | none => s

/-! ### Charge meter (R602-R605) -/

def State.chg (s : State) (i : Nat) : Word := s.par (P.PIER_CHG + i)
def setChg (i : Nat) (v : Word) (s : State) : State := s.setPar (P.PIER_CHG + i) v

/-- The temperature band of the last MGMT.TEMP sample, in quarters of a degree (R603, Table SEP-6). -/
def State.tempBand (s : State) : Nat :=
  let t := (s.par P.MGMT_TEMP).toInt + 160
  if t < 0 then 0 else min 7 ((t.toNat * 1000) / 62500)

/-- A quotient whose rounding the spec does not state: down, or up where it is not exact (log 51). -/
def roundFree (key n d : Nat) : Nat := n / d + (if n % d ≠ 0 ∧ Config.freeBool key then 1 else 0)

/-- The nC used since the last fold: the pulses of the VDD input meter, and modes 0-2 by residency and calibrated current (R602). -/
def State.foldCharge (s : State) : Nat :=
  let k := s.freeCtr * 128
  let q := (fld (s.par P.POD_QPULSE) 0 24 : BitVec 24).toNat
  let active := roundFree k ((s.chg 6 - s.chg 7).toNat * q) 1000
  (List.range 3).foldl (fun n m =>
    let dt := (s.par (P.PWR_RES + 2 * m) - s.chg (9 + m)).toNat
    let i := (fld (s.par (P.PWR_MCAL + 9 * m + s.tempBand)) 0 24 : BitVec 24).toNat
    n + roundFree (k + 1 + m) (dt * i) 32768) active

/-- The advance of LASTW that lockout discarded is made now (R604, R605). -/
def settleOwed (s : State) : State := (setChg 1 (s.chg 1 + s.pod.owed) s).setPod { s.pod with owed := 0 }

/-- ADDCHG is due at a PIER.SEC with the increment floor((METER − LASTW) ÷ 360,000), ahead of or behind those that wait (R616): LASTW advances by it and CHG2
takes PIER.SEC (R605, Table POD-4). Under lockout those writes are discarded; the advance is owed, so that no count is sent twice. -/
def sendAddChg (sec : BitVec 33) (first : Bool) (s : State) : State :=
  let s := if s.locked then s else settleOwed s
  let n := ((s.chg 0).toNat - (s.chg 1 + s.pod.owed).toNat) / 360000
  let step := BitVec.ofNat 36 (360000 * n)
  let s := if s.locked then s.setPod { s.pod with owed := s.pod.owed + step }
    else setChg 2 (sec.setWidth 36) (setChg 1 (s.chg 1 + step) s)
  let inc := BitVec.ofNat 32 n
  startMeter (s.setPod { s.pod with meterWait := if first then inc :: s.pod.meterWait else s.pod.meterWait ++ [inc] })

/-- Pulses of the VDD input meter are counted in modes 3-7 (R602). -/
def countPulses (n : Word) (s : State) : State := setChg 6 (s.chg 6 + n) s

/-- The fold at a PIER.SEC (R602, R604, R605): METER and the nC remainder, the references, and the weekly ADDCHG. Under lockout nothing is written and the
fold is repeated later. -/
def foldAt (sec : BitVec 33) (s : State) : State :=
  if s.locked then s
  else
    let s := settleOwed s
    let nc := s.foldCharge + (fld (s.chg 8) 0 10 : BitVec 10).toNat
    let s := s.drawn
    let s := setChg 0 (s.chg 0 + BitVec.ofNat 36 (nc / 1000)) s
    let s := setChg 8 (BitVec.ofNat 36 (nc % 1000)) s
    let s := setChg 7 (s.chg 6) s
    let s := (List.range 3).foldl (fun s m => setChg (9 + m) (s.par (P.PWR_RES + 2 * m)) s) s
    if (s.chg 2).toNat + 604800 ≤ sec.toNat then sendAddChg sec false s else s

def chargeFold (s : State) : State := foldAt s.sepiaSec s

/-- A release notice is acted on by Sepia (R605, R616): RELEASE sets and the ADDCHG follows, before any that waits. -/
def actOnNotice (s : State) : State :=
  sendAddChg s.sepiaSec true ((s.setPod { s.pod with notice := false }).parBit P.POD_STATUS 6 true)

/-- A GPIO or HCS_N edge now is a wake source (Table ISL-8, R62, R73): in modes 1-3, and while a STOP waits before its check of the pending sources. That an
edge in RUN before the STOP is not pending at check 5 is this model's choice (log 61). -/
def State.wakeWatched (s : State) : Bool :=
  decide (s.pwr.mode = .doze) || decide (s.pwr.mode = .retain) || decide (s.pwr.mode = .halt) || decide (s.umber.hold = .stop)

/-- A release notice ends the transaction in progress with TIMEOUT (R616). -/
def podCut (s : State) : State :=
  match s.pod.txn with
  | some t => if t.phase = PodPhase.ended then s else podEnds t (s.parBit P.POD_STATUS 4 true)
  | none => s

/-- POD_ID low for 1 ms or more (R605, R606, R616): in modes 3-7 Sepia acts on it, after ending a running transaction with TIMEOUT; in modes 1 and 2 the
WAKE island, which counts crystal cycles, latches it; in mode 0 no detector runs. -/
def releaseNotice (s : State) : State :=
  if s.awake then
    let s := podCut s
    actOnNotice { s with pwr := { s.pwr with gpioWake := s.pwr.gpioWake || s.wakeWatched } }
  else if (s.pwr.mode = OpMode.doze ∨ s.pwr.mode = OpMode.retain) ∧ s.crystalRuns then
    { (s.setPod { s.pod with notice := true }) with pwr := { s.pwr with gpioWake := true } }
  else s

/-- Sepia has the cipher unit run one operation to its end, on input bytes, as owner 0 (R492, R600). -/
def sepiaOp (cmd : BitVec 20) (bs : List Byte) (s : State) : State :=
  let s := startOp cmd 0 (s.setPar P.CRYPT_LEN (BitVec.ofNat 36 bs.length))
  cryptDone ((bytesToWords bs).foldl (fun s w => cryptIn (w.setWidth 36) s) s)

/-- The check of a pod's MAC for a nonce (R600): DERIVE forms the pod key in KT from slot 15, OP 7 with KSRC 2 the MAC, which Sepia reads from OUT. -/
def checkPod (nonce : List Byte) (p : PodIdent) (s : State) : Bool × State :=
  let ser : List Byte := (List.range 8).map (fun i => fld p.serial (8 * i) 8)
  let tag : List Byte := [0x4F, 0x5A, 0x2D, 0x50, 0x4F, 0x44, 0x2D, 0x4B, 0x45, 0x59]
  let s := sepiaOp (putFld (8 : BitVec 20) 5 (15 : BitVec 4)) (tag ++ ser) s
  if s.cryptCode ≠ 0 then (false, s)
  else
    let s := sepiaOp (putBit (putFld (7 : BitVec 20) 9 (2 : BitVec 2)) 16 true) (nonce ++ ser ++ wordBytes p.chgUsed ++ wordBytes p.addCnt) s
    (decide (s.cryptCode = 0) && s.crypt.outFifo == p.mac.toList, clearFifos s)

/-- The frame of Sepia's READ of SERIAL to ADDCNT, and of its RESULT poll (Tables POD-2, POD-3). -/
def identFrame : List Byte := [0xA2, 0x00, 0x28]
def resultFrame : List Byte := [0xB2]

/-- A transaction of Sepia's identification has come to its end, its last host frame given (R601). -/
def identEnds (f : List Byte) (s : State) : State := podShown (s.setPod { s.pod with frame := f ++ [crc8Byte f] })

/-- A new serial is recorded: serial and CHGUSED stored, METER, LASTW and CHG2 cleared, LOST set if charge was unreported (R607). -/
def newPod (p : PodIdent) (s : State) : State :=
  let lost := (s.chg 0).toNat ≠ (s.chg 1).toNat
  let s := setChg 3 ((fld p.serial 0 32 : BitVec 32).setWidth 36) (setChg 4 ((fld p.serial 32 32 : BitVec 32).setWidth 36) s)
  let w := putFld (s.chg 5) 0 p.chgUsed
  let s := setChg 5 (if lost then putBit w 32 true else w) s
  setChg 0 0 (setChg 1 0 (setChg 2 0 s))

/-- The pod has been read: what Sepia records of it, and of its authentication (R607). Under lockout the meter's words keep their values. -/
def identified (p : PodIdent) (ok : Bool) (s : State) : State :=
  let s := s.setPod { s.pod with identDue := false, identRead := false }
  let isNew := decide ((fld (s.chg 3) 0 32 : BitVec 32) ≠ fld p.serial 0 32) || decide ((fld (s.chg 4) 0 32 : BitVec 32) ≠ fld p.serial 32 32)
  let s := if isNew && !s.locked then newPod p (settleOwed s) else s
  if ok then s
  else
    let s := if s.locked then s else setChg 5 (putBit (s.chg 5) 33 true) s
    s.pushLog 0x015 0x000 ((fld p.serial 0 32 : BitVec 32).setWidth 36) ((fld p.serial 32 32 : BitVec 32).setWidth 36)

/-- After a system reset Sepia reads and authenticates the pod, once the boot is over and whether or not it has started Umber (R600, R607, R642); in END OF LIFE
the boot stops before it (R517): the READ and the AUTH with its RESULT are transactions of its own (R601), which wait
for a busy line. With no pod frame the READ ends with NOPOD. The nonce's words are reads in their turn (R503), behind a challenge that has begun its own; the
check waits for a cipher unit that is idle with OUT empty. Where a read fails there is no AUTH and the pod counts as not genuine (log 50). -/
def podIdentify (pod : Option PodIdent) (s : State) : State :=
  if !s.pod.identDue || !s.awake || decide (s.lifeState = 3) || s.podBusy then s
  else
    match pod with
    | none => startMeter (identEnds identFrame (s.parBit P.POD_STATUS 2 true |>.setPod { s.pod with identDue := false, identRead := false }))
    | some p =>
      if s.life.chalWait && !s.pod.identRead then s
      else if s.sepiaFails then startMeter (identified p false (identEnds identFrame (sepiaDrops s)))
      else
        let s := sepiaReads 4 s
        if s.rng.sepiaGot.length < 4 || s.crypt.op.isSome || !s.crypt.outFifo.isEmpty then s.setPod { s.pod with identRead := true }
        else
          let nonce := wordsToBytes s.rng.sepiaGot
          let s := identEnds identFrame (sepiaDrops s)
          let r := checkPod nonce p (cipherSaw 0xF0 11 s)
          let s := identEnds resultFrame (podStatus 0x6D r.2)
          challengeRetry (startMeter (identified p r.1 s))

/-! ### Face port (R608-R610) -/

def State.setFace (s : State) (f : FaceSt) : State := { s with face := f }

/-- FACE.STATUS as it reads (Table POD-6). -/
def State.faceStatus (s : State) : Word :=
  putBit (putBit (putFld (s.par P.FACE_STATUS) 0 (BitVec.ofNat 4 s.face.fifo.length)) 4 s.face.active) 5 s.face.fbusy

/-- FBUSY says that the panel is busy (FACE.CTL.BUSYPOL). -/
def State.panelBusy (s : State) : Bool := decide (s.face.fbusy = (s.par P.FACE_CTL).getLsbD 8)

def faceIrq (s : State) : State := if (s.par P.FACE_CTL).getLsbD 12 then s.raiseIrq 26 else s

/-- A write of FACE.TXD to a FIFO with room; a full one refuses it with OVF (R609). -/
def facePush (v : Word) (s : State) : State :=
  if s.face.fifo.length < 8 then s.setFace { s.face with fifo := s.face.fifo ++ [v] } else s.parBit P.FACE_STATUS 7 true

def faceFlush (s : State) : State := s.setFace { s.face with fifo := [] }

/-- A transfer ends: FCS_N rises, DONE sets and FACE is raised (R609, R610). -/
def faceEnds (s : State) : State := faceIrq ((s.setFace { s.face with active := false }).parBit P.FACE_STATUS 6 true)

/-- FACE.CMD.END raises FCS_N under HOLDCS (R610). -/
def faceEnd (s : State) : State := if s.face.active && (s.par P.FACE_CTL).getLsbD 6 then faceEnds s else s

/-- FACE.CMD (Table POD-6). -/
def faceCommand (v : Word) (s : State) : State :=
  let s := if v.getLsbD 1 then faceFlush s else s
  if v.getLsbD 0 then faceEnd s else s

/-- A transfer starts when the port is idle, the FIFO is not empty, FPWR is asserted and WAITBUSY does not hold it; without REF it waits and NOREF sets
(R608, R610). `fbusy` is the level at the pin. -/
def faceStart (fbusy : Bool) (s : State) : State :=
  let s := s.setFace { s.face with fbusy := fbusy }
  let ctl := s.par P.FACE_CTL
  if s.awake && !s.face.active && !s.face.fifo.isEmpty && ctl.getLsbD 9 && (!ctl.getLsbD 7 || !s.panelBusy) then
    if (s.par P.PWR_STATUS).getLsbD 3 then s.setFace { s.face with active := true, sent := [] } else s.parBit P.FACE_STATUS 8 true
  else s

/-- The bytes of a word, lanes 0 to NLANES − 1: bits 9k+7:9k with FDC in bit 9k+8 (R609). -/
def faceLanes (ctl : Word) (v : Word) : List (BitVec 9) :=
  (List.range ((fld ctl 4 2 : BitVec 2).toNat + 1)).map (fun k => fld v (9 * k) 9)

/-- The oldest word of a transfer under way leaves the FIFO while FSCK runs (R608, R609). -/
def faceShift (s : State) : State :=
  match s.face.fifo with
  | w :: rest =>
    if s.face.active && (s.par P.PWR_STATUS).getLsbD 3 then
      s.setFace { s.face with fifo := rest, sent := s.face.sent ++ faceLanes (s.par P.FACE_CTL) w }
    else s
  | [] => s

/-- FSDO and FDC of a byte, bit by bit: most significant first, FDC the same through the byte (R608, R609). -/
def faceBits (b : BitVec 9) : List (Bool × Bool) := (List.range 8).map (fun i => (b.getLsbD (7 - i), b.getLsbD 8))

/-- FSCK stops in a transfer: it waits, and NOREF sets (R608). -/
def faceRefLost (s : State) : State := if s.face.active then s.parBit P.FACE_STATUS 8 true else s

/-- The FIFO has emptied: with HOLDCS = 0 the transfer ends with DONE, and with UNDER where the image was not complete (R610, R617; log 52). While REFRDY is 0 FSCK
stands and the transfer waits (R608). -/
def faceFinish (under fbusy : Bool) (s : State) : State :=
  if (s.par P.PWR_STATUS).getLsbD 3 && s.face.active && s.face.fifo.isEmpty && !(s.par P.FACE_CTL).getLsbD 6 then
    let s := s.setFace { s.face with fbusy := fbusy }
    faceEnds (if under then s.parBit P.FACE_STATUS 9 true else s)
  else s

/-- FBUSY becomes idle: line 4 and, under CTL.IRQ, FACE (R609). -/
def fbusyRelease (s : State) : State :=
  if s.awake then faceIrq (raiseLine 4 (s.setFace { s.face with fbusy := !(s.par P.FACE_CTL).getLsbD 8 })) else s

/-- The levels of FSCK-side outputs: FPWR and FRST_N asserted (R608). -/
def State.facePower (s : State) : Bool := s.awake && (s.par P.FACE_CTL).getLsbD 9
def State.faceReset (s : State) : Bool := !s.awake || s.face.untouched || (s.par P.FACE_CTL).getLsbD 11

/-! ### GPIO (R611) -/

/-- GPIO4-GPIO7 exist in the OZ-3648-AB only. -/
def State.gpioPresent (s : State) (g : Nat) : Bool := decide (g < 4) || decide (s.pwr.package = .ab)

/-- An enabled output drives its pin: not where an open drain holds 1, and not in mode 0 (R611). -/
def State.gpioDrives (s : State) (g : Nat) : Bool :=
  let c := s.par (P.GPIO_CFG + g)
  s.gpioPresent g && c.getLsbD 0 && !(c.getLsbD 1 && (s.par P.GPIO_OUT).getLsbD g) && decide (s.pwr.mode ≠ .pier)

/-- The level at a pin (R611): an enabled output's, otherwise the one from outside; a pin that nothing drives follows its pull (CFG bits 3:2), and one without a
pull keeps its last level (log 52). An absent pin reads 0 (R18). -/
def State.gpioLevel (s : State) (g : Nat) : Bool :=
  let pull : BitVec 2 := fld (s.par (P.GPIO_CFG + g)) 2 2
  if !s.gpioPresent g then false
  else if s.gpioDrives g then (s.par P.GPIO_OUT).getLsbD g
  else if s.gpio.driven.getLsbD g || pull = 0 || pull = 3 then s.gpio.pins.getLsbD g
  else pull == 1

/-- GPIO.IN. -/
def State.gpioIn (s : State) : Byte := (List.range 8).foldl (fun w g => putBit w g (s.gpioLevel g)) 0

/-- An edge of the given direction is one that a two-bit selection names: 1 rise, 2 fall, 3 both (R611). -/
def edgeSelected (sel : BitVec 2) (rise : Bool) : Bool := if rise then sel.getLsbD 0 else sel.getLsbD 1

/-- An edge at a pin (R611): GPIO.EDGE, source GPIO (27), lines 11-14 and the wake source. -/
def gpioEdge (g : Nat) (rise : Bool) (s : State) : State :=
  let c := s.par (P.GPIO_CFG + g)
  let s := if edgeSelected (fld c 4 2) rise then
      let s := s.parBit P.GPIO_EDGE g true
      if s.awake then
        let s := s.raiseIrq 27
        if g < 4 then raiseLine (11 + g) s else s
      else s
    else s
  if edgeSelected (fld c 6 2) rise && s.wakeWatched then
    { s with pwr := { s.pwr with gpioWake := true } }
  else s

/-- The edges between two readings of the pins. -/
def gpioEdges (before : Byte) (s : State) : State :=
  let now := s.gpioIn
  (List.range 8).foldl (fun s g =>
    if xor (before.getLsbD g) (now.getLsbD g) then gpioEdge g (now.getLsbD g) s else s) s

/-- The WAKE island runs: every mode but 0 and a held reset. -/
def State.wakeIsland (s : State) : Bool :=
  decide (s.pwr.mode = .doze) || decide (s.pwr.mode = .retain) || s.awake

/-- A level arrives at a pin from outside. -/
def gpioInput (g : Fin 8) (level : Bool) (s : State) : State :=
  let before := s.gpioIn
  let s := { s with gpio := { pins := putBit s.gpio.pins g.val level, driven := putBit s.gpio.driven g.val true } }
  if s.wakeIsland then gpioEdges before s else s

/-- OUT or CFG is written: an edge it makes at a pin counts as any other. -/
def gpioWrite (i : Nat) (v : Word) (s : State) : State :=
  let before := s.gpioIn
  gpioEdges before (s.setPar i v)

end Sys2Proof.Machine
end

