-- ==== Sys2Proof/Machine/RadioOps.lean ====
section
/-!
DEFINITION. Sys2Proof/Machine/RadioOps.lean: the radio front end (11): states, transitions, the FIFO, receive windows, the fault sequence and the power of
the region. Durations are left out (log 30); each transition ends with a RADIO_TRANSITION_DONE.
-/

namespace Sys2Proof.Machine

def State.setRadio (s : State) (r : RadioSt) : State := { s with radio := r }

/-! ### Radio states (Table RAD-3) -/

def rsOff : BitVec 4 := 0
def rsSleep : BitVec 4 := 1
def rsStandby : BitVec 4 := 2
def rsCal : BitVec 4 := 3
def rsRxWarm : BitVec 4 := 4
def rsRx : BitVec 4 := 5
def rsTxWarm : BitVec 4 := 6
def rsTx : BitVec 4 := 7
def rsWakeListen : BitVec 4 := 8

def State.radioState (s : State) : BitVec 4 := fld (s.par P.RADIO_STATE) 0 4
def State.radioHold (s : State) : Bool := (s.par P.RADIO_STATE).getLsbD 4
def State.radioSending (s : State) : Bool := (s.par P.RADIO_STATE).getLsbD 5
def State.radioFault (s : State) : Bool := (s.par P.RADIO_STATE).getLsbD 6

/-- The wake receiver has the antenna switch in these states (R364). -/
def wakePosition (code : BitVec 4) : Bool := code == 0 || code == 1 || code == 2 || code == 8

/-- The antenna of the receiver: A, B, or the choice of diversity (R378); true is B. -/
def State.rxAnt (s : State) : Bool :=
  match (fld s.radio.antcfg 0 2 : BitVec 2) with
  | 0 => false
  | 1 => true
  | _ => (s.par P.RADIO_DIV).getLsbD 0

/-- The antenna of the transmitter: A, B, or the last choice (R378); of an acknowledgement, that of the reception (R403). -/
def State.txAnt (s : State) : Bool :=
  match s.radio.tx, (fld s.radio.antcfg 2 2 : BitVec 2) with
  | some (.ack _ _ _ _ ant), _ => ant
  | _, 0 => false
  | _, 1 => true
  | _, _ => (s.par P.RADIO_DIV).getLsbD 0

/-- RADIO.STATE takes a state code with HOLD and SENDING; the internal switch goes to the wake position with the states that have it there, and stays in the
others until an antenna is chosen (R364, R375). A collection ends with WAKELISTEN, since the wake receiver listens in no other radio state (R364, R389). -/
def goRadio (code : BitVec 4) (hold sending : Bool) (s : State) : State :=
  let s := if s.radioState = rsWakeListen && code != rsWakeListen && (s.par P.WAKE_STATUS).getLsbD 3 then s.parBit P.WAKE_STATUS 3 false else s
  let v := putBit (putBit (putFld (s.par P.RADIO_STATE) 0 code) 4 hold) 5 sending
  s.setPar P.RADIO_STATE (if wakePosition code then putFld v 7 (2 : BitVec 2) else v)

/-- The radio goes on the air: with RX or TX the internal switch, and ANT_SEL with it, changes to the antenna in use, at tR and at each diversity switch, and with
TRSW before tS (R375, Table RAD-12); the lead is left out (log 30). -/
def goOnAir (code : BitVec 4) (hold sending : Bool) (s : State) : State :=
  let t := goRadio code hold sending s
  t.setPar P.RADIO_STATE (putFld (t.par P.RADIO_STATE) 7 (if (if code == rsTx then s.txAnt else s.rxAnt) then 1 else 0 : BitVec 2))

/-- The wake receiver stops listening as the radio leaves its wake position: a collection that an exit from mode 1 or 2 let go on ends here without a result, and
with it its window, whose LEVEL is analog (R364, R389, R423; log 2). -/
def endListening (s : State) : State :=
  if (s.par P.WAKE_STATUS).getLsbD 3 then
    let s := s.parBit P.WAKE_STATUS 3 false
    if s.wake.window.isSome then
      let level : BitVec 6 := fld (Config.freeWord (s.freeCtr * 128)) 0 6
      { s.drawn.setPar P.WAKE_LEVEL (level.setWidth 36) with wake := { s.wake with window := none } }
    else s
  else s

/-- A RADIO.STATUS bit sets, raising source RADIO if enabled (Table RAD-13). -/
def radioEvent (bit : Nat) (s : State) : State :=
  let s := s.parBit P.RADIO_STATUS bit true
  if (s.par P.RADIO_IRQEN).getLsbD bit then s.raiseIrq 13 else s

/-- A LINK.STATUS bit sets, raising LINKRX or LINKTX if enabled (Table LNK-6). -/
def linkEvent (bit : Nat) (s : State) : State :=
  let s := s.parBit P.LINK_STATUS bit true
  if (s.par P.LINK_IRQEN).getLsbD bit then s.raiseIrq (if bit < 8 || bit = 12 then 14 else 15) else s

def sCmdRej : Nat := 0
def sUnlock : Nat := 1
def sFAbort : Nat := 2
def sRefLost : Nat := 3
def sTxUnder : Nat := 4
def sTxOvf : Nat := 5
def sRxUnder : Nat := 6
def sDivAbort : Nat := 7
def sRxTo : Nat := 8
def sCalX : Nat := 9
def sLockWait : Nat := 10
def sCalDone : Nat := 11
def sNoRef : Nat := 12
def sDone : Nat := 13

/-- A counter parameter advances. -/
def bumpPar (i : Nat) (s : State) : State := s.setPar i (s.par i + 1)

/-- A saturating counter parameter advances (Table LNK-6). -/
def bumpSat (i : Nat) (s : State) : State := s.setPar i (satAdd (s.par i) 1)

/-- A draw of an analog result the spec gives no value for (log 2). -/
def drawWord (s : State) : Word × State := (Config.freeWord (s.freeCtr * 128), s.drawn)

/-! ### The radio FIFO (R368) -/

/-- FIFOSTAT (Table RAD-11). -/
def State.fifoStat (s : State) : Word :=
  putFld (BitVec.ofNat 36 s.radio.txFifo.length) 9 (BitVec.ofNat 9 s.radio.rxFifo.length)

/-- A write to the transmit FIFO range: one word is pushed, or discarded with TXOVF when 256 are held (R368). -/
def txPush (v : Word) (s : State) : State :=
  if s.radio.txFifo.length < 256 then s.setRadio { s.radio with txFifo := s.radio.txFifo ++ [v] }
  else radioEvent sTxOvf s

/-- A read of the receive FIFO range: one word is popped; an empty FIFO gives 0 with RXUNDER (R368). -/
def rxPop (s : State) : Word × State :=
  match s.radio.rxFifo with
  | [] => (0, radioEvent sRxUnder s)
  | w :: rest => (w, s.setRadio { s.radio with rxFifo := rest })

def txFlush (s : State) : State := s.setRadio { s.radio with txFifo := [] }
def rxFlush (s : State) : State := s.setRadio { s.radio with rxFifo := [] }

/-- Words leave the transmit FIFO. -/
def txTake (n : Nat) (s : State) : List Word × State :=
  (s.radio.txFifo.take n, s.setRadio { s.radio with txFifo := s.radio.txFifo.drop n })

/-! ### Synthesiser A (R357, R358) -/

/-- MHz times two of the intermediate frequency of a bandwidth (Table RAD-1). -/
def ifTwice (bw : BitVec 2) : Nat :=
  match bw with
  | 0 => 2
  | 1 => 3
  | 2 => 5
  | _ => 9

/-- OOK stands at 2,441 MHz, an acknowledgement on the channel whatever TXCFG.MOD holds (R357, R403). -/
def State.offChannel (s : State) : Bool :=
  match s.radio.tx with
  | some (.ack ..) => false
  | _ => decide ((fld s.radio.txcfg 0 2 : BitVec 2) = 2)

/-- The frequency of the local oscillator, in units of 0.5 MHz (R357). -/
def State.loTwice (s : State) (rx : Bool) : Nat :=
  if rx then 2 * (2402 + 2 * s.radio.chan.toNat) - ifTwice (fld s.radio.rxcfg 0 2)
  else if s.offChannel then 2 * 2441
  else 2 * (2402 + 2 * s.radio.chan.toNat)

/-- The local oscillator in units of 26 MHz / 2^24, to the nearest unit (R357; log 32). -/
def State.oscillator (s : State) (rx : Bool) : Word := BitVec.ofNat 36 ((s.loTwice rx * 2 ^ 24 + 26) / 52)

/-! ### Carrier phase (R472; log 92) -/

/-- The delay through which the phase is referred to RFA or RFB: the analog term of Table TIM-2 ahead in transmit, what SYS.TXLAUNCH holds beyond the 49 TCLK
cycles of terms 1-4, and RXGD of the bandwidth in use behind in receive; in units of 2^-60 s. -/
def State.referral (s : State) (rx : Bool) : Int :=
  if rx then -((s.par (P.RADIO_RXGD0 + (fld s.radio.rxcfg 0 2 : BitVec 2).toNat)).toNat * 2 ^ 28 : Nat)
  else ((fld (s.par P.SYS_TXLAUNCH) 0 16 : BitVec 16).toNat * 2 ^ 28 : Nat) - (49 * nominalInc : Nat)

/-- The edge at which the settling has ended: the one kept (synthTick), or the present one where no TCLK edge has been counted to it (log 92). -/
def State.settleEdge (s : State) : SettleEdge :=
  s.radio.settled.getD { acc := s.time.acc, valid := (s.par P.TIME_STATUS).getLsbD 0, tclk := s.time.tclk }

/-- The carrier phase at the end of a settling: f × S for the store time S of that edge, or undefined with VALID = 0, a free value (R472). -/
def setCarrier (rx : Bool) (s : State) : State :=
  let f := s.loTwice rx
  let e := s.settleEdge
  let free : BitVec 60 := fld (Config.freeWord (s.freeCtr * 128 + 1)) 0 24 ++ Config.freeWord (s.freeCtr * 128)
  let phase := if e.valid then cyclesOf f ((e.acc.toNat : Int) + s.referral rx) else free
  s.drawn.setRadio { s.radio with carrier := some { phase := phase, at' := e.tclk, freq := f }, settleIn := 0, settled := none }

/-- A calibration of synthesiser A starts (R358): its settling ends after `n` TCLK cycles. -/
def startSettling (n : Nat) (s : State) : State := s.setRadio { s.radio with settleIn := n, settled := none }

/-- 14.0 µs of calibration and 6.0 µs of settling in TCLK cycles, and the same after the pin phase of 5.0 µs that a switch in holding begins with (R358,
Table RAD-4). -/
def settleCycles : Nat := 4160
def holdSettleCycles : Nat := 5200

/-- A retune without calibration (R358): the phase goes on at the new frequency. -/
def retune (rx : Bool) (s : State) : State :=
  let s := s.setRadio { s.radio with
    carrier := s.radio.carrier.map (fun c => { phase := c.now s.time.tclk, at' := s.time.tclk, freq := s.loTwice rx }) }
  s.setPar P.SYNTH_AFREQ (s.oscillator rx)

/-- The results of a calibration of synthesiser A (R358): ASTAT with LOCK, ACALk, ALOCKk take the analog results, ACALCNT counts. -/
def synthResults (locked : Bool) (s : State) : State :=
  let r := drawWord s
  let cal : BitVec 18 := fld r.1 0 18
  let l := drawWord r.2
  let s := l.2
  let k := s.radio.chan
  let s := s.setPar P.SYNTH_ASTAT (putFld (putFld (boolWord locked) 1 cal) 19 k)
  let s := s.setPar (P.SYNTH_ACAL + k.toNat) (putFld (0 : Word) 1 cal)
  let s := s.setPar (P.SYNTH_ALOCK + k.toNat) l.1
  bumpPar P.SYNTH_ACALCNT s

/-- The loop has settled (R358, R472). -/
def synthSettled (rx : Bool) (s : State) : State := setCarrier rx (retune rx (synthResults true s))

/-- The loop is not locked at the end of settling: STANDBY, UNLOCK and AFAILCNT (R358). `hop`: it was that of a channel switch, whose hop then has no transmit
start (R486). -/
def synthFailed (hop : Bool) (s : State) : State :=
  let s := synthResults false (s.setRadio { s.radio with trans := none, settleIn := 0, settled := none, hopFailed := hop })
  radioEvent sUnlock (bumpPar P.SYNTH_AFAILCNT (goRadio rsStandby false false s))

/-! ### Calibrations (R376) -/

/-- IQDUE: TEMPNOW differs from TEMPIQ by 10 °C or more (R376). -/
def State.iqDue (s : State) : Bool :=
  let a := (fld (s.par P.SYNTH_TEMPNOW) 0 10 : BitVec 10).toInt
  let b := (fld (s.par P.SYNTH_TEMPIQ) 0 10 : BitVec 10).toInt
  decide (40 ≤ (a - b).natAbs)

/-- The radio's logic brings CALSTAT's ENCAL and IQDUE up to date (Table RAD-11), on its clock (R50, R76). -/
def evalCal (s : State) : State :=
  if s.refRuns then
    let v := s.par P.RADIO_CALSTAT
    s.setPar P.RADIO_CALSTAT (putBit (putBit v 0 (s.radio.rcDone && s.radio.iqDone)) 1 s.iqDue)
  else s

/-- Sepia writes TEMPNOW from the die sensor, and IQDUE is evaluated again while the radio clock runs (R76, R376). -/
def setTempNow (t : BitVec 10) (s : State) : State := evalCal (s.setPar P.SYNTH_TEMPNOW (t.setWidth 36))

/-- Write `n` parameters from `base` with drawn analog results. -/
def drawPars (base : Nat) : Nat → State → State
  | 0, s => s
  | n + 1, s =>
    let r := drawWord s
    drawPars (base + 1) n (r.2.setPar base r.1)

/-- The filter calibration ends (Table RAD-8). -/
def rcCalDone (s : State) : State :=
  let r := drawWord s
  let s := r.2.setPar P.RADIO_CALSTAT (putFld (r.2.par P.RADIO_CALSTAT) 3 (fld r.1 0 7 : BitVec 7))
  evalCal (s.setRadio { s.radio with rcDone := true })

/-- The image calibration ends: IQCAL0-7, and TEMPIQ takes TEMPNOW (Table RAD-8, Table RAD-10). -/
def iqCalDone (s : State) : State :=
  let s := drawPars P.RADIO_IQCAL 8 s
  let s := s.setPar P.SYNTH_TEMPIQ (s.par P.SYNTH_TEMPNOW)
  evalCal (s.setRadio { s.radio with iqDone := true })

/-- The DC-offset calibration of all gains ends (Table RAD-8). -/
def dcAllDone (s : State) : State := (drawPars P.RADIO_DCOFS 12 s).parBit P.RADIO_CALSTAT 2 true

/-- The DC-offset calibration of a warm-up at the starting gain, for each antenna in use (Table RAD-8). -/
def dcStartDone (s : State) : State :=
  let g := min (fld s.radio.rxcfg 4 3 : BitVec 3).toNat 5
  match (fld s.radio.antcfg 0 2 : BitVec 2) with
  | 0 => drawPars (P.RADIO_DCOFS + 2 * g) 1 s
  | 1 => drawPars (P.RADIO_DCOFS + 2 * g + 1) 1 s
  | _ => drawPars (P.RADIO_DCOFS + 2 * g) 2 s

/-! ### Frames under reception -/

/-- Word 6 of a history entry gets bits ORed in (Table LNK-6). -/
def histFlag (e : BitVec 4) (bit : Nat) (s : State) : State := s.parBit (P.LINK_HIST + 7 * e.toNat + 6) bit true

/-- A frame under reception is abandoned (R420). -/
def abandonRx (s : State) : State :=
  match s.radio.rx with
  | none => s
  | some f => histFlag f.hist 3 (s.setRadio { s.radio with rx := none })

/-- A diversity measurement is abandoned (R387, Table RAD-13). Whether a preamble had started the one of a GFSK window is a free choice (log 88). -/
def abandonMeas (s : State) : State :=
  if s.radio.meas then radioEvent sDivAbort (s.setRadio { s.radio with meas := false })
  else if s.radio.gfskMeas then
    let t := s.drawn.setRadio { s.radio with gfskMeas := false }
    if Config.freeBool (s.freeCtr * 128) then radioEvent sDivAbort t else t
  else s

/-- Whatever the radio does is given up: frame, measurement, transmission, waits and pending returns. An acknowledgement wait ends with it, with TXDONE (R373, R402)
and neither ACKOK nor ACKTO (log 93). -/
def stopRadio (s : State) : State :=
  let s := abandonMeas (abandonRx s)
  let s := if s.radio.ackWait.isSome then linkEvent 8 s else s
  s.setRadio { s.radio with trans := none, lockWait := none, tx := none, rxNext := false, ackWait := none, rxtoDue := false, ret := none }

/-! ### Windows, sending and returns -/

/-- The receive window opens at tR (R371): the gain starts at RXCFG.GAIN; with diversity the measurement of the wideband feed runs and that of GFSK is to
come, and with the wideband feed and AGC alone the receiver chooses the gain, an analog result (R361, R378; log 2). -/
def openRx (s : State) : State :=
  let wide := s.radio.rxcfg.getLsbD 2 && (fld s.radio.rxcfg 0 2 : BitVec 2) == 3
  let div := (fld s.radio.antcfg 0 2 : BitVec 2) == 2
  let gfsk := (fld s.radio.rxcfg 0 2 : BitVec 2) != 3
  let s := s.setRadio { s.radio with trans := none, meas := wide && div, gfskMeas := gfsk && div }
  if wide && !div && s.radio.rxcfg.getLsbD 3 then
    let r := drawWord s
    goOnAir rsRx false false (r.2.setPar P.RADIO_GAIN (BitVec.ofNat 36 (r.1.toNat % 6)))
  else goOnAir rsRx false false (s.setPar P.RADIO_GAIN ((fld s.radio.rxcfg 4 3 : BitVec 3).setWidth 36))

/-- Configuration sampled when a transition starts (R371, R391). -/
def sampleCfg (s : State) : State :=
  s.setRadio { s.radio with txcfg := s.par P.RADIO_TXCFG, rxcfg := s.par P.RADIO_RXCFG, antcfg := s.par P.RADIO_ANT,
                            burstcfg := s.par P.RADIO_BURSTCFG, pabias := fld (s.par P.RADIO_PABIAS) 0 6 }

/-- A transition toward SLEEP, STANDBY or WAKELISTEN. -/
def lowerTo (code : BitVec 4) (next : Option (BitVec 4)) (done : Bool) (s : State) : State :=
  let s := stopRadio s
  goRadio s.radioState false false (s.setRadio { s.radio with trans := some (.lower code next done) })

/-- A turnaround starts (R371); `work` is what a turnaround to TX is to send, none for a start per TXCFG. -/
def startTurn (rx done : Bool) (work : Option TxWork) (s : State) : State :=
  let s := sampleCfg s
  let s := s.setRadio { s.radio with trans := some (.turn rx done), tx := work, rxNext := false }
  retune rx (goRadio (if rx then rsRxWarm else rsTxWarm) false false (bumpPar (P.RADIO_CNT + 2) s))

/-- The automatic return of an end (Table RAD-5). -/
def autoMove (afterRx : Bool) (v : BitVec 2) (s : State) : State :=
  let s := s.setRadio { s.radio with ret := none }
  match v with
  | 0 => lowerTo rsStandby none false s
  | 1 => if afterRx then openRx s else startTurn true false none s
  | 2 => if afterRx then startTurn false false none s
    else goRadio rsTx false false (s.setRadio { s.radio with trans := some .ramp })
  | _ => lowerTo rsStandby (some rsSleep) false s

/-- A transmission ends normally (R373): a commanded RX turns around (R371), otherwise AUTORET's after-TX field is due. -/
def endTx (s : State) : State :=
  let next := s.radio.rxNext
  let s := goRadio rsTx false false (s.setRadio { s.radio with tx := none, rxNext := false })
  if next then startTurn true true none s
  else s.setRadio { s.radio with ret := some (false, fld (s.par P.RADIO_AUTORET) 0 2) }

/-- The transmission starts at tS with what the modulation sends (Table RAD-2, R402, R410, R466): a first record word with nonzero bits 35:8 flushes the
FIFO, sets TXERR and is a normal end. Every transmission that the parameters describe is made: no duty cycle, dwell, power, channel, repetition or amplifier bias
is judged here (R381). LINK.WAKETX, WAKEREP, CFG and SYNC are taken here, as the sending starts, and not at the strike's action: R96 does not list what the transmit
configuration sampled at the action is, and this is the model's choice (log 93). -/
def startSend (s : State) : State :=
  let s := s.setRadio { s.radio with trans := none, sendCfg := s.par P.LINK_CFG, sendSync := fld (s.par P.LINK_SYNC) 0 32 }
  let s := goOnAir rsTx false true s
  match s.radio.tx with
  | some _ => s
  | none =>
    match (fld s.radio.txcfg 0 2 : BitVec 2) with
    | 2 =>
      let w := s.par P.LINK_WAKETX
      s.setRadio { s.radio with tx := some (.train (fld w 0 16) (fld w 16 8) (fld (s.par P.LINK_WAKEREP) 0 16)) }
    | 3 =>
      let b := s.radio.burstcfg
      s.setRadio { s.radio with tx := some (.burst (fld b 0 6) (fld b 6 10) (b.getLsbD 16)) }
    | m =>
      let r := txTake 1 s
      match r.1 with
      | [] => s.setRadio { s.radio with tx := some (.frame none (m == 1)) }
      | w :: _ =>
        if w >>> 8 = 0 then r.2.setRadio { r.2.radio with tx := some (.frame (some w) (m == 1)) }
        else endTx (linkEvent 8 (linkEvent 9 (bumpSat (P.LINK_CNT + 10) (txFlush r.2))))

/-- TX is reached: sending, or holding per TXCFG.HOLD (Table RAD-4). An acknowledgement is sent whatever HOLD says (R403). -/
def txReady (s : State) : State :=
  if s.radio.txcfg.getLsbD 2 && s.radio.tx.isNone then goOnAir rsTx true false (s.setRadio { s.radio with trans := none })
  else startSend s

/-! ### Commands (Table RAD-4) -/

/-- A warm-up or calibration starts at REFLOCK (R370), and the wake receiver no longer listens (R364). -/
def beginOut (o : RadioOut) (s : State) : State :=
  let s := endListening s
  match o with
  | .cal code =>
    let s := bumpPar (P.RADIO_CNT + 7) s
    goRadio rsCal false false (s.setRadio { s.radio with trans := some (.cal code), lockWait := none })
  | .warm rx =>
    let s := sampleCfg s
    let rc := !s.radio.rcDone
    let iq := !s.radio.iqDone || (s.iqDue && (s.par P.RADIO_CALCTL).getLsbD 0)
    let dcall := s.radio.rxcfg.getLsbD 7
    let dcAll := rx && (dcall || !s.radio.dcDone)
    let s := s.setRadio { s.radio with trans := some (.warm rx rc iq dcAll), lockWait := none, chan := fld (s.par P.RADIO_CHAN) 0 6 }
    let s := bumpPar P.RADIO_CNT s
    let s := if rc then bumpPar (P.RADIO_CNT + 7) s else s
    let s := if iq then bumpPar (P.RADIO_CNT + 7) s else s
    let s := if rc || iq || (dcAll && !dcall) then radioEvent sCalX s else s
    goRadio (if rx then rsRxWarm else rsTxWarm) false false (startSettling settleCycles s)

/-- A transition out of STANDBY: at once with REFLOCK, otherwise it waits with LOCKWAIT (R370). -/
def leaveStandby (o : RadioOut) (s : State) : State :=
  let s := stopRadio s
  if (s.par P.PWR_STATUS).getLsbD 4 then beginOut o s
  else radioEvent sLockWait (s.setRadio { s.radio with lockWait := some o })

/-- From SLEEP toward STANDBY; with REFEN = 0 the radio stays in SLEEP with NOREF (R370). -/
def towardStandby (wl done : Bool) (s : State) : State :=
  let s := stopRadio s
  if (s.par P.PWR_CLKCTL).getLsbD 0 then s.setRadio { s.radio with trans := some (.up wl done) }
  else radioEvent sNoRef s

/-- A channel switch starts (Table RAD-4, R387, R420). -/
def startChsw (rx : Bool) (s : State) : State :=
  let s := sampleCfg (stopRadio s)
  let s := s.setRadio { s.radio with trans := some (.chsw rx), chan := fld (s.par P.RADIO_CHAN) 0 6 }
  goRadio rsCal false false (startSettling (if rx then settleCycles else holdSettleCycles) (bumpPar (P.RADIO_CNT + 1) s))

/-- A command of Table RAD-4 in the present state; none: not accepted. During the fault sequence every command is rejected (R379). -/
def radioAct (code : Nat) (s : State) : Option State :=
  let st := s.radioState
  let hold := s.radioHold
  if s.radioFault || st = rsOff then none
  else
    match code with
    | 1 => if st = rsStandby || st = rsWakeListen then some (lowerTo rsSleep none true s) else none
    | 2 =>
      if st = rsSleep then some (towardStandby false true s)
      else if st = rsStandby then some (radioEvent sDone (stopRadio s))
      else some (lowerTo rsStandby none true s)
    | 3 =>
      if st = rsStandby then some (leaveStandby (.warm true) s)
      else if st = rsTx then
        if s.radioSending then some (s.setRadio { s.radio with rxNext := true })
        else some (startTurn true true none (stopRadio s))
      else none
    | 4 =>
      if st = rsStandby then some (leaveStandby (.warm false) s)
      else if st = rsRx then some (startTurn false true none (stopRadio s))
      else none
    | 5 =>
      if st = rsTx && hold then
        let s := retune false (sampleCfg s)
        some (goRadio rsTx false false (s.setRadio { s.radio with trans := some .start }))
      else none
    | 6 =>
      if st = rsStandby then some (lowerTo rsWakeListen none true s)
      else if st = rsSleep then some (towardStandby true true s)
      else none
    | 7 =>
      if st = rsStandby then some (radioEvent sDone (s.setRadio { s.radio with chan := fld (s.par P.RADIO_CHAN) 0 6 }))
      else if st = rsRx then some (startChsw true s)
      else if st = rsTx && hold then some (startChsw false s)
      else none
    | 8 => if st = rsStandby then some (leaveStandby (.cal 8) s) else none
    | 9 => if st = rsStandby then some (leaveStandby (.cal 9) s) else none
    | 10 => if st = rsStandby then some (leaveStandby (.cal 10) s) else none
    | _ => none

/-- A command or action has been taken: a failed hop is over (R486). -/
def hopOver (s : State) : State := if s.radio.hopFailed then s.setRadio { s.radio with hopFailed := false } else s

/-- A command at the radio: one that is not accepted is ignored with CMDREJ (Table RAD-4, Table RAD-11). -/
def radioCommand (code : Nat) (s : State) : State :=
  match radioAct code s with
  | some s => hopOver s
  | none => radioEvent sCmdRej (bumpPar (P.RADIO_CNT + 4) s)

/-- A command that acts without the radio clock (R370): out of STANDBY it waits for REFLOCK with LOCKWAIT, and out of SLEEP for REFRDY, or sets NOREF. -/
def State.actsUnclocked (s : State) (code : Nat) : Bool :=
  s.radio.late.isEmpty && !s.radioFault
    && ((decide (s.radioState = rsStandby) && (code == 3 || code == 4 || code == 8 || code == 9 || code == 10) && !(s.par P.PWR_STATUS).getLsbD 4)
      || (decide (s.radioState = rsSleep) && (code == 2 || code == 6)))

/-- A command with RADIO.CHAN as it stood when the command was latched: a CHSW in STANDBY takes that channel, whatever is written behind it (R51, R76). -/
def latchedCommand (code : Nat) (chan : BitVec 6) (s : State) : State :=
  let t := radioCommand code s
  if code = 7 && s.radioState = rsStandby && !s.radioFault then t.setRadio { t.radio with chan := chan } else t

/-- What the radio's logic does at a write to its shell. -/
def doRadioLate (r : RadioLate) (s : State) : State :=
  match r with
  | .cmd code chan => latchedCommand code.toNat chan s
  | .push v => txPush v s
  | .flush tx rx => let s := if tx then txFlush s else s; if rx then rxFlush s else s

/-- A write to the radio's shell takes effect at the next radio clock edge; while the clock is stopped it waits (R50, R76). -/
def radioRequest (r : RadioLate) (s : State) : State :=
  let now := match r with
    | .cmd code _ => s.actsUnclocked code.toNat
    | .push _ => false
    | .flush tx rx => !(tx || rx)
  if s.refRuns || now then doRadioLate r s else s.setRadio { s.radio with late := s.radio.late ++ [r] }

/-- The writes that waited take effect, oldest first (R76). -/
def radioLate (s : State) : State := s.radio.late.foldl (fun s r => doRadioLate r s) (s.setRadio { s.radio with late := [] })

/-- A strike radio action (R372): a transmit start is TX in STANDBY or RX and TXSTART in holding, a receive start RX in STANDBY or holding, a channel
switch CHSW after RADIO.CHAN takes the strike's channel; `none`: dropped. The transmit start of a hop whose switch has failed is dropped (R486). Where STRK.RACT was
rewritten after the arming, which alone Table TIM-7 has refuse them, an ACT of 3 is dropped with RMISS and a channel of 40-63 goes to RADIO.CHAN as it is: R112 does not
say, and this is the model's choice (log 95). -/
def radioStrike (ract : BitVec 9) (s : State) : Option State :=
  let st := s.radioState
  let hold := st = rsTx && s.radioHold
  Option.map hopOver <| match (fld ract 0 2 : BitVec 2) with
  | 0 => if hold then radioAct 5 s else if s.radio.hopFailed then none else if st = rsStandby || st = rsRx then radioAct 4 s else none
  | 1 => if st = rsStandby || hold then radioAct 3 s else none
  | 2 =>
    if !s.radioFault && (st = rsStandby || st = rsRx || hold) then
      radioAct 7 (s.setPar P.RADIO_CHAN ((fld ract 2 6 : BitVec 6).setWidth 36))
    else none
  | _ => none

/-! ### The end of a transition (Table RAD-4) -/

/-- The calibrations added to a warm-up have run (R376). -/
def addedCals (rx rc iq dcAll : Bool) (s : State) : State :=
  let s := if rc then rcCalDone s else s
  let s := if iq then iqCalDone s else s
  if rx then (if dcAll then (dcAllDone s).setRadio { (dcAllDone s).radio with dcDone := true } else dcStartDone s) else s

/-- The transition in progress ends; `locked` is whether synthesiser A locked (R358). A transition out of SLEEP ends only with REFRDY (R370). -/
def transitionDone (locked : Bool) (s : State) : State :=
  match s.radio.trans with
  | none => s
  | some (.lower code next done) =>
    let s := goRadio code false false (s.setRadio { s.radio with trans := next.map (fun n => RadioTrans.lower n none done) })
    if next.isNone && done then radioEvent sDone s else s
  | some (.up wl done) =>
    if (s.par P.PWR_STATUS).getLsbD 3 then
      let s := goRadio rsStandby false false (s.setRadio { s.radio with trans := none })
      if wl then lowerTo rsWakeListen none done s else if done then radioEvent sDone s else s
    else s
  | some (.warm rx rc iq dcAll) =>
    if locked then
      let s := addedCals rx rc iq dcAll (synthSettled rx s)
      radioEvent sDone (if rx then openRx s else txReady s)
    else synthFailed false s
  | some (.turn rx done) =>
    let s := if rx then openRx s else txReady s
    if done then radioEvent sDone s else s
  | some .start => radioEvent sDone (startSend s)
  | some .ramp => goOnAir rsTx true false (s.setRadio { s.radio with trans := none })
  | some (.chsw rx) =>
    if locked then
      let s := synthSettled rx s
      radioEvent sDone (if rx then openRx s else goOnAir rsTx true false (s.setRadio { s.radio with trans := none }))
    else synthFailed true s
  | some (.cal code) =>
    let s := if code = 8 then rcCalDone s else if code = 9 then iqCalDone s else dcAllDone s
    let s := goRadio rsStandby false false (s.setRadio { s.radio with trans := none })
    radioEvent sDone (radioEvent sCalDone s)

/-! ### Fault sequence and power (R379, R380, R391) -/

/-- The region is powered (Table RAD-3). -/
def State.radioPowered (s : State) : Bool := decide (s.radioState ≠ rsOff)

/-- The fault sequence starts, or starts again; one that ends in power-down still does so: the transmission, reception, warm-up, calibration or switch stops (R379). -/
def startFault (down : Bool) (s : State) : State :=
  if s.radioPowered then
    let s := stopRadio s
    let s := s.setRadio { s.radio with down := s.radio.down || down }
    let s := bumpPar (P.RADIO_CNT + 3) (goRadio s.radioState false false s)
    s.parBit P.RADIO_STATE 6 true
  else s

/-- Every parameter of the indices from `lo` below `hi` returns to its reset value. -/
def resetPars (lo hi : Nat) (s : State) : State :=
  { s with params := s.params.filter (fun e => decide (e.1 < lo) || decide (hi ≤ e.1)) }

/-- The region loses power: RADIO and LINK parameters take their S: values, STATE reads OFF (R368, R391). -/
def radioOff (s : State) : State := (resetPars 0x0C00 0x0E00 s).setRadio RadioSt.init

/-- The region is powered and the radio moves toward STANDBY (R370); IQDUE follows the temperatures that SYNTH has kept (R376). -/
def radioOn (s : State) : State :=
  if s.radioPowered then s
  else evalCal (towardStandby false false (goRadio rsSleep false false ((resetPars 0x0C00 0x0E00 s).setRadio RadioSt.init)))

/-- PWR.ISLAND.RADIO = 0: the fault sequence first in every state but OFF, SLEEP and STANDBY (R379, R391). -/
def radioPowerOff (s : State) : State :=
  let st := s.radioState
  if st = rsOff then s
  else if st = rsSleep || st = rsStandby then radioOff s
  else if s.radioFault then s.setRadio { s.radio with down := true }
  else startFault true s

/-- 5.0 µs after the stop: FAULTSTATE, or SLEEP and power-down, and FABORT (R379). -/
def faultDone (s : State) : State :=
  if s.radioFault then
    let down := s.radio.down
    let code := if down || (s.par P.RADIO_FAULTSTATE).getLsbD 0 then rsSleep else rsStandby
    let s := (goRadio code false false s).parBit P.RADIO_STATE 6 false
    let s := radioEvent sFAbort (s.setRadio { s.radio with down := false })
    if down then radioOff s else s
  else s

/-- REF is lost: the radio clock stops; when REF returns the radio is in SLEEP with REFLOST (R380). -/
def radioRefLost (s : State) : State :=
  if s.radioPowered then
    let s := (goRadio rsSleep false false (stopRadio s)).parBit P.RADIO_STATE 6 false
    let down := s.radio.down
    let s := radioEvent sRefLost (s.setRadio { s.radio with carrier := none, down := false })
    if down then radioOff s else s
  else s

/-- CALSTAT follows while the region is powered. -/
def radioCal (s : State) : State := if s.radioPowered then evalCal s else s

/-- REF locks: a transition that waited for REFLOCK starts (R370), and then what was written while the clock stood takes effect (R76). -/
def radioRefLock (s : State) : State :=
  radioCal (radioLate (match s.radio.lockWait with
    | some o => beginOut o s
    | none => s))

/-! ### Pins (R367, R374, R375) -/

/-- The amplifier pins are sequenced: OZ-3648-AB, a role other than 0, and EXTPA as sampled (R367). -/
def State.paPins (s : State) : Bool :=
  decide (s.pwr.package = .ab) && decide ((fld (s.par P.SYS_ROLEACT) 0 2 : BitVec 2) ≠ 0) && s.radio.txcfg.getLsbD 8

/-- PA_ON, LNA_ON, TRSW and ANT_SEL asserted, in bits 0 to 3; leads and lags are left out (log 30). -/
def State.paAsserted (s : State) : BitVec 4 :=
  let tx := s.paPins && decide (s.radioState = rsTx)
  let rx := s.paPins && decide (s.radioState = rsRx)
  let b := s.paPins && decide ((fld (s.par P.RADIO_STATE) 7 2 : BitVec 2) = 1)
  putBit (putBit (putBit (putBit (0 : BitVec 4) 0 tx) 1 rx) 2 tx) 3 b

/-- RADIO.DIAG: pin levels under PAPOL, PA_BIAS code, switch position, driver power code (Table RAD-11). -/
def State.radioDiag (s : State) : Word :=
  let pins := s.paAsserted ^^^ (if s.pwr.package = .ab then fld (s.par P.RADIO_PAPOL) 0 4 else 0)
  let tx := decide (s.radioState = rsTx)
  let bias : BitVec 6 := if s.paAsserted.getLsbD 0 then s.radio.pabias else 0
  let pwr : BitVec 5 := if tx then fld s.radio.txcfg 3 5 else 0
  putFld (putFld (putFld (pins.setWidth 36) 4 bias) 10 (fld (s.par P.RADIO_STATE) 7 2 : BitVec 2)) 12 pwr

/-! ### XOTRIM (R377) -/

/-- The applied crystal code moves one code toward XOTRIM; it acts only with REFSRC = 0 (R377), and once the clock of the REF group, whose shell holds XOTRIM, runs
(R50, R76, R383). -/
def xoStep (s : State) : State :=
  let now : BitVec 8 := fld (s.par P.SYNTH_XONOW) 0 8
  let want : BitVec 8 := fld (s.par P.SYNTH_XOTRIM) 0 8
  if !s.refRuns || (s.par P.PWR_CLKCTL).getLsbD 1 || now = want then s
  else s.setPar P.SYNTH_XONOW ((if now.toNat < want.toNat then now + 1 else now - 1).setWidth 36)

/-- A transition is in progress (Table RAD-14). -/
def State.radioBusy (s : State) : Bool := s.radio.trans.isSome

end Sys2Proof.Machine
end

