-- ==== Sys2Proof/Machine/TrsOps.lean ====
section
/-!
DEFINITION. Sys2Proof/Machine/TrsOps.lean: Trestle (13): quantisers, code generators, NCOs, taps, dumps, the dump writer, the epoch latch and the search engine.
Samples are inputs: a command that takes place at a sample carries the samples since the last one (log 40).
-/

namespace Sys2Proof.Machine

def State.setTrs (s : State) (t : TrsSt) : State := { s with trs := t }
def State.setCh (s : State) (c : Fin 48) (h : TrsCh) : State := s.setTrs { s.trs with ch := s.trs.ch.set c h }

/-- A parameter of channel c (R452). -/
def chIdx (base : Nat) (c : Fin 48) : Nat := base + 64 * c.val
def State.chPar (s : State) (base : Nat) (c : Fin 48) : Word := s.par (chIdx base c)

/-- The region has power, and Trestle runs: the REF group runs too (R426). -/
def State.trsPowered (s : State) : Bool := (s.par P.PWR_ISLAND).getLsbD 0
def State.trsRuns (s : State) : Bool := s.trsPowered && s.refRuns

/-- A channel is enabled. -/
def State.chEnabled (s : State) (c : Fin 48) : Bool := (s.chPar P.CH_CTL c).getLsbD 0

def State.codeLen (s : State) (c : Fin 48) : Nat := (fld (s.chPar P.CH_CODECFG c) 2 13 : BitVec 13).toNat

/-! ### Codes (R430-R432) -/

/-- The output of a generator from its GkCFG and GkINIT. -/
def genChip (cfg init : Word) (i : Nat) : Bool :=
  lfsrChip (fld cfg 0 4 : BitVec 4).toNat (fld cfg 4 13) (fld init 0 13) i

/-- The code bit of channel c at chip index i (R430, R431). -/
def State.chip (s : State) (c : Fin 48) (i : Nat) : Bool :=
  let cfg := s.chPar P.CH_CODECFG c
  if cfg.getLsbD 0 then
    let blk := (fld cfg 15 5 : BitVec 5).toNat
    (SMap.getD s.trs.codeMem (blk * 128 + i / 32) 0).getLsbD (i % 32)
  else
    let g1 := genChip (s.chPar P.CH_G1CFG c) (s.chPar P.CH_G1INIT c) i
    let g2c := s.chPar P.CH_G2CFG c
    if g2c.getLsbD 17 then xor g1 (genChip g2c (s.chPar P.CH_G2INIT c) i) else g1

/-- The amplitude at a code phase, in units of 2^-32 chip, with the BOC(1,1) subcarrier: +1 or −1 (R429, R432). -/
def State.codeSign (s : State) (c : Fin 48) (phase : Nat) : Int :=
  let boc := (s.chPar P.CH_CODECFG c).getLsbD 1 && decide (2 ^ 31 ≤ phase % 2 ^ 32)
  if xor (s.chip c (phase / 2 ^ 32)) boc then -1 else 1

/-- The secondary sign at position p (R432). -/
def State.secSign (s : State) (c : Fin 48) (p : BitVec 5) : Int :=
  let l := (fld (s.chPar P.CH_SECCFG c) 0 6 : BitVec 6).toNat
  if l = 0 then 1 else if (s.chPar P.CH_SECPAT c).getLsbD (p.toNat % l) then -1 else 1

/-- A generator in use is badly configured: stage n untapped, INIT 0, or NST outside 10-13 (R430). -/
def genBad (cfg init : Word) : Bool :=
  let n := (fld cfg 0 4 : BitVec 4).toNat
  decide (n < 10) || decide (13 < n) || !(fld cfg 4 13 : BitVec 13).getLsbD (n - 1) || (fld init 0 13 : BitVec 13) == 0

/-- The code configuration of a channel cannot be used (R430, R431). -/
def State.codeBad (s : State) (c : Fin 48) : Bool :=
  if (s.chPar P.CH_CODECFG c).getLsbD 0 then decide (4096 < s.codeLen c)
  else
    let g2c := s.chPar P.CH_G2CFG c
    genBad (s.chPar P.CH_G1CFG c) (s.chPar P.CH_G1INIT c) || (g2c.getLsbD 17 && genBad g2c (s.chPar P.CH_G2INIT c))

/-- TAPSP values refused at enable (R436). -/
def State.tapsBad (s : State) (c : Fin 48) : Bool :=
  let d := (fld (s.chPar P.CH_TAPSP c) 0 6 : BitVec 6).toNat
  let d2 := (fld (s.chPar P.CH_TAPSP c) 6 7 : BitVec 7).toNat
  decide (d = 0) || decide (32 < d) || decide (d2 = 0) || decide (64 < d2) || decide (d2 < d)

/-! ### NCOs (R433-R435) -/

def cosTable : List Int := [6, 5, 3, 1, -1, -3, -5, -6, -6, -5, -3, -1, 1, 3, 5, 6]
def sinTable : List Int := [1, 3, 5, 6, 6, 5, 3, 1, -1, -3, -5, -6, -6, -5, -3, -1]

/-- The mixer (R433, Table TRS-1). -/
def mix (xi xq : Int) (phi : BitVec 32) : Int × Int :=
  let m := (fld phi 28 4 : BitVec 4).toNat
  let co := (cosTable[m]?).getD 0
  let si := (sinTable[m]?).getD 0
  (xi * co + xq * si, xq * co - xi * si)

/-- What a change of CARRFREQ to `v` adds to CODEFREQ; none with AIDRATIO 0 (R435). -/
def State.aidStep (s : State) (c : Fin 48) (v : BitVec 32) : Option (BitVec 32) :=
  let d := v.toInt - (fld (s.chPar P.CH_CARRFREQ c) 0 32 : BitVec 32).toInt
  let aid := (fld (s.chPar P.CH_AIDRATIO c) 0 32 : BitVec 32).toNat
  if aid = 0 then none else some (BitVec.ofInt 32 ((d * (aid : Int)).tdiv (2 ^ 32)))

def addCodeFreq (c : Fin 48) (d : BitVec 32) (s : State) : State :=
  s.setPar (chIdx P.CH_CODEFREQ c) (((fld (s.chPar P.CH_CODEFREQ c) 0 32 : BitVec 32) + d).setWidth 36)

/-- CARRFREQ takes a value; with AIDRATIO nonzero the change moves CODEFREQ (R435). -/
def setCarrFreq (c : Fin 48) (v : BitVec 32) (s : State) : State :=
  let d := s.aidStep c v
  let s := s.setPar (chIdx P.CH_CARRFREQ c) (v.setWidth 36)
  match d with
  | some d => addCodeFreq c d s
  | none => s

/-- CYC:φ after a sample, as CARRPH and CARRCYC (Table TRS-2). -/
def TrsCh.phase (h : TrsCh) : BitVec 32 := fld h.carr 0 32
def TrsCh.cycles (h : TrsCh) : Word := fld h.carr 32 36

/-- CODEPH: chip index in bits 35:23, fraction in units of 2^-23 chip (Table TRS-2). -/
def TrsCh.codePh (h : TrsCh) : Word := fld h.code 9 36

/-- The adjustments latched apply at this sample, every one of them: CARRRATE at every 26,000th, then CARRADJ and CODEADJ (R435, R462). -/
def applyAdjust (c : Fin 48) (s : State) : State :=
  let h := s.trs.ch[c]
  let rate : BitVec 24 := fld (s.chPar P.CH_CARRRATE c) 0 24
  let due := decide (h.age = 26000)
  let s := if due then setCarrFreq c ((fld (s.chPar P.CH_CARRFREQ c) 0 32 : BitVec 32) + rate.signExtend 32) s else s
  let carr := h.carrAdj.foldl (fun w a => w + a.signExtend 68) h.carr
  let len : Nat := s.codeLen c * 2 ^ 32
  let code := h.codeAdj.foldl (fun w a => BitVec.ofNat 45 (((w.toNat : Int) + a.toInt * 512) % (len : Int)).toNat) h.code
  let any := !h.carrAdj.isEmpty || !h.codeAdj.isEmpty || (due && rate != 0)
  let s := s.setCh c { h with carr := carr, code := code, carrAdj := [], codeAdj := [], adj := h.adj || any, age := if due then 0 else h.age }
  s.parBit (chIdx P.CH_STATUS c) 6 false

/-! ### Taps (R436) and scaling (R438) -/

/-- Offsets of VE, E, P, L, VL in units of 2^-32 chip. -/
def State.tapOffsets (s : State) (c : Fin 48) : List Int :=
  let d : Int := (fld (s.chPar P.CH_TAPSP c) 0 6 : BitVec 6).toNat * 2 ^ 27
  let d2 : Int := (fld (s.chPar P.CH_TAPSP c) 6 7 : BitVec 7).toNat * 2 ^ 27
  [d2, d, 0, -d, -d2]

/-- A 28-bit accumulator takes a term, holding its end value (R436): the value, and whether it saturated. -/
def accAdd (a : BitVec 28) (x : Int) : BitVec 28 × Bool :=
  let v := a.toInt + x
  if v < -(2 ^ 27) then (BitVec.ofInt 28 (-(2 ^ 27)), true)
  else if 2 ^ 27 ≤ v then (BitVec.ofInt 28 (2 ^ 27 - 1), true)
  else (BitVec.ofInt 28 v, false)

/-- One wiped-off sample enters the ten accumulators. -/
def accumulate (c : Fin 48) (re im : Int) (s : State) : State :=
  let h := s.trs.ch[c]
  let len : Int := s.codeLen c * 2 ^ 32
  let sec := s.secSign c h.sec
  let signs := (s.tapOffsets c).map (fun o => sec * s.codeSign c (((h.code.toNat : Int) + o) % len).toNat)
  let r := Vector.ofFn (fun (k : Fin 10) =>
    accAdd h.acc[k] ((signs[k.val / 2]?).getD 0 * (if k.val % 2 = 0 then re else im)))
  s.setCh c { h with acc := r.map Prod.fst, sat := h.sat || r.toList.any Prod.snd }

/-- trunc(a / 2^DSHIFT) clamped to 18 bits (R438): the value, and whether it clamped. -/
def scaleTap (a : BitVec 28) (k : Nat) : BitVec 18 × Bool :=
  let v := truncDiv a.toInt k
  if v < -131072 then (BitVec.ofInt 18 (-131072), true)
  else if 131071 < v then (BitVec.ofInt 18 131071, true)
  else (BitVec.ofInt 18 v, false)
where
  truncDiv (x : Int) (k : Nat) : Int := x.tdiv (2 ^ k)

/-- A dump or latch record of channel c (Tables TRS-2, TRS-3), and whether it saturated. -/
def TrsCh.record (h : TrsCh) (c : Fin 48) (latch : Bool) (seq : BitVec 11) (secLast : BitVec 5) (sample : Word) : Vector Word 10 × Bool :=
  let k := (fld h.intcfg 8 4 : BitVec 4).toNat
  let t := h.acc.map (fun a => scaleTap a k)
  let sat := h.sat || t.toList.any Prod.snd
  let hd : Word := BitVec.ofNat 36 c.val
  let hd := putBit (putBit (putBit (putBit (putBit (putBit hd 6 latch) 7 h.lossNext) 8 sat) 9 h.blank) 10 h.adj) 11 h.qchg
  let hd := putFld (putFld (putFld hd 12 secLast) 17 h.epochs) 25 seq
  let tap := fun (k : Fin 5) => (t[2 * k.val]).1 ++ (t[2 * k.val + 1]).1
  (#v[hd, tap 0, tap 1, tap 2, tap 3, tap 4, sample, h.codePh, h.phase.setWidth 36, h.cycles], sat)

/-! ### The dump FIFO (R441, R442) -/

def TrsItem.words : TrsItem → Nat
  | .record _ => 10
  | .result .. => 1

def State.fifoWords (s : State) : Nat := (s.trs.fifo.map TrsItem.words).sum

/-- FIFOLVL and FIFOMAX follow the FIFO (Table TRS-5). -/
def fifoLevels (s : State) : State :=
  let n := BitVec.ofNat 36 s.fifoWords
  let s := s.setPar P.TRS_FIFOLVL n
  if (s.par P.TRS_FIFOMAX).toNat < n.toNat then s.setPar P.TRS_FIFOMAX n else s

/-- An interrupt source of Trestle, if TRS.IRQEN enables it (Table TRS-5). -/
def trsIrq (bit : Nat) (s : State) : State := if (s.par P.TRS_IRQEN).getLsbD bit then s.raiseIrq (16 + bit) else s

/-- A channel record is pushed, or dropped whole without ten free words (R442). -/
def pushRecord (c : Fin 48) (r : Vector Word 10) (s : State) : State :=
  if s.fifoWords + 10 ≤ 2048 then
    let s := s.setTrs { s.trs with fifo := s.trs.fifo ++ [.record r] }
    fifoLevels (s.setCh c { s.trs.ch[c] with lossNext := false })
  else
    let o := s.par P.TRS_DUMPOVF
    let s := if o.getLsbD 0 then s else s.setPar P.TRS_DUMPOVF (putFld (putBit o 0 true) 1 (BitVec.ofNat 6 c.val))
    let s := bumpPar (chIdx P.CH_DROPCNT c) (bumpPar (P.TRS_CNT + 1) s)
    let s := (s.parBit (chIdx P.CH_STATUS c) 1 true).setCh c { s.trs.ch[c] with lossNext := true }
    trsIrq 1 s

/-- The integration of channel c has ended: the record goes to the history slot and, with RING, toward the ring (R438, R439). `secLast` is the position of
its last epoch. -/
def dumpChannel (c : Fin 48) (secLast : BitVec 5) (sample : Word) (s : State) : State :=
  let st := s.chPar P.CH_STATUS c
  let n : BitVec 24 := fld st 12 24 + 1
  let h := s.trs.ch[c]
  let r := h.record c false (fld n 0 11) secLast sample
  let slot := ((s.chPar P.CH_HISTIDX c).toNat + 1) % 3
  let s := (List.finRange 10).foldl (fun s k => s.setPar (chIdx P.CH_HIST0 c + 10 * slot + k.val) r.1[k]) s
  let s := s.setPar (chIdx P.CH_HISTIDX c) (BitVec.ofNat 36 slot)
  let st := putFld (putBit st 0 true) 12 n
  let st := if r.2 then putBit st 2 true else st
  let st := if h.blank then putBit st 4 true else st
  let s := s.setPar (chIdx P.CH_STATUS c) st
  let s := if r.2 then bumpPar (chIdx P.CH_SATCNT c) s else s
  let s := s.setPar (P.TRS_CHLAST + c.val) sample
  let s := s.setTrs { s.trs with dumped := putBit s.trs.dumped c.val true }
  let s := if (s.chPar P.CH_CTL c).getLsbD 2 then pushRecord c r.1 s else s
  s.setCh c { s.trs.ch[c] with ended := true }

/-- The next integration starts where the last one has ended: the accumulators clear and INTCFG is taken (R437, R438). -/
def startIntegration (c : Fin 48) (s : State) : State :=
  let h := s.trs.ch[c]
  if h.ended then
    s.setCh c { h with ended := false, acc := Vector.replicate 10 0, epochs := 0, adj := false, qchg := false, blank := false, sat := false,
                       intcfg := fld (s.chPar P.CH_INTCFG c) 0 12 }
  else s

/-- The secondary position after an epoch (R432): a written POS, or one further, held modulo SECLEN so that p mod L goes on by one whatever p was. -/
def nextSec (h : TrsCh) (secLen : Nat) : BitVec 5 :=
  match h.secNext with
  | some p => p
  | none => if secLen = 0 then h.sec + 1 else BitVec.ofNat 5 ((h.sec.toNat + 1) % secLen)

/-- One sample of an enabled channel (R433-R437). A shift that has changed before the first sample of an integration has not changed during it (R461). -/
def channelSample (c : Fin 48) (xi xq : Int) (blank qchg : Bool) (sample : Word) (s : State) : State :=
  let qchg := qchg && !s.trs.ch[c].ended && s.trs.ch[c].age != 0
  let s := applyAdjust c (startIntegration c s)
  let h := s.trs.ch[c]
  let s := s.setCh c { h with blank := h.blank || blank, qchg := h.qchg || qchg, age := h.age + 1, secAt := h.sec }
  let m := if blank then (0, 0) else mix xi xq h.phase
  let s := accumulate c m.1 m.2 s
  let h := s.trs.ch[c]
  let f : BitVec 32 := fld (s.chPar P.CH_CARRFREQ c) 0 32
  let code := h.code.toNat + (fld (s.chPar P.CH_CODEFREQ c) 0 32 : BitVec 32).toNat
  let len : Nat := s.codeLen c * 2 ^ 32
  let carr := h.carr + f.signExtend 68
  if code < len then s.setCh c { h with carr := carr, code := BitVec.ofNat 45 code }
  else
    let secLast := h.sec
    let h := { h with carr := carr, code := BitVec.ofNat 45 (code - len), epochs := h.epochs + 1, secNext := none,
                      sec := nextSec h (fld (s.chPar P.CH_SECCFG c) 0 6 : BitVec 6).toNat }
    let s := bumpPar (chIdx P.CH_EPOCHCNT c) (s.setCh c h)
    if h.epochs = fld h.intcfg 0 8 then dumpChannel c secLast sample s else s

/-! ### Samples (R427, R428) -/

/-- The level 2q + 1 of a value, q = floor(x / 2^S) clamped to −4…3 (R428), and its level index 0-7. -/
def quantise (x : BitVec 8) (sh : Nat) : Int × Nat :=
  let q := x.toInt / 2 ^ sh
  let q := if q < -4 then -4 else if 3 < q then 3 else q
  (2 * q + 1, (q + 4).toNat)

/-- An input is blanked (R362, R427): the main receiver outside an open wideband window or in the diversity measurement; the L1 path without L1RDY and
always in the OZ-3648-LQ. -/
def State.inputBlank (s : State) (input : Nat) : Bool :=
  if input = 0 then
    !(decide (s.radioState = rsRx) && decide ((fld s.radio.rxcfg 0 2 : BitVec 2) = 3) && s.radio.rxcfg.getLsbD 2 && !s.radio.meas && !s.radioFault)
  else !((s.par P.PWR_STATUS).getLsbD 6) || decide (s.pwr.package = .lq)

/-- The shift of an input at this sample (R428): SHIFT with AUTO = 0, otherwise the one in force. -/
def State.shiftOf (s : State) (i : Fin 2) : BitVec 3 :=
  let q := s.par (P.TRS_QCFG + i.val)
  if q.getLsbD 3 then s.trs.shift[i] else fld q 0 3

/-- The shifts of a sample: QSTAT shows them, and a change since the last sample is counted in CNT8 (R428, Table TRS-5). -/
def setShifts (sh : Vector (BitVec 3) 2) (s : State) : State :=
  let changed := (List.finRange 2).filter (fun i => decide (sh[i] ≠ s.trs.used[i]))
  let s := changed.foldl (fun s _ => bumpPar (P.TRS_CNT + 8) s) s
  (s.setTrs { s.trs with shift := sh, used := sh }).setPar P.TRS_QSTAT (putFld ((sh[0]).setWidth 36) 3 sh[1])

/-- The automatic quantiser at the end of a block (R428): above 3,250 values of magnitude 7 S rises, below 208 it falls. -/
def autoShift (sh : BitVec 3) (ends : Nat) : BitVec 3 :=
  if 3250 < ends ∧ sh.toNat < 5 then sh + 1 else if ends < 208 ∧ sh ≠ 0 then sh - 1 else sh

/-- A block of 26,000 samples ends: QHIST, and with AUTO = 1 the shift that applies from the next sample (R428). -/
def blockEnd (s : State) : State :=
  let s := (List.finRange 16).foldl (fun s k => s.setPar (P.TRS_QHIST + k.val) ((s.trs.counts[k]).setWidth 36)) s
  let sh := Vector.ofFn (fun (i : Fin 2) =>
    if (s.par (P.TRS_QCFG + i.val)).getLsbD 3 then
      autoShift s.trs.shift[i] ((s.trs.counts[8 * i.val]).toNat + (s.trs.counts[8 * i.val + 7]).toNat)
    else s.trs.shift[i])
  s.setTrs { s.trs with shift := sh, blockPos := 0, counts := Vector.replicate 16 0 }

/-- Samples a capture takes by SCFG (R448). -/
def capLen (scfg : Word) : Nat := ((fld scfg 7 2 : BitVec 2).toNat + 1) * 26000

/-- The state of the search engine (Table TRS-5, SSTATUS). -/
def State.searchState (s : State) : BitVec 2 := fld (s.par P.TRS_SSTATUS) 0 2
def setSearch (v : BitVec 2) (s : State) : State := s.setPar P.TRS_SSTATUS (putFld (s.par P.TRS_SSTATUS) 0 v)

/-- A pass starts: results of an earlier one that still wait in the FIFO are written, but not counted in this one (R448-R451). -/
def beginPass (s : State) : State :=
  let old := s.trs.fifo.map (fun e => match e with
    | .result h a add v _ => TrsItem.result h a add v false
    | r => r)
  setSearch 2 (s.setTrs { s.trs with fifo := old, nextH := 0, doneH := 0, abortAt := none, vals := [] })

/-- The channel whose code a pass uses; a number above 47 names none. -/
def State.searchCh (s : State) : Option (Fin 48) :=
  let n := (fld (s.par P.TRS_SCFG) 0 6 : BitVec 6).toNat
  if h : n < 48 then some ⟨n, h⟩ else none

def searchReject (s : State) : State := s.parBit P.TRS_SSTATUS 3 true

/-- A pass starts with the code of its channel, or is refused with that channel's CFGERR (R430); with a number that names none it is refused with CMDREJ (log 40). -/
def startPass (s : State) : State :=
  match s.searchCh with
  | none => searchReject s
  | some c => if s.codeBad c then s.parBit (chIdx P.CH_STATUS c) 3 true else beginPass s

/-- One captured sample (R448); a blanked one is kept as 0. The last one ends the capture, and the pass starts, or is refused and the engine idles (R430). -/
def captureSample (xi xq : Int) (blank : Bool) (sample : Word) (s : State) : State :=
  if s.searchState = 1 then
    let s := if s.trs.cap.isEmpty then s.setPar P.TRS_SCAPSAMP sample else s
    let v : BitVec 4 × BitVec 4 := if blank then (0, 0) else (BitVec.ofInt 4 xi, BitVec.ofInt 4 xq)
    let s := s.setTrs { s.trs with cap := s.trs.cap ++ [v] }
    let s := if blank then s.parBit P.TRS_SSTATUS 4 true else s
    if s.trs.cap.length = s.trs.capEnd then
      startPass (setSearch 0 (bumpPar (P.TRS_CNT + 6) (s.setTrs { s.trs with capValid := true })))
    else s
  else s

/-- A value at an end of the range: the sample counts as clipped (R363; log 89). -/
def clipped (x : BitVec 8) : Bool := x == 0x7F || x == 0x80

/-- SYNTH.L1CLIP counts a clipped sample of the L1 path, whether Trestle runs or not (R363). -/
def countClip (x : Smp) (s : State) : State :=
  if !s.inputBlank 1 && (clipped x.i1 || clipped x.q1) then bumpPar P.SYNTH_L1CLIP s else s

/-- One sample period: SAMPCNT, the quantisers, the clip count of the L1 path, the capture and every enabled channel (R363, R427-R437). -/
def sampleStep (x : Smp) (s : State) : State :=
  let sample := s.par P.TRS_SAMPCNT + 1
  let s := s.setPar P.TRS_SAMPCNT sample
  let sh := Vector.ofFn (fun (i : Fin 2) => s.shiftOf i)
  let chg := Vector.ofFn (fun (i : Fin 2) => decide (sh[i] ≠ s.trs.used[i]))
  let s := setShifts sh s
  let bl := #v[s.inputBlank 0, s.inputBlank 1]
  let raw := #v[x.i0, x.q0, x.i1, x.q1]
  let lev := Vector.ofFn (fun (k : Fin 4) =>
    let b := if k.val < 2 then bl[0] else bl[1]
    quantise (if b then 0 else raw[k]) (if k.val < 2 then sh[0] else sh[1]).toNat)
  let counts := (List.finRange 4).foldl (fun (cs : Vector (BitVec 17) 16) k =>
    let j : Fin 16 := Fin.ofNat 16 (8 * (k.val / 2) + (lev[k]).2)
    cs.set j (cs[j] + 1)) s.trs.counts
  let s := s.setTrs { s.trs with counts := counts, blockPos := s.trs.blockPos + 1 }
  let s := if bl[0] then bumpPar (P.TRS_CNT + 9) s else s
  let s := if bl[1] then bumpPar (P.TRS_CNT + 9) s else s
  let s := countClip x s
  let si := s.trs.capInp
  let s := captureSample (if si then (lev[2]).1 else (lev[0]).1) (if si then (lev[3]).1 else (lev[1]).1) (if si then bl[1] else bl[0]) sample s
  let s := (List.finRange 48).foldl (fun s c =>
    if s.chEnabled c then
      let one := (s.chPar P.CH_CTL c).getLsbD 1
      channelSample c (if one then (lev[2]).1 else (lev[0]).1) (if one then (lev[3]).1 else (lev[1]).1) (if one then bl[1] else bl[0])
        (if one then chg[1] else chg[0]) sample s
    else s) s
  if s.trs.blockPos = 26000 then blockEnd s else s

/-- A run of samples while Trestle runs. -/
def runSamples (xs : List Smp) (s : State) : State := xs.foldl (fun s x => sampleStep x s) s

/-- The samples before a command that looks at Trestle between two of its events; while only the L1 path runs, they count in L1CLIP (R363). -/
def samplesUpTo (xs : List Smp) (s : State) : State :=
  if s.trsRuns then runSamples xs s else if s.refRuns then xs.foldl (fun s x => countClip x s) s else s

/-- The samples of a command up to but not including its last, and whether the last one satisfies `ev` between the states around it: the command takes
place at its last sample, or not at all (log 40). -/
def atSample (xs : List Smp) (ev : State → State → Bool) (s : State) : State :=
  if s.trsRuns && !xs.isEmpty then
    let a := runSamples xs.dropLast s
    let b := runSamples xs s
    if ev a b then b else s
  else s

/-- Channel c dumped between two states. -/
def dumpedBetween (c : Fin 48) (a b : State) : Bool :=
  decide ((fld (a.chPar P.CH_STATUS c) 12 24 : BitVec 24) ≠ fld (b.chPar P.CH_STATUS c) 12 24)

/-- CARRRATE was applied at the sample between two states. -/
def ratedBetween (c : Fin 48) (a : State) : Bool := a.chEnabled c && decide (a.trs.ch[c].age = 26000)

/-! ### Channel control (R447) -/

/-- The state of a channel at its enabling sample (R447). -/
def freshChannel (intcfg : BitVec 12) : TrsCh :=
  { carr := 0, code := 0, sec := 0, secNext := none, acc := Vector.replicate 10 0, age := 0, intcfg := intcfg, epochs := 0, ended := false, secAt := 0,
    carrAdj := [], codeAdj := [], adj := false, qchg := false, blank := false, sat := false, lossNext := false }

/-- The enable is refused with CFGERR (R430, R431, R436). -/
def State.enableBad (s : State) (c : Fin 48) : Bool := s.codeBad c || s.tapsBad c

/-- A channel is enabled (R447); its shell has refused a bad configuration. A record dropped before still marks the next one that enters the FIFO (R442). -/
def enableChannel (c : Fin 48) (s : State) : State :=
  let s := s.parBit (chIdx P.CH_CTL c) 0 true
  let s := s.setPar (chIdx P.CH_EPOCHCNT c) 0
  let s := s.parBit (chIdx P.CH_STATUS c) 6 false
  s.setCh c { freshChannel (fld (s.chPar P.CH_INTCFG c) 0 12) with lossNext := s.trs.ch[c].lossNext }

/-- A channel stops and drops its integration (R447). -/
def disableChannel (c : Fin 48) (s : State) : State :=
  (s.parBit (chIdx P.CH_CTL c) 0 false).setCh c { s.trs.ch[c] with acc := Vector.replicate 10 0, epochs := 0, ended := false }

/-- Every marked channel that is not enabled is enabled at one sample (R447). -/
def startChannels (marks : BitVec 48) (s : State) : State :=
  (List.finRange 48).foldl (fun s c => if marks.getLsbD c.val && !s.chEnabled c then enableChannel c s else s) s

/-- CHENLO and CHENHI (R447). -/
def State.chEnables (s : State) : BitVec 48 :=
  (List.finRange 48).foldl (fun w c => putBit w c.val (s.chEnabled c)) (0 : BitVec 48)

/-- A read of CH.CODENOW captures CODENOW, CARRNOW and CYCNOW (R452). -/
def captureChannel (c : Fin 48) (s : State) : State :=
  let h := s.trs.ch[c]
  ((s.setPar (chIdx P.CH_CODENOW c) h.codePh).setPar (chIdx P.CH_CARRNOW c) (h.phase.setWidth 36)).setPar (chIdx P.CH_CYCNOW c) h.cycles

/-! ### Epoch latch (R97, R444, R445) -/

/-- One enabled channel copies its state into its latch words; any other has them 0 (R444). -/
def latchChannel (seq : BitVec 11) (sample : Word) (c : Fin 48) (s : State) : State :=
  if s.chEnabled c then
    let h := s.trs.ch[c]
    let r := (h.record c true seq h.secAt sample).1
    let s := (List.finRange 10).foldl (fun s k => s.setPar (chIdx P.CH_LATCH0 c + k.val) r[k]) s
    if (s.par P.TRS_CTL).getLsbD 0 && (s.chPar P.CH_CTL c).getLsbD 2 then pushRecord c r s else s
  else (List.range 10).foldl (fun s k => s.setPar (chIdx P.CH_LATCH0 c + k) 0) s

/-- The freezing edge in Trestle: LATCHCNT, VALID, PHASE and LATCHSAMP, and every channel (R444, R445). -/
def trsLatch (phase : BitVec 2) (s : State) : State :=
  let v := s.par P.TRS_LATCHSTAT
  let n : BitVec 24 := fld v 12 24 + 1
  let s := s.setPar P.TRS_LATCHSTAT (putFld (putFld (putBit v 0 true) 1 phase) 12 n)
  let sample := s.par P.TRS_SAMPCNT
  let s := bumpPar (P.TRS_CNT + 4) (s.setPar P.TRS_LATCHSAMP sample)
  (List.finRange 48).foldl (fun s c => latchChannel (fld n 0 11) sample c s) s

/-- The oldest epoch latch whose freezing edge has come (R97, R459): TIME.EPOCHS and EPOCHF take the store time of that edge, and Trestle latches if it is
powered. Two epoch targets whose fire cycles lead to one freezing edge latch twice, each an entry of its own: R97 does not say, and this is the model's choice
(log 95). -/
def epochLatch (phase : BitVec 2) (s : State) : State :=
  match s.time.epochs with
  | { edge := _, time := some v } :: rest =>
    let s := s.setPar P.TIME_EPOCHF ((fld v 0 32 : BitVec 32).setWidth 36)
    let s := s.setPar P.TIME_EPOCHS ((fld v 32 32 : BitVec 32).setWidth 36)
    let s := { s with time := { s.time with epochs := rest } }
    if s.trsRuns then trsLatch phase s else s
  | _ => s

/-! ### The dump writer (R440-R443) -/

/-- The dump writer as an accessor: domain 1 (Table DMA-1). -/
def dumpAcc : Accessor := { master := .host, dom := 1, prv := false }

/-- The ring is full: (WP + 1) mod DUMPLEN = RP; a ring of fewer than two records never has room (R440). -/
def State.ringFull (s : State) : Bool :=
  let n := (s.par P.TRS_DUMPLEN).toNat
  decide (n < 2) || decide (((s.par P.TRS_DUMPWP).toNat + 1) % n = (s.par P.TRS_DUMPRP).toNat)

/-- A refused or discarded access of the writer: DWFAULT (R443, R450). -/
def dwFault (a : Addr) (kind : BitVec 3) (s : State) : State :=
  s.setPar P.TRS_DWFAULT (putBit (putFld (a.setWidth 36) 24 kind) 35 true)

/-- A word the writer may not write (R443): outside data SRAM or refused by domain 1's regions. -/
def State.dwRefused (s : State) (a : Addr) (need : Need) : Bool :=
  decide (0x040000 ≤ a.toNat) || (s.regionFail dumpAcc spData a need).isSome

/-- The writer's access meets an arch that is not READY (Table MEM-5). -/
def State.dwAsleep (s : State) (a : Addr) : Bool := s.asleep (archOf (fld a 0 18))

def popFifo (s : State) : State := fifoLevels (s.setTrs { s.trs with fifo := s.trs.fifo.drop 1 })

/-- The dump writer writes the record at the head of the FIFO: words 1-9, then word 0, then DUMPWP (R441-R443). Without power in the TRESTLE region, whose
shell holds the ring's parameters, the records wait (R426). -/
def dumpWrite (s : State) : State :=
  match s.trs.fifo with
  | .record r :: _ =>
    if !s.trsPowered then s
    else if s.ringFull then
      let s := s.parBit P.TRS_STATUS 0 true
      if s.trs.ringWait then s else bumpPar (P.TRS_CNT + 7) (s.setTrs { s.trs with ringWait := true })
    else
      let s := s.setTrs { s.trs with ringWait := false }
      let wp := (s.par P.TRS_DUMPWP).toNat
      let b : Addr := fld (s.par P.TRS_DUMPBASE) 0 24 + BitVec.ofNat 24 (10 * wp)
      let at' := fun (k : Nat) => b + BitVec.ofNat 24 k
      match (List.range 10).find? (fun k => s.dwRefused (at' k) .w) with
      | some k =>
        let s := noteViol 2 1 (at' k) true (popFifo s)
        bumpPar (P.TRS_CNT + 2) (dwFault (at' k) 1 (s.parBit P.TRS_STATUS 1 true))
      | none =>
        if (List.range 10).any (fun k => s.dwAsleep (at' k)) then (s.parBit P.TRS_STATUS 2 true).parBit P.MEM_STATUS 3 true
        else
          let s := [1, 2, 3, 4, 5, 6, 7, 8, 9, 0].foldl (fun s (k : Fin 10) => sramWrite (fld (at' k.val) 0 18) r[k] (busGrant waitDump (fld (at' k.val) 0 18) s)) s
          let s := popFifo (s.setPar P.TRS_DUMPWP (BitVec.ofNat 36 ((wp + 1) % (s.par P.TRS_DUMPLEN).toNat)))
          let s := bumpPar P.TRS_CNT s
          let n : BitVec 8 := fld (s.par P.TRS_DUMPIRQ) 0 8
          let k := s.trs.sinceIrq + 1
          if n ≠ 0 ∧ n.toNat ≤ k.toNat then trsIrq 0 (s.setTrs { s.trs with sinceIrq := 0 })
          else s.setTrs { s.trs with sinceIrq := k }
  | _ => s

/-! ### The search engine (R448-R451) -/

/-- An aborted pass whose results are all dealt with is idle (R448). -/
def endAbort (s : State) : State :=
  if s.trs.abortAt = some s.trs.doneH then setSearch 0 (s.setTrs { s.trs with abortAt := none }) else s

/-- TRS.SCMD (R448): 1 captures and runs a pass, 2 runs a pass on the captured samples, 3 aborts. A bad code refuses the pass and no capture (R430). -/
def searchCommand (cmd : Nat) (scfg : Word) (s : State) : State :=
  match cmd with
  | 1 => if s.searchState ≠ 0 then searchReject s
    else setSearch 1 (s.setTrs { s.trs with cap := [], capValid := false, capEnd := capLen scfg, capInp := scfg.getLsbD 6 })
  | 2 => if s.searchState ≠ 0 || !s.trs.capValid then searchReject s
    else startPass s
  | 3 =>
    if s.searchState = 1 then setSearch 0 s
    else if s.searchState = 0 then s
    else endAbort (s.setTrs { s.trs with abortAt := some (BitVec.ofNat 13 ((s.trs.nextH.toNat + 255) / 256 * 256)) })
  | _ => s

/-- The start code phase of hypothesis h, in units of 2^-32 chip (R449). -/
def State.hypoPhase (s : State) (c : Fin 48) (h : Nat) : Nat :=
  let step := 2 ^ (29 + (fld (s.par P.TRS_SCFG) 10 2 : BitVec 2).toNat)
  ((s.par P.TRS_SSTART).toNat * 512 + h * step) % (s.codeLen c * 2 ^ 32)

/-- The sums re_h and im_h over the captured samples (R449). -/
def State.hypoSums (s : State) (c : Fin 48) : List (BitVec 4 × BitVec 4) → BitVec 32 → Nat → Int → Int → Int × Int
  | [], _, _, re, im => (re, im)
  | (i, q) :: rest, phi, code, re, im =>
    let m := mix i.toInt q.toInt phi
    let g := s.codeSign c code
    s.hypoSums c rest (phi + fld (s.par P.TRS_SCARR) 0 32)
      ((code + (fld (s.par P.TRS_SCODEF) 0 32 : BitVec 32).toNat) % (s.codeLen c * 2 ^ 32)) (re + g * m.1) (im + g * m.2)

/-- P_h (R449). -/
def State.hypothesis (s : State) (c : Fin 48) (h : Nat) : Word :=
  let r := s.hypoSums c s.trs.cap 0 (s.hypoPhase c h) 0 0
  let v := (r.1 * r.1 + r.2 * r.2).toNat / 2 ^ (s.par P.TRS_SPSHIFT).toNat
  if v < 2 ^ 36 then BitVec.ofNat 36 v else BitVec.allOnes 36

/-- The engine pushes its next result while at least 512 words stay free (R451); an abort stops at its group (R448). -/
def pushResult (s : State) : State :=
  if s.searchState = 2 || s.searchState = 3 then
    if s.trs.abortAt = some s.trs.nextH then s
    else
      match s.searchCh with
      | some c =>
        if s.trs.nextH.toNat < 4096 ∧ s.fifoWords + 1 + 512 ≤ 2048 then
          let h := s.trs.nextH
          let v := s.hypothesis c h.toNat
          let a : Addr := fld (s.par P.TRS_SRESBASE) 0 24 + h.setWidth 24
          let e := TrsItem.result (fld h 0 12) a ((s.par P.TRS_SCFG).getLsbD 9) v true
          fifoLevels (setSearch 3 (s.setTrs { s.trs with fifo := s.trs.fifo ++ [e], nextH := h + 1 }))
        else s
      | none => s
  else s

/-- The result at the head of the FIFO is written or added through the dump writer (R450): a refused word or an add on a poisoned word leaves its hypothesis
out. Without power in the region it waits as records do. -/
def writeResult (s : State) : State :=
  match s.trs.fifo with
  | .result h a acc v live :: _ =>
    let done := fun (s : State) =>
      if live then endAbort ((popFifo s).setTrs { (popFifo s).trs with doneH := s.trs.doneH + 1 }) else popFifo s
    let keep := fun (w : Word) (s : State) => if live then s.setTrs { s.trs with vals := SMap.insert s.trs.vals h.toNat w } else s
    if !s.trsPowered then s
    else if s.dwRefused a (if acc then .rw else .w) then
      done (bumpPar (P.TRS_CNT + 2) (dwFault a 1 (noteViol 2 1 a true (s.parBit P.TRS_STATUS 1 true))))
    else if s.dwAsleep a then (s.parBit P.TRS_STATUS 2 true).parBit P.MEM_STATUS 3 true
    else if acc then
      match sramAtomic finDump (fld a 0 18) (fun w => w + v) (busGrant waitDump (fld a 0 18) s) with
      | (none, s) => done (bumpPar (P.TRS_CNT + 3) (dwFault a 2 (s.parBit P.MEM_STATUS 6 true)))
      | (some old, s) => done (keep (old + v) s)
    else done (keep v (sramWrite (fld a 0 18) v (busGrant waitDump (fld a 0 18) s)))
  | _ => s

/-- Insert a (hypothesis, value) into a list ordered by falling value, equal values by rising hypothesis. -/
def insertPeak (e : Nat × Word) : List (Nat × Word) → List (Nat × Word)
  | [] => [e]
  | x :: xs => if x.2.toNat < e.2.toNat then e :: x :: xs else x :: insertPeak e xs

/-- The values of the map, largest first. -/
def sortPeaks (m : SMap Word) : List (Nat × Word) := m.foldl (fun l e => insertPeak e l) []

/-- The hypothesis lies outside h ± 2, taken cyclically over 4,096 (R450). -/
def farFrom (h k : Nat) : Bool := decide (2 < (k + 4096 - h) % 4096) && decide (2 < (h + 4096 - k) % 4096)

/-- The pass completes when its last result has been written (R450, R451). Where refused words left too few values in the map, the results that are not
stated are free (log 40). -/
def passDone (s : State) : State :=
  if s.trsRuns && s.searchState = 3 && s.trs.doneH = 4096 && s.trs.abortAt.isNone then
    let l := sortPeaks s.trs.vals
    let s := drawPars P.TRS_SPK 16 (drawPars P.TRS_SPEAK 4 s)
    let s := match l with
      | [] => s.setPar P.TRS_SPEAKIDX (s.par P.TRS_SPEAKIDX &&& 0xFFFFFF)
      | p :: _ =>
        let sum := (l.map (fun e => e.2.toNat)).sum
        let s := (s.setPar P.TRS_SPEAK p.2).setPar P.TRS_SMEAN (BitVec.ofNat 36 (sum / l.length))
        let far := l.find? (fun e => farFrom p.1 e.1)
        let k2 : BitVec 12 := match far with
          | some e => BitVec.ofNat 12 e.1
          | none => fld (s.par P.TRS_SPEAKIDX) 12 12
        let s := s.setPar P.TRS_SPEAKIDX (putFld (BitVec.ofNat 36 p.1) 12 k2)
        match far with
        | some e => s.setPar P.TRS_SPEAK2 e.2
        | none => s
    let s := (l.take 16).zip (List.range 16) |>.foldl (fun s x => s.setPar (P.TRS_SPK + x.2) (putFld x.1.2 0 (BitVec.ofNat 12 x.1.1))) s
    let s := bumpPar (P.TRS_CNT + 5) (bumpPar P.TRS_SPASSCNT s)
    let s := (setSearch 0 s).parBit P.TRS_SSTATUS 2 true
    trsIrq 2 { s with lines := putBit s.lines 9 true }
  else s

/-! ### Code memory, power and REF (R426, R431, R458, R460) -/

/-- A CMDATA write hits a block that an enabled channel or a running pass uses (R431). -/
def State.blockInUse (s : State) (blk : Nat) : Bool :=
  let uses := fun (c : Fin 48) => (s.chPar P.CH_CODECFG c).getLsbD 0 && decide ((fld (s.chPar P.CH_CODECFG c) 15 5 : BitVec 5).toNat = blk)
  (List.finRange 48).any (fun c => s.chEnabled c && uses c)
    || (decide (2 ≤ s.searchState.toNat) && (match s.searchCh with | some c => uses c | none => false))

/-- A word of 32 chips enters code memory (R431). -/
def loadCode (a : BitVec 12) (v : BitVec 32) (s : State) : State := s.setTrs { s.trs with codeMem := SMap.put s.trs.codeMem a.toNat 0 v }

/-- The region loses power: its parameters take their S: values (R76, R426). What is already in the dump FIFO stays, at the CORE boundary. -/
def trsOff (s : State) : State :=
  let f := s.trs.fifo
  (resetPars 0x0F00 0x0F08 (resetPars 0x0F08 0x1C00 s)).setTrs { TrsSt.init with fifo := f }

/-- The region gains power: its shell comes up with S: values (R76, R426). -/
def trsOn (s : State) : State := fifoLevels (trsOff s)

/-- What Trestle's logic does at a request (R432, R435, R447, R448). -/
def doRequest (r : TrsReq) (s : State) : State :=
  match r with
  | .enable c _ on => if on then (if s.chEnabled c then s else enableChannel c s) else if s.chEnabled c then disableChannel c s else s
  | .start marks _ => startChannels marks s
  | .search cmd scfg => searchCommand cmd.toNat scfg s
  | .code a v => loadCode a v s
  | .adjust c carr v =>
    let h := s.trs.ch[c]
    (s.setCh c (if carr then { h with carrAdj := h.carrAdj ++ [v] } else { h with codeAdj := h.codeAdj ++ [v] })).parBit (chIdx P.CH_STATUS c) 6 true
  | .secPos c p => s.setCh c { s.trs.ch[c] with secNext := some p }
  | .aid c d => addCodeFreq c d s
  | .codeFreq c v => s.setPar (chIdx P.CH_CODEFREQ c) (v.setWidth 36)

/-- CTL.EN of the marked channels as the shell holds it. -/
def showEnables (marks on : BitVec 48) (s : State) : State :=
  (List.finRange 48).foldl (fun s c => if marks.getLsbD c.val then s.parBit (chIdx P.CH_CTL c) 0 (on.getLsbD c.val) else s) s

/-- The shell holds CTL.EN from the latch, also while the logic waits for its clock (R50, R447). -/
def showRequest (r : TrsReq) (s : State) : State :=
  match r with
  | .enable c _ on => s.parBit (chIdx P.CH_CTL c) 0 on
  | .start marks _ => showEnables marks (-1) s
  | _ => s

/-- CTL.EN as it was before a request that waits. -/
def hideRequest (r : TrsReq) (s : State) : State :=
  match r with
  | .enable c was _ => s.parBit (chIdx P.CH_CTL c) 0 was
  | .start marks was => showEnables marks was s
  | _ => s

/-- A request that the shell has latched takes effect at Trestle's next clock edge: at once, or when a stopped clock restarts (R50, R76). -/
def trsRequest (r : TrsReq) (s : State) : State :=
  if s.trsRuns then doRequest r s else showRequest r (s.setTrs { s.trs with late := s.trs.late ++ [r] })

/-- TRS.CMDATA: the word goes to the address that CMADDR holds at the latch, and CMADDR advances there; the memory takes it at Trestle's next clock edge (R50). -/
def codeWrite (v : BitVec 32) (s : State) : State :=
  let a : BitVec 12 := fld (s.par P.TRS_CMADDR) 0 12
  trsRequest (.code a v) (s.setPar P.TRS_CMADDR ((a + 1).setWidth 36))

/-- REF is lost: Trestle's clock stops (R458). -/
def trsRefLost (s : State) : State := if s.trsPowered then s.setTrs { s.trs with refLost := true } else s

/-- The return of REF (R458): every channel has EN cleared and REFLOST set, the search engine is idle without capture. -/
def trsReturn (s : State) : State :=
  let s := (List.finRange 48).foldl (fun s c => (disableChannel c s).parBit (chIdx P.CH_STATUS c) 5 true) s
  let s := setSearch 0 (s.setTrs { s.trs with cap := [], capValid := false, abortAt := none, refLost := false })
  s.parBit P.TRS_STATUS 3 true

/-- The requests latched while the clock was stopped take effect, oldest first (R51, R76). -/
def trsReplay (s : State) : State := s.trs.late.foldl (fun s r => doRequest r s) (s.setTrs { s.trs with late := [] })

/-- They take effect on the channels as these stood before the first of them. -/
def trsLate (s : State) : State := trsReplay (s.trs.late.foldr hideRequest s)

/-- REF locks: samples and blocks are counted from here (R427, R428), after a loss R458 applies, and the requests latched meanwhile take effect. Which of the
two comes first is not stated: a free choice (log 40). -/
def trsRefLock (s : State) : State :=
  let s := (s.setPar P.TRS_SAMPCNT 0).setTrs { s.trs with blockPos := 0, counts := Vector.replicate 16 0 }
  if !s.trs.refLost then trsLate s
  else if s.trs.late.isEmpty then trsReturn s
  else if Config.freeBool (s.freeCtr * 128) then trsReturn (trsLate s.drawn)
  else trsReplay (trsReturn s.drawn)

/-- Entry to mode 0, 1 or 2 (R426, R460): records in the FIFO are discarded and counted, channels stop, the search engine is idle. An enable or a search
that waited for the clock ends with them; what else the shell has latched waits there for the clock, CHSTARTHI is kept, and a REF loss from which REF has not
returned is not forgotten (R50, R76, R458). The shift of the last sample, which QSTAT still shows, is what CNT8 counts the next change from (R453). -/
def trsModeEntry (s : State) : State :=
  let n := (s.trs.fifo.filter (fun e => match e with | .record _ => true | .result .. => false)).length
  let s := s.setPar (P.TRS_CNT + 1) (s.par (P.TRS_CNT + 1) + BitVec.ofNat 36 n)
  let s := (List.finRange 48).foldl (fun s c => s.parBit (chIdx P.CH_CTL c) 0 false) s
  let s := setSearch 0 s
  let m := s.trs.codeMem
  let d := s.trs.dumped
  let u := s.trs.used
  let late := s.trs.late.filter (fun r => match r with | .enable .. => false | .start .. => false | .search .. => false | _ => true)
  let hi := s.trs.chHi
  let lost := s.trs.refLost
  fifoLevels (s.setTrs { TrsSt.init with codeMem := m, dumped := d, used := u, late := late, chHi := hi, refLost := lost })

end Sys2Proof.Machine
end

