-- ==== Sys2Proof/Machine/DmaCtl.lean ====
section
/-!
DEFINITION. Sys2Proof/Machine/DmaCtl.lean: DMA channels outside their elements (10 R329-R341): descriptors, starts, requests, faults, abort and resume, and
revocation (R342-R344).
-/

namespace Sys2Proof.Machine

/-- The index of a channel parameter (R349). -/
def dmaIdx (base : Nat) (c : Fin 16) : Nat := base + 16 * c.val
def State.dmaPar (s : State) (base : Nat) (c : Fin 16) : Word := s.par (dmaIdx base c)
def State.setDmaPar (s : State) (base : Nat) (c : Fin 16) (v : Word) : State := s.setPar (dmaIdx base c) v
def State.setDma (s : State) (c : Fin 16) (d : DmaSt) : State := { s with dma := s.dma.set c d }

/-- STATE (Table DMA-14). -/
def dIdle : BitVec 3 := 0
def dRun : BitVec 3 := 1
def dWait : BitVec 3 := 2
def dFault : BitVec 3 := 3
def dAborting : BitVec 3 := 4

def State.dmaState (s : State) (c : Fin 16) : BitVec 3 := fld (s.dmaPar P.DMA_STATUS c) 0 3
def setDmaState (c : Fin 16) (v : BitVec 3) (s : State) : State := s.setDmaPar P.DMA_STATUS c (putFld (s.dmaPar P.DMA_STATUS c) 0 v)
def setDmaStatus (c : Fin 16) (bit : Nat) (s : State) : State := s.parBit (dmaIdx P.DMA_STATUS c) bit true

def State.dmaOwner (s : State) (c : Fin 16) : Dom := fld (s.dmaPar P.DMA_CTL c) 0 4

/-- The accessor of a channel: its owner domain, without privilege (Table DMA-1, R329). -/
def State.dmaAcc (s : State) (c : Fin 16) : Accessor := { master := .dma c, dom := s.dmaOwner c, prv := false }

/-! ### Descriptors -/

/-- A descriptor is refused with code 8 (R330): reserved bits, ICNT 0, PACE 3, or ATOMIC with an ESIZE other than word. -/
def DmaSt.descBad (d : DmaSt) : Bool :=
  let w := elemWidth d.esize
  decide (d.desc[0] >>> 8 ≠ 0) || (d.desc[0]).getLsbD 3 || d.pace == 3 || decide (2 ^ w ≤ (d.desc[1]).toNat) || decide (2 ^ w ≤ (d.desc[2]).toNat)
    || decide (2 ^ 24 ≤ (d.desc[6]).toNat) || decide (d.icnt = 0) || (d.atomic && decide (d.esize ≠ 2))

/-! ### Faults (R339) -/

/-- The parameter descriptor's DPTR and its FADDR. -/
def paramDesc : Addr := 0xFFFFFF#24
def State.dptr (s : State) (c : Fin 16) : Addr := fld (s.dmaPar P.DMA_DPTR c) 0 24
def State.descAddr (s : State) (c : Fin 16) : Addr :=
  if s.dma[c].param then 0x400A06#24 + BitVec.ofNat 24 (16 * c.val) else s.dptr c

def phaseCode : DmaPhase → BitVec 2
  | .source => 0
  | .dest => 1
  | .descriptor => 2

/-- CURSRC and CURDST show the element in execution. -/
def showElem (c : Fin 16) (s : State) : State :=
  let d := s.dma[c]
  (s.setDmaPar P.DMA_CURSRC c (BitVec.ofNat 36 (d.elemAddr false))).setDmaPar P.DMA_CURDST c (BitVec.ofNat 36 (d.elemAddr true))

/-- The channel stops at the faulting element (R339). In the descriptor phase there is no element: REMAIN, CURSRC and CURDST have no stated value (log 53). -/
def dmaFault (c : Fin 16) (code : BitVec 5) (addr : Addr) (s : State) : State :=
  let d := s.dma[c]
  let st := putFld (putBit (putFld (s.dmaPar P.DMA_STATUS c) 0 dFault) 10 true) 4 code
  let s := s.setDmaPar P.DMA_STATUS c st
  let s := s.setDmaPar P.DMA_FADDR c (putFld (addr.setWidth 36) 24 (phaseCode d.phase))
  let s := if d.phase = .descriptor then
      let k := s.freeCtr * 128
      (((s.setDmaPar P.DMA_REMAIN c (Config.freeWord k)).setDmaPar P.DMA_CURSRC c (Config.freeWord (k + 1) &&& 0x003FFFFFF)).setDmaPar
        P.DMA_CURDST c (Config.freeWord (k + 2) &&& 0x003FFFFFF)).drawn
    else showElem c (s.setDmaPar P.DMA_REMAIN c ((d.ocnt - d.row) ++ (d.icnt - d.elem)))
  let s := s.setDma c { s.dma[c] with reqPend := false, sent := false, half := none, words := 0 }
  archesSettle (s.raiseIrq 12)

/-! ### Requests and starts (R334-R336) -/

/-- The element about to start needs a request of its own: each element with PACE 1, each row with PACE 2 (R335). -/
def DmaSt.needsRequest (d : DmaSt) : Bool := (d.pace == 1 || (d.pace == 2 && decide (d.elem = 0))) && !d.credit

/-- Go on to the next element: RUN, or WAIT for a request; a pending one is taken at once (R335, R337). A channel that aborts goes on to none, and its request
is discarded with the fault that follows (R335, R341). -/
def gate (c : Fin 16) (s : State) : State :=
  let d := s.dma[c]
  if s.dmaState c = dAborting then s
  else if d.phase = .descriptor then setDmaState c dRun s
  else if !d.needsRequest then setDmaState c dRun s
  else if d.reqPend then setDmaState c dRun (s.setDma c { d with reqPend := false, credit := true })
  else setDmaState c dWait s

/-- A descriptor has been read into the channel: it is checked, and its first element follows (R330). -/
def beginDescriptor (c : Fin 16) (s : State) : State :=
  let d := s.dma[c]
  if d.descBad then dmaFault c 8 (s.descAddr c) s
  else gate c (showElem c (s.setDma c { d with row := 0, elem := 0, words := 0, phase := .source, credit := d.credit && d.paced }))

/-- The parameter descriptor enters the channel (R330). -/
def loadParamDesc (c : Fin 16) (s : State) : State :=
  s.setDma c { s.dma[c] with desc := Vector.ofFn (fun (i : Fin 7) => s.dmaPar (P.DMA_DESC0 + i.val) c) }

/-- A start reaches a channel (R334): not IDLE, it is ignored with STARTIGN. `byReq`: the request counts for the first element or row. -/
def startDma (c : Fin 16) (byReq : Bool) (s : State) : State :=
  if s.dmaState c ≠ dIdle then setDmaStatus c 13 s
  else
    let s := (s.setDmaPar P.DMA_XFERCNT c 0).setDmaPar P.DMA_DPTR c (paramDesc.setWidth 36)
    let d := s.dma[c]
    let s := s.setDma c { d with phase := .descriptor, reqPend := false, credit := byReq, revoked := false, sent := false, half := none, param := true, words := 0 }
    beginDescriptor c (loadParamDesc c s)

/-- A request on the line a channel names (R335). -/
def requestChannel (c : Fin 16) (s : State) : State :=
  let st := s.dmaState c
  let d := s.dma[c]
  if st = dIdle then (if (fld (s.dmaPar P.DMA_CTL c) 6 2 : BitVec 2) = 2 then startDma c true s else s)
  else if st = dWait then setDmaState c dRun (s.setDma c { d with credit := true })
  else if st = dRun ∧ d.paced then s.setDma c { d with reqPend := true }
  else s

/-- Levels of the request lines that are not events (Table DMA-6): 0 and 1 of the radio FIFOs, 3 face, 6 and 7 cipher, 8 RNG, 10 doorbell, 15 event FIFO. -/
def State.lineLevel (s : State) (n : Nat) : Bool :=
  match n with
  | 0 => s.rxLevel
  | 1 => s.txSpace
  | 3 => decide (s.face.fifo.length < 8)
  | 6 => s.cryptInReady
  | 7 => s.cryptOutReady
  | 8 => (s.par P.RNG_STATUS).getLsbD 0 && !s.rng.fifo.isEmpty
  | 10 => s.host.doorLine
  | 15 => !s.mgmt.evFifo.isEmpty
  | _ => s.lines.getLsbD n

/-- Lines that carry one event: delivered once. -/
def eventLine (n : Nat) : Bool := n == 2 || n == 4 || n == 5 || n == 9 || (decide (11 ≤ n) && decide (n ≤ 14))

/-- A request on line `n` reaches every channel that names it (R335). -/
def dmaRequest (n : Fin 16) (s : State) : State :=
  if s.awake && s.lineLevel n.val then
    let s := if eventLine n.val then { s with lines := putBit s.lines n.val false } else s
    (List.finRange 16).foldl (fun s c =>
      if (fld (s.dmaPar P.DMA_CTL c) 11 4 : BitVec 4).toNat = n.val then requestChannel c s else s) s
  else s

/-- The oldest strike DMA start (R98, R334, R652): each channel of DMASEL that names this strike and is IDLE starts; otherwise DMAREF sets. The interrupts
sent before it have arrived by then (R48). -/
def dmaStrikeStart (s : State) : State :=
  let before := s.time.signals.takeWhile (fun g => g.dma.isNone)
  match s.time.signals.drop before.length with
  | { unit := n, sent := _, dma := some sel } :: rest =>
    if s.awake then
      let s := raiseStrikes before { s with time := { s.time with signals := rest } }
      (List.finRange 16).foldl (fun s c =>
        if sel.getLsbD c.val then
          let ctl := s.dmaPar P.DMA_CTL c
          let named := decide ((fld ctl 6 2 : BitVec 2) = 1) && decide ((fld ctl 8 3 : BitVec 3) = n)
          if named && decide (s.dmaState c = dIdle) then startDma c false s
          else
            let s := if named then setDmaStatus c 13 s else s
            setStrikeStatus (Fin.ofNat 8 n.toNat) 3 s
        else s) s
    else s
  | _ => s

/-- The chained channel starts in the next cycle (R336). -/
def chainStart (c : Fin 16) (s : State) : State :=
  if s.dma[c].chain && s.awake then
    let next : Fin 16 := Fin.ofNat 16 (fld (s.dmaPar P.DMA_CTL c) 16 4 : BitVec 4).toNat
    startDma next false (s.setDma c { s.dma[c] with chain := false })
  else s

/-! ### Resume and abort (R340, R341) -/

/-- ABORT in FAULT discards the record (R341; log 54). -/
def dropRecord (c : Fin 16) (s : State) : State :=
  let s := s.setDmaPar P.DMA_STATUS c (putFld (putFld (s.dmaPar P.DMA_STATUS c) 0 dIdle) 4 (0 : BitVec 5))
  let s := [P.DMA_FADDR, P.DMA_REMAIN, P.DMA_CURSRC, P.DMA_CURDST].foldl (fun s b => s.setDmaPar b c 0) s
  s.setDma c { s.dma[c] with reqPend := false, credit := false, revoked := false }

/-- CMD.ABORT. -/
def abortDma (c : Fin 16) (s : State) : State :=
  let st := s.dmaState c
  if st = dRun ∨ st = dWait then setDmaState c dAborting (s.setDma c { s.dma[c] with abortCode := 10 })
  else if st = dFault then dropRecord c s
  else s

/-- The address of the access an aborted channel has not made. -/
def State.stopAddr (s : State) (c : Fin 16) : Addr :=
  let d := s.dma[c]
  match d.phase with
  | .descriptor => s.descAddr c
  | .source => elemWord d.esize (d.elemAddr false)
  | .dest => elemWord d.esize (d.elemAddr true)

/-- An aborting channel enters FAULT with code 10, or 9, once an access across its crossing has its reply (R341, R344). -/
def abortDone (c : Fin 16) (s : State) : State :=
  if s.dmaState c = dAborting && !s.dma[c].sent then dmaFault c s.dma[c].abortCode (s.stopAddr c) s else s

/-- Every channel moves to IDLE and every DMA parameter takes its S: value (R640). -/
def dmaReset (s : State) : State := { resetPars 0x0A00 0x0B00 s with dma := Vector.replicate 16 DmaSt.init, dmaLast := 15 }

/-- Every channel is idle (R62). -/
def State.dmaIdle (s : State) : Bool := (List.finRange 16).all (fun c => decide (s.dmaState c = dIdle))

/-! ### Element order (R331, R336) -/

/-- The channel's chain is complete: DONE, IDLE, and CHNEXT follows with CHEN (R336). -/
def chainDone (c : Fin 16) (s : State) : State :=
  let s := setDmaState c dIdle (setDmaStatus c 9 s)
  s.setDma c { s.dma[c] with reqPend := false, credit := false, chain := (s.dmaPar P.DMA_CTL c).getLsbD 15 }

/-- A descriptor has completed: DMADONE (11) with IRQ, and the next one (R336). -/
def descriptorDone (c : Fin 16) (s : State) : State :=
  let d := s.dma[c]
  let s := if d.irq then s.raiseIrq 11 else s
  if d.last then chainDone c s
  else setDmaState c dRun ((s.setDma c { d with phase := .descriptor, credit := false, param := false }).setDmaPar P.DMA_DPTR c (d.next.setWidth 36))

/-- All elements of the descriptor have been made and a channel that aborts has not ended it yet: its element stands past the last row's end (R341; log 54). -/
def DmaSt.overrun (d : DmaSt) : Bool := decide (d.phase = .source) && decide (d.elem = d.icnt)

/-- An element is complete: the next one of its row, the next row, or the end of the descriptor (R331). Of the last descriptor of a channel that aborts, the end
waits for RESUME. -/
def elementDone (c : Fin 16) (s : State) : State :=
  let s := s.setDmaPar P.DMA_XFERCNT c (s.dmaPar P.DMA_XFERCNT c + 1)
  let d := s.dma[c]
  if d.elem + 1 = d.icnt then
    if d.row + 1 = d.ocnt then
      if d.last && decide (s.dmaState c = dAborting) then s.setDma c { d with elem := d.icnt, phase := .source } else descriptorDone c s
    else gate c (showElem c (s.setDma c { d with row := d.row + 1, elem := 0, phase := .source, credit := false }))
  else gate c (showElem c (s.setDma c { d with elem := d.elem + 1, phase := .source, credit := d.credit && d.pace == 2 }))

/-- CMD.RESUME: the faulting element again, in its phase, or what follows the last one; in any other STATE it is ignored with CMDERR. -/
def resumeDma (c : Fin 16) (s : State) : State :=
  if s.dmaState c = dFault then
    let s := s.setDma c { s.dma[c] with revoked := false }
    if s.dma[c].overrun then descriptorDone c s else gate c s
  else setDmaStatus c 12 s

/-- DMA.CMD: one of START, RESUME and ABORT (R341). -/
def dmaCommand (c : Fin 16) (v : Word) (s : State) : State :=
  if v.getLsbD 0 then startDma c false s
  else if v.getLsbD 1 then resumeDma c s
  else if v.getLsbD 2 then abortDma c s
  else s

/-! ### Revocation (R342-R344) -/

/-- The write mask of the RADIO block holds a domain (R379). -/
def State.radioWriter (s : State) (d : Dom) : Bool := (s.blockMask 0x0C).getLsbD (16 + d.toNat)

/-- The channels a revocation stops: owned by d and not IDLE (R343). -/
def State.ownedBusy (s : State) (d : Dom) : BitVec 16 :=
  (List.finRange 16).foldl (fun w c => putBit w c.val (decide (s.dmaOwner c = d) && decide (s.dmaState c ≠ dIdle))) (0 : BitVec 16)

/-- The instruction of the revoked domain that Umber executes next may have passed its checks already: a free value (R185, R343; log 86). -/
def markInFlight (d : Dom) (s : State) : State :=
  if decide (s.umberAcc.dom = d) && decide (s.umber.run = .running) && Config.freeBool (s.freeCtr * 128) then
    (s.setUmber { s.umber with inFlight := s.enabledRegions d.toNat }).drawn
  else s.drawn

/-- A domain is revoked in one step (R343), with what follows in the other blocks: the cipher (R504), queued NVM writes (R549), a service (R564), the radio
(R379). -/
def revokeDomain (d : Dom) (byKernel : Bool) (s : State) : State :=
  let chans := s.ownedBusy d
  let locks := (s.umber.locks.filter (fun e => decide (e.2 = d))).length
  let resv := match s.umber.resv with
    | some (_, r) => decide (r = d)
    | none => false
  let s := markInFlight d s
  let s := releaseLocks d (disableRegions d.toNat s)
  let s := if resv then s.setUmber { s.umber with resv := none } else s
  let s := (List.finRange 16).foldl (fun s c =>
    if chans.getLsbD c.val then setDmaState c dAborting (s.setDma c { s.dma[c] with abortCode := 9, revoked := true }) else s) s
  let st := s.par P.DOM_REVSTAT
  let s := s.setPar P.DOM_REVSTAT (putFld (putBit (putBit st d.toNat true) 16 true) 17 d)
  let s := { s with rev := some { dom := d, byKernel := byKernel, channels := chans, lockCount := BitVec.ofNat 9 locks, resv := resv, cipherAck := false } }
  let s := cryptRevoke d s
  let s := { s with rev := s.rev.map (fun r => { r with cipherAck := true }) }
  let s := svcRevoke d (nvmRevoke d s)
  if s.radioWriter d then startFault false s else s

/-- Every aborted channel has reached FAULT and the cipher unit has acknowledged: BUSY clears, REVLOG and the log are written (R344). -/
def revokeFinish (s : State) : State :=
  match s.rev with
  | none => s
  | some r =>
    if r.cipherAck && (List.finRange 16).all (fun c => !(s.dma[c].revoked && decide (s.dmaState c = dAborting))) then
      let st := s.par P.DOM_REVSTAT
      let n : BitVec 8 := fld st 21 8
      let rec' : Word := putFld (putBit (r.dom.setWidth 36) 4 r.byKernel) 5 r.channels
      let rec' := putBit (putFld rec' 21 r.lockCount) 30 r.resv
      let s := s.setPar (P.DOM_REVLOG + n.toNat % 4) rec'
      let s := s.setPar P.DOM_REVSTAT (putFld (putBit st 16 false) 21 (n + 1))
      let s := { s with rev := none }
      s.pushLog 0x012 0x000 (s.par P.DOM_REVSTAT) (boolWord r.byKernel)
    else s

end Sys2Proof.Machine
end

