-- ==== Sys2Proof/Machine/LinkOps.lean ====
section
/-!
DEFINITION. Sys2Proof/Machine/LinkOps.lean: store-link frames: CRC, whitening, filtering, records, acknowledgements and transmissions (12 R393-R406, R419-R422).
-/

namespace Sys2Proof.Machine

/-- The bits of a value, least significant first (R394). -/
def lsbBits {n : Nat} (w : BitVec n) : List Bool := (List.range n).map (fun i => w.getLsbD i)

/-- A number from bits, least significant first. -/
def bitsNat : List Bool → Nat
  | [] => 0
  | b :: bs => b.toNat + 2 * bitsNat bs

/-- Bytes from bits, each least significant bit first. -/
def bitsBytes (bits : List Bool) : List Byte :=
  (List.range (bits.length / 8)).map (fun k => BitVec.ofNat 8 (bitsNat ((bits.drop (8 * k)).take 8)))

/-- One step of the CRC register (R396). -/
def crcStep (c : BitVec 24) (b : Bool) : BitVec 24 :=
  let f := xor b c.msb
  let c := c <<< 1
  if f then c ^^^ 0x800063 else c

/-- The CRC of the length, header and payload bits, in transmission order (R396). -/
def crc24 (bits : List Bool) : BitVec 24 := bits.foldl crcStep 0xFFFFFF

/-- The CRC as sent, bit 23 first (R396). -/
def crcBits (c : BitVec 24) : List Bool := (lsbBits c).reverse

/-- Whitening from register w (R397). -/
def whitenFrom : BitVec 9 → List Bool → List Bool
  | _, [] => []
  | w, b :: bs => xor b w.msb :: whitenFrom ((w <<< 1) ||| (BitVec.ofBool (xor w.msb (w.getLsbD 4))).setWidth 9) bs

/-- Whitening with LINK.CFG.WHITEN and the channel in use (R397). -/
def State.whiten (s : State) (bits : List Bool) : List Bool :=
  if (s.par P.LINK_CFG).getLsbD 0 then whitenFrom (0x100#9 + s.radio.chan.setWidth 9) bits else bits

/-- The preamble and sync of the frame under way (Table LNK-1), with PREX and LINK.SYNC as its sending took them (log 93). -/
def State.preambleSync (s : State) : List Bool :=
  let p : BitVec 4 := fld s.radio.sendCfg 1 4
  (List.replicate (4 + p.toNat) (0x55 : Byte)).flatMap lsbBits ++ lsbBits s.radio.sendSync

/-- Whitening as the sending under way took it (R397; log 93). -/
def State.whitenSent (s : State) (bits : List Bool) : List Bool :=
  if s.radio.sendCfg.getLsbD 0 then whitenFrom (0x100#9 + s.radio.chan.setWidth 9) bits else bits

/-- The bits of a whole frame as sent (Table LNK-1, R393-R397): `body` is the header and payload bytes. -/
def State.frameBits (s : State) (len : BitVec 8) (body : List Byte) : List Bool :=
  let data := lsbBits len ++ body.flatMap lsbBits
  s.preambleSync ++ s.whitenSent (data ++ crcBits (crc24 data))

/-- Header and payload bytes from record words, byte i in lane i mod 4 (R401, R402). -/
def laneBytes (n : Nat) (ws : List Word) : List Byte :=
  (List.range n).map (fun i => fld ((ws[i / 4]?).getD 0) (9 * (i % 4)) 8)

/-- Record words from bytes: lane bit 8 marks a byte present (R401). -/
def byteWords (bs : List Byte) : List Word :=
  (List.range ((bs.length + 3) / 4)).map (fun w =>
    (List.range 4).foldl (fun acc k =>
      match bs[4 * w + k]? with
      | some b => putFld acc (9 * k) ((1 : BitVec 1) ++ b)
      | none => acc) (0 : Word))

/-- Words of header and payload for a payload length (R401). -/
def bodyWords (len : Nat) : Nat := (6 + len + 3) / 4

/-- The header fields of header bytes 0-5 (Table LNK-1). -/
structure Header where
  addr : BitVec 24
  group : BitVec 16
  type : BitVec 8
  deriving DecidableEq, Repr

def headerOf (bs : List Byte) : Header :=
  let b := fun i => (bs[i]?).getD 0
  { addr := b 2 ++ b 1 ++ b 0, group := b 4 ++ b 3, type := b 5 }

def Header.grpAddr (h : Header) : Bool := h.type.getLsbD 7
def Header.seq (h : Header) : Bool := h.type.getLsbD 6
def Header.ackReq (h : Header) : Bool := h.type.getLsbD 4
def Header.kind (h : Header) : BitVec 4 := fld h.type 0 4

/-- The filter as its parameters now stand. -/
def State.linkFilter (s : State) : LinkFilter :=
  { cfg := s.par P.LINK_RXCFG, addr := (List.range 4).map (fun n => s.par (P.LINK_ADDR + n)), group := (List.range 4).map (fun n => s.par (P.LINK_GROUP + n)) }

/-- A write of the filter comes while a frame is under reception. Whether the last header bit had been decided by then no command tells, so it is a free choice: where
it had, the frame keeps the filter of before (R399; log 101). -/
def filterTaken (s : State) : State :=
  match s.radio.rx with
  | some f =>
    if f.filter.isSome then s
    else
      let t := s.drawn
      if Config.freeBool (s.freeCtr * 128) then t.setRadio { t.radio with rx := some { f with filter := some s.linkFilter } } else t
  | none => s

/-- Filtering (R399): the match kind and index; none fails. -/
def LinkFilter.pick (g : LinkFilter) (h : Header) : Option (BitVec 2 × BitVec 2) :=
  if !g.cfg.getLsbD 0 then some (3, 0)
  else if !h.grpAddr then
    match g.addr.findIdx? (fun v => v.getLsbD 24 && (fld v 0 24 : BitVec 24) == h.addr) with
    | some n => some (0, BitVec.ofNat 2 n)
    | none => if h.addr = 0xFFFFFF && g.cfg.getLsbD 1 then some (2, 0) else none
  else
    match g.group.findIdx? (fun v => v.getLsbD 16 && (fld v 0 16 : BitVec 16) == h.group) with
    | some n => some (1, BitVec.ofNat 2 n)
    | none => none

/-- A frame's header is filtered with what stood when its last bit was decided (R399; log 101). -/
def State.linkMatch (s : State) (f : RxFrame) (h : Header) : Option (BitVec 2 × BitVec 2) := (f.filter.getD s.linkFilter).pick h

/-- The receive descriptor (Table LNK-3). -/
def descriptor (chan : BitVec 6) (rate dup ackd crcok : Bool) (mkind midx : BitVec 2) (ant : Bool) (rssi len : BitVec 8) : Word :=
  let w : Word := putFld (len.setWidth 36) 8 rssi
  let w := putFld (putFld (putBit w 16 ant) 17 mkind) 19 midx
  putFld (putBit (putBit (putBit (putBit w 21 crcok) 22 ackd) 23 dup) 24 rate) 25 chan

/-- Sync is detected (R398, R406): the stamp in TIME.SYNCS and SYNCF, a history entry, STATUS.SYNC; gain and RSSI are analog results. -/
def syncDetect (word : BitVec 32) (rate : Bool) (rssi : BitVec 8) (gain : BitVec 3) (s : State) : State :=
  let bw : BitVec 2 := fld s.radio.rxcfg 0 2
  let errs := (bitsSet (word ^^^ (fld (s.par P.LINK_SYNC) 0 32 : BitVec 32)) 32).length
  let tol := (fld (s.par P.LINK_CFG) 5 2 : BitVec 2).toNat
  if s.radioState = rsRx && bw ≠ 3 && (!rate || bw ≠ 0) && s.radio.rx.isNone && s.radio.ret.isNone && s.radio.trans.isNone && !s.radioFault && decide (errs ≤ tol) then
    let stamp := softTime (s.time.acc - s.inc - s.inc)
    let s := s.setPar P.TIME_SYNCF ((fld stamp 0 32 : BitVec 32).setWidth 36)
    let s := s.setPar P.TIME_SYNCS ((fld stamp 32 32 : BitVec 32).setWidth 36)
    let g := if s.radio.rxcfg.getLsbD 3 then gain else fld s.radio.rxcfg 4 3
    let s := (s.setPar P.RADIO_RSSI (rssi.setWidth 36)).setPar P.RADIO_GAIN (g.setWidth 36)
    let x := s.par P.LINK_HISTIDX
    let e : BitVec 4 := fld x 0 4
    let b := P.LINK_HIST + 7 * e.toNat
    let ant := s.rxAnt
    let s := s.setPar b (descriptor s.radio.chan rate false false false 0 0 ant rssi 0)
    let s := (s.setPar (b + 1) 0).setPar (b + 2) 0
    let s := (s.setPar (b + 3) ((fld stamp 32 32 : BitVec 32).setWidth 36)).setPar (b + 4) ((fld stamp 0 32 : BitVec 32).setWidth 36)
    let s := (s.setPar (b + 5) (s.par P.RADIO_DIV)).setPar (b + 6) (boolWord ((s.par P.TIME_STATUS).getLsbD 0))
    let s := s.setPar P.LINK_HISTIDX (putFld (putFld x 0 (e + 1)) 4 ((fld x 4 8 : BitVec 8) + 1))
    let s := linkEvent 12 (bumpSat P.LINK_CNT s)
    s.setRadio { s.radio with gfskMeas := false, rx := some { stamp := stamp, hist := e, rssi := rssi, rate := rate, ant := ant, filter := none } }
  else s

/-- RXTO expires: the radio goes to STANDBY with STATUS.RXTO (R373). -/
def rxtoExpire (s : State) : State := radioEvent sRxTo (lowerTo rsStandby none false s)

/-- An RXTO held by a frame expires at its tQ, in place of the automatic return (R419). -/
def rxtoAtEnd (due : Bool) (s : State) : State := if due then rxtoExpire s else s

/-- The acknowledgement wait ends: the radio moves as the after-RX column gives for AUTORET's after-TX value (R404); TXDONE sets (R402). With WBEN = 1 the
reception goes on (R373; log 93). -/
def ackWaitEnd (bit cnt : Nat) (s : State) : State :=
  let s := linkEvent 8 (linkEvent bit (bumpSat (P.LINK_CNT + cnt) s))
  s.setRadio { s.radio with ackWait := none,
                            ret := if s.radio.rxcfg.getLsbD 2 then none else some (true, fld (s.par P.RADIO_AUTORET) 0 2) }

/-- The SEQ memory of LINK.ADDRn takes a frame (R400): whether it is a duplicate. -/
def seqCheck (n : Nat) (seq : Bool) (s : State) : Bool × State :=
  let v := s.par (P.LINK_ADDR + n)
  let dup := v.getLsbD 26 && (v.getLsbD 25 == seq)
  (dup, s.setPar (P.LINK_ADDR + n) (putBit (putBit v 25 seq) 26 true))

/-- What a frame at tQ leads to. -/
structure RxVerdict where
  state : State
  stored : Bool
  dup : Bool
  ack : Bool
  desc : Word

/-- The handling of a frame that passed filtering (R400, R401, R403): ACKD says that an acknowledgement was decided, even where none is sent (R419). -/
def takeFrame (f : RxFrame) (len : BitVec 8) (body : List Byte) (h : Header) (crcok : Bool) (mkind midx : BitVec 2) (s : State) : RxVerdict :=
  let cfg := s.par P.LINK_RXCFG
  let seq := if crcok && h.ackReq && mkind == 0 then seqCheck midx.toNat h.seq s else (false, s)
  let dup := seq.1
  let s := if dup then linkEvent 4 (bumpSat (P.LINK_CNT + 5) seq.2) else seq.2
  let drop := dup && cfg.getLsbD 3
  let room := decide (s.radio.rxFifo.length + 3 + bodyWords len.toNat ≤ 256)
  let want := crcok || cfg.getLsbD 4
  let store := want && !drop && room
  let ack := cfg.getLsbD 2 && h.ackReq && crcok && mkind == 0 && (store || drop) && s.radio.ackWait.isNone
  let desc := descriptor s.radio.chan f.rate dup ack crcok mkind midx f.ant f.rssi len
  let s := if store then
      let rec' := desc :: byteWords body ++ [(fld f.stamp 32 32 : BitVec 32).setWidth 36, (fld f.stamp 0 32 : BitVec 32).setWidth 36]
      let s := s.setRadio { s.radio with rxFifo := s.radio.rxFifo ++ rec', rxInfo := desc }
      linkEvent 0 (bumpSat (P.LINK_CNT + 1) { s with lines := putBit s.lines 2 true })
    else if want && !drop then linkEvent 3 (bumpSat (P.LINK_CNT + 4) s)
    else s
  { state := s, stored := store, dup := dup, ack := ack, desc := desc }

/-- A frame reaches tQ with the bits received from the first length bit to the last CRC bit (R396-R404, R419). With WBEN = 1 it does not end reception,
so that an acknowledgement decided is not sent (R373; log 93). -/
def frameReceived (bits : List Bool) (s : State) : State :=
  match s.radio.rx with
  | none => s
  | some f =>
    let clear := s.whiten bits
    let len : BitVec 8 := BitVec.ofNat 8 (bitsNat (clear.take 8))
    if clear.length ≠ 80 + 8 * len.toNat then s
    else
      let data := clear.take (56 + 8 * len.toNat)
      let crcok := (clear.drop (56 + 8 * len.toNat)) == crcBits (crc24 data)
      let body := bitsBytes (data.drop 8)
      let h := headerOf body
      let s := s.setRadio { s.radio with rx := none }
      let s := if crcok then s else linkEvent 1 (bumpSat (P.LINK_CNT + 2) s)
      let b := P.LINK_HIST + 7 * f.hist.toNat
      let s := (s.setPar (b + 1) (putFld (h.addr.setWidth 36) 24 h.type)).setPar (b + 2) (h.group.setWidth 36)
      let awaited := match s.radio.ackWait with
        | some a => crcok && h.kind == 1 && h.addr == a.addr && (h.seq == a.seq)
        | none => false
      if awaited then
        let s := s.setPar b (descriptor s.radio.chan f.rate false false true 3 0 f.ant f.rssi len)
        rxtoAtEnd s.radio.rxtoDue (ackWaitEnd 6 7 (histFlag f.hist 2 s))
      else
        let v : RxVerdict := match s.linkMatch f h with
          | none =>
            { state := linkEvent 2 (bumpSat (P.LINK_CNT + 3) s), stored := false, dup := false, ack := false,
              desc := descriptor s.radio.chan f.rate false false crcok 3 0 f.ant f.rssi len }
          | some (mk, mi) => takeFrame f len body h crcok mk mi s
        let s := v.state.setPar b v.desc
        let s := if v.stored then histFlag f.hist 1 s else s
        match s.radio.ackWait with
        | some a => rxtoAtEnd s.radio.rxtoDue (if a.due then ackWaitEnd 7 8 s else s)
        | none =>
          if s.radio.rxtoDue then rxtoExpire s
          else if s.radio.rxcfg.getLsbD 2 then s
          else if v.ack then startTurn false false (some (.ack h.addr h.group h.seq f.rate f.ant)) s
          else s.setRadio { s.radio with ret := some (true, fld (s.par P.RADIO_AUTORET) 2 2) }

/-- RXTO runs out in a receive window, that of an acknowledgement wait too (R373): a frame under reception holds it until tQ (R419). -/
def rxTimeout (s : State) : State :=
  if s.radioState = rsRx && s.par P.RADIO_RXTO ≠ 0 && s.radio.trans.isNone && !s.radioFault && s.radio.ret.isNone then
    if s.radio.rx.isSome then s.setRadio { s.radio with rxtoDue := true } else rxtoExpire s
  else s

/-- ACKTO runs out (R404): without a detected sync the wait ends with ACKTO; a frame under reception completes first. -/
def ackTimeout (s : State) : State :=
  match s.radio.ackWait with
  | none => s
  | some a =>
    if s.radioState = rsRx && s.radio.ret.isNone then
      if s.radio.rx.isSome then s.setRadio { s.radio with ackWait := some { a with due := true } } else ackWaitEnd 7 8 s
    else s

/-- The header and payload bytes of an acknowledgement (R403). -/
def ackBody (addr : BitVec 24) (group : BitVec 16) (seq : Bool) : List Byte :=
  [fld addr 0 8, fld addr 8 8, fld addr 16 8, fld group 0 8, fld group 8 8, putBit (1 : Byte) 6 seq]

/-- The words the transmission under way still needs from the transmit FIFO (R402, R468); none: it lacks its first word. -/
def TxWork.need : TxWork → Option Nat
  | .frame none _ => none
  | .frame (some w) _ => some (bodyWords (fld w 0 8 : BitVec 8).toNat)
  | .ack .. => some 0
  | .train .. => some 0
  | .burst _ periods data => some (if data then ((periods.toNat + 7) / 8 + 35) / 36 else 0)

/-- The transmit FIFO lacks a word the transmission needs (R388). -/
def State.txStarved (s : State) : Bool :=
  match s.radio.tx with
  | some w => match w.need with
    | some n => decide (s.radio.txFifo.length < n)
    | none => true
  | none => false

/-- The chips of the base sequence from a state of its generator (Table SIG-3, R430). -/
def baseFrom : Nat → BitVec 13 → List Bool
  | 0, _ => []
  | n + 1, st => st.getLsbD 9 :: baseFrom n (lfsrStep 10 0x240 st)

/-- c[0]-c[1022]: TAPS 0x240 from the seed 0x3FF (R466). -/
def baseSequence : List Bool := baseFrom 1023 0x3FF

/-- The group of a slot (R468): 8,184 slots each from 16k on, group 0 also below. -/
def slotGroup (k i : Nat) : Nat := (i - 16 * k) / 8184

/-- The chips of a burst by slot: slot i holds c[(i − 16k) mod 1,023], inverted where the sign bit of its group is 1 (R467, R468). -/
def burstChips (k periods : Nat) (signs : List Bool) : List Bool :=
  let base := baseSequence
  (List.range (1023 * periods)).map (fun i =>
    xor ((base[(i + 1023 - 16 * k) % 1023]?).getD false) ((signs[slotGroup k i]?).getD false))

/-- The sign bits of a burst: bit g mod 36 of word floor(g / 36) (R468). -/
def burstSigns (periods : Nat) (ws : List Word) : List Bool :=
  (List.range ((periods + 7) / 8)).map (fun g => ((ws[g / 36]?).getD 0).getLsbD (g % 36))

/-- The last symbol of a frame or acknowledgement leaves at tE (R402-R404). -/
def frameTxEnd (s : State) : State :=
  if s.radioSending && !s.txStarved then
    match s.radio.tx with
    | some (.frame (some w) rate) =>
      let len : BitVec 8 := fld w 0 8
      let r := txTake (bodyWords len.toNat) s
      let body := laneBytes (6 + len.toNat) r.1
      let h := headerOf body
      let s := bumpSat (P.LINK_CNT + 9) r.2
      let s := s.setRadio { s.radio with air := some (.frame rate s.radio.chan (s.frameBits len body)) }
      if h.ackReq && (s.par P.LINK_TXCTL).getLsbD 0 then
        let next := s.radio.rxNext
        let s := startTurn true next none (s.setRadio { s.radio with tx := none })
        s.setRadio { s.radio with ackWait := some { addr := h.addr, seq := h.seq, due := false } }
      else endTx (linkEvent 8 s)
    | some (.ack addr group seq rate _) =>
      let s := s.setRadio { s.radio with air := some (.frame rate s.radio.chan (s.frameBits 0 (ackBody addr group seq))) }
      endTx (linkEvent 5 (bumpSat (P.LINK_CNT + 6) s))
    | _ => s
  else s

/-- What a transmission sends before it lacks a word (R388): of a frame the bytes whose words it had, and nothing where it lacks its first word, which R402 judges before any
symbol; of a burst the chips of the groups whose sign bits it had (R468). -/
def State.airCut (s : State) : Option OnAir :=
  match s.radio.tx with
  | some (.frame none rate) => some (.frame rate s.radio.chan [])
  | some (.frame (some w) rate) =>
    let sent := (laneBytes (4 * s.radio.txFifo.length) s.radio.txFifo).flatMap lsbBits
    some (.frame rate s.radio.chan (s.preambleSync ++ s.whitenSent (lsbBits (fld w 0 8 : BitVec 8) ++ sent)))
  | some (.burst k periods _) =>
    let groups := 36 * s.radio.txFifo.length
    let slots := if groups = 0 then 0 else 16 * k.toNat + 8184 * groups
    let chips := burstChips k.toNat periods.toNat (burstSigns periods.toNat s.radio.txFifo)
    some (.burst s.radio.chan k periods (chips.take slots))
  | _ => s.radio.air

/-- The transmit FIFO runs empty during a GFSK or DSSS transmission: a normal end with TXUNDER, after the symbols and chips that its words gave (R388). -/
def txUnderrun (s : State) : State :=
  if s.radioSending && s.txStarved then
    let done := match s.radio.tx with
      | some (.burst ..) => 10
      | _ => 8
    let s := s.setRadio { s.radio with air := s.airCut }
    let s := (txTake 256 s).2
    endTx (linkEvent done (radioEvent sTxUnder (bumpSat (P.LINK_CNT + 11) s)))
  else s

/-- CHECK of a wake word (R409). -/
def wakeCheck (group : BitVec 16) (command : BitVec 8) : BitVec 8 :=
  0xA5 + (fld group 8 8 : BitVec 8) + (fld group 0 8 : BitVec 8) + command

/-- The 40-bit pattern of a wake word, the first bit on air in bit 39 (R408). -/
def wakePattern (group : BitVec 16) (command : BitVec 8) : BitVec 40 :=
  (0xAA : BitVec 8) ++ group ++ command ++ wakeCheck group command

/-- The last repetition of a wake train leaves (R410). -/
def trainEnd (s : State) : State :=
  match s.radio.tx with
  | some (.train g c reps) =>
    if s.radioSending then
      let s := s.setRadio { s.radio with air := some (.train (wakePattern g c) reps) }
      endTx (linkEvent 11 (bumpSat (P.LINK_CNT + 13) s))
    else s
  | _ => s

/-- The last chip of a burst leaves (R467, R468). -/
def burstEnd (s : State) : State :=
  match s.radio.tx with
  | some (.burst k periods data) =>
    if s.radioSending && !s.txStarved then
      let r := txTake (((TxWork.burst k periods data).need).getD 0) s
      let signs := if data then burstSigns periods.toNat r.1 else []
      let s := r.2.setRadio { r.2.radio with air := some (.burst r.2.radio.chan k periods (burstChips k.toNat periods.toNat signs)) }
      endTx (linkEvent 10 (bumpSat (P.LINK_CNT + 12) s))
    else s
  | _ => s

/-- The diversity measurement ends, once in each window (R378): the stronger antenna is kept, A on a tie; with AGC the gain is chosen (R361). -/
def diversity (a b : BitVec 8) (gain : BitVec 3) (s : State) : State :=
  if s.radioState = rsRx && (s.radio.meas || s.radio.gfskMeas) && s.radio.rx.isNone && !s.radioFault then
    let pickB := decide (a.toNat < b.toNat)
    let v : Word := putBit (putFld (putFld (boolWord pickB) 1 a) 9 b) 17 true
    let s := s.setPar P.RADIO_DIV v
    let s := bumpPar (P.RADIO_CNT + if pickB then 6 else 5) s
    let s := if s.radio.rxcfg.getLsbD 3 then s.setPar P.RADIO_GAIN (gain.setWidth 36) else s
    let s := s.setPar P.RADIO_RSSI ((if pickB then b else a).setWidth 36)
    goOnAir rsRx false false (s.setRadio { s.radio with meas := false, gfskMeas := false })
  else s

/-- LINK.WAKETX with its CHECK (R410, Table LNK-6). -/
def withCheck (w : Word) : Word := putFld w 24 (wakeCheck (fld w 0 16) (fld w 16 8))

end Sys2Proof.Machine
end

