-- ==== Sys2Proof/Machine/WakeOps.lean ====
section
/-!
DEFINITION. Sys2Proof/Machine/WakeOps.lean: the wake receiver: windows, collections and the matcher (12 R411-R415, R423-R425).
-/

namespace Sys2Proof.Machine

def State.setWake (s : State) (w : WakeSt) : State := { s with wake := w }

/-- The wake receiver listens on its schedule: modes 1 and 2 (R364, R411). -/
def State.wakeSchedule (s : State) : Bool := decide (s.pwr.mode = .doze) || decide (s.pwr.mode = .retain)

/-- The receiver listens now: an open window of modes 1 and 2, or WAKELISTEN (R364, R411). While the crystal has failed, a window receives nothing (R424). -/
def State.wakeListening (s : State) : Bool :=
  (s.wakeSchedule && !s.pwr.exiting && s.wake.window.isSome && s.crystalRuns) || decide (s.radioState = rsWakeListen)

def State.collecting (s : State) : Bool := (s.par P.WAKE_STATUS).getLsbD 3

/-- Mode 1 or 2 is entered: the schedule starts with a window (R411). -/
def wakeEnter (s : State) : State := s.setWake { s.wake with cycle := 0, openDue := true, window := none }

/-- A scheduled window opens, or is held back by QUIET and counted down (R411, R415). -/
def windowOpen (s : State) : State :=
  if s.wakeSchedule && !s.pwr.exiting && s.wake.openDue && (s.par P.WAKE_CFG).getLsbD 0 && s.crystalRuns then
    let st := s.par P.WAKE_STATUS
    let q : BitVec 4 := fld st 4 4
    let s := s.setWake { s.wake with openDue := false }
    if q ≠ 0 then s.setPar P.WAKE_STATUS (putFld st 4 (q - 1))
    else (bumpPar P.WAKE_WINCNT s).setWake { s.wake with openDue := false, window := some 40 }
  else s

/-- A window closes after 40 crystal cycles without an on-edge; LEVEL is analog (R411, Table LNK-7). -/
def windowClose (level : BitVec 6) (s : State) : State :=
  if s.wake.window = some 0 && !s.collecting then
    (s.setPar P.WAKE_LEVEL (level.setWidth 36)).setWake { s.wake with window := none }
  else s

/-- Modes 1 and 2 are left: an open window closes, with a level that is analog; a collection in progress completes first (R411, R423). -/
def wakeLeave (s : State) : State :=
  let s := s.setWake { s.wake with openDue := false }
  if s.wake.window.isSome && !s.collecting then
    let level : BitVec 6 := fld (Config.freeWord (s.freeCtr * 128)) 0 6
    (s.drawn.setPar P.WAKE_LEVEL (level.setWidth 36)).setWake { s.wake with openDue := false, window := none }
  else s

/-- An on-edge starts a collection and holds the window open (R412). -/
def startCollection (s : State) : State :=
  if s.wakeListening && !s.collecting then bumpPar P.WAKE_EDGECNT (s.parBit P.WAKE_STATUS 3 true) else s

/-- The enabled group that a GROUP matches (R412). -/
def State.groupMatch (s : State) (g : BitVec 16) : Option Nat :=
  (List.range 4).find? (fun n =>
    let v := s.par (P.WAKE_GRP + n)
    let m : BitVec 16 := fld v 16 16
    v.getLsbD 32 && (g &&& m) == ((fld v 0 16 : BitVec 16) &&& m))

/-- Starting position p of a collection passes (R412): preamble, CHECK and an enabled group; `bits` holds the first collected bit in bit 39. -/
def State.rotationMatch (s : State) (bits : BitVec 40) (p : Nat) : Option (Nat × BitVec 16 × BitVec 8) :=
  let r := bits.rotateLeft p
  let g : BitVec 16 := fld r 16 16
  let c : BitVec 8 := fld r 8 8
  if (fld r 32 8 : BitVec 8) = 0xAA && (fld r 0 8 : BitVec 8) = wakeCheck g c then (s.groupMatch g).map (fun n => (n, g, c)) else none

/-- The matches of a collection, lowest position first. -/
def State.wakeMatches (s : State) (bits : BitVec 40) : List (Nat × BitVec 16 × BitVec 8) :=
  (List.range 40).filterMap (s.rotationMatch bits)

/-- A collection ends: a window that it held open closes with it, and LEVEL is that window's (R412, Table LNK-7). -/
def endCollection (level : BitVec 6) (s : State) : State :=
  let s := s.parBit P.WAKE_STATUS 3 false
  let s := if s.wake.window.isSome then s.setPar P.WAKE_LEVEL (level.setWidth 36) else s
  s.setWake { s.wake with window := none }

/-- A collection can complete: one of a window of modes 1 and 2 unless the crystal has failed (R424), also past the exit that found it in progress (R423), or one
of WAKELISTEN (R364). -/
def State.collects (s : State) : Bool :=
  s.collecting && (if s.wakeSchedule then s.crystalRuns else s.wake.window.isSome || decide (s.radioState = rsWakeListen))

/-- A match (R413, R415, R425): REPORT, RTICK, the log entry, MATCH, MATCHCNT and QUIETLEFT; in modes 1 and 2 it is a wake source which PWR.WAKESRC records during a RETAIN
exit (R75, R423). Source WAKEM is raised at once in WAKELISTEN, and where Umber has executed its first instruction since the mode; otherwise the interrupt waits for
that instruction (PEND). -/
def wakeMatch (bits : BitVec 40) (level : BitVec 6) (s : State) : State :=
  match s.collects, s.wakeMatches bits with
  | true, (n, g, c) :: more =>
    let rep' : Word := putBit (putFld (putFld (g.setWidth 36) 16 c) 24 (BitVec.ofNat 2 n)) 26 (!more.isEmpty)
    let s := s.setPar P.WAKE_REPORT rep'
    let s := (s.setPar P.WAKE_RTICK_LO (fld s.pier.tick 0 36)).setPar P.WAKE_RTICK_HI ((fld s.pier.tick 36 12 : BitVec 12).setWidth 36)
    let x := s.par P.WAKE_LOGIDX
    let e : BitVec 4 := fld x 0 4
    let s := (s.setPar (P.WAKE_LOG + 2 * e.toNat) rep').setPar (P.WAKE_LOG + 2 * e.toNat + 1) (fld s.pier.tick 0 36)
    let s := s.setPar P.WAKE_LOGIDX (putFld (putFld x 0 (e + 1)) 4 ((fld x 4 8 : BitVec 8) + 1))
    let s := bumpPar P.WAKE_MATCHCNT s
    let q : BitVec 4 := fld (s.par P.WAKE_CFG) 1 4
    let s := s.setPar P.WAKE_STATUS (putFld (putBit (s.par P.WAKE_STATUS) 0 true) 4 q)
    let s := endCollection level s
    let s := if s.pwr.mode = .retain ∧ s.pwr.exiting then s.parBit P.PWR_WAKESRC 2 true else s
    if s.awake && (decide (s.radioState = rsWakeListen) || !s.umber.fresh) then s.raiseIrq 10
    else s.parBit P.WAKE_STATUS 1 true
  | _, _ => s

/-- Nothing passes: NOMATCH (R412). -/
def wakeNoMatch (bits : BitVec 40) (level : BitVec 6) (s : State) : State :=
  if s.collects && (s.wakeMatches bits).isEmpty then endCollection level (s.parBit P.WAKE_STATUS 2 true) else s

end Sys2Proof.Machine
end

