-- ==== Sys2Proof/Machine/PowerOps.lean ====
section
/-!
DEFINITION. Sys2Proof/Machine/PowerOps.lean: clocks, islands, modes, resets and boot (02 R42-R79; 21 R638-R654; 09 R294-R298, R305).
-/

namespace Sys2Proof.Machine

def State.setPwr (s : State) (p : PowerSt) : State := { s with pwr := p }

/-! ### Calibration record (R644, R645) -/

/-- The calibrated parameters in record order (Table BOO-5): first parameter, count, first record word, width. -/
def calTable : List (Nat × Nat × Nat × Nat) :=
  [(P.TIME_PINCOMP, 1, 1, 8), (P.SYS_TXLAUNCH, 1, 2, 16), (P.SYS_TXLAUNCHT, 1, 3, 10), (P.RADIO_RXGD0, 4, 4, 36), (P.SYNTH_XOTRIM, 1, 8, 8),
   (P.SYNTH_XONOW, 1, 8, 8), (P.SYNTH_XOSENS, 1, 9, 12), (P.SYNTH_XODRV, 1, 10, 3), (P.POD_QPULSE, 1, 12, 24), (P.WAKE_TRIM, 1, 13, 8),
   (P.WAKE_THRESH, 1, 14, 6), (P.RADIO_TXPWR, 25, 27, 36), (P.RADIO_RSSICAL, 40, 52, 36), (P.PWR_MCAL, 72, 92, 24), (P.MGMT_SENSCAL, 16, 164, 36)]

/-- Word `w` of the calibration record at 0x20_5100; an unreadable one reads 0. -/
def State.calWord (s : State) (w : Nat) : Word := (s.sepiaDnvm (0x5100 + w)).getD 0

/-- The record is valid (R644): every word readable, the mark in word 0, and the words sum to 0 modulo 2^36. -/
def State.calValid (s : State) : Bool :=
  let ws := (List.range 256).map (fun w => s.sepiaDnvm (0x5100 + w))
  ws.all Option.isSome && decide ((fld (s.calWord 0) 0 8 : BitVec 8) = 0xCA) && decide (ws.foldl (fun a w => a + w.getD 0) 0 = 0)

/-- The nominal current of mode `m` in nA, the same in every temperature band (Tables ISL-7, BOO-6): mode 4 at 208 MHz, mode 5 with the receiver and mode 6 with the
transmitter on top of it. How many arches and the tile mode 2 adds, how many Trestle channels mode 5, and the word of mode 7, whose 31 mA do not fit 24 bits, are in
Sepia's ROM only (log 62). -/
def modeCurrent (m : Nat) : Word :=
  let rom := Config.romNominal (P.PWR_MCAL + 9 * m)
  match m with
  | 0 => 180
  | 1 => 650
  | 2 => BitVec.ofNat 36 (900 + 350 * (rom.toNat % 5) + (if rom.getLsbD 35 then 100 else 0))
  | 3 => 180000
  | 4 => 7900000
  | 5 => BitVec.ofNat 36 (7900000 + 4100000 + 133000 * (rom.toNat % 36))
  | 6 => 7900000 + 4900000
  | _ => rom &&& 0xFFFFFF

/-- A fallback value (Table BOO-6): the reset value of the sheet where it prints one, and the nominal mode currents; those that stand only in Sepia's ROM are
opaque (log 62). -/
def calFallback (i : Nat) : Word :=
  if P.PWR_MCAL ≤ i ∧ i < P.PWR_MCAL + 72 then
    let m := (i - P.PWR_MCAL) / 9
    if (i - P.PWR_MCAL) % 9 = 8 then (if 4 ≤ m then 38000 else 0) else modeCurrent m
  else if (P.RADIO_TXPWR ≤ i ∧ i < P.RADIO_TXPWR + 25) ∨ (P.MGMT_SENSCAL ≤ i ∧ i < P.MGMT_SENSCAL + 16) then Config.romNominal i
  else resetOf i

/-- Load the calibrated parameters that a test on their index selects. -/
def loadCalWhere (sel : Nat → Bool) (valid : Bool) (s : State) : State :=
  calTable.foldl (fun s row =>
    (List.range row.2.1).foldl (fun s k =>
      let i := row.1 + k
      if sel i then s.setPar i (if valid then (s.calWord (row.2.2.1 + k)) &&& BitVec.ofNat 36 (2 ^ row.2.2.2 - 1) else calFallback i) else s) s) s

/-- Calibration at a boot or warm wake (R644): SYS.CALSTAT, SYS.CAL0-26, every S:cal parameter outside the unpowered RADIO shell, and with OSF at 1 the
P:cal one unless lockout discards the write (R137). -/
def loadCal (s : State) : State :=
  let s := sepiaSaw false 0x5100 256 s
  let ok := s.calValid
  let s := s.setPar P.SYS_CALSTAT (putFld (boolWord ok) 8 (fld (s.calWord 0) 8 8 : BitVec 8))
  let s := (List.range 27).foldl (fun s w => s.setPar (P.SYS_CAL + w) (s.calWord w)) s
  let s := loadCalWhere (fun i => decide (i < 0x0C00) || decide (0x0D00 ≤ i)) ok s
  if (s.par P.PIER_STATUS).getLsbD 0 && !s.locked then s.setPar P.PIER_XTAL (if ok then s.calWord 11 &&& 0x7F else 0x48) else s

/-- The RADIO shell comes up with its S: values, those of the calibration record included (R76, R645). -/
def loadRadioCal (s : State) : State :=
  loadCalWhere (fun i => decide (0x0C00 ≤ i) && decide (i < 0x0D00)) ((s.par P.SYS_CALSTAT).getLsbD 0) s

/-! ### Clocks (R52-R56, R77) -/

/-- Synthesiser G runs: OZ-3648-AB with PWR.ISLAND.L1 = 1 (R359, R72). -/
def State.synthGOn (s : State) : Bool := decide (s.pwr.package = .ab) && (s.par P.PWR_ISLAND).getLsbD 2

/-- 1,568.259 MHz in units of 26 MHz / 2^24, to the nearest unit (R359, Table RAD-10 GFREQ). -/
def synthGFreq : Word := BitVec.ofNat 36 ((1568259 * 2 ^ 24 + 13000) / 26000)

/-- L1 samples become invalid: L1RDY and G LOCK clear. -/
def l1Invalid (s : State) : State := (s.parBit P.PWR_STATUS 6 false).parBit P.SYNTH_GSTAT 0 false

/-- Synthesiser G loses its lock: GFAIL, and samples stay invalid until L1 is written 0 and then 1; one that has not locked yet has none to lose (R359). -/
def gLoses (s : State) : State :=
  if s.synthGOn && (s.par P.SYNTH_GSTAT).getLsbD 0 then
    let s := (l1Invalid s).parBit P.SYNTH_GSTAT 7 true
    s.setPwr { s.pwr with gLost := true }
  else l1Invalid s

/-- The RADIO region has its power while PWR.ISLAND.RADIO is 1: one that a fault sequence has just powered down although the bit was written 1 again comes up anew
(R370, R379), with S: values. -/
def radioKept (s : State) : State :=
  if (s.par P.PWR_ISLAND).getLsbD 1 && !s.radioPowered then loadRadioCal (radioOn s) else s

/-- The fault sequence ends (R379). -/
def faultEnds (s : State) : State := if s.radioFault then radioKept (faultDone s) else s

/-- The 26 MHz source stops: REFRDY and REFLOCK clear and a face transfer waits (R608); where the REF group `ran`, store time, strikes, radio, Trestle and L1 lose what
they lose with it (R77, R83, R359, R380, R458). -/
def refStop (ran : Bool) (s : State) : State :=
  let ready := (s.par P.PWR_STATUS).getLsbD 3
  let s := (s.parBit P.PWR_STATUS 3 false).parBit P.PWR_STATUS 4 false
  let s := if ready then faceRefLost s else s
  if !ran then s
  else radioKept (gLoses (trsRefLost (radioRefLost (timeRefLost s))))

/-- The core PLL has lost its reference or starts to lock again: CCLK runs from the 8 MHz RC (R55). -/
def coreRelock (s : State) : State :=
  (s.parBit P.PWR_STATUS 5 false).setPwr { s.pwr with relock := true }

/-- The 26 MHz source is running: REFRDY (R52); its amplitude is an analog result. In END OF LIFE REF is powered down (R517). -/
def refReady (s : State) : State :=
  if s.vddRuns && (!s.pwr.exiting || s.pwr.refOn) && decide (s.lifeState ≠ 3) && (s.par P.PWR_CLKCTL).getLsbD 0 && !(s.par P.PWR_STATUS).getLsbD 3 then
    let amp := (Config.freeWord (s.freeCtr * 128)) &&& 0x3F
    (s.drawn.setPar P.SYNTH_REFAMP amp).parBit P.PWR_STATUS 3 true
  else s

/-- The REF PLL locks and the dividers are released together (R46, R54): store time starts from 0 (R83). -/
def refLock (s : State) : State :=
  let st := s.par P.PWR_STATUS
  if s.vddRuns && (s.par P.PWR_CLKCTL).getLsbD 0 && st.getLsbD 3 && !st.getLsbD 4 then
    radioRefLock (trsRefLock (timeStart (s.parBit P.PWR_STATUS 4 true)))
  else s

/-- The 26 MHz source stops while the REF group runs (R77): REFFAIL, Sepia's log record, and the core PLL without its reference. -/
def refLoss (s : State) : State :=
  if s.vddRuns && s.refRuns then
    let s := refStop true ((s.parBit P.PWR_STATUS 7 true).raiseIrq 24)
    let s := if (s.par P.PWR_CLKCTL).getLsbD 2 then s else coreRelock s
    s.pushLog 0x003 0x014 (s.par P.PWR_STATUS) 0
  else s

/-- The core PLL locks to its reference (R55). -/
def corePllLock (s : State) : State :=
  if s.vddRuns && s.pwr.relock && ((s.par P.PWR_CLKCTL).getLsbD 2 || (s.par P.PWR_STATUS).getLsbD 3) then
    (s.parBit P.PWR_STATUS 5 true).setPwr { s.pwr with relock := false }
  else s

/-- PWR.CLKCTL takes a value (Table ISL-15): a change of CORESRC relocks the core PLL, REFEN = 0 stops the 26 MHz source and the REF group (log 60). -/
def writeClkctl (v : Word) (s : State) : State :=
  let old := s.par P.PWR_CLKCTL
  let ran := s.refRuns
  let s := s.setPar P.PWR_CLKCTL v
  let s := if old.getLsbD 2 != v.getLsbD 2 then coreRelock s else s
  if old.getLsbD 0 && !v.getLsbD 0 then
    let s := refStop ran s
    if v.getLsbD 2 then s else coreRelock s
  else s

/-- PWR.DVFS.POINT takes a value (R58, R59): a lower point switches the divisor at once, a higher one at the end of the ramp. -/
def writeDvfs (v : Word) (s : State) : State :=
  let p : BitVec 3 := fld v 0 3
  let old := s.par P.PWR_DVFS
  if p = fld old 0 3 && !old.getLsbD 3 then s
  else
    let s := s.setPar P.PWR_DVFS (putBit (p.setWidth 36) 3 true)
    if p.toNat < s.pwr.point.toNat then s.setPwr { s.pwr with point := p } else s

def dvfsEnd (s : State) : State :=
  let v := s.par P.PWR_DVFS
  if s.vddRuns && v.getLsbD 3 then (s.setPar P.PWR_DVFS (putBit v 3 false)).setPwr { s.pwr with point := fld v 0 3 } else s

/-! ### Islands (Table ISL-18) -/

/-- PWR.ISLAND takes a value: regions whose bit changes gain or lose power (R370, R379, R426, R505, R72). -/
def writeIsland (v : Word) (s : State) : State :=
  let old := s.par P.PWR_ISLAND
  let s := s.setPar P.PWR_ISLAND v
  let s := if old.getLsbD 0 && !v.getLsbD 0 then trsOff s else s
  let s := if !old.getLsbD 0 && v.getLsbD 0 then trsOn s else s
  let s := if !old.getLsbD 1 && v.getLsbD 1 then radioKept s else s
  let s := if old.getLsbD 1 && !v.getLsbD 1 then radioPowerOff s else s
  let s := if !old.getLsbD 3 && v.getLsbD 3 then cipherPowerUp s else s
  let s := if old.getLsbD 3 && !v.getLsbD 3 then challengeRetry (cipherOff s) else s
  if old.getLsbD 2 != v.getLsbD 2 then
    let s := (l1Invalid s).setPwr { s.pwr with gLost := false }
    s.setPar P.SYNTH_GFREQ (if s.synthGOn then synthGFreq else 0)
  else s

/-- Synthesiser G has calibrated and the first valid L1 sample arrives (R61, R359): results and gain in use are analog unless the gain is fixed. -/
def l1Ready (s : State) : State :=
  if s.synthGOn && s.refRuns && !s.pwr.gLost && !(s.par P.PWR_STATUS).getLsbD 6 then
    let free := Config.freeWord (s.freeCtr * 128)
    let ctl := s.par P.SYNTH_GCTL
    let gain : BitVec 6 := if ctl.getLsbD 0 then fld ctl 1 6 else fld free 12 6
    let s := s.drawn.setPar P.SYNTH_GCAL ((fld free 0 12 : BitVec 12).setWidth 36)
    let s := s.setPar P.SYNTH_GSTAT (putFld (putBit (s.par P.SYNTH_GSTAT) 0 true) 1 gain)
    s.parBit P.PWR_STATUS 6 true
  else s

/-- Synthesiser G loses lock (R359). -/
def synthGLoss (s : State) : State := if s.synthGOn && (s.par P.SYNTH_GSTAT).getLsbD 0 then gLoses s else s

/-! ### Shells (Table MAP-1) -/

/-- The island that holds a parameter. -/
inductive Shell where
  | sepia
  | core
  | pier
  | time
  | synth
  | radio
  | wake
  | trestle
  | cipher
  deriving DecidableEq, Repr

/-- The shell of an index (Table MAP-1). RNG.STATUS has two: ALARM is in CORE and is read and kept with CIPHER off (readPar, cipherShellReset, ownResets), its
other bits are in CIPHER, as the answer here says. -/
def shellOf (i : Nat) : Shell :=
  match i / 256 with
  | 0x00 => .sepia
  | 0x01 => if 0x110 ≤ i ∧ i < 0x120 then .pier else .core
  | 0x02 => .pier
  | 0x03 => .time
  | 0x04 => .time
  | 0x0B => .synth
  | 0x0C => .radio
  | 0x0D => .radio
  | 0x0E => .wake
  | 0x1C => if i = P.CRYPT_KREFUSE ∨ i = P.RNG_ALMINFO then .core else .cipher
  | 0x1D => .sepia
  | 0x1E => .sepia
  | 0x1F => if 0x1F10 ≤ i ∧ i < 0x1F24 then .sepia else if 0x1F40 ≤ i ∧ i < 0x1F4B then .wake else .core
  | b => if 0x0F ≤ b ∧ b < 0x1C then .trestle else .core

/-- The value a parameter takes at a reset that keeps its RWS and P: fields or not (R11, R12, R24). -/
def resetValue (keepRws : Bool) (i : Nat) (v : Word) : Word :=
  match sheetOf i with
  | some sh => if keepRws then (sh.reset &&& ~~~sh.keep) ||| (v &&& sh.keep) else sh.reset
  | none => v

/-- Every VDD parameter takes its S: value, but for those of the shells named; the Pier's are kept (Tables BOO-2, ISL-9). -/
def resetShells (keepRws keepWake : Bool) (s : State) : State :=
  s.params.foldl (fun s e =>
    let sh := shellOf e.1
    if sh = .pier ∨ (keepWake ∧ sh = .wake) then s else s.setPar e.1 (resetValue keepRws e.1 e.2)) s

/-- What only a system reset clears comes through the exit of mode 1, which is none (R638): KREFUSE (R504), RNG.STATUS.ALARM and RNG.ALMINFO (R502); log 97. -/
def ownResets (old s : State) : State :=
  let s := (s.setPar P.CRYPT_KREFUSE (old.par P.CRYPT_KREFUSE)).setPar P.RNG_ALMINFO (old.par P.RNG_ALMINFO)
  s.setPar P.RNG_STATUS (old.par P.RNG_STATUS &&& 2)

/-! ### What an exit, a reset or a mode entry takes away -/

/-- The TIME island starts afresh: the pins of the package take the levels of PINCTL (R18, R103, Table TIM-4). At a system reset PINCTL has its S:0 value by
then, so that levels written before act at a mode entry only, which is this model's choice of the order (log 12). -/
def freshTime (s : State) : State :=
  let levels : BitVec 4 := fld (s.par P.TIME_PINCTL) 4 4
  { s with time := TimeSt.init (if s.pwr.package = .ab then levels else levels &&& 3) }

/-- TIME at the entry to modes 0-2 (R83, R114, Table ISL-9): VALID clears, and every unit disarms. What a STEP, a LOAD or an ARM = 1 has latched in the shell waits
there for a TCLK edge (R50, R76), and the events posted to Sepia wait for Sepia (R568). A load already taken, which waits for its Pier tick, is abandoned as R86
says of a loss of REF, which is the model's choice (log 95). -/
def timeModeEntry (s : State) : State :=
  let old := s.time
  let load := old.load.filter (fun l => !l.taken)
  let s := freshTime s
  let s := { s with time := { s.time with steps := old.steps, armPend := old.armPend, pinInv := old.pinInv, load := load, sepiaEvs := old.sepiaEvs } }
  let s := s.setPar P.TIME_STATUS (putBit (putBit (s.par P.TIME_STATUS) 0 false) 3 load.isSome)
  (List.finRange 8).foldl (fun s n => if s.armed n then disarm n s else s) s

def emptyCrypt : CryptSt :=
  { op := none, inFifo := [], outFifo := [], keys := Vector.replicate 8 0, kt := Vector.replicate 8 0 }

/-- CORE logic beside Umber loses its state: the queue of crossings, write-backs, DMA channels and request lines. -/
def coreLost (s : State) : State :=
  let s := s.setMem { s.mem with wbacks := [], scrubPend := false, toOff := 0 }
  { s with dma := Vector.replicate 16 DmaSt.init, dmaLast := 15, rev := none, lines := 0 }

/-- Arches and the tile that a system reset with VDD finds without their contents: OFF, INIT, or ENTERING toward OFF (R294, R642). A second reset before the boot
finds them as the first left them (Table BOO-2). -/
def State.archesGone (s : State) : List Nat :=
  if s.pwr.mode = .reset then []
  else (List.range 5).filter (fun k => decide (s.archState k ≤ 1) || (decide (s.archState k = 3) && s.mem.toOff.getLsbD k))

/-- Umber as an entry to a vector leaves it (R162), VBASE and the program counter given, its buffers, lock bits and bit RAM empty. -/
def freshUmber (vbase : Addr) (pc : Addr) (run : UmberRun) (s : State) : State :=
  s.setUmber { UmberSt.init with vbase := vbase.setWidth 36, pc := pc, run := run }

/-- Arches and tile that lost their power hold zeros when they are next ready (R296, R298). -/
def archesLost (ks : List Nat) (s : State) : State := ks.foldl (fun s k => initArch k s) s

/-- The repair latches are loaded, and all arches and the tile are READY (R305, Tables BOO-3, BOO-4). -/
def archesReady (s : State) : State :=
  let s := (List.finRange 16).foldl (fun s b => s.setPar (P.MEM_REPAIR + b.val) s.life.fuses.repair[b]) s
  (List.range 5).foldl (fun s k => s.setArchState k 2) s

/-- A boot is under way: the part has left reset and COLD_BOOT has not run, or an Umber reset waits to take place. -/
def State.booting (s : State) : Bool := (decide (s.pwr.mode = .reset) && !s.pwr.rstLow) || s.pwr.umberRst.isSome

/-- The NVM work that a boot does before Umber starts (R517, R554, R555). -/
def bootWrites (s : State) : State :=
  let s := loadFuses s
  match s.lifeState with
  | 0 => s
  | 3 => zeroiseKeys s
  | _ => (selectSlot s).2

/-- The work of the NVM controller that a loss of VDD or a reset can fall into (R36, R316, R649; log 84): the piece in progress, a boot's, the next log record (R559), or the next word
of the write queue, which for a program slot comes after the clearing of the slot's seal (R547); where both of the last two wait, either. -/
def workInProgress (s : State) : State :=
  if !s.mgmt.job.isEmpty then s
  else if s.booting then bootWrites s
  else if !s.mgmt.logQ.isEmpty && (s.mgmt.nvmQ.isEmpty || Config.freeBool (s.freeCtr * 128 + 100)) then writeLog s
  else if s.mgmt.nvmQ.isEmpty then s
  else nvmWordWrite 0 s

/-- A loss of VDD at some step of that work (R316). -/
def tearNvm (s : State) : State := tearJob (workInProgress s)

/-- A system reset other than a loss of VDD at some step of that work, whose word attempt in progress finishes (R36, R649). -/
def finishNvm (s : State) : State := stopJob (workInProgress s)

/-- A system reset (R638, R639, Table BOO-2). `lost`: VDD was lost, or the part leaves mode 0. The held TICK_LO shadows of Umber and Sepia stay as they are:
R123 names no release by a reset, and this is the model's choice (log 96). -/
def systemReset (code : BitVec 5) (lost : Bool) (s : State) : State :=
  let drained := resetDrain s
  let s := if lost then s else finishNvm drained.2
  let s := withdrawRights true s
  let s := archesLost (if lost then List.range 5 else s.archesGone) s
  let vbase : Addr := fld s.umber.vbase 0 24
  let s := resetShells (!lost) false s
  let s := { s with masks := [], bank := BankSt.init }
  let s := freshTime s
  let s := coreLost (freshUmber vbase 0 .inReset s)
  let s := logLost (if lost then 0 else drained.1) ((s.setMgmt MgmtSt.init).setRadio RadioSt.init)
  let s := (s.setTrs TrsSt.init).setWake WakeSt.init
  let s := (s.setCrypt emptyCrypt).setRng RngSt.init
  let s := (s.setHost (HostSt.init (decide (s.pwr.package = .ab)))).setPod PodSt.init
  let s := s.setFace FaceSt.init
  let s := s.setLife { s.life with heldReset := none, respChk := false, chalWait := false, certChk := false, grants := Vector.replicate 8 none, histCnt := 0 }
  s.setPwr { s.pwr with mode := .reset, code := code, vddLost := s.pwr.vddLost || lost, exiting := false, refOn := true, gpioWake := false,
                        hostWake := false, relock := true, point := 1, gLost := false, umberRst := none }

/-- A system reset requested while the fuses are being blown waits for BUSY to clear (R521). -/
def requestReset (code : BitVec 5) (s : State) : State :=
  if s.fuseBusy then s.setLife { s.life with heldReset := some code } else systemReset code false s

/-! ### Boot (R642, R643) -/

/-- Pier event records not yet copied go into the event log, oldest first (R140). -/
def copyPierEvents (s : State) : State :=
  let n := s.pier.evUncopied.toNat
  let next : BitVec 3 := fld (s.par P.PIER_EVIDX) 0 3
  let s := (List.range n).foldl (fun s k =>
    let slot : BitVec 3 := next - BitVec.ofNat 3 (n - k)
    s.pushLog 0x005 0x010 (s.par (P.PIER_EV + 2 * slot.toNat)) (s.par (P.PIER_EV + 2 * slot.toNat + 1))) s
  s.setPier { s.pier with evUncopied := 0 }

/-- The first address of a slot, VBASE of an image (R164, R541). -/
def slotBase (k : BitVec 1) : Addr := if k = 0 then 0x000000 else 0x018000

/-- Umber enters vector 0 of a slot with VBASE set (R162, R554): the boot record, the watchdog at stage 0 and HALTVEC (R654). -/
def startUmber (k : BitVec 1) (s : State) : State :=
  let b := slotBase k
  let s := s.setPar P.MGMT_BOOTSTAT (putBit (s.par P.MGMT_BOOTSTAT) 6 (k == 1))
  let s := s.pushLog 0x001 0x000 (s.par P.MGMT_RSTCAUSE) (putBit ((hdrVersion (s.header k)).setWidth 36) 32 (k == 1))
  let s := s.setMgmt { s.mgmt with slot := k }
  let s := if s.wdEnabled then wdEnter 0 s else s
  haltVector (freshUmber b b .running s)

/-- Regions as Sepia loads them before it starts Umber (R328, R551). -/
def loadRegions (b : Addr) (s : State) : State :=
  loadRegionSet (loadBootRegions b ((List.range 16).foldl (fun s d => disableRegions d s) s))

/-- In END OF LIFE Sepia has zeroised the key store by t1 (zeroiseKeys), and powers down every island but PIER, WAKE, SEPIA and HOST: CORE with its arches, REF and the
islands with a bit of PWR.ISLAND (R517). -/
def eolBoot (s : State) : State :=
  let s := archesLost (List.range 5) (refStop s.refRuns (writeIsland 0 (nvmSettled (zeroiseKeys (nvmSettled s)))))
  let s := (List.range 5).foldl (fun s k => s.setArchState k 0) s
  s.setPwr { s.pwr with mode := .active, vddLost := false, relock := false, refOn := false }

/-- The slot chosen starts, its boot state and rollback fuses written before (R554, R555), or Umber stays in reset with NOIMAGE. -/
def bootSlot (k : Option (BitVec 1)) (s : State) : State :=
  let s := showRollback s
  match k with
  | some k => startUmber k (loadRegions (slotBase k) s)
  | none => loadRegions 0 (s.parBit P.MGMT_STATUS 0 true)

/-- MGMT.VERSION shows the patch version of a valid patch only (R541, Table BOO-3). -/
def showPatch (s : State) : State :=
  let s := sepiaSaw false 0x5200 0xE00 (nvmSettled s)
  let patch := s.mem.dnvm.filter (fun e => decide (0x5200 ≤ e.1) && decide (e.1 < 0x6000) && s.sepiaMayRead (nvmAddr false e.1))
  if Config.patchValid patch then s else s.setPar P.MGMT_VERSION (putFld (s.par P.MGMT_VERSION) 16 (0 : BitVec 16))

/-- Cold boot (R642, Table BOO-3). -/
def coldBoot (r : Readings) (s : State) : State :=
  if s.pwr.mode = .reset ∧ s.pwr.vddOk ∧ s.pwr.pierOn ∧ ¬ s.pwr.rstLow then
    let s := hostReady (loadFuses (s.setPar P.MGMT_RSTCAUSE (s.pwr.code.setWidth 36)))
    let s := showRights false s
    if s.lifeState = 3 then eolBoot s
    else
      let s := loadRole (showPatch (loadCal s))
      let s := s.setPwr { s.pwr with mode := .active, vddLost := false, relock := false }
      let s := copyPierEvents ((archesReady s).parBit P.PWR_STATUS 5 true)
      let s := chargeFold (measure 0x07 r s)
      let s := checkCerts s
      if s.lifeState = 0 then loadRegions 0 (showSlots s)
      else
        let c := selectSlot s
        bootSlot c.1 c.2
  else s

/-- The release notice latched while Sepia was stopped is acted on, a transaction that was running at the entry to mode 2 ended before (R606, R616). -/
def takeNotice (s : State) : State := if s.pod.notice then actOnNotice (podCut s) else s

/-- A fold with the residency counters and the Pier tick of the wake snapshot (R643). -/
def snapFold (s : State) : State :=
  let now := (List.finRange 16).map (fun k => s.par (P.PWR_RES + k.val))
  let s := (List.finRange 16).foldl (fun s k => s.setPar (P.PWR_RES + k.val) s.pwr.snap[k]) s
  let s := foldAt (fld s.pwr.snapTick 15 33) s
  (List.range 16).foldl (fun s k => s.setPar (P.PWR_RES + k) (now.getD k 0)) s

/-- Warm wake from mode 1 (R643, Table BOO-4): the patch partition is not verified again, and MGMT.VERSION stands. -/
def warmWake (r : Readings) (s : State) : State :=
  if s.pwr.mode = .doze ∧ s.pwr.exiting then
    let version := s.par P.MGMT_VERSION
    let s := hostReady ((loadFuses (s.setPar P.MGMT_RSTCAUSE 9)).setPar P.MGMT_VERSION version)
    let s := showRights false s
    let s := s.setPwr { s.pwr with mode := .active, exiting := false, relock := false, refOn := true, gpioWake := false, hostWake := false }
    if s.lifeState = 3 then eolBoot s
    else
      let s := loadCal (loadRole s)
      let s := copyPierEvents ((archesReady s).parBit P.PWR_STATUS 5 true)
      let s := takeNotice (snapFold (measure 0x01 r s))
      let c := if s.lifeState = 0 then (none, showSlots s) else warmSlot s
      let s := checkCerts c.2
      if s.lifeState = 0 then loadRegions 0 s else bootSlot c.1 s
  else s

/-- RETAIN exit (R66, R64, Table ISL-10, R298): CORE at point 1 with CORESRC = 1, Umber at vector 1; the fold, a latched release notice and the certificate windows (R530) follow. With
RETCFG.REFWAKE = 0 the 26 MHz source may start once the exit ends if CLKCTL.REFEN is 1, and with REFEN = 0 it does not start whatever REFWAKE holds: this
model's choice (log 60). -/
def retainExit (s : State) : State :=
  if s.pwr.mode = .retain ∧ s.pwr.exiting then
    let vbase : Addr := fld s.umber.vbase 0 24
    let s := s.setPwr { s.pwr with mode := .active, exiting := false, relock := false, point := 1, refOn := true, gpioWake := false, hostWake := false }
    let s := (s.setPar P.PWR_DVFS 1).parBit P.PWR_CLKCTL 2 true
    let s := s.parBit P.PWR_STATUS 5 true
    let s := (List.range 5).foldl (fun s k =>
      let st := s.archState k
      if st = 0 then (if s.archWant k = 0 then s.setArchState k 1 else s)
      else if s.archWant k = 0 then s.setArchState k 2 else s) s
    let s := if (s.par P.PWR_ISLAND).getLsbD 1 then towardStandby false false s else s
    let s := sepiaWindows (takeNotice (chargeFold (copyPierEvents s)))
    let s := if s.wdEnabled then wdEnter 0 s else s
    let run := if s.umber.run = .inReset then UmberRun.inReset else UmberRun.running
    freshUmber vbase (vbase + 4) run s
  else s

/-! ### Modes (R60-R65) -/

/-- Wake sources pending for a target mode, enabled and valid for it (Table ISL-8; log 61). -/
def State.wakePending (s : State) (target : Nat) : BitVec 6 :=
  let st := s.par P.PIER_STATUS
  let irq := decide (s.umber.ipend &&& s.umber.ien ≠ 0)
  let now : BitVec 6 := BitVec.ofBool irq ++ BitVec.ofBool s.pwr.hostWake ++ BitVec.ofBool s.pwr.gpioWake
    ++ BitVec.ofBool ((s.par P.WAKE_STATUS).getLsbD 0) ++ BitVec.ofBool (st.getLsbD 8) ++ BitVec.ofBool (st.getLsbD 7)
  let valid : BitVec 6 := if target = 0 then 0x03 else if target = 3 then 0x3F else 0x1F
  now &&& valid &&& fld (s.par P.PWR_WAKEEN) 0 6

/-- Some wake source valid for the target is enabled (R62 check 4, R74). -/
def State.wakeEnabled (s : State) (target : Nat) : Bool :=
  let valid : BitVec 6 := if target = 3 then 0x3F else 0x1F
  (fld (s.par P.PWR_WAKEEN) 0 6 : BitVec 6) &&& valid != 0

/-- The islands that modes 0-2 stop lose their state (Table ISL-9): REF group, CIPHER, DMA, a transaction on the host's wires; in mode 2 the shells keep their values,
and with them HOST.DOORIN its request (R589), the host port its direct registers with the write queue and the read in flight that they report (R573, R577), and a
revocation that has not come to its end its BUSY, until it does (R344). -/
def modeEntry (s : State) : State :=
  let s := (s.parBit P.PWR_STATUS 3 false).parBit P.PWR_STATUS 4 false
  let s := timeModeEntry (trsModeEntry (l1Invalid s))
  let s := s.setRadio { RadioSt.init with late := s.radio.late, rcDone := s.radio.rcDone, iqDone := s.radio.iqDone, dcDone := s.radio.dcDone, rxInfo := s.radio.rxInfo,
                                           air := s.radio.air }
  let s := if s.radioState = rsOff then s else goRadio rsSleep false false s
  let s := challengeRetry (cipherStop s)
  let s := s.setFace { FaceSt.init with fbusy := s.face.fbusy, untouched := s.face.untouched }
  let rev := s.rev
  { coreLost (s.setHost { s.host with txn := none, readLive := false, sent := [] }) with rev := rev }

/-- The entry to a mode completes (R62, R65). -/
def enterMode (target : Nat) (s : State) : State :=
  let s := s.setPwr { s.pwr with gpioWake := false, hostWake := false }
  if target = 3 then (s.setPwr { s.pwr with mode := .halt }).setUmber { s.umber with run := .gated }
  else if target = 2 then
    let cfg := s.par P.PWR_RETCFG
    let s := modeEntry s
    let lost := (List.range 5).filter (fun k => !cfg.getLsbD k)
    let s := (archesLost lost s)
    let s := lost.foldl (fun s k => s.setArchState k 0) s
    wakeEnter ((s.setPod { s.pod with pullKept := true }).setPwr { s.pwr with mode := .retain })
  else
    let s := withdrawRights true (archesLost (List.range 5) (modeEntry s))
    let s := (s.setHost { s.host with wq := [], read := none, readBehind := 0 }).setPod { s.pod with txn := none }
    let s := s.setMgmt { MgmtSt.init with slot := s.mgmt.slot }
    let s := s.setPwr { s.pwr with mode := (if target = 1 then .doze else .pier) }
    if target = 1 then wakeEnter (s.setPod { s.pod with pullKept := true }) else s

/-- Every arch and the tile rest in a state: no transition is in progress (R298). -/
def State.archesRest (s : State) : Bool :=
  (List.range 5).all (fun k => decide (s.archState k = 0) || decide (s.archState k = 2) || decide (s.archState k = 4))

/-- What STOP waits for before its checks (R62, R78, R298, R568, R623); that an entry that stops Sepia also waits for the fuses being blown is this model's choice,
so that no exit's reset comes while BUSY is 1 (R535; log 99). -/
def State.stopWaits (s : State) (target : Nat) : Bool :=
  !s.umber.pwq.isEmpty || (s.par P.PWR_DVFS).getLsbD 3 || (decide (target < 3) && (!s.nvmIdle || s.fuseBusy)) || (target == 2 && !s.archesRest)

/-- The cause with which an entry is abandoned; 0 none (R62). -/
def State.stopCause (s : State) (target : Nat) : BitVec 3 :=
  let st := s.radioState
  if target < 3 ∧ ¬ s.dmaIdle then 2
  else if target < 3 ∧ ¬ (st = rsOff ∨ st = rsSleep ∨ st = rsStandby) then 3
  else if target ≠ 0 ∧ ¬ s.wakeEnabled target then 4
  else if s.wakePending target ≠ 0 then 1
  else 0

/-- The entry that STOP asks for, its waits over: it completes, or is abandoned with ABORT, CAUSE and source PWR (R62, R73, Table UMM-11). Edges seen while it
waited end with it. -/
def tryStop (s : State) : State :=
  let s := nvmSettled s
  let target := (fld (s.par P.PWR_MODE) 0 2 : BitVec 2).toNat
  let cause := s.stopCause target
  if cause = 0 then enterMode target s
  else
    let s := s.setPwr { s.pwr with gpioWake := false, hostWake := false }
    (s.setPar P.PWR_STATUS (putFld (putBit (s.par P.PWR_STATUS) 8 true) 9 cause)).raiseIrq 24

/-- The sources that can end a mode (R424): while the crystal has failed, the Pier alarms alone end modes 1 and 2. -/
def State.wakeSources (s : State) (target : Nat) : BitVec 6 :=
  if s.crystalRuns || decide (target = 0) || decide (target = 3) then s.wakePending target else s.wakePending target &&& 3

/-- The mode sequencer accepts the pending sources of the present mode (R64); the watchdog restarts from stage 0 (R556). From mode 0 the cold boot follows, from mode 1 the CORE, SEPIA, HOST, REF and
CIPHER shells take their values first, MGMT.VERSION keeping the patch version (R643); PWR.WAKESRC is written after that, with the pending sources that are enabled and valid for the mode: that it leaves out
the others is this model's choice (log 61). An open listening window closes (R411), and an interrupt that ends HALT is taken before the instruction after
STOP. -/
def wakeAccept (s : State) : State :=
  let go := fun (target : Nat) (s : State) => !s.pwr.exiting && s.wakeSources target != 0
  match s.pwr.mode with
  | .halt =>
    if go 3 s then
      let src := s.wakeSources 3
      let s := s.setPwr { s.pwr with mode := .active, gpioWake := false, hostWake := false }
      let s := if s.umber.run = .gated then s.setUmber { s.umber with run := .running, wakeIrq := s.irqNext.isSome } else s
      let s := if s.wdEnabled then wdEnter 0 s else s
      s.setPar P.PWR_WAKESRC (src.setWidth 36)
    else s
  | .retain =>
    if go 2 s then
      let src := s.wakeSources 2
      let on := (s.par P.PWR_RETCFG).getLsbD 5
      let s := wakeLeave (s.setPwr { s.pwr with exiting := true, refOn := on, gpioWake := false, hostWake := false })
      s.setPar P.PWR_WAKESRC (src.setWidth 36)
    else s
  | .doze =>
    if go 1 s then
      let src := s.wakeSources 1
      let on := (s.par P.PWR_RETCFG).getLsbD 5
      let snap := Vector.ofFn (fun (k : Fin 16) => s.par (P.PWR_RES + k.val))
      let vbase : Addr := fld s.umber.vbase 0 24
      let pod : PodSt := { PodSt.init with notice := s.pod.notice, identDue := s.pod.identDue, owed := s.pod.owed, pullKept := s.pod.pullKept }
      let version := s.par P.MGMT_VERSION
      let tick := s.pier.tick
      let wire : HostSt := { HostSt.init (decide (s.pwr.package = .ab)) with txn := s.host.txn, sent := s.host.sent }
      let s := { ((ownResets s (resetShells true true (wakeLeave s))).setPar P.MGMT_VERSION version) with masks := [], bank := BankSt.init, rev := none }
      let s := freshUmber vbase 0 .inReset (freshTime s)
      let s := (s.setRadio RadioSt.init).setTrs TrsSt.init
      let s := (s.setCrypt emptyCrypt).setRng RngSt.init
      let s := (s.setHost wire).setPod pod
      let s := s.setFace FaceSt.init
      let s := s.setLife { s.life with heldReset := none, respChk := false, chalWait := false, certChk := false, histCnt := 0 }
      let s := s.setPwr { s.pwr with exiting := true, refOn := on, snap := snap, snapTick := tick, gpioWake := false, hostWake := false, relock := true, point := 1,
                                     gLost := false, umberRst := none }
      s.setPar P.PWR_WAKESRC (src.setWidth 36)
    else s
  | .pier =>
    if s.pwr.vddOk && go 0 s then
      let src := s.wakeSources 0
      (systemReset 10 true s).setPar P.PWR_WAKESRC (src.setWidth 36)
    else s
  | _ => s

/-! ### Umber resets (R640, R641) -/

/-- An Umber reset of code 16-18 (R640): every step before Sepia starts Umber, and the start. A system reset held by the fuses does not touch it. -/
def umberReset (code : BitVec 5) (s : State) : State :=
  let s := s.setPar P.MGMT_RSTCAUSE (code.setWidth 36)
  let vbase : Addr := fld s.umber.vbase 0 24
  let drained := resetDrain s
  let s := logLost drained.1 drained.2
  let s := if s.radioState = rsOff then s else startFault false s
  let s := rngForgetCore (archesSettle (dmaReset s))
  let s := showHalted false (freshUmber vbase 0 .inReset s)
  let s := match s.crypt.op with
    | some o => if o.owner = 0 then s else stopOp 7 s
    | none => s
  let s := clearKeysOf (fun d => d != 0) s
  let s := withdrawRights true s
  let s := (List.range 16).foldl (fun s d => disableRegions d s) s
  let s := showRollback (s.parBit P.MGMT_STATUS 0 false)
  let c := if s.lifeState = 0 then (none, showSlots s) else selectSlot s
  let s := checkCerts c.2
  let s := s.setPwr { s.pwr with mode := (if s.pwr.mode = .halt then .active else s.pwr.mode) }
  if s.lifeState = 0 then loadRegions 0 s else bootSlot c.1 s

/-! ### Supplies and reset pins (R67-R70, R651, R677) -/

/-- The part loses VDD (R70): every VDD island is held in reset, with R24's fields lost; writes in progress are torn (R316, R522). -/
def vddLoss (s : State) : State :=
  if s.pwr.vddOk then
    let s := tearFuses (tearNvm s)
    let s := systemReset 3 true (s.setUmber { s.umber with sb := [] })
    s.setPwr { s.pwr with vddOk := false, mode := .vddOff }
  else s

/-- VDD rises through the release point (R68): the first release after a Pier power-on has code 1, the end of a brown-out code 3, a power-on code 2
(Table BOO-1; log 63). -/
def vddRise (brownout : Bool) (s : State) : State :=
  if s.pwr.vddOk || !s.pwr.pierOn then s
  else s.setPwr { s.pwr with vddOk := true, mode := .reset, code := (if s.pwr.code = 1 then 1 else if brownout then 3 else 2) }

/-- RST_N or TESTEN changes (R651, R677): either low holds every VDD island in reset; in mode 0 it is an exit, with the losses of mode 0 (Table ISL-9). -/
def resetPins (pin testen : Bool) (s : State) : State :=
  let s := s.setPwr { s.pwr with rstPin := pin, testen := testen }
  if pin || testen then
    if s.pwr.rstLow then s
    else
      let s' := s.setPwr { s.pwr with rstLow := true }
      if !s.pwr.vddOk then s'
      else if s.fuseBusy then s'.setLife { s'.life with heldReset := some 4 }
      else
        systemReset 4 (decide (s.pwr.mode = OpMode.pier)) s'
  else s.setPwr { s.pwr with rstLow := false }

/-- The Pier browns out (R69, R152): nothing of it runs until it is powered again, and the VDD islands are reset with it (R12). -/
def pierBrownout (s : State) : State :=
  if s.pwr.pierOn then
    let s := vddLoss s
    s.setPwr { s.pwr with pierOn := false }
  else s

end Sys2Proof.Machine
end

