-- ==== Sys2Proof/Machine/ParamSpace.lean ====
section
/-!
DEFINITION. Sys2Proof/Machine/ParamSpace.lean: accesses to the parameter space and the peripheral bits (20 R622-R628; 05 R168): denials, refusals in the order
of R624, what a write does in its block, reads with their side effects, and the delivery of queued writes to their shells.
-/

namespace Sys2Proof.Machine

/-! ### Which parameter an index is -/

/-- `i` lies in an array of `n` parameters from `b`. -/
def inPars (i b n : Nat) : Bool := decide (b ≤ i) && decide (i < b + n)

/-- The strike unit, DMA channel or Trestle channel of an index of its block. -/
def unitOf (i : Nat) : Fin 8 := Fin.ofNat 8 ((i - 0x400) / 16)
def chanOf (i : Nat) : Fin 16 := Fin.ofNat 16 ((i - 0xA00) / 16)
def trackOf (i : Nat) : Fin 48 := Fin.ofNat 48 ((i - 0x1000) / 64)

/-- `i` is the parameter of a strike unit, DMA channel or Trestle channel whose first one is `b`. -/
def isStrk (i b : Nat) : Bool := inPars i 0x400 0x80 && decide (i % 16 = b % 16)
def isDma (i b : Nat) : Bool := inPars i 0xA00 0x100 && decide (i % 16 = b % 16)
def isCh (i b : Nat) : Bool := inPars i 0x1000 0xC00 && decide (i % 64 = b % 64)

/-- A DBG parameter (Table MAP-4): block 0x1F beside HOST, POD, FACE and GPIO. -/
def isDbg (i : Nat) : Bool :=
  decide (i / 256 = 0x1F) && !(decide (i < 0x1F04) || inPars i 0x1F10 20 || inPars i 0x1F30 4 || inPars i 0x1F40 11)

/-- DBG.MARK0-16. -/
def isMark (i : Nat) : Bool := inPars i P.DBG_MARK 12 || inPars i P.DBG_MARK12 5

/-! ### Accessors -/

/-- The host: domain 1, or with right PARAM in effect checked as domain 0 (R578). -/
def State.hostAcc (s : State) : Accessor := { master := .host, dom := 1, prv := s.right rightParam }

/-- The privilege of SR.PRV = 1: Umber with it, Sepia, or the host with PARAM; never DMA (R326, R329). -/
def Accessor.kernel (a : Accessor) : Bool := decide (a.master = .sepia) || (a.prv && !a.master.isDma)

/-! ### Denials (reason 8) -/

/-- The block mask denies the access (R324); the host with PARAM is checked as domain 0, whose bits are fixed at 1 (R578). -/
def State.maskDenies (s : State) (acc : Accessor) (i : Nat) (write : Bool) : Bool :=
  !(decide (acc.master = .host) && acc.prv) && !s.maskOk acc i write

/-- Writes that need the kernel's privilege (R326, R353). -/
def kernelOnly (i : Nat) : Bool :=
  inPars i P.MPU_BASE 0x300 || i == P.DOM_PMASK || i == P.DOM_REGLOCK || i == P.DOM_LKVIEW

/-- Umber, or the host, breaks the privilege rule of such a write (SUB 4 for Umber). -/
def privDenies (acc : Accessor) (i : Nat) (write : Bool) : Bool :=
  write && kernelOnly i && !acc.prv && (decide (acc.master = .umber) || decide (acc.master = .host))

/-- A host access to DBG without right BRK (Table MAP-5). -/
def State.brkDenies (s : State) (acc : Accessor) (i : Nat) : Bool :=
  decide (acc.master = .host) && isDbg i && !isMark i && !s.right rightBrk

/-- An access to a populated index is denied (R624). -/
def State.denied (s : State) (acc : Accessor) (i : Nat) (write : Bool) : Bool :=
  populated i && (s.maskDenies acc i write || privDenies acc i write || s.brkDenies acc i)

/-! ### Refusals (Table MAP-3) -/

/-- The shell has no power (R626). -/
def State.shellOff (s : State) (i : Nat) : Bool :=
  match shellOf i with
  | .radio => !s.radioPowered
  | .trestle => !(s.par P.PWR_ISLAND).getLsbD 0
  | .cipher => !s.cipherOn
  | _ => false

/-- Reason 3 (Table MAP-5, R515, R517): SYNTH.TESTn, RADIO.TESTn (R381) and the test parameters of Trestle outside BLANK and TEST among them. -/
def State.lifeRefuses (s : State) (acc : Accessor) (i : Nat) (v : Word) : Bool :=
  let l := s.lifeState
  let early := inPars i P.SYNTH_TEST 64 || inPars i P.RADIO_TEST 79 || inPars i P.TRS_TEST 64
  let test := inPars i P.CRYPT_TEST 32 || inPars i P.MGMT_TEST 48 || (i == P.RNG_CTL && (v &&& 3) != 0)
  (decide (1 < l) && early) || (decide (l ≠ 1) && test) || (decide (l = 3) && decide (acc.master ≠ .sepia))

/-- Reason 7 (R26, R72). -/
def State.roleRefuses (s : State) (i : Nat) (v : Word) : Bool :=
  (i == P.SYS_ROLE && !s.roleAccepted (fld v 0 2))
    || (i == P.PWR_ISLAND && v.getLsbD 2 && decide (s.pwr.package = .ab) && decide (s.par P.SYS_ROLEACT ≠ 2))

/-- The OWNER a write of DMA.CTL names differs from the one held. -/
def State.ownerChange (s : State) (c : Fin 16) (v : Word) : Bool := decide ((fld v 0 4 : Dom) ≠ s.dmaOwner c)

/-- The writer rule of a DMA channel's parameters is broken (R329). -/
def State.dmaRefuses (s : State) (acc : Accessor) (i : Nat) (v : Word) : Bool :=
  let c := chanOf i
  if isDma i P.DMA_CTL && s.ownerChange c v then
    !acc.kernel || (decide ((fld v 0 4 : Dom) = 0) && decide (acc.master ≠ .sepia))
  else !acc.kernel && decide (acc.dom ≠ s.dmaOwner c)

/-- The writer rule of the life-cycle parameters is broken (R519, R520, R534). -/
def State.lifeWriteRefused (s : State) (acc : Accessor) (i : Nat) (v : Word) : Bool :=
  let kernel := decide (acc.master = .host) || acc.kernel
  if i == P.LIFE_TRANS then
    (s.transTarget v).isNone
      || !(if s.lifeState = 2 then (if acc.master = .host then s.right rightEolReq else acc.kernel) else kernel)
  else if inPars i P.LIFE_OWNSET 8 then !kernel || decide (1 < s.lifeState) || s.ownerRoot
  else if i == P.LIFE_OWNCMD then !kernel || decide (1 < s.lifeState) || s.ownerRoot || v != 0xA55A
  else if i == P.LIFE_DBGCMD || i == P.LIFE_DBGSCOPE || inPars i P.LIFE_RESP 16 then
    !(decide (acc.master = .host) || decide (acc.master = .sepia))
  else false

/-- Writes of CRYPT, MGMT and their reads that belong to the owner or requester alone (R495, R544). -/
def State.foreign (s : State) (acc : Accessor) (i : Nat) : Bool :=
  ((i == P.CRYPT_IN || i == P.CRYPT_OUT || i == P.CRYPT_LEN || i == P.CRYPT_ALEN || inPars i P.CRYPT_IV 4) && s.cryptForeign acc.dom)
    || ((inPars i P.MGMT_SVCREQ 8 || inPars i P.MGMT_SVCDATA 32 || inPars i P.MGMT_SVCREPLY 4) && s.svcForeign acc.dom)

/-- Reason 6 (Table MAP-5, R324, R326, R329, R342, R604, R630). -/
def State.writerRefused (s : State) (acc : Accessor) (i : Nat) (v : Word) : Bool :=
  let sepia := decide (acc.master = .sepia)
  let region := if inPars i P.MPU_BASE 0x300 then
      let d := (i - P.MPU_BASE) / 48
      !sepia && (acc.master.isDma || d == 0 || (s.par P.DOM_REGLOCK).getLsbD d)
    else false
  let dom := (i == P.DOM_PMASK || i == P.DOM_REGLOCK || i == P.DOM_LKVIEW) && acc.master.isDma
  let life := i == P.DOM_PMASK && decide (s.par P.DOM_PMSEL = 0x1D)
  let chg := inPars i P.PIER_CHG 12 && !sepia
  let dbg := isDbg i && !isMark i && (acc.master.isDma || (decide (acc.master = .umber) && !acc.prv))
  let d : Dom := fld v 0 4
  let rev := i == P.DOM_REVOKE && v.getLsbD 4 && decide (d ≠ 0)
    && !(sepia || (decide (acc.master = .umber) && acc.prv && decide (2 ≤ d.toNat)))
  region || dom || life || chg || dbg || rev || s.foreign acc i
    || (inPars i 0xA00 0x100 && s.dmaRefuses acc i v)
    || (decide (i / 256 = 0x1D) && s.lifeWriteRefused acc i v)

/-- Reason 1: a value outside what its field permits. For CH.CODEFREQ the whole 36-bit word is compared with 2^31, so that a 1 in bits 35:32, which are in
no field, makes the value too large; TRS.DUMPLEN, TRS.DUMPBASE and, in stateRefuses, TRS.DUMPRP are compared as whole words too, since Table TRS-5 gives them no
bit ranges. Both are this model's choice (log 87). -/
def State.valueBad (s : State) (i : Nat) (v : Word) : Bool :=
  let f := fun (lo len : Nat) => (fld v lo len : BitVec len).toNat
  match i / 256 with
  | 0x01 => i == P.PWR_DVFS && decide (5 ≤ f 0 3)
  | 0x02 => i == P.PIER_SWCFG && decide (f 1 4 = 15)
  | 0x03 => i == P.TIME_INC && decide (2 ^ 22 < (v.toNat : Int) - 0x14A61D149 ∨ 2 ^ 22 < 0x14A61D149 - (v.toNat : Int))
  | 0x05 => (i == P.MEM_SCRUBCFG && (decide (f 1 5 < 4) || decide (20 < f 1 5)))
    || (i == P.MEM_ARCHCTL && (List.range 5).any (fun k => decide (f (2 * k) 2 = 3)))
  | 0x09 => i == P.DOM_REVOKE && v.getLsbD 4 && decide (f 0 4 = 0)
  | 0x0A => isDma i P.DMA_CMD && decide (1 < (bitsSet v 3).length)
  | 0x0C => (i == P.RADIO_CHAN && decide (40 ≤ f 0 6)) || (i == P.RADIO_RXCFG && decide (6 ≤ f 4 3)) || (i == P.RADIO_TXCFG && decide (25 ≤ f 3 5))
    || (i == P.RADIO_ANT && (decide (f 0 2 = 3) || decide (f 2 2 = 3)))
    || (i == P.RADIO_BURSTCFG && (decide (f 0 6 = 63) || decide (f 6 10 = 0)))
  | 0x0D => (i == P.LINK_CFG && decide (13 ≤ f 1 4)) || (i == P.LINK_ACKTO && decide (f 0 12 = 0))
    || (i == P.LINK_WAKEREP && decide (f 0 16 = 0))
  | 0x0F => (inPars i P.TRS_QCFG 2 && decide (6 ≤ f 0 3))
    || (i == P.TRS_DUMPLEN && (decide (v.toNat < 2) || decide (6553 < v.toNat) || decide (2 ^ 18 < (fld (s.par P.TRS_DUMPBASE) 0 24 : Addr).toNat + 10 * v.toNat)))
    || (i == P.TRS_DUMPBASE && decide (2 ^ 18 < v.toNat + 10 * max 1 (s.par P.TRS_DUMPLEN).toNat))
  | 0x1E => i == P.MGMT_WDCFG && (decide (f 1 7 = 0) || decide (f 8 8 = 0) || decide (f 16 8 = 0))
  | 0x1F => (inPars i P.GPIO_CFG 8 && decide (f 2 2 = 3)) || (i == P.POD_CMD && !s.podBusy && (decide (f 0 3 = 0) || decide (6 ≤ f 0 3)))
  | b => decide (0x10 ≤ b) && decide (b < 0x1C)
    && ((isCh i P.CH_CODECFG && decide (f 2 13 = 0)) || (isCh i P.CH_INTCFG && decide (f 0 8 = 0))
      || (isCh i P.CH_CODEFREQ && decide (2 ^ 31 < v.toNat)) || (isCh i P.CH_SECCFG && decide (32 < f 0 6)))

/-- Reason 2: the state of the block does not permit the write now. -/
def State.stateRefuses (s : State) (i : Nat) (v : Word) : Bool :=
  match i / 256 with
  | 0x01 => (i == P.PWR_DVFS && decide (3 ≤ (fld v 0 3 : BitVec 3).toNat) && (s.par P.PWR_CLKCTL).getLsbD 2)
    || (i == P.PWR_CLKCTL && v.getLsbD 2 && decide (3 ≤ (fld (s.par P.PWR_DVFS) 0 3 : BitVec 3).toNat))
  | 0x02 => (i == P.PIER_TICK_LO || i == P.PIER_TICK_HI) && !(s.par P.PIER_CTL).getLsbD 0
  | 0x09 => i == P.DOM_REVOKE && v.getLsbD 4 && s.rev.isSome
  | 0x0A => isDma i P.DMA_CTL && s.ownerChange (chanOf i) v && decide (s.dmaState (chanOf i) ≠ dIdle)
  | 0x0F => ((i == P.TRS_DUMPBASE || i == P.TRS_DUMPLEN)
        && ((List.finRange 48).any (fun c => s.chEnabled c && (s.chPar P.CH_CTL c).getLsbD 2)
          || decide (2 ≤ s.searchState.toNat) || !s.trs.fifo.isEmpty))
    || (i == P.TRS_DUMPRP && decide ((s.par P.TRS_DUMPLEN).toNat ≤ v.toNat))
    || (i == P.TRS_CMDATA && s.blockInUse ((s.par P.TRS_CMADDR).toNat / 128))
  | 0x1C => i == P.CRYPT_IN && !s.cryptExpects
  | 0x1D => (i == P.LIFE_TRANS || i == P.LIFE_OWNCMD) && s.fuseBusy
  | 0x1F => i == P.FACE_TXD && decide (8 ≤ s.face.fifo.length)
  | b => decide (0x10 ≤ b) && decide (b < 0x1C) &&
    (let c := trackOf i
     if s.chEnabled c then
       isCh i P.CH_CODECFG || isCh i P.CH_G1CFG || isCh i P.CH_G1INIT || isCh i P.CH_G2CFG || isCh i P.CH_G2INIT || isCh i P.CH_TAPSP
         || (isCh i P.CH_CTL && (v.getLsbD 1 != (s.chPar P.CH_CTL c).getLsbD 1))
     else isCh i P.CH_CTL && v.getLsbD 0 && s.enableBad c)

/-- The reason with which the shell declines a write, 0 where it accepts it; the first that applies in the order of R624. -/
def State.writeRefusal (s : State) (acc : Accessor) (i : Nat) (v : Word) : BitVec 4 :=
  if !populated i then 0
  else if s.shellOff i then 5
  else if decide (shellOf i = .pier) && s.locked then 4
  else if s.lifeRefuses acc i v then 3
  else if s.roleRefuses i v then 7
  else if s.writerRefused acc i v then 6
  else if s.valueBad i v then 1
  else if s.stateRefuses i v then 2
  else 0

/-- The refusal status that a block's own chapter defines (R624): INCREF, INERR with CNT7, OVF, CMERR, CFGERR. -/
def refusedStatus (i : Nat) (reason : BitVec 4) (s : State) : State :=
  if i = P.TIME_INC then s.parBit P.TIME_STATUS 1 true
  else if i = P.CRYPT_IN ∧ (reason = 2 ∨ reason = 6) then cryptInRefused s
  else if i = P.FACE_TXD ∧ reason = 2 then s.parBit P.FACE_STATUS 7 true
  else if i = P.TRS_CMDATA ∧ reason = 2 then s.parBit P.TRS_STATUS 4 true
  else if isCh i P.CH_CTL ∧ reason = 2 ∧ !s.chEnabled (trackOf i) then s.parBit (chIdx P.CH_STATUS (trackOf i)) 3 true
  else s

/-! ### What an accepted write does -/

/-- The value after a plain write (R10): RW bits take it, W1C bits written 1 clear. -/
def plainWrite (i : Nat) (old v : Word) : Word :=
  match sheetOf i with
  | some sh => ((old &&& ~~~sh.rw) ||| (v &&& sh.rw)) &&& ~~~(v &&& sh.w1c)
  | none => old

/-- Store a value as its field sheet says. -/
def store (i : Nat) (v : Word) (s : State) : State := s.setPar i (plainWrite i (s.par i) v)

/-- DOM.LKVIEW (R353): VALUE 1 takes a clear lock bit for the writer's domain, VALUE 0 clears it. -/
def lkviewWrite (dom : Dom) (v : Word) (s : State) : State :=
  let k : BitVec 8 := fld (s.par P.DOM_LKSEL) 0 8
  if v.getLsbD 0 then takeLock k dom s else freeLock k s

/-- DOM.PMASK (R324): bit 0 of each mask stays 1, bit 1 also in blocks 0x06-0x09. -/
def pmaskWrite (v : Word) (s : State) : State :=
  let b := (fld (s.par P.DOM_PMSEL) 0 5 : BitVec 5).toNat
  let keep : BitVec 32 := if 6 ≤ b ∧ b ≤ 9 then 0x00030003 else 0x00010001
  s.setBlockMask b (fld v 0 32 ||| keep)

/-- STRK.CTL (R92): REL and REPEAT are stored; ARM 1 arms at the next TCLK edge with what the unit's parameters hold now (R51), ARM 0 disarms at once. ARM 0 also cancels a chained arming of this unit that
waits for the next edge (R101): the spec does not say, and this is the model's choice (log 95). -/
def strkCtlWrite (n : Fin 8) (v : Word) (s : State) : State :=
  let i := P.STRK_CTL + 16 * n.val
  let s := s.setPar i (putFld (s.par i) 1 (fld v 1 2 : BitVec 2))
  if v.getLsbD 0 then { s with time := { s.time with armPend := s.time.armPend ++ [(BitVec.ofNat 3 n.val, s.armTake n)] } }
  else { (disarm n s) with time := { s.time with armPend := s.time.armPend.filter (fun e => decide (e.1 ≠ BitVec.ofNat 3 n.val)),
                                                 chainPend := s.time.chainPend.filter (fun c => decide (c.2.toNat ≠ n.val)) } }

/-- TIME.CTL: the mode is stored, and LOAD starts a load (R86). -/
def timeCtlWrite (v : Word) (s : State) : State :=
  let s := store P.TIME_CTL v s
  if v.getLsbD 0 then startLoad s else s

/-- MEM.ARCHCTL: every arch and the tile move toward the state requested (R294). -/
def archCtlWrite (v : Word) (s : State) : State :=
  (List.range 5).foldl (fun s k => archStart k s) (store P.MEM_ARCHCTL v s)

/-- RADIO.FIFOCFG: levels stored, and either FIFO flushed at the next radio clock edge (R368, R50). -/
def fifoCfgWrite (v : Word) (s : State) : State := radioRequest (.flush (v.getLsbD 16) (v.getLsbD 17)) (store P.RADIO_FIFOCFG v s)

/-- SYNTH.GCTL: while the L1 path runs, the gain in use follows it: the fixed code, or the automatic choice, an analog result (R363, Table RAD-10). -/
def gctlWrite (v : Word) (s : State) : State :=
  let old := s.par P.SYNTH_GCTL
  let s := store P.SYNTH_GCTL v s
  if s.synthGOn && (s.par P.PWR_STATUS).getLsbD 6 then
    if v.getLsbD 0 then s.setPar P.SYNTH_GSTAT (putFld (s.par P.SYNTH_GSTAT) 1 (fld v 1 6 : BitVec 6))
    else if old.getLsbD 0 then
      s.drawn.setPar P.SYNTH_GSTAT (putFld (s.par P.SYNTH_GSTAT) 1 (fld (Config.freeWord (s.freeCtr * 128)) 0 6 : BitVec 6))
    else s
  else s

/-- CH.CTL (R447): INP, RING and EN are stored; EN enables or stops the channel at the next clock edge. -/
def chCtlWrite (c : Fin 48) (v : Word) (s : State) : State :=
  let i := chIdx P.CH_CTL c
  let s := s.setPar i (putFld (s.par i) 1 (fld v 1 2 : BitVec 2))
  trsRequest (.enable c (s.chEnabled c) (v.getLsbD 0)) s

/-- TRS.CHSTARTLO with the latched CHSTARTHI (R447): a marked channel at rest that is badly configured is refused with CFGERR, the others are enabled. -/
def chStartWrite (lo : Word) (s : State) : State :=
  let marks := s.trs.chHi ++ lo
  let bad := fun (c : Fin 48) => marks.getLsbD c.val && !s.chEnabled c && s.enableBad c
  let good := (List.finRange 48).foldl (fun w c => putBit w c.val (marks.getLsbD c.val && !bad c)) (0 : BitVec 48)
  let was := s.chEnables
  let s := ((List.finRange 48).filter bad).foldl (fun s c => s.parBit (chIdx P.CH_STATUS c) 3 true) s
  trsRequest (.start good was) (s.setTrs { s.trs with chHi := 0 })

/-- An adjustment is latched for the next sample (R435). -/
def chAdjust (c : Fin 48) (carr : Bool) (v : Word) (s : State) : State :=
  trsRequest (.adjust c carr v) (s.parBit (chIdx P.CH_STATUS c) 6 true)

/-- CH.SECCFG: SECLEN is stored and POS takes effect at the next epoch (R432). -/
def secCfgWrite (c : Fin 48) (v : Word) (s : State) : State := trsRequest (.secPos c (fld v 6 5)) (store (chIdx P.CH_SECCFG c) v s)

/-- CH.CARRFREQ: while the clock is stopped what its change adds to CODEFREQ waits (R50, R435). -/
def carrFreqWrite (c : Fin 48) (v : BitVec 32) (s : State) : State :=
  let d := s.aidStep c v
  let s := s.setPar (chIdx P.CH_CARRFREQ c) (v.setWidth 36)
  match d with
  | some d => trsRequest (.aid c d) s
  | none => s

/-- CH.CODEFREQ; one written while such an addition waits comes after it (R51). -/
def codeFreqWrite (c : Fin 48) (v : Word) (s : State) : State :=
  let s := store (chIdx P.CH_CODEFREQ c) v s
  if s.trs.late.any (fun r => match r with | .aid d _ => d == c | _ => false) then trsRequest (.codeFreq c (fld v 0 32)) s else s

/-- HOST.DOOROUT (R589). -/
def doorOut (v : Word) (s : State) : State := hostIrq 0 (s.setHreg hMBOX (fld v 0 8))

/-- DBG.CTL (R630): SYSRST is a system reset of code 5, or 6 from the host; UMBRST requests an Umber reset of code 18. -/
def dbgCtlWrite (host : Bool) (v : Word) (s : State) : State :=
  let s := store P.DBG_CTL v s
  if v.getLsbD 3 then requestReset (if host then 6 else 5) s
  else if v.getLsbD 4 then s.setPwr { s.pwr with umberRst := some 18 }
  else s

/-- PIER.SEC waits for the next crystal edge (R125); it writes all that the TICK writes before it wrote. -/
def secWrite (v : Word) (s : State) : State := s.setPier { s.pier with secPend := some (fld v 0 33), tickPend := [] }

/-- PIER.TICK_LO and TICK_HI (R126). Behind a PIER.SEC that still waits, the write takes effect after it, at the edge that applies it (R51, R125): R126 names no
edge, and this is the model's choice (log 96). -/
def tickWrite (hi : Bool) (v : Word) (s : State) : State :=
  if s.pier.secPend.isSome then s.setPier { s.pier with tickPend := s.pier.tickPend ++ [(hi, v)] }
  else s.setPier { s.pier with tick := tickWith hi v s.pier.tick }

/-- PIER.PWRSTAT bit 0: the acknowledgement applies at the next edge (R142). -/
def pwronAck (v : Word) (s : State) : State := if v.getLsbD 0 then s.setPier { s.pier with ackPend := true } else s

/-- The write effects of the blocks below 0x0B. -/
def writeLow (acc : Accessor) (i : Nat) (v : Word) (s : State) : State :=
  if i = P.SYS_ROLE then writeRole (fld v 0 2) s
  else if i = P.PWR_CLKCTL then writeClkctl (v &&& 7) s
  else if i = P.PWR_DVFS then writeDvfs v s
  else if i = P.PWR_ISLAND then writeIsland (v &&& 0xF) s
  else if i = P.PIER_TICK_LO then tickWrite false v s
  else if i = P.PIER_TICK_HI then tickWrite true v s
  else if i = P.PIER_SEC then secWrite v s
  else if i = P.PIER_PWRSTAT then pwronAck v s
  else if i = P.TIME_STEP then { s with time := { s.time with steps := s.time.steps ++ [v] } }
  else if i = P.TIME_CTL then timeCtlWrite v s
  else if isStrk i P.STRK_CTL then strkCtlWrite (unitOf i) v s
  else if i = P.MEM_ARCHCTL then archCtlWrite v s
  else if i = P.DOM_REVOKE then (if v.getLsbD 4 then revokeDomain (fld v 0 4) (decide (acc.master ≠ .sepia)) s else s)
  else if i = P.DOM_REGLOCK then s.orPar i (v &&& 0xFFFE)
  else if i = P.DOM_PMASK then pmaskWrite v s
  else if i = P.DOM_LKVIEW then lkviewWrite acc.dom v s
  else if isDma i P.DMA_CMD then dmaCommand (chanOf i) v s
  else if inPars i P.MEM_DENY 16 then s.setBank { s.bank with deny := s.bank.deny.set (Fin.ofNat 16 (i - P.MEM_DENY)) v }
  else if inPars i P.MEM_WAITMAX 5 then s.setBank { s.bank with waitMax := s.bank.waitMax.set (Fin.ofNat 5 (i - P.MEM_WAITMAX)) v }
  else store i v s

/-- The parameters that a header is filtered with (R399). -/
def isFilter (i : Nat) : Bool := decide (i = P.LINK_RXCFG) || inPars i P.LINK_ADDR 4 || inPars i P.LINK_GROUP 4

/-- The write effects of SYNTH, RADIO, LINK, WAKE and Trestle. -/
def writeMid (i : Nat) (v : Word) (s : State) : State :=
  if i = P.SYNTH_TEMPNOW then setTempNow (fld v 0 10) s
  else if i = P.SYNTH_GCTL then gctlWrite v s
  else if i = P.RADIO_CMD then radioRequest (.cmd (fld v 0 4) (fld (s.par P.RADIO_CHAN) 0 6)) s
  else if i = P.RADIO_CALCTL then evalCal (store i v s)
  else if i = P.RADIO_FIFOCFG then fifoCfgWrite v s
  else if isFilter i then store i v (filterTaken s)
  else if i = P.LINK_WAKETX then s.setPar i (withCheck (v &&& 0xFFFFFF))
  else if i = P.TRS_CHSTARTHI then s.setTrs { s.trs with chHi := fld v 0 12 }
  else if i = P.TRS_CHSTARTLO then chStartWrite v s
  else if i = P.TRS_CMDATA then codeWrite (fld v 0 32) s
  else if i = P.TRS_DUMPBASE ∨ i = P.TRS_DUMPLEN then ((store i v s).setPar P.TRS_DUMPWP 0).setPar P.TRS_DUMPRP 0
  else if i = P.TRS_SCMD then trsRequest (.search (fld v 0 2) (s.par P.TRS_SCFG)) s
  else if isCh i P.CH_CTL then chCtlWrite (trackOf i) v s
  else if isCh i P.CH_CARRFREQ then carrFreqWrite (trackOf i) (fld v 0 32) s
  else if isCh i P.CH_CODEFREQ then codeFreqWrite (trackOf i) v s
  else if isCh i P.CH_CARRADJ then chAdjust (trackOf i) true v s
  else if isCh i P.CH_CODEADJ then chAdjust (trackOf i) false v s
  else if isCh i P.CH_SECCFG then secCfgWrite (trackOf i) v s
  else store i v s

/-- The write effects of CRYPT, LIFE, MGMT and block 0x1F. -/
def writeHigh (acc : Accessor) (i : Nat) (v : Word) (s : State) : State :=
  if i = P.CRYPT_CMD then cryptCmd acc.dom v s
  else if i = P.CRYPT_IN then cryptIn v s
  else if inPars i P.CRYPT_KEY 8 then cryptKey (Fin.ofNat 8 (i - P.CRYPT_KEY)) acc.dom v s
  else if i = P.RNG_CTL then rngCtlWrite v s
  else if i = P.LIFE_TRANS then (match s.transTarget v with | some t => startTransition t s | none => s)
  else if i = P.LIFE_OWNCMD then startOwnerHash s
  else if i = P.LIFE_DBGCMD then debugCmd v s
  else if i = P.MGMT_SVCGO then (if v.getLsbD 0 then svcGo acc.dom (decide (acc.master = .host)) s else s)
  else if i = P.MGMT_SVCSTAT then (if v.getLsbD 1 then svcRelease acc.dom (store i v s) else store i v s)
  else if i = P.MGMT_WDCFG then writeWdcfg v s
  else if i = P.MGMT_WDKICK then wdKick v s
  else if i = P.HOST_DOOROUT then doorOut v s
  else if i = P.POD_CMD then podCommand v s
  else if i = P.FACE_CTL then (store i v s).setFace { s.face with untouched := false }
  else if i = P.FACE_CMD then faceCommand v s
  else if i = P.FACE_TXD then facePush v s
  else if inPars i P.GPIO_CFG 8 ∨ i = P.GPIO_OUT then gpioWrite i (plainWrite i (s.par i) v) s
  else if i = P.DBG_CTL then dbgCtlWrite (decide (acc.master = .host)) v s
  else store i v s

/-- An accepted write takes effect (R622). -/
def applyWrite (acc : Accessor) (i : Nat) (v : Word) (s : State) : State :=
  if !populated i then s
  else if i < 0x0B00 then writeLow acc i v s
  else if i < 0x1C00 then writeMid i v s
  else writeHigh acc i v s

/-- A write reaches its shell: accepted or declined, with the reason (R622, R624). SYS.PERR records the refusal when it is reported. -/
def shellWrite (acc : Accessor) (i : Nat) (v : Word) (s : State) : BitVec 4 × State :=
  let r := s.writeRefusal acc i v
  (r, if r = 0 then applyWrite acc i v s else refusedStatus i r s)

/-! ### Reads -/

/-- A word whose bit `k` says `f k`. -/
def bitWord (n : Nat) (f : Nat → Bool) : Word := (List.range n).foldl (fun w k => putBit w k (f k)) 0

/-- SYS.ID and SYS.FEAT (Table MAP-2, S:pin). -/
def State.sysId (s : State) : Word := if s.pwr.package = .ab then 0x1136 else 0x136
def State.sysFeat (s : State) : Word := if s.pwr.package = .ab then 0x1F else 0

/-- TIME.STRKSUM (Table TIM-4): FIRED, LATE and ARMED of the units. -/
def State.strkSum (s : State) : Word :=
  let u := fun (k : Nat) => Fin.ofNat 8 k
  bitWord 24 (fun k =>
    if k < 8 then s.armed (u k)
    else if k < 16 then (s.par (P.STRK_LATE + 16 * (k - 8))).getLsbD 0
    else (s.par (P.STRK_STATUS + 16 * (k - 16))).getLsbD 0)

/-- Values that are formed on reading. -/
def State.formed (s : State) (i : Nat) : Word :=
  if i = P.SYS_ID then s.sysId
  else if i = P.SYS_FEAT then s.sysFeat
  else if i = P.PWR_STATUS then putFld (s.par i) 0 s.statusMode
  else if i = P.TIME_STRKSUM then s.strkSum
  else if i = P.MEM_PQUERY then putBit (s.par i) 35 (s.poisoned (fld (s.par i) 0 18))
  else if inPars i P.MEM_DENY 16 then s.bank.deny[Fin.ofNat 16 (i - P.MEM_DENY)]
  else if inPars i P.MEM_WAITMAX 5 then s.bank.waitMax[Fin.ofNat 5 (i - P.MEM_WAITMAX)]
  else if i = P.MEM_PCOUNT then BitVec.ofNat 36 s.poisonCount
  else if i = P.DOM_CURDOM then (fld s.umber.sr 16 5 : BitVec 5).setWidth 36
  else if i = P.DOM_PMASK then (s.blockMask (fld (s.par P.DOM_PMSEL) 0 5 : BitVec 5).toNat).setWidth 36
  else if i = P.DOM_LKVIEW then
    (match s.lockOwner (fld (s.par P.DOM_LKSEL) 0 8) with
     | some d => putFld (1 : Word) 1 d
     | none => 0)
  else if i = P.DOM_LKSET then BitVec.ofNat 36 s.umber.locks.length
  else if i = P.PIER_SEC then (fld s.pier.coreMirror 15 33 : BitVec 33).setWidth 36
  else if i = P.RADIO_FIFOSTAT then s.fifoStat
  else if i = P.RADIO_DIAG then s.radioDiag
  else if i = P.TRS_CHENLO then (fld s.chEnables 0 36)
  else if i = P.TRS_CHENHI then (fld s.chEnables 36 12 : BitVec 12).setWidth 36
  else if i = P.CRYPT_FIFOSTAT then s.cryptFifoStat
  else if inPars i P.CRYPT_SLOTINFO 16 then s.slotHeader (BitVec.ofNat 4 (i - P.CRYPT_SLOTINFO))
  else if i = P.MGMT_STATUS then putBit (s.par i) 1 (!(s.par P.PWR_STATUS).getLsbD 3)
  else if i = P.MGMT_EVSTAT then putFld (s.par i) 0 (BitVec.ofNat 5 s.mgmt.evFifo.length)
  else if i = P.MGMT_LOGSTAT then putFld (s.par i) 0 (BitVec.ofNat 6 s.mgmt.logQ.length)
  else if i = P.MGMT_WDSTAT then s.wdStat
  else if i = P.HOST_STAT then putFld (putBit (boolWord s.host.txn.isSome) 1 s.hostRdy) 8 (s.hreg hTOCNT)
  else if i = P.FACE_STATUS then s.faceStatus
  else if i = P.GPIO_IN then s.gpioIn.setWidth 36
  else s.par i

/-- The value a read returns: WO fields read 0 (R10). -/
def State.readVal (s : State) (i : Nat) : Word :=
  match sheetOf i with
  | some sh => s.formed i &&& ~~~sh.wo
  | none => 0

/-- The RC fields clear on the read (R627). -/
def clearRc (i : Nat) (s : State) : State :=
  match sheetOf i with
  | some sh => if sh.rc = 0 then s else s.setPar i (s.par i &&& ~~~sh.rc)
  | none => s

/-- A read of PIER.TICK_LO (R123, R124): Umber's and Sepia's freeze their shadow, DMA sees the live mirror and the host the counter. -/
def readTickLo (m : Master) (s : State) : Word × State :=
  match m with
  | .umber => (fld s.pier.coreMirror 0 36, s.setPier { s.pier with umberShadow := freezeShadow s.pier.coreMirror })
  | .sepia => (fld s.pier.sepiaMirror 0 36, s.setPier { s.pier with sepiaShadow := freezeShadow s.pier.sepiaMirror })
  | .dma _ => (fld s.pier.coreMirror 0 36, s)
  | .host => (fld s.pier.tick 0 36, s)

/-- A read of PIER.TICK_HI (R123). -/
def readTickHi (m : Master) (s : State) : Word × State :=
  match m with
  | .umber => let r := readHi s.pier.umberShadow s.pier.coreMirror; (r.1, s.setPier { s.pier with umberShadow := r.2 })
  | .sepia => let r := readHi s.pier.sepiaShadow s.pier.sepiaMirror; (r.1, s.setPier { s.pier with sepiaShadow := r.2 })
  | .dma _ => ((fld s.pier.coreMirror 36 12 : BitVec 12).setWidth 36, s)
  | .host => ((fld s.pier.tick 36 12 : BitVec 12).setWidth 36, s)

/-- A read of a residency counter (R71): Umber's and Sepia's use their shadow, DMA and the host see the counter. -/
def readRes (m : Master) (i : Nat) (s : State) : Word × State :=
  let k : BitVec 3 := BitVec.ofNat 3 ((i - P.PWR_RES) / 2)
  let lo := decide ((i - P.PWR_RES) % 2 = 0)
  match m with
  | .umber =>
    if lo then (s.par i, s.setPier { s.pier with umberRes := readResLo s k })
    else let r := readResHi s k s.pier.umberRes; (r.1, s.setPier { s.pier with umberRes := r.2 })
  | .sepia =>
    if lo then (s.par i, s.setPier { s.pier with sepiaRes := readResLo s k })
    else let r := readResHi s k s.pier.sepiaRes; (r.1, s.setPier { s.pier with sepiaRes := r.2 })
  | _ => (s.par i, s)

/-- A read of TIME.PIERCAP freezes the capture; one of PIERCAPT releases it (R88). A further read of PIERCAP while it is frozen starts the two ticks anew: R88 does
not say, and this is the model's choice (log 95). -/
def freezeCap (s : State) : State := { s with time := { s.time with capFrozen := true, capTicks := 0 } }
def releaseCap (s : State) : State := { s with time := { s.time with capFrozen := false, capTicks := 0 } }

/-- A read of HOST.DOORIN clears it and ends the doorbell's request (R589). -/
def readDoorIn (s : State) : Word × State :=
  let v := s.par P.HOST_DOORIN
  (v, (clearRc P.HOST_DOORIN s).setHost { s.host with bell := false, doorLine := false })

/-- How a read of a parameter ends. -/
inductive ParRead where
  /-- A value. -/
  | val (w : Word)
  /-- Refused by its shell: 0, with the reason (R624). -/
  | refused (reason : BitVec 4)
  /-- It waits for a random word (R503). -/
  | wait
  /-- Bus error: the generator has failed or its island has no power (R503). -/
  | bus
  deriving DecidableEq, Repr

/-- The parameters that the host reads in END OF LIFE (R517): LIFE.STATE, COPY1-3, UID_LO, UID_HI and TSTAT. -/
def eolReadable (i : Nat) : Bool := inPars i P.LIFE_STATE 4 || i == P.LIFE_UID_LO || i == P.LIFE_UID_HI || i == P.LIFE_TSTAT

/-- A read of a parameter by a master, its checks passed, with its side effects (R624, R626, R627). -/
def readPar (acc : Accessor) (i : Nat) (s : State) : ParRead × State :=
  if !populated i then (.val 0, s)
  else if s.lifeState = 3 && decide (acc.master ≠ .sepia) && !eolReadable i then (.refused 3, s)
  else if i = P.RNG_DATA then
    match rngTake acc.master s with
    | (.word w, s) => (.val w, s)
    | (.waits, s) => (.wait, s)
    | (.busError, s) => (.bus, s)
  else if s.shellOff i then (.val (if i = P.RNG_STATUS then s.par i &&& 2 else 0), s)
  else if s.foreign acc i then (.refused 6, s)
  else if i = P.PIER_TICK_LO then let r := readTickLo acc.master s; (.val r.1, r.2)
  else if i = P.PIER_TICK_HI then let r := readTickHi acc.master s; (.val r.1, r.2)
  else if inPars i P.PWR_RES 16 then let r := readRes acc.master i s; (.val r.1, r.2)
  else if i = P.PIER_SEC ∧ acc.master = .host then (.val ((fld s.pier.tick 15 33 : BitVec 33).setWidth 36), s)
  else if i = P.PIER_SEC ∧ acc.master = .sepia then (.val ((fld s.pier.sepiaMirror 15 33 : BitVec 33).setWidth 36), s)
  else if i = P.TIME_NOWF then let s := captureNow s; (.val (s.par i), s)
  else if i = P.TIME_PIERCAP then (.val (s.par i), freezeCap s)
  else if i = P.TIME_PIERCAPT then (.val (s.par i), releaseCap s)
  else if isCh i P.CH_CODENOW then let s := captureChannel (trackOf i) s; (.val (s.par i), s)
  else if i = P.LIFE_TSTAT then let r := readStep s; (.val r.1, r.2)
  else if i = P.CRYPT_OUT then let r := cryptOut s; (.val r.1, r.2)
  else if i = P.MGMT_EVFIFO then let r := popEvent s; (.val r.1, r.2)
  else if i = P.HOST_DOORIN then let r := readDoorIn s; (.val r.1, r.2)
  else (.val (s.readVal i), clearRc i s)

end Sys2Proof.Machine
end

