-- ==== Sys2Proof/Machine/Deliver.lean ====
section
/-!
DEFINITION. Sys2Proof/Machine/Deliver.lean: peripheral bits (05 R168, Table UMM-6), the delivery of queued writes to their shells and their acknowledgement
(01 R50; 08 R263; 20 R622, R624).
-/

namespace Sys2Proof.Machine

/-! ### Peripheral bits -/

/-- The parameter whose shell holds a peripheral bit (Table UMM-6); none for an unallocated bit. -/
def bitHome (b : BitVec 12) : Option Nat :=
  let n := b.toNat
  if n < 0x800 then none
  else if n < 0x840 then some P.TIME_STATUS
  else if n = 0x882 ∨ n = 0x883 then some P.WAKE_STATUS
  else if n < 0x880 then some P.RADIO_STATE
  else if n < 0x900 then some P.LINK_STATUS
  else if 0x930 ≤ n ∧ n < 0x960 then some (P.CH_STATUS + 64 * (n - 0x930))
  else if n < 0xA00 then some P.TRS_STATUS
  else if n < 0xA10 then some (P.DMA_STATUS + 16 * (n - 0xA00))
  else if n < 0xA20 then some (P.DMA_STATUS + 16 * (n - 0xA10))
  else if n < 0xA30 then some (P.DMA_STATUS + 16 * (n - 0xA20))
  else if n < 0xA40 then some (P.DMA_CMD + 16 * (n - 0xA30))
  else if n < 0xA80 then some P.CRYPT_STATUS
  else if n = 0xA80 then some P.MGMT_SVCGO
  else if n < 0xAC0 then some P.MGMT_SVCSTAT
  else if n < 0xAD0 then some P.HOST_DOORIN
  else if n < 0xAD8 then some P.POD_STATUS
  else if n < 0xAE0 then some P.FACE_STATUS
  else if n < 0xAE8 then some P.GPIO_IN
  else if n < 0xAF0 then some P.GPIO_OUT
  else if n < 0xB00 then some P.GPIO_EDGE
  else none

/-- The level of a peripheral bit (R385, R418, R454, Table DMA-5, R507, R562, Table HST-9, R614). -/
def State.bitLevel (s : State) (b : BitVec 12) : Bool :=
  let n := b.toNat
  let sub := fun (lo : Nat) => n - lo
  if n = 0x840 then s.radioState == rsRx
  else if n = 0x841 then s.radioSending
  else if n = 0x842 then s.radioHold
  else if n = 0x843 then s.radioBusy
  else if n = 0x880 then !s.radio.rxFifo.isEmpty
  else if n = 0x881 then s.radio.ackWait.isSome && s.radioState == rsRx
  else if n = 0x882 then s.collecting
  else if n = 0x883 then (s.par P.WAKE_STATUS).getLsbD 1
  else if 0x900 ≤ n ∧ n < 0x930 then s.chEnabled (Fin.ofNat 48 (sub 0x900))
  else if 0x930 ≤ n ∧ n < 0x960 then s.trs.dumped.getLsbD (sub 0x930)
  else if n = 0x960 then s.searchState != 0
  else if n = 0x961 then (s.par P.TRS_LATCHSTAT).getLsbD 0
  else if n = 0x962 then !s.trs.fifo.isEmpty
  else if 0xA00 ≤ n ∧ n < 0xA10 then s.dmaState (Fin.ofNat 16 (sub 0xA00)) != dIdle
  else if 0xA10 ≤ n ∧ n < 0xA20 then (s.dmaPar P.DMA_STATUS (Fin.ofNat 16 (sub 0xA10))).getLsbD 9
  else if 0xA20 ≤ n ∧ n < 0xA30 then (s.dmaPar P.DMA_STATUS (Fin.ofNat 16 (sub 0xA20))).getLsbD 10
  else if n = 0xA40 then s.crypt.op.isSome
  else if n = 0xA41 then (s.par P.CRYPT_STATUS).getLsbD 1
  else if n = 0xA42 then s.cryptInReady
  else if n = 0xA43 then s.cryptOutReady
  else if n = 0xA44 then !s.rng.fifo.isEmpty
  else if n = 0xA45 then s.rngAlarm
  else if n = 0xA81 then (s.par P.MGMT_SVCSTAT).getLsbD 1
  else if n = 0xA82 then !s.mgmt.nvmQ.isEmpty
  else if n = 0xA83 then !s.mgmt.evFifo.isEmpty
  else if n = 0xA84 then s.mgmt.wdStage != 0
  else if n = 0xAC0 then s.host.bell
  else if n = 0xAC1 then s.host.txn.isSome
  else if n = 0xAC2 then s.hostRdy
  else if n = 0xAD0 then s.podBusy
  else if n = 0xAD1 then (s.par P.POD_STATUS).getLsbD 1
  else if n = 0xAD8 then s.face.active
  else if n = 0xAD9 then s.face.fbusy
  else if n = 0xADA then (s.par P.FACE_STATUS).getLsbD 6
  else if 0xAE0 ≤ n ∧ n < 0xAE8 then s.gpioIn.getLsbD (sub 0xAE0)
  else if 0xAE8 ≤ n ∧ n < 0xAF0 then (s.par P.GPIO_OUT).getLsbD (sub 0xAE8)
  else if 0xAF0 ≤ n ∧ n < 0xB00 then (s.par P.GPIO_EDGE).getLsbD (sub 0xAF0)
  else false

/-- A peripheral bit as Umber reads it: 0 where its shell has no power (R626), but for ALARM, which CORE holds. -/
def State.periBit (s : State) (b : BitVec 12) : Bool :=
  match bitHome b with
  | some i => if s.shellOff i && b != 0xA45 then false else s.bitLevel b
  | none => false

/-- What an accepted write of a peripheral bit does: DONE, FLT, EDGE, doorbell and dump bits clear on 0; START and SVCGO act on 1; GPIO.OUT takes the value. -/
def applyBit (acc : Accessor) (b : BitVec 12) (v : Bool) (s : State) : State :=
  let n := b.toNat
  let clr := fun (i bit : Nat) => if v then s else s.parBit i bit false
  if 0x930 ≤ n ∧ n < 0x960 then (if v then s else s.setTrs { s.trs with dumped := putBit s.trs.dumped (n - 0x930) false })
  else if 0xA10 ≤ n ∧ n < 0xA20 then clr (P.DMA_STATUS + 16 * (n - 0xA10)) 9
  else if 0xA20 ≤ n ∧ n < 0xA30 then clr (P.DMA_STATUS + 16 * (n - 0xA20)) 10
  else if 0xA30 ≤ n ∧ n < 0xA40 then (if v then startDma (Fin.ofNat 16 (n - 0xA30)) false s else s)
  else if n = 0xA41 then clr P.CRYPT_STATUS 1
  else if n = 0xA80 then (if v then svcGo acc.dom false s else s)
  else if n = 0xA81 then (if v then s else svcRelease acc.dom (s.parBit P.MGMT_SVCSTAT 1 false))
  else if n = 0xAC0 then (if v then s else s.setHost { s.host with bell := false })
  else if n = 0xAD1 then clr P.POD_STATUS 1
  else if n = 0xADA then clr P.FACE_STATUS 6
  else if 0xAE8 ≤ n ∧ n < 0xAF0 then gpioWrite P.GPIO_OUT (putBit (s.par P.GPIO_OUT) (n - 0xAE8) v) s
  else if 0xAF0 ≤ n ∧ n < 0xAF8 then clr P.GPIO_EDGE (n - 0xAF0)
  else s

/-- The reason with which a bit write is declined: the power of its shell and the writer rule of its parameter (log 71). -/
def State.bitRefusal (s : State) (acc : Accessor) (b : BitVec 12) : BitVec 4 :=
  match bitHome b with
  | none => 0
  | some i =>
    if s.shellOff i then 5
    else if inPars i 0xA00 0x100 && !acc.kernel && decide (acc.dom ≠ s.dmaOwner (chanOf i)) then 6
    else 0

/-! ### Writes at their shells -/

/-- A write of a master with its record in SYS.PERR (R624): the reason, 0 where accepted. -/
def writeAs (acc : Accessor) (i : Nat) (v : Word) (s : State) : BitVec 4 × State :=
  let r := shellWrite acc i v s
  (r.1, if r.1 = 0 then r.2 else notePerr acc.master i r.1 true r.2)

/-- The shell holds the write until there is room (R495). -/
def State.holdsWrite (s : State) (acc : Accessor) (i : Nat) : Bool :=
  decide (i = P.CRYPT_IN) && s.cipherOn && !s.cryptForeign acc.dom && s.cryptExpects && decide (16 ≤ s.crypt.inFifo.length)

/-- Where a queued write goes. -/
def PTarget.shell : PTarget → Shell
  | .par i => shellOf i.toNat
  | .fifo => .radio
  | .fifoRx => .radio
  | .bit b => shellOf ((bitHome b).getD 0)

/-- The index that names a queued write in PARAM_WRITE: its own, or that of the parameter whose shell holds the bit. -/
def PTarget.index : PTarget → Option Nat
  | .par i => some i.toNat
  | .fifo => none
  | .fifoRx => none
  | .bit b => bitHome b

/-- Umber's accessor at the issue of a queued write. -/
def PWrite.acc (w : PWrite) : Accessor := { master := .umber, dom := w.dom, prv := w.prv }

/-- The place of the oldest write of Umber's queue that a shell has not latched (R263: issue order per island). -/
def State.nextFor (s : State) (sh : Shell) : Option Nat :=
  s.umber.pwq.findIdx? (fun w => w.latched.isNone && decide (w.tgt.shell = sh))

/-- The entry at a place of the queue is latched with a reason. -/
def markLatched (k : Nat) (w : PWrite) (r : BitVec 4) (s : State) : State :=
  if s.umber.pwq[k]? = some w then s.setUmber { s.umber with pwq := s.umber.pwq.set k { w with latched := some r } } else s

/-- A word for the radio FIFO (R368), pushed on the radio clock and in issue order with the shell's other writes (R51, R76): an unpowered RADIO declines it (log 70). -/
def fifoWrite (v : Word) (s : State) : BitVec 4 × State := if s.radioPowered then (0, radioRequest (.push v) s) else (5, s)

/-- A read at a radio FIFO address (R368): the transmit range gives the fill level, the receive range pops; an unpowered RADIO gives 0 (R626). -/
def fifoRead (a : Addr) (s : State) : Word × State :=
  if !s.radioPowered then (0, s)
  else if a.getLsbD 8 then rxPop s
  else (BitVec.ofNat 36 s.radio.txFifo.length, s)

/-- The write of an entry; one to the receive FIFO is ignored (R368). -/
def latchWrite (w : PWrite) (s : State) : BitVec 4 × State :=
  match w.tgt with
  | .par i => writeAs w.acc i.toNat w.val s
  | .fifo => fifoWrite w.val s
  | .fifoRx => (if s.radioPowered then 0 else 5, s)
  | .bit b =>
    let r := s.bitRefusal w.acc b
    (r, if r = 0 then applyBit w.acc b (w.val.getLsbD 0) s else notePerr .umber ((bitHome b).getD 0) r true s)

/-- The shell latches the oldest write of Umber's queue for it, if it is the one named. -/
def deliverUmber (sh : Shell) (named : PWrite → Bool) (s : State) : State :=
  match s.nextFor sh with
  | none => s
  | some k =>
    match s.umber.pwq[k]? with
    | none => s
    | some w =>
      if !named w || (match w.tgt with | .par i => s.holdsWrite w.acc i.toNat | _ => false) then s
      else
        let r := latchWrite w s
        markLatched k w r.1 r.2

/-- The oldest entry of the host's write queue that has not reached its destination (R577). -/
def State.hostNext (s : State) : Option Nat := s.host.wq.findIdx? (fun w => w.latched.isNone)

def markHost (k : Nat) (w : HostWrite) (code : BitVec 4) (s : State) : State :=
  if s.host.wq[k]? = some w then s.setHost { s.host with wq := s.host.wq.set k { w with latched := some code, after := [] } } else s

/-- The host error code of a refusal (Table HST-4): LOCK 2 for reason 4, otherwise REFUSED 1. -/
def hostCode (r : BitVec 4) : BitVec 4 := if r = 0 then 0 else if r = 4 then 2 else 1

/-- In END OF LIFE the host reaches no unpopulated index (R517, Table HST-6). -/
def State.hostBarred (s : State) (i : Nat) : Bool := decide (s.lifeState = 3) && !populated i

/-- A denial stops an access of the host at the port (R578); in END OF LIFE every access is refused instead (Table HST-6). -/
def State.hostDenied (s : State) (i : Nat) (write : Bool) : Bool := decide (s.lifeState ≠ 3) && s.denied s.hostAcc i write

/-- The shell of the oldest host write takes it, if it is the one named and no denial stopped it at the port (R578). Modes 0 to 2 stop the port with its queue. -/
def deliverHost (tgt : HostTgt) (v : Word) (s : State) : State :=
  match if s.vddRuns then s.hostNext else none with
  | none => s
  | some k =>
    match s.host.wq[k]? with
    | none => s
    | some w =>
      if w.tgt ≠ tgt ∨ w.val ≠ v then s
      else
        match tgt with
        | .par i =>
          if s.holdsWrite s.hostAcc i.toNat || s.hostDenied i.toNat true || s.hostBarred i.toNat then s
          else let r := writeAs s.hostAcc i.toNat v s; ringAll w.after (markHost k w (hostCode r.1) r.2)
        | .mem _ _ => s

/-- A parameter write of a master reaches its shell (R50, R622). A DMA channel's write is part of its element (R337); a write that nothing has queued does
not come about (log 4). -/
def deliver (m : Master) (i : Nat) (v : Word) (s : State) : State :=
  match m with
  | .sepia => if s.awake && !s.holdsWrite sepiaAcc i then (writeAs sepiaAcc i v s).2 else s
  | .umber => deliverUmber (shellOf i) (fun w => decide (w.tgt.index = some i) && decide (w.val = v)) s
  | .dma _ => s
  | .host => deliverHost (.par (BitVec.ofNat 13 i)) v s

/-- A write to the radio FIFO reaches it (R368), an ignored one of the receive range too (log 70). The host's window does not reach the FIFO (Table HST-7b). -/
def deliverFifo (m : Master) (v : Word) (s : State) : State :=
  match m with
  | .umber => deliverUmber .radio (fun w => (decide (w.tgt = .fifo) || decide (w.tgt = .fifoRx)) && decide (w.val = v)) s
  | _ => s

/-! ### Acknowledgements -/

/-- TIME has taken what was written to a parameter: nothing of it waits for the next TCLK edge (R50; R85, R86, R92, R103). -/
def State.timeTaken (s : State) (i : Nat) : Bool :=
  if i = P.TIME_STEP then s.time.steps.isEmpty
  else if i = P.TIME_CTL then s.time.load.all (·.taken)
  else if i = P.TIME_PINCTL then s.time.pinInv == (fld (s.par P.TIME_PINCTL) 0 4 : BitVec 4)
  else if isStrk i P.STRK_CTL then s.time.armPend.all (fun e => decide (e.1.toNat ≠ (unitOf i).val))
  else true

/-- The Pier has taken what was written to a parameter: nothing of it waits for the next crystal edge (R50; R125, R126, R129, R135, R142). -/
def State.pierTaken (s : State) (i : Nat) : Bool :=
  if i = P.PIER_SEC then s.pier.secPend.isNone
  else if i = P.PIER_TICK_LO ∨ i = P.PIER_TICK_HI then s.pier.tickPend.isEmpty
  else if inPars i P.PIER_ALM0_LO 3 then s.pier.alarms[0] == s.alarmParams 0
  else if inPars i (P.PIER_ALM0_LO + 3) 3 then s.pier.alarms[1] == s.alarmParams 1
  else if i = P.PIER_SWCFG then s.pier.swcfg == (fld (s.par P.PIER_SWCFG) 0 5 : BitVec 5)
  else if i = P.PIER_PWRSTAT then !s.pier.ackPend
  else true

/-- The effect of the writes a shell has latched has landed, in every island whose clock runs: before that no acknowledgement of one reaches its sender (R51). -/
def State.landed (s : State) (i : Nat) : Bool := (!s.refRuns || s.timeTaken i) && (!s.crystalRuns || s.pierTaken i)

/-- No earlier entry of the same shell waits in the queue. -/
def State.ackFirst (s : State) (k : Nat) (sh : Shell) : Bool :=
  (s.umber.pwq.take k).all (fun w => decide (w.tgt.shell ≠ sh))

/-- The acknowledgement of an entry returns: it is freed, and a refusal sets BSTAT.REFUSED with the index, but for a store of the extension space
(R198, R263, R624). That of an accepted write does not come before its effect has landed (R51). -/
def ackWrite (k : Nat) (s : State) : State :=
  match s.umber.pwq[k]? with
  | none => s
  | some w =>
    match w.latched with
    | none => s
    | some r =>
      if s.ackFirst k w.tgt.shell && (decide (r ≠ 0) || w.tgt.index.all s.landed) then
        let s := s.setUmber { s.umber with pwq := s.umber.pwq.eraseIdx k }
        let s := if w.tgt.index = some P.SYS_ROLE then nvmSettled s else s
        if r = 0 || w.quiet then s else noteBstat 1 w.tgt.index s
      else s

/-- A write of Umber to the same island has not been acknowledged: a read of it waits (R264). -/
def State.queuedFor (s : State) (sh : Shell) : Bool := s.umber.pwq.any (fun w => decide (w.tgt.shell = sh))

end Sys2Proof.Machine
end

