-- ==== Sys2Proof/Machine/F36.lean ====
section
/-!
DEFINITION. Sys2Proof/Machine/F36.lean: F36 arithmetic (05 R171; 07 R235-R239). An operand is decoded to an exact value; every result is the
exact result truncated toward zero.
-/

namespace Sys2Proof.Machine

/-- A decoded F36 value: finite ± m × 2^e, infinity, or NaN (Table UMM-8). -/
inductive FVal where
  | fin (neg : Bool) (m : Nat) (e : Int)
  | inf (neg : Bool)
  | nan
  deriving DecidableEq, Repr

/-- The canonical NaN (R171). -/
def fNaN : Word := 0x7FC000000#36

/-- The largest finite value of a sign, and infinity (Table UMM-8). -/
def fMax (neg : Bool) : Word := putBit 0x7F7FFFFFF#36 35 neg
def fInf (neg : Bool) : Word := putBit 0x7F8000000#36 35 neg
def fZero (neg : Bool) : Word := putBit 0 35 neg

def fDecode (w : Word) : FVal :=
  let e := (fld w 27 8 : BitVec 8).toNat
  let f := (fld w 0 27 : BitVec 27).toNat
  let neg := w.msb
  if e = 255 then (if f = 0 then .inf neg else .nan)
  else if e = 0 then .fin neg f (-153)
  else .fin neg (f + 2 ^ 27) ((e : Int) - 154)

/-- The exact value ± m × 2^e (with `sticky`, a nonzero tail below m) truncated toward zero to F36, with INX, UNF and OVF (R236). -/
def fRound (neg : Bool) (m : Nat) (e : Int) (sticky : Bool) : Alu :=
  if m = 0 then
    { val := fZero neg, flags := if sticky then [(fINX, true), (fUNF, true)] else [] }
  else
    let lead : Int := (Nat.log2 m : Int) + e
    if 128 ≤ lead then { val := fMax neg, flags := [(fOVF, true), (fINX, true)] }
    else
      let g : Int := if lead - 27 < -153 then -153 else lead - 27
      let up := (e - g).toNat
      let down := (g - e).toNat
      let sig := if g ≤ e then m * 2 ^ up else m / 2 ^ down
      let inx := sticky || (decide (e < g) && decide (m % 2 ^ down ≠ 0))
      let body := if -126 ≤ lead then (lead + 127).toNat * 2 ^ 27 + (sig - 2 ^ 27) else sig
      { val := putBit (BitVec.ofNat 36 body) 35 neg,
        flags := if inx then (fINX, true) :: (if lead < -126 then [(fUNF, true)] else []) else [] }

/-- An invalid arithmetic operation: canonical NaN and INV (R237). -/
def fInvalid : Alu := { val := fNaN, flags := [(fINV, true)] }

def fQuiet : Alu := { val := fNaN, flags := [] }

/-- The exact signed sum of two finite values, as an integer over the smaller exponent. -/
def fSumInt (na : Bool) (ma : Nat) (ea : Int) (nb : Bool) (mb : Nat) (eb : Int) : Int × Int :=
  let e := min ea eb
  let x : Int := ma * 2 ^ (ea - e).toNat
  let y : Int := mb * 2 ^ (eb - e).toNat
  ((if na then -x else x) + (if nb then -y else y), e)

/-- A + B of decoded values (R236, R237): exact zero sums of opposite operands are +0, and −0 + −0 is −0. -/
def fAddVal (a b : FVal) : Alu :=
  match a, b with
  | .nan, _ => fQuiet
  | _, .nan => fQuiet
  | .inf s, .inf t => if s = t then { val := fInf s, flags := [] } else fInvalid
  | .inf s, .fin .. => { val := fInf s, flags := [] }
  | .fin .., .inf t => { val := fInf t, flags := [] }
  | .fin na ma ea, .fin nb mb eb =>
    let r := fSumInt na ma ea nb mb eb
    if r.1 = 0 then { val := fZero (na && nb && ma == 0 && mb == 0), flags := [] }
    else fRound (decide (r.1 < 0)) r.1.natAbs r.2 false

/-- The exact product of two decoded values; `none` for 0 × ∞ (R237). -/
def fProd (a b : FVal) : Option FVal :=
  match a, b with
  | .inf s, .fin t m _ => if m = 0 then none else some (.inf (xor s t))
  | .fin s m _, .inf t => if m = 0 then none else some (.inf (xor s t))
  | .inf s, .inf t => some (.inf (xor s t))
  | .fin s m e, .fin t n f => some (.fin (xor s t) (m * n) (e + f))
  | .nan, _ => some .nan
  | _, .nan => some .nan

def fNegVal : FVal → FVal
  | .fin s m e => .fin (!s) m e
  | .inf s => .inf (!s)
  | .nan => .nan

def fAdd (a b : Word) : Alu := fAddVal (fDecode a) (fDecode b)
def fSub (a b : Word) : Alu := fAddVal (fDecode a) (fNegVal (fDecode b))

def fMul (a b : Word) : Alu :=
  match fProd (fDecode a) (fDecode b) with
  | none => fInvalid
  | some .nan => fQuiet
  | some (.inf s) => { val := fInf s, flags := [] }
  | some (.fin s m e) => if m = 0 then { val := fZero s, flags := [] } else fRound s m e false

/-- FMAC and FMSU: d ± a × b with one truncation (Table UMD-8). 0 × ∞ is invalid whatever the addend (log 21). -/
def fMac (sub : Bool) (d a b : Word) : Alu :=
  match fProd (fDecode a) (fDecode b) with
  | none => fInvalid
  | some p => fAddVal (fDecode d) (if sub then fNegVal p else p)

/-- FRCP: 1 ÷ a; ±0 gives ±∞ with DZ, ±∞ gives ±0 (R236, R237). -/
def fRcp (a : Word) : Alu :=
  match fDecode a with
  | .nan => fQuiet
  | .inf s => { val := fZero s, flags := [] }
  | .fin s m e =>
    if m = 0 then { val := fInf s, flags := [(fDZ, true)] }
    else fRound s (2 ^ 400 / m) (-400 - e) (decide (2 ^ 400 % m ≠ 0))

/-- FABS and FNEG: only the sign bit; a NaN gives the canonical NaN (R236). -/
def fAbs (a : Word) : Alu :=
  match fDecode a with
  | .nan => fQuiet
  | _ => { val := putBit a 35 false, flags := [] }
def fNeg (a : Word) : Alu :=
  match fDecode a with
  | .nan => fQuiet
  | _ => { val := putBit a 35 (!a.msb), flags := [] }

/-- NORM.F: the significand scaled to 1 ≤ |v| < 2, sign kept; ±∞ stays; a zero is returned (R235, R237, log 21). -/
def fNorm (a : Word) : Alu :=
  match fDecode a with
  | .nan => fQuiet
  | .inf s => { val := fInf s, flags := [] }
  | .fin s m _ => if m = 0 then { val := fZero s, flags := [] } else fRound s m (-(Nat.log2 m : Int)) false

/-- EXP.F: floor(log2 |a|); ±0 gives 0x8_0000_0000 with DZ, ±∞ 0x7_FFFF_FFFF, a NaN is invalid (R236, R237). -/
def fExp (a : Word) : Alu :=
  match fDecode a with
  | .nan => fInvalid
  | .inf _ => { val := wordMax, flags := [] }
  | .fin _ m e => if m = 0 then { val := wordMin, flags := [(fDZ, true)] }
    else { val := BitVec.ofInt 36 ((Nat.log2 m : Int) + e), flags := [] }

/-- FCVT.FI and FCVT.FU: an integer times 2^k to F36 (Table UMD-8). -/
def fFromInt (x : Int) (k : Int) : Alu := fRound (decide (x < 0)) x.natAbs k false

/-- FCVT.IF and FCVT.UF: the value times 2^k truncated to a word in [lo, hi]; invalid outside the range (R237). -/
def fToInt (lo hi : Int) (a : Word) (k : Int) : Alu :=
  match fDecode a with
  | .nan => { val := 0, flags := [(fINV, true)] }
  | .inf s => { val := BitVec.ofInt 36 (if s then lo else hi), flags := [(fINV, true)] }
  | .fin s m e =>
    let x := e + k
    let mag := if 0 ≤ x then m * 2 ^ x.toNat else m / 2 ^ (-x).toNat
    let inx := decide (x < 0) && decide (m % 2 ^ (-x).toNat ≠ 0)
    let v : Int := if s then -(mag : Int) else mag
    if v < lo then { val := BitVec.ofInt 36 lo, flags := [(fINV, true)] }
    else if hi < v then { val := BitVec.ofInt 36 hi, flags := [(fINV, true)] }
    else { val := BitVec.ofInt 36 v, flags := if inx then [(fINX, true)] else [] }

def fCvtIF (a : Word) (k : Int) : Alu := fToInt (-(2 ^ 35)) (2 ^ 35 - 1) a k
def fCvtUF (a : Word) (k : Int) : Alu := fToInt 0 (2 ^ 36 - 1) a k

/-- FCMP: Z, N, V, C under R239. -/
def fCmp (a b : Word) : FlagW :=
  let lt (x y : FVal) : Option Ordering :=
    match x, y with
    | .nan, _ => none
    | _, .nan => none
    | .inf s, .inf t => some (if s = t then .eq else if s then .lt else .gt)
    | .inf s, .fin .. => some (if s then .lt else .gt)
    | .fin .., .inf t => some (if t then .gt else .lt)
    | .fin na ma ea, .fin nb mb eb => some (compare (fSumInt na ma ea (!nb) mb eb).1 0)
  match lt (fDecode a) (fDecode b) with
  | none => [(fZ, false), (fN, false), (fV, false), (fC, false)]
  | some .eq => [(fZ, true), (fN, false), (fV, false), (fC, true)]
  | some .lt => [(fZ, false), (fN, true), (fV, false), (fC, true)]
  | some .gt => [(fZ, false), (fN, false), (fV, false), (fC, true)]

/-- A flag write contains INV: the operation is one that R237 makes invalid. -/
def isInvalid (fs : FlagW) : Bool := fs.contains (fINV, true)

end Sys2Proof.Machine
end

