-- ==== Sys2Proof/Machine/Operands.lean ====
section
/-!
DEFINITION. Sys2Proof/Machine/Operands.lean: the operand forms that instructions share: results into D, pointers, the N/L selector, the AM field of
Format M, the dual-fetch pointers and accumulators (06 R192-R202; 07 R216-R220, R226).
-/

namespace Sys2Proof.Machine

/-- An immediate of 18 bits, sign-extended to a word (R194). -/
def imm18 (v : BitVec 18) : Word := v.signExtend 36

/-- A result into Dd with its flags (R199). -/
def aluBody (rd : Fin 16) (f : State → Alu) : State → Body := fun s =>
  .ok s (wD rd .alu (f s).val :: wFlags .flag (f s).flags)

/-- Flags alone, as CMP and TST (R199). -/
def flagBody (f : State → FlagW) : State → Body := fun s => .ok s (wFlags .flag (f s))

/-- A result into Dd without flags. -/
def dBody (rd : Fin 16) (f : State → Word) : State → Body := fun s => .ok s [wD rd .alu (f s)]

/-- A move into a pointer (distance class of Table UMT-1, row "write of D, P, N or L"). -/
def pBody (pd : Fin 16) (f : State → Addr) : State → Body := fun s => .ok s [wP pd .alu (f s)]

/-- The register an N/L selector of four bits names: bit 3 clear N0-N7, set L0-L7 (Tables UMI-6, UMI-7, UMI-9). -/
def nlReg (nl : Fin 16) : Fin 8 := Fin.ofNat 8 nl.val
def nlIsL (nl : Fin 16) : Bool := decide (8 ≤ nl.val)

/-- A write of an N or L register. -/
def wNL (nl : Fin 16) (p : Prod) (v : Addr) : Wr := if nlIsL nl then wL (nlReg nl) p v else wN (nlReg nl) p v

/-- An N register sign-extended, or an L register zero-extended (R156, R200, R202). -/
def State.rdNL (s : State) (nl : Fin 16) : Word :=
  if nlIsL nl then (s.rdL (nlReg nl) .data).setWidth 36 else (s.rdN (nlReg nl) .data).signExtend 36

def nlBody (nl : Fin 16) (f : State → Addr) : State → Body := fun s => .ok s [wNL nl .alu (f s)]

/-! ### Format M addressing (Table UMI-8) -/

/-- AM values and OFS12 values that raise the reserved-opcode trap (R201): AM 6 and 7, a pointer outside the mode's range, nonzero OFS12 bits. -/
def amRsv (pp : Fin 16) (am : BitVec 3) (ofs : BitVec 12) : Bool :=
  match am.toNat with
  | 0 => ofs != 0
  | 1 => false
  | 2 => (fld ofs 0 11 : BitVec 11) != 0
  | 3 => (fld ofs 0 11 : BitVec 11) != 0
  | 4 => (fld ofs 0 11 : BitVec 11) != 0 || decide (8 ≤ pp.val)
  | 5 => (fld ofs 0 11 : BitVec 11) != 0 || decide (pp.val < 8)
  | _ => true

/-- The address of a Format M access (Table UMI-8). -/
def amAddr (pp : Fin 16) (am : BitVec 3) (ofs : BitVec 12) (s : State) : Addr :=
  let p := s.rdP pp .addr
  match am.toNat with
  | 1 => p + ofs.signExtend 24
  | 5 => p - 1
  | _ => p

/-- The PMODE mode of a pointer; P8-P15 are always linear (R159). -/
def State.pointerMode (s : State) (pp : Fin 16) : BitVec 2 := if pp.val < 8 then fld (s.rdCtl 1) (2 * pp.val) 2 else 0

/-- The post-modification by a step of Pp, k < 8 under PMODE (R159, R231, R232). -/
def State.stepped (s : State) (pp : Fin 16) (byN : Bool) (d : Int) : Addr :=
  let k : Fin 8 := Fin.ofNat 8 pp.val
  stepPointer (s.pointerMode pp) (s.rdP pp .addr) (s.rdN k .addr) (s.rdL k .addr) byN d

/-- The pointer write of a Format M access (Table UMI-8). -/
def amMod (pp : Fin 16) (am : BitVec 3) (s : State) : List Wr :=
  match am.toNat with
  | 2 => [wP pp .postMod (s.stepped pp false 1)]
  | 3 => [wP pp .postMod (s.stepped pp false (-1))]
  | 4 => [wP pp .postMod (s.stepped pp true (s.rdN (Fin.ofNat 8 pp.val) .addr).toInt)]
  | 5 => [wP pp .postMod (s.rdP pp .addr - 1)]
  | _ => []

/-- What a Format M instruction does with a false condition: with PM = 1 the pointer modification is made (R196, R201). -/
def amPm (pp : Fin 16) (am : BitVec 3) (ofs : BitVec 12) (s : State) : List Wr :=
  if ofs.getLsbD 11 && am.toNat != 1 then amMod pp am s else []

/-! ### Dual fetch (Table UMD-3) -/

def pxReg (px : Fin 8) : Fin 16 := ⟨px.val, by omega⟩
def pyReg (py : Fin 8) : Fin 16 := ⟨8 + py.val, by omega⟩

/-- The modification of Px, under PMODE (R220). -/
def amxMod (px : Fin 8) (amx : BitVec 2) (s : State) : List Wr :=
  match amx.toNat with
  | 1 => [wP (pxReg px) .postMod (s.stepped (pxReg px) false 1)]
  | 2 => [wP (pxReg px) .postMod (s.stepped (pxReg px) false (-1))]
  | 3 => [wP (pxReg px) .postMod (s.stepped (pxReg px) true (s.rdN px .addr).toInt)]
  | _ => []

/-- The modification of Py, always linear (R220). -/
def amyMod (py : Fin 8) (amy : BitVec 2) (s : State) : List Wr :=
  match amy.toNat with
  | 1 => [wP (pyReg py) .postMod (s.rdP (pyReg py) .addr + 1)]
  | 2 => [wP (pyReg py) .postMod (s.rdP (pyReg py) .addr - 1)]
  | 3 => [wP (pyReg py) .postMod (s.rdP (pyReg py) .addr + 2)]
  | _ => []

/-! ### Accumulators -/

/-- A MAC-class result into ACd with its flags (R217, R218). -/
def accBody (acd : Fin 4) (f : State → AccR) : State → Body := fun s =>
  .ok s (wAc acd (f s).val :: wFlags .flag (f s).flags)

/-- The odd accumulator of a pair. -/
def accNext (acd : Fin 4) : Fin 4 := Fin.ofNat 4 (acd.val + 1)

/-- A pair of accumulators saturated separately, with the flags of both (R218). -/
def accPairWrites (acd : Fin 4) (r i : AccR) : List Wr :=
  wAc acd r.val :: wAc (accNext acd) i.val :: wFlags .flag (pairFlags r i)

/-- CMAC and CMACJ: the complex product accumulated into ACd, AC(d+1) (R216, Table UMD-1). -/
def cmacWrites (sat conj : Bool) (acd : Fin 4) (a b : Word) (s : State) : List Wr :=
  let p := c18Mul conj a b
  accPairWrites acd (satAcc sat ((s.rdAc acd .mac).toInt + p.1)) (satAcc sat ((s.rdAc (accNext acd) .mac).toInt + p.2))

/-! ### F36 -/

/-- An F36 result into Dd with its sticky flags; with FTRAP an invalid operation raises vector 8 instead (R236-R238). -/
def fBody (rd : Fin 16) (f : State → Alu) : State → Body := fun s =>
  let r := f s
  if isInvalid r.flags && srFtrap (s.rdCtl 0) then .trap trapF36 s
  else .ok s (wD rd .f36 r.val :: wFlags .f36 r.flags)

/-! ### Issue classes -/

/-- An instruction of a major that RPT accepts (R228). -/
def kRep : IClass := {}

/-- One that RPT does not accept (R228). -/
def kNoRep : IClass := { rep := false }

/-- A reserved form under a condition on its fields (R197). -/
def kRsv (b : Bool) : IClass := { rsv := b }

end Sys2Proof.Machine
end

