-- ==== Sys2Proof/Machine/UmberMem.lean ====
section
/-!
DEFINITION. Sys2Proof/Machine/UmberMem.lean: Umber's accesses to data space (05 R165, R166, R173, R191; 06 R201, R202, R210; 07 R241-R244; 08 R262-R268), and the
loads, stores and atomics of majors 0x10-0x14 and 0x38.
-/

namespace Sys2Proof.Machine

/-! ### One access -/

/-- How an access to data space ends: it answers, it faults, or its instruction holds (R262, R263). -/
inductive MemR (α : Type) where
  | ok (a : α) (s : State)
  | trap (t : Trap) (s : State)
  | wait (s : State) (h : Hold)

/-- The access after an access. -/
def MemR.bind {α β : Type} (r : MemR α) (f : α → State → MemR β) : MemR β :=
  match r with
  | .ok a s => f a s
  | .trap t s => .trap t s
  | .wait s h => .wait s h

/-- What an instruction does with the answer; a fault or a hold ends it. -/
def MemR.body {α : Type} (r : MemR α) (f : α → State → Body) : Body :=
  match r with
  | .ok a s => f a s
  | .trap t s => .trap t s
  | .wait s h => .wait s h

/-- The access at an address has passed its checks and waited since: they are not made again (R327). -/
def State.passed (s : State) (h : Hold) : Bool := decide (s.umber.hold = h)

/-- The answer of a read that may be poisoned (Table MEM-6). -/
def poisonable (a : Addr) (p : Prod) (r : Option Word × State) : MemR (Word × Prod) :=
  match r.1 with
  | some w => .ok (w, p) r.2
  | none => .trap (trapPoison a) r.2

/-- The bus fault of an access to an asleep arch or tile, with BSTAT.ASLEEP (R191, R297). -/
def asleepTrap {α : Type} (a : Addr) (s : State) : MemR α := .trap (trapBus a) (noteBstat 3 none s)

/-- A parameter access that the domain mask refuses: SUB 3 with BSTAT.DENIED, recorded with reason 8 (R191, R624). -/
def deniedTrap {α : Type} (a : Addr) (i : Nat) (write : Bool) (s : State) : MemR α :=
  .trap (trapProt 3 a) (noteBstat 2 (some i) (notePerr .umber i 8 write s))

/-- A load from the parameter space (R191, R262, R264, R503, R624, R625). -/
def loadPar (a : Addr) (i : Nat) (s : State) : MemR (Word × Prod) :=
  let acc := s.umberAcc
  if !populated i then .ok (0, .load) (noteBstat 0 (some i) s)
  else if !s.passed (.data a) && s.maskDenies acc i false then deniedTrap a i false s
  else if s.queuedFor (shellOf i) then .wait s (.data a)
  else
    match readPar acc i s with
    | (.val w, s) => .ok (w, .load) s
    | (.refused r, s) => .ok (0, .load) (noteBstat 1 (some i) (notePerr .umber i r false s))
    | (.wait, s) => .wait s (.data a)
    | (.bus, s) => .trap (trapBus a) s

/-- A load at a place of data space (Table UMM-4); `whole` says that it is one whole word (R166). -/
def loadPlace (whole : Bool) (a : Addr) (s : State) : MemR (Word × Prod) :=
  match place a with
  | .sram b => if s.asleep (archOf b) then asleepTrap a s else poisonable a .load (umberSramRead b s)
  | .tile b => if s.asleep 4 then asleepTrap a s else poisonable a .loadTile (tileRead b s)
  | .keys _ => .trap (trapBus a) s
  | .dnvm b => poisonable a .load (nvmRead (s.dnvmCell b) a s)
  | .prog b => poisonable a .load (nvmRead (s.progCell b) a s)
  | .par i => if whole then loadPar a i.toNat s else .trap (trapAlign a) s
  | .fifo =>
    if !whole then .trap (trapAlign a) s
    else if s.queuedFor .radio then .wait s (.data a)
    else let r := fifoRead a s; .ok (r.1, .load) r.2
  | .unmapped => .trap (trapBus a) s

/-- The parameter space and the radio FIFO take single whole words only (R166). -/
def wordOnly (a : Addr) : Bool :=
  match place a with
  | .par _ => true
  | .fifo => true
  | _ => false

/-- The region check of a data access (R173, R322, R323). -/
def checkData {α : Type} (a : Addr) (need : Need) (s : State) (k : MemR α) : MemR α :=
  if s.passed (.data a) then k
  else
    match s.regionFail s.umberAcc spData a need with
    | some sub => .trap (trapProt sub a) s
    | none => k

/-- Note a completed access for the watchpoints (R533). -/
def watched {α : Type} (a : Addr) (write : Bool) (r : MemR α) : MemR α :=
  match r with
  | .ok x s => .ok x (watchAccess a write s)
  | r => r

/-- A load of one word, faults in the order of R179: alignment, protection, bus, poison. -/
def loadWord (whole : Bool) (a : Addr) (s : State) : MemR (Word × Prod) :=
  if !whole && wordOnly a then .trap (trapAlign a) s
  else checkData a .r s (watched a false (loadPlace whole a s))

/-- A write enters the parameter write queue (R263); with eight waiting the instruction holds. -/
def enqueue (h : Hold) (tgt : PTarget) (w : Word) (s : State) : MemR Unit :=
  if 8 ≤ s.umber.pwq.length then .wait s h
  else
    let e : PWrite := { tgt := tgt, val := w, dom := s.umberAcc.dom, prv := s.umberAcc.prv, latched := none }
    .ok () (s.setUmber { s.umber with pwq := s.umber.pwq ++ [e] })

/-- A store to the parameter space: an unpopulated index is not sent (R625); a mask or privilege denial faults (R324, R326). -/
def storePar (a : Addr) (i : BitVec 13) (w : Word) (s : State) : MemR Unit :=
  let n := i.toNat
  let acc := s.umberAcc
  if !populated n then .ok () (noteBstat 0 (some n) s)
  else if s.passed (.data a) then enqueue (.data a) (.par i) w s
  else if s.maskDenies acc n true then deniedTrap a n true s
  else if privDenies acc n true then .trap (trapProt 4 a) (notePerr .umber n 8 true s)
  else enqueue (.data a) (.par i) w s

/-- A store of one word or of lanes of it at a place (R202, R265, R285, R289, R297, R368, Table MEM-6). -/
def storePlace (mask : BitVec 4) (w : Word) (a : Addr) (s : State) : MemR Unit :=
  match place a with
  | .sram b =>
    if s.asleep (archOf b) then asleepTrap a s
    else if mask ≠ 0xF ∧ s.poisoned b then .trap (trapPoison a) s
    else .ok () (allocStore b mask w s)
  | .tile b =>
    if s.asleep 4 then asleepTrap a s
    else
      match tileWrite b mask w s with
      | (true, s) => .ok () s
      | (false, s) => .trap (trapPoison a) s
  | .par i => storePar a i w s
  | .fifo => enqueue (.data a) (if a.getLsbD 8 then .fifoRx else .fifo) w s
  | _ => .trap (trapBus a) s

/-- The permission of a store: a partial one (nonet or halfword lanes, R288) also reads (R322). -/
def storeNeed (mask : BitVec 4) : Need := if mask = 0xF then .w else .rw

/-- A store of one word or lane group. -/
def storeWord (mask : BitVec 4) (a : Addr) (w : Word) (s : State) : MemR Unit :=
  if mask ≠ 0xF ∧ wordOnly a then .trap (trapAlign a) s
  else checkData a (storeNeed mask) s (watched a true (storePlace mask w a s))

/-- A store is made after every word of its instruction passed: the check alone, with what its fault leaves. -/
def storeProbe (mask : BitVec 4) (a : Addr) (s : State) : Option (Trap × State) :=
  match storeWord mask a 0 s with
  | .trap t s => some (t, s)
  | _ => none

/-! ### Loads -/

/-- A load that writes one register from the word, and its pointer (R201, R202). -/
def loadBody (whole : Bool) (pp : Fin 16) (am : BitVec 3) (ofs : BitVec 12) (dest : Prod → Word → Wr) : State → Body := fun s =>
  let mods := amMod pp am s
  (loadWord whole (amAddr pp am ofs s) s).body (fun r s =>
    let w := dest r.2 r.1
    .ok s (mods.filter (fun m => decide (m.1 ≠ w.1)) ++ [w]))

/-- A load instruction (R196, R201). -/
def loadStep (c : Cond) (whole : Bool) (pp : Fin 16) (am : BitVec 3) (ofs : BitVec 12) (dest : Prod → Word → Wr) (s : State) :
    Host.Outcome State Fault Refusal :=
  .next (issue c (kRsv (amRsv pp am ofs)) (amPm pp am ofs) (loadBody whole pp am ofs dest) s)

/-- LD: Dd = word (R202, Table UMI-9). -/
def execLd (c : Cond) (rd pp : Fin 16) (am : BitVec 3) (ofs : BitVec 12) (s : State) : Host.Outcome State Fault Refusal :=
  loadStep c true pp am ofs (fun p w => wD rd p w) s

/-- LDP: Pd = word bits 23:0; loading the pointer it modifies leaves the loaded value (R202, R210). -/
def execLdp (c : Cond) (pd pp : Fin 16) (am : BitVec 3) (ofs : BitVec 12) (s : State) : Host.Outcome State Fault Refusal :=
  loadStep c true pp am ofs (fun p w => wP pd p (fld w 0 24)) s

/-- LDO: Nd or Ld = word bits 23:0 (R202, R210). -/
def execLdo (c : Cond) (nl pp : Fin 16) (am : BitVec 3) (ofs : BitVec 12) (s : State) : Host.Outcome State Fault Refusal :=
  loadStep c true pp am ofs (fun p w => wNL nl p (fld w 0 24)) s

/-- Halfword lane k of a word (R166). -/
def halfLane (k : Fin 2) (w : Word) : BitVec 18 := fld w (18 * k.val) 18

/-- Nonet lane k of a word (R166). -/
def nonetLane (k : Fin 4) (w : Word) : BitVec 9 := fld w (9 * k.val) 9

/-- LDH.k: Dd = sign-extended halfword lane k (R202). -/
def execLdh (c : Cond) (k : Fin 2) (rd pp : Fin 16) (am : BitVec 3) (ofs : BitVec 12) (s : State) : Host.Outcome State Fault Refusal :=
  loadStep c false pp am ofs (fun p w => wD rd p ((halfLane k w).signExtend 36)) s

/-- LDHU.k: Dd = zero-extended halfword lane k (R202). -/
def execLdhu (c : Cond) (k : Fin 2) (rd pp : Fin 16) (am : BitVec 3) (ofs : BitVec 12) (s : State) : Host.Outcome State Fault Refusal :=
  loadStep c false pp am ofs (fun p w => wD rd p ((halfLane k w).setWidth 36)) s

/-- LDQ.k: Dd = sign-extended nonet lane k (R202). -/
def execLdq (c : Cond) (k : Fin 4) (rd pp : Fin 16) (am : BitVec 3) (ofs : BitVec 12) (s : State) : Host.Outcome State Fault Refusal :=
  loadStep c false pp am ofs (fun p w => wD rd p ((nonetLane k w).signExtend 36)) s

/-- LDQU.k: Dd = zero-extended nonet lane k (R202). -/
def execLdqu (c : Cond) (k : Fin 4) (rd pp : Fin 16) (am : BitVec 3) (ofs : BitVec 12) (s : State) : Host.Outcome State Fault Refusal :=
  loadStep c false pp am ofs (fun p w => wD rd p ((nonetLane k w).setWidth 36)) s

/-- A doubleword address must be even, and outside the parameter space and the radio FIFO (R166). -/
def dwordBad (a : Addr) : Bool := a.getLsbD 0 || wordOnly a || wordOnly (a + 1)

/-- Both words of a doubleword pass the region check before either is accessed (R322, R179). -/
def checkPair {α : Type} (a : Addr) (need : Need) (s : State) (k : MemR α) : MemR α :=
  if dwordBad a then .trap (trapAlign a) s else checkData a need s (checkData (a + 1) need s k)

/-- The register after Dd. -/
def regNext (rd : Fin 16) : Fin 16 := Fin.ofNat 16 (rd.val + 1)

/-- LDD: Dd = word at the address, D(d+1) = word at the next; an odd d is reserved; the pointer moves once (R166, R202). -/
def execLdd (c : Cond) (rd pp : Fin 16) (am : BitVec 3) (ofs : BitVec 12) (s : State) : Host.Outcome State Fault Refusal :=
  .next (issue c (kRsv (amRsv pp am ofs || rd.val % 2 == 1)) (amPm pp am ofs) (fun s =>
    let a := amAddr pp am ofs s
    let mods := amMod pp am s
    (checkPair a .r s ((loadWord false a s).bind (fun lo s => (loadWord false (a + 1) s).bind (fun hi s => .ok (lo, hi) s)))).body
      (fun r s => .ok s (mods ++ [wD rd r.1.2 r.1.1, wD (regNext rd) r.2.2 r.2.1]))) s)

/-! ### Stores -/

/-- A store instruction: the value is formed before its own pointer modification (R202). -/
def storeStep (c : Cond) (mask : BitVec 4) (pp : Fin 16) (am : BitVec 3) (ofs : BitVec 12) (val : State → Word) (s : State) :
    Host.Outcome State Fault Refusal :=
  .next (issue c (kRsv (amRsv pp am ofs)) (amPm pp am ofs) (fun s =>
    let mods := amMod pp am s
    (storeWord mask (amAddr pp am ofs s) (val s) s).body (fun _ s => .ok s mods)) s)

/-- ST: word = Dd (R202, Table UMI-9). -/
def execSt (c : Cond) (rd pp : Fin 16) (am : BitVec 3) (ofs : BitVec 12) (s : State) : Host.Outcome State Fault Refusal :=
  storeStep c 0xF pp am ofs (fun s => s.rdD rd) s

/-- STP: word = zero-extended Pd (R202). -/
def execStp (c : Cond) (pd pp : Fin 16) (am : BitVec 3) (ofs : BitVec 12) (s : State) : Host.Outcome State Fault Refusal :=
  storeStep c 0xF pp am ofs (fun s => (s.rdP pd .data).setWidth 36) s

/-- STO: word = sign-extended Nd or zero-extended Ld (R202). -/
def execSto (c : Cond) (nl pp : Fin 16) (am : BitVec 3) (ofs : BitVec 12) (s : State) : Host.Outcome State Fault Refusal :=
  storeStep c 0xF pp am ofs (fun s => s.rdNL nl) s

/-- The nonet lanes of halfword lane k, and a value placed in it (R166). -/
def halfMask (k : Fin 2) : BitVec 4 := if k = 0 then 0x3 else 0xC
def inHalf (k : Fin 2) (w : Word) : Word := putFld (0 : Word) (18 * k.val) (fld w 0 18 : BitVec 18)

/-- The lane mask of nonet lane k, and a value placed in it (R166). -/
def nonetMask (k : Fin 4) : BitVec 4 := 1#4 <<< k.val
def inNonet (k : Fin 4) (w : Word) : Word := putFld (0 : Word) (9 * k.val) (fld w 0 9 : BitVec 9)

/-- STH.k: lane k takes Dd bits 17:0 (R202). -/
def execSth (c : Cond) (k : Fin 2) (rd pp : Fin 16) (am : BitVec 3) (ofs : BitVec 12) (s : State) : Host.Outcome State Fault Refusal :=
  storeStep c (halfMask k) pp am ofs (fun s => inHalf k (s.rdD rd)) s

/-- STQ.k: lane k takes Dd bits 8:0 (R202). -/
def execStq (c : Cond) (k : Fin 4) (rd pp : Fin 16) (am : BitVec 3) (ofs : BitVec 12) (s : State) : Host.Outcome State Fault Refusal :=
  storeStep c (nonetMask k) pp am ofs (fun s => inNonet k (s.rdD rd)) s

/-- Two words stored, low-order word first, once both have passed (R166, R265). -/
def storePair (a : Addr) (lo hi : Word) (s : State) : MemR Unit :=
  checkPair a .w s (match storeProbe 0xF a s, storeProbe 0xF (a + 1) s with
    | some r, _ => .trap r.1 r.2
    | none, some r => .trap r.1 r.2
    | none, none => (storeWord 0xF a lo s).bind (fun _ s => storeWord 0xF (a + 1) hi s))

/-- STD: the reverse of LDD (R166, R202). -/
def execStd (c : Cond) (rd pp : Fin 16) (am : BitVec 3) (ofs : BitVec 12) (s : State) : Host.Outcome State Fault Refusal :=
  .next (issue c (kRsv (amRsv pp am ofs || rd.val % 2 == 1)) (amPm pp am ofs) (fun s =>
    let mods := amMod pp am s
    (storePair (amAddr pp am ofs s) (s.rdD rd) (s.rdD (regNext rd)) s).body (fun _ s => .ok s mods)) s)

/-! ### Load-reserved, store-conditional and atomics -/

/-- AM 0 and 1 only (R202). -/
def atomRsv (pp : Fin 16) (am : BitVec 3) (ofs : BitVec 12) : Bool := amRsv pp am ofs || decide (2 ≤ am.toNat)

/-- With the access at the bank over, the arches that waited for the drain before it begin their steps (R295). -/
def MemR.settled {α : Type} (r : MemR α) : MemR α :=
  match r with
  | .ok x s => .ok x (archesSettle s)
  | .trap t s => .trap t (archesSettle s)
  | r => r

/-- The access of LR, SC, ATADD and ATSWP: data SRAM only (R241), its arch awake (R297), the store buffer drained first (R269). -/
def atomAccess {α : Type} (need : Need) (a : Addr) (s : State) (f : BitVec 18 → State → MemR α) : MemR α :=
  checkData a need s (match place a with
    | .sram b => if s.asleep (archOf b) then asleepTrap a s else (f b (drainAll s)).settled
    | _ => .trap (trapBus a) s)

/-- An instruction of major 0x38, which RPT does not accept (R228). -/
def atomStep (c : Cond) (pp : Fin 16) (am : BitVec 3) (ofs : BitVec 12) (body : State → Body) (s : State) : Host.Outcome State Fault Refusal :=
  umberStep c { rsv := atomRsv pp am ofs, rep := false } body s

/-- Hold a reservation (R242). -/
def setResv (r : Option (Addr × Dom)) (s : State) : State := s.setUmber { s.umber with resv := r }

/-- LR: Dd = word, and the reservation is its address and SR.DOM (R242). -/
def execLr (c : Cond) (rd pp : Fin 16) (am : BitVec 3) (ofs : BitVec 12) (s : State) : Host.Outcome State Fault Refusal :=
  atomStep c pp am ofs (fun s =>
    let a := amAddr pp am ofs s
    (atomAccess .r a s (fun b s => watched a false (poisonable a .load (umberSramRead b s)))).body (fun r s =>
      .ok (setResv (some (a, s.umberAcc.dom)) s) [wD rd r.2 r.1])) s

/-- SC: with the reservation held for the address and SR.DOM, word = Dd and PB0 = 1; otherwise PB0 = 0. The reservation clears (R242, R243). -/
def execSc (c : Cond) (rd pp : Fin 16) (am : BitVec 3) (ofs : BitVec 12) (s : State) : Host.Outcome State Fault Refusal :=
  atomStep c pp am ofs (fun s =>
    let a := amAddr pp am ofs s
    let w := s.rdD rd
    let held := decide (s.umber.resv = some (a, s.umberAcc.dom))
    (atomAccess .w a s (fun b s => watched a true (.ok () (if held then sramWrite b w (umberGrant b s) else s)))).body (fun _ s =>
      .ok (setResv none s) (wFlags .flag [(fPB0, held)]))) s

/-- An atomic at the bank that returns the old word: a read and a write for the watchpoints (R244, R293, R533). -/
def atomSwap (c : Cond) (rd pp : Fin 16) (am : BitVec 3) (ofs : BitVec 12) (f : Word → Word → Word) (s : State) : Host.Outcome State Fault Refusal :=
  atomStep c pp am ofs (fun s =>
    let a := amAddr pp am ofs s
    let w := s.rdD rd
    (atomAccess .rw a s (fun b s => watched a true (watched a false (poisonable a .load (sramAtomic finUmber b (f w) (umberGrant b s)))))).body (fun r s =>
      .ok s [wD rd r.2 r.1])) s

/-- ATADD: word = old + Dd modulo 2^36, Dd = old (R244). -/
def execAtadd (c : Cond) (rd pp : Fin 16) (am : BitVec 3) (ofs : BitVec 12) (s : State) : Host.Outcome State Fault Refusal :=
  atomSwap c rd pp am ofs (fun w old => old + w) s

/-- ATSWP: word = Dd, Dd = old (R244). -/
def execAtswp (c : Cond) (rd pp : Fin 16) (am : BitVec 3) (ofs : BitVec 12) (s : State) : Host.Outcome State Fault Refusal :=
  atomSwap c rd pp am ofs (fun w _ => w) s

end Sys2Proof.Machine
end

