-- ==== Sys2Proof/Machine/DmaElem.lean ====
section
/-!
DEFINITION. Sys2Proof/Machine/DmaElem.lean: the accesses of the DMA engine (10 R330-R333, R337-R339): the choice of a channel, element reads and writes with
their checks in the order of R339, and descriptor reads.
-/

namespace Sys2Proof.Machine

/-- How one access of a channel ends: its words, a fault with its code and word address, or a hold (R337, R495, R503). -/
inductive ElemR where
  | ok (ws : Word × Word) (s : State)
  | fault (code : BitVec 5) (a : Addr) (s : State)
  /-- It has passed its checks and is sent across its crossing. -/
  | sent
  /-- It waits at its shell; the state in which the wait is noted. -/
  | hold (s : State)

/-- The words an element covers: two for a doubleword. -/
def elemWords (esize : Nat) (a : Addr) : List Addr := if esize = 3 then [a, a + 1] else [a]

/-- Code 7 (R331, R332): an odd doubleword, or an element other than a word in the parameter space or the radio FIFO. -/
def elemUnaligned (esize : Nat) (a : Addr) : Bool := (decide (esize = 3) && a.getLsbD 0) || (decide (esize ≠ 2) && wordOnly a)

/-- Codes 1 and 2 (R322, R323): the first word whose region check fails, recorded in DOM.VIOL with master 1. -/
def elemRegion (acc : Accessor) (need : Need) (as : List Addr) (s : State) (k : ElemR) : ElemR :=
  match as.find? (fun a => (s.regionFail acc spData a need).isSome) with
  | none => k
  | some a =>
    let sub := (s.regionFail acc spData a need).getD 0
    .fault (if sub = 0 then 1 else 2) a (noteViol 1 acc.dom a (decide (need ≠ .r)) s)

/-- Code 3 for a read mask, 2 for a write mask (R324), with the record of R624. -/
def elemMask (acc : Accessor) (write : Bool) (a : Addr) (s : State) (k : ElemR) : ElemR :=
  match place a with
  | .par i =>
    if populated i.toNat && !s.maskOk acc i.toNat write then .fault (if write then 2 else 3) a (notePerr acc.master i.toNat 8 write s) else k
  | _ => k

/-- STATUS.NOPARAM (R625). -/
def elemNoParam (c : Fin 16) (s : State) : State := setDmaStatus c 11 s

/-- The lane of an element address as a shift (R166). -/
def elemShift (esize n : Nat) : Nat := if esize = 0 then 9 * (n % 4) else if esize = 1 then 18 * (n % 2) else 0

/-- The answer of a memory word that may be poisoned or uncorrectable: code 5 (Table MEM-6). -/
def elemWordR (a : Addr) (r : Option Word × State) (f : Word → State → ElemR) : ElemR :=
  match r.1 with
  | some w => f w r.2
  | none => .fault 5 a r.2

/-- One word read at a place a read may have (Table DMA-4). -/
def elemReadWord (c : Fin 16) (a : Addr) (s : State) (f : Word → State → ElemR) : ElemR :=
  match place a with
  | .sram b => if s.asleep (archOf b) then .fault 11 a s else elemWordR a (sramRead finDma b (busGrant waitDma b s)) f
  | .dnvm b => elemWordR a (nvmRead (s.dnvmCell b) a s) f
  | .prog b => elemWordR a (nvmRead (s.progCell b) a s) f
  | .par i =>
    if !populated i.toNat then f 0 (elemNoParam c s)
    else
      match readPar (s.dmaAcc c) i.toNat s with
      | (.val w, s) => f w s
      | (.refused r, s) => .fault 6 a (notePerr (.dma c) i.toNat r false s)
      | (.wait, s) => .hold s
      | (.bus, s) => .fault 4 a s
  | .fifo => let r := fifoRead a s; f r.1 r.2
  | _ => .fault 4 a s

/-- The first word of a doubleword has been served: the second is presented in a later cycle (Table DMA-7). -/
def keepHalf (c : Fin 16) (w : Word) (s : State) : ElemR := .hold (s.setDma c { s.dma[c] with half := some w })

/-- The source read at its place (R331, R332), of a doubleword one word at a time. -/
def elemReadPlace (c : Fin 16) (d : DmaSt) (n : Nat) (a : Addr) (s : State) : ElemR :=
  match d.half with
  | some w => elemReadWord c (a + 1) s (fun w' s => .ok (w, w') s)
  | none =>
  elemReadWord c a s (fun w s =>
    if d.esize = 3 then keepHalf c w s
    else
      let sh := w >>> elemShift d.esize n
      .ok ((if d.esize = 0 then sh &&& 0x1FF else if d.esize = 1 then sh &&& 0x3FFFF else w), 0) s)

/-- The destination write at its place (Table DMA-4, R333, Table MEM-6). -/
def elemWritePlace (c : Fin 16) (d : DmaSt) (n : Nat) (a : Addr) (s : State) : ElemR :=
  let w := d.kept.1
  let done := fun (s : State) => ElemR.ok (0, 0) s
  match place a with
  | .sram b =>
    if s.asleep (archOf b) then .fault 11 a s
    else if d.atomic then elemWordR a (sramAtomic finDma b (fun old => old + w) (busGrant waitDma b s)) (fun _ s => done s)
    else if d.esize = 3 then
      if d.half.isSome then done (sramWrite (b + 1) d.kept.2 (busGrant waitDma (b + 1) s))
      else keepHalf c w (sramWrite b w (busGrant waitDma b s))
    else
      match sramPartial finDma b (elemLanes d.esize n) (w <<< elemShift d.esize n) (busGrant waitDma b s) with
      | (true, s) => done s
      | (false, s) => .fault 5 a s
  | .par i =>
    if d.atomic then .fault 4 a s
    else if !populated i.toNat then done (elemNoParam c s)
    else if s.holdsWrite (s.dmaAcc c) i.toNat then .hold s
    else
      let r := writeAs (s.dmaAcc c) i.toNat w s
      if r.1 = 0 then done r.2 else .fault 6 a r.2
  | .fifo =>
    if d.atomic then .fault 4 a s
    else if a.getLsbD 8 then done s
    else
      let r := fifoWrite w s
      if r.1 = 0 then done r.2 else .fault 6 a r.2
  | _ => .fault 4 a s

/-- The permissions of a destination write (R322): an atomic add and a partial write also read. -/
def DmaSt.destNeed (d : DmaSt) : Need := if d.atomic ∨ d.esize < 2 then .rw else .w

/-- The permissions the access of the phase in execution needs (R322). -/
def DmaSt.phaseNeed (d : DmaSt) : Need := if d.phase = .dest then d.destNeed else .r

/-- The element address of the phase in execution, and its word. -/
def DmaSt.phaseElem (d : DmaSt) : Nat := d.elemAddr (decide (d.phase = .dest))
def DmaSt.phaseWord (d : DmaSt) : Addr := elemWord d.esize d.phaseElem

/-- The access of the element in execution, its checks passed. -/
def elemPerform (c : Fin 16) (s : State) : ElemR :=
  let d := s.dma[c]
  if d.phase = .dest then elemWritePlace c d d.phaseElem d.phaseWord s else elemReadPlace c d d.phaseElem d.phaseWord s

/-- The access a channel presents (R337): its checks in the order of R339, then the access, or its sending across a crossing. The checks cover both words of a
doubleword before its first, so that no part of a write is made where one fails (R339). -/
def elemAccess (c : Fin 16) (s : State) : ElemR :=
  let d := s.dma[c]
  let a := d.phaseWord
  let acc := s.dmaAcc c
  if d.half.isSome then elemPerform c s
  else if elemUnaligned d.esize a then .fault 7 a s
  else
    elemRegion acc d.phaseNeed (elemWords d.esize a) s (elemMask acc (decide (d.phase = .dest)) a s
      (if wordOnly a then .sent else elemPerform c s))

/-! ### The choice of a channel (R337) -/

def State.dmaPrio (s : State) (c : Fin 16) : Nat := (fld (s.dmaPar P.DMA_CTL c) 4 2 : BitVec 2).toNat

/-- The channel has an access ready: it runs, and no reply is outstanding. -/
def State.dmaReady (s : State) (c : Fin 16) : Bool := decide (s.dmaState c = dRun) && !s.dma[c].sent

/-- The order among ready channels of one priority: an element begun first, then ascending after the channel served last. -/
def State.dmaTurn (s : State) (c : Fin 16) : Nat :=
  (if s.dma[c].phase = .dest || s.dma[c].half.isSome then 0 else 16) + (c.val + 15 - s.dmaLast.toNat) % 16

/-- Channel `a` goes before channel `b`. -/
def State.dmaBefore (s : State) (a b : Fin 16) : Bool :=
  decide (s.dmaPrio b < s.dmaPrio a) || (decide (s.dmaPrio a = s.dmaPrio b) && decide (s.dmaTurn a ≤ s.dmaTurn b))

/-- The channel whose access the engine presents next. -/
def State.dmaChosen (s : State) : Option (Fin 16) :=
  ((List.finRange 16).filter (fun c => s.dmaReady c)).foldl (fun best c =>
    match best with
    | none => some c
    | some b => if s.dmaBefore b c then some b else some c) none

/-! ### Steps of the engine -/

/-- The destination write has been made: the element is complete. A channel that aborts stays ABORTING (R341). -/
def elemComplete (c : Fin 16) (s : State) : State :=
  let aborting := decide (s.dmaState c = dAborting)
  let s := elementDone c { s with dmaLast := BitVec.ofNat 4 c.val }
  archesSettle (if aborting then setDmaState c dAborting s else s)

/-- The shell that a parameter or FIFO address crosses to (R47). -/
def crossingOf (a : Addr) : Shell :=
  match place a with
  | .par i => shellOf i.toNat
  | _ => .radio

/-- Channel `c` sends its access into a crossing, behind those already in it (R47, R48). -/
def sendElem (c : Fin 16) (s : State) : State :=
  let via := crossingOf s.dma[c].phaseWord
  let ahead : BitVec 16 := (List.finRange 16).foldl (fun b k => putBit b k.val (s.dma[k].sent && decide (crossingOf s.dma[k].phaseWord = via))) 0
  s.setDma c { s.dma[c] with sent := true, ahead := ahead }

/-- The access of channel `c` has come to its shell: those behind it no longer wait for it. -/
def arrived (c : Fin 16) (s : State) : State :=
  (List.finRange 16).foldl (fun s k => s.setDma k { s.dma[k] with ahead := putBit s.dma[k].ahead c.val false }) s

/-- What an access leaves of the element: the source read keeps its data, the destination write completes the element, a failure stops the channel, and an
access that has been sent waits for its reply. -/
def elemTake (c : Fin 16) (r : ElemR) (s : State) : State :=
  let dest := decide (s.dma[c].phase = .dest)
  match r with
  | .ok ws s =>
    let s := s.setDma c { s.dma[c] with half := none }
    if dest then elemComplete c s else s.setDma c { s.dma[c] with phase := .dest, kept := ws }
  | .fault code a s => dmaFault c (if s.dmaState c = dAborting then s.dma[c].abortCode else code) a s
  | .sent => sendElem c s
  | .hold s => s

/-- The reply of an access across its crossing comes back: it completes as it was checked (R327, R354), also in a channel that aborts, which stops with the code
of its abort whatever the reply says (R341, R344). -/
def dmaReply (c : Fin 16) (s : State) : State :=
  if s.dma[c].sent then
    let t := arrived c (s.setDma c { s.dma[c] with sent := false })
    match elemPerform c t with
    | .hold t => t.setDma c { t.dma[c] with sent := true }
    | r => elemTake c r t
  else s

/-- The channels whose reply has crossed back by this cycle: any of those that wait for one with no access ahead of theirs in its crossing (R48), at a free
choice (log 11). Where no channel has an access to present the cycle is one in which a reply comes. -/
def State.repliesBack (s : State) : BitVec 16 :=
  let waits := (List.finRange 16).foldl (fun b c => putBit b c.val (s.dma[c].sent && decide (s.dma[c].ahead = 0))) (0 : BitVec 16)
  let back : BitVec 16 := waits &&& fld (Config.freeWord (s.freeCtr * 128)) 0 16
  if back = 0 && s.dmaChosen.isNone then waits else back

/-- One cycle of the engine (R337): the replies that have come back are taken in, then the chosen channel presents one access of its element. -/
def dmaElement (back : BitVec 16) (s : State) : State :=
  let s := (List.finRange 16).foldl (fun s c => if back.getLsbD c.val then dmaReply c s else s) s
  match s.dmaChosen with
  | none => s
  | some c => if s.dma[c].phase = .descriptor then s else elemTake c (elemAccess c s) s

/-- One word of a descriptor (R330): read from data SRAM under the owner's regions. -/
def descWord (c : Fin 16) (a : Addr) (s : State) : ElemR :=
  elemRegion (s.dmaAcc c) .r [a] s
    (match place a with
     | .sram b => if s.asleep (archOf b) then .fault 11 a s else elemWordR a (sramRead finDma b (busGrant waitDma b s)) (fun w s => .ok (w, 0) s)
     | _ => .fault 4 a s)

/-- A channel reads the next word of its next descriptor, which is checked after the seventh (R330, R336, R337); the parameter descriptor is taken again after
its fault (R340). -/
def descriptorLoad (c : Fin 16) (s : State) : State :=
  if s.dmaChosen = some c ∧ s.dma[c].phase = .descriptor then
    if s.dma[c].param then beginDescriptor c (loadParamDesc c s)
    else
      let k := s.dma[c].words.toNat
      let a := s.dptr c + BitVec.ofNat 24 k
      match descWord c a s with
      | .ok w s =>
        let s := s.setDma c { s.dma[c] with desc := s.dma[c].desc.set (k % 7) w.1 (Nat.mod_lt k (by decide)), words := s.dma[c].words + 1 }
        if k = 6 then beginDescriptor c s else s
      | .fault code a s => dmaFault c code a s
      | _ => s
  else s

end Sys2Proof.Machine
end

