-- ==== Sys2Proof/Machine/UmberSys.lean ====
section
/-!
DEFINITION. Sys2Proof/Machine/UmberSys.lean: system instructions and the reserved opcodes (06 R197, R208; 05 R160-R161, R172-R184).
-/

namespace Sys2Proof.Machine

/-- NOP (R208, Table UMI-12). -/
def execNop (c : Cond) (s : State) : Host.Outcome State Fault Refusal :=
  umberStep c kNoRep (fun s => .ok s []) s

/-- TRAP: vector 9 with CODE = c and EPC = address + 1 (R208, Table UMI-12, Table UMM-9). -/
def execTrap (c : Cond) (code : BitVec 8) (s : State) : Host.Outcome State Fault Refusal :=
  umberStep c { cf := true, rep := false } (fun s => .trap { vec := 9, code := code } s) s

/-- RETI: restores SR from ESR or NESR and resumes; privileged (R172, R174, R177, R178, R180). -/
def execReti (c : Cond) (s : State) : Host.Outcome State Fault Refusal :=
  umberStep c { cf := true, rep := false } (fun s => if srPrv s.umber.sr then .jump (doReturn s) else .trap trapPriv s) s

/-- The bits of a control register that an MVTC can hold (R160, R161, Tables UMM-2, UMM-3, UMM-10): addresses have 24 bits, sources 32,
reserved bits read 0 (log 22). -/
def ctlMask (i : Nat) : Word :=
  match i with
  | 1 => 0x00000FFFF
  | 2 => 0x800001FFF
  | 3 => 0x000FFFFFF
  | 4 => srMask
  | 5 => 0x000FFFF3F
  | 6 => 0x000FFFFFF
  | 7 => 0x000FFFFFF
  | 8 => 0x000FFFFFF
  | 9 => srMask
  | 10 => 0x000FFFF3F
  | _ => 0x0FFFFFFFF

/-- SR as an MVTC leaves it: bits 11:0, and at supervisor level FTRAP, IPL and IE (R161). -/
def mvtcSr (old w : Word) : Word :=
  let m : Word := if srPrv old then 0x009E00FFF else 0x000000FFF
  (old &&& ~~~m) ||| (w &&& m)

/-- MVTC of each register, the access permitted (R160, R161, R184). A flag write by MVTC follows the flag distance (R188). -/
def mvtcWrites (i : Fin 17) (w : Word) (s : State) : List Wr :=
  let u := s.umber
  match i.val with
  | 0 =>
    let sr := mvtcSr u.sr w
    wFlags .flag ((List.range 12).map (fun k => (k, sr.getLsbD k))) ++ [(.ctl 0, .mvtc, sr.setWidth 80)]
  | 12 => [(.ctl 12, .mvtc, ((u.ipend &&& ~~~(w &&& 0x03FFFFFFF)) ||| (w &&& 0x0C0000000)).setWidth 80)]
  | 15 => [(.ctl 15, .mvtc, (u.bstat &&& ~~~w).setWidth 80)]
  | k => [(.ctl i, .mvtc, (w &&& ctlMask k).setWidth 80)]

/-- MVTC reaches a register: at user level SR, PMODE and BSTAT, at supervisor level all but VBASE (R160, R174). -/
def mvtcAllowed (prv : Bool) (i : Nat) : Bool :=
  i == 0 || i == 1 || i == 15 || (prv && i != 16)

/-- MVFC reads a register: at user level all not marked "none" (R160, R174). -/
def mvfcAllowed (prv : Bool) (i : Nat) : Bool :=
  prv || i == 0 || i == 1 || i == 2 || i == 12 || i == 15 || i == 16

/-- MVTC: control register CIDX = Dd (R160, R161, R174); an index outside Table UMM-2 raises the reserved-opcode trap. -/
def execMvtc (c : Cond) (cidx : BitVec 6) (rd : Fin 16) (s : State) : Host.Outcome State Fault Refusal :=
  umberStep c kNoRep (fun s =>
    if h : cidx.toNat < 17 then
      if mvtcAllowed (srPrv s.umber.sr) cidx.toNat then
        let w := s.rdD rd
        let fence := cidx.toNat == 0 && srPrv s.umber.sr && srIe w
        .ok (s.setUmber { s.umber with ieFence := fence }) (mvtcWrites ⟨cidx.toNat, h⟩ w s)
      else .trap trapPriv s
    else .trap trapRsv s) s

/-- MVFC: Dd = control register CIDX (R160, R174). -/
def execMvfc (c : Cond) (rd : Fin 16) (cidx : BitVec 6) (s : State) : Host.Outcome State Fault Refusal :=
  umberStep c kNoRep (fun s =>
    if h : cidx.toNat < 17 then
      if mvfcAllowed (srPrv s.umber.sr) cidx.toNat then
        .ok s [wD rd .alu (if cidx.toNat = 0 then s.rdSr else s.rdCtl ⟨cidx.toNat, h⟩)]
      else .trap trapPriv s
    else .trap trapRsv s) s

/-- A reserved or unassigned encoding raises the reserved-opcode trap, whatever its condition (R197). -/
def execReservedOpcode (c : Cond) (s : State) : Host.Outcome State Fault Refusal :=
  umberStep c { rsv := true, rep := false } (fun s => .ok s []) s

end Sys2Proof.Machine
end

