-- ==== Sys2Proof/Machine/HostOps.lean ====
section
/-!
DEFINITION. Sys2Proof/Machine/HostOps.lean: the host port (18): transactions, direct registers, the parameter and memory windows, the write queue, the debug
transport, doorbells and the timeout.
-/

namespace Sys2Proof.Machine

/-! ### Bytes and latches -/

/-- The five bytes of a word as it crosses the port, bits 7:0 first (R575). -/
def portBytes (w : Word) : List Byte := (List.range 5).map (fun k => fld w (8 * k) 8)

/-- A word from a latch of five registers from `r` (Table HST-3). -/
def State.hostLatch (s : State) (r : Nat) : Word :=
  (List.range 5).foldl (fun w k => putFld w (8 * k) (s.hreg (Fin.ofNat 32 (r + k)))) 0

def setLatch (r : Nat) (w : Word) (s : State) : State :=
  (List.range 5).foldl (fun s k => s.setHreg (Fin.ofNat 32 (r + k)) (fld w (8 * k) 8)) s

/-- H.PIDX and H.MADDR (Table HST-3). -/
def State.hostPidx (s : State) : BitVec 13 := (s.hreg hPIDXH).setWidth 5 ++ s.hreg hPIDXL
def State.hostMaddr (s : State) : Addr := s.hreg 0x0E ++ s.hreg 0x0D ++ s.hreg 0x0C

/-- After a parameter or word of a transaction with INC = 1 (R575, R580). -/
def hostInc (type : BitVec 2) (s : State) : State :=
  if type = 1 then
    let p := s.hostPidx + 1
    (s.setHreg hPIDXL (fld p 0 8)).setHreg hPIDXH ((fld p 8 5 : BitVec 5).setWidth 8)
  else
    let a := s.hostMaddr + 1
    ((s.setHreg 0x0C (fld a 0 8)).setHreg 0x0D (fld a 8 8)).setHreg 0x0E (fld a 16 8)

/-- Bytes on HDO. -/
def hostSend (bs : List Byte) (s : State) : State := s.setHost { s.host with sent := s.host.sent ++ bs }

/-- An error of no access: its H.EADDR is not stated, a free value (log 90). -/
def hostFault (code : BitVec 4) (s : State) : State := hostError code (fld (Config.freeWord (s.freeCtr * 128)) 0 24) s.drawn

/-- The error token of a code (Table HST-4). -/
def hostToken (code : BitVec 4) : Byte := if code = 0 then 0xA5 else 0xE0 ||| code.setWidth 8

def State.hostLocked (s : State) : Bool := (s.par P.PIER_STATUS).getLsbD 3

/-! ### Transactions -/

/-- Operations of Table HST-7, with their WR bit. -/
def debugOpKnown (wr : Bool) (op : BitVec 5) : Bool :=
  if wr then (decide (1 ≤ op.toNat) && decide (op.toNat ≤ 5)) || op == 9 else op == 8

/-- A command byte that R571 turns away. -/
def badCommand (cmd : BitVec 8) : Bool :=
  let type : BitVec 2 := fld cmd 5 2
  ((type == 1 || type == 2) && (fld cmd 1 4 : BitVec 4) != 0) || (type == 3 && !debugOpKnown (cmd.getLsbD 7) (fld cmd 0 5))

/-- HCS_N falls and the command byte is taken (R570, R571, R586). The transaction that is a wake event is not served and reads 0x00; one while RDY is 0 reads
the status and is not served either. In mode 0, and with no VDD, the port is dead. -/
def hostStart (cmd : BitVec 8) (s : State) : State :=
  if s.host.txn.isSome then s
  else
    let asleep := decide (s.pwr.mode = .doze) || decide (s.pwr.mode = .retain)
    let wakes := (asleep || decide (s.pwr.mode = .halt)) && (s.par P.PWR_WAKEEN).getLsbD 4
    let s := if s.wakeWatched then s.setPwr { s.pwr with hostWake := true } else s
    if !s.vddRuns && !asleep then s
    else
      let runs := s.vddRuns && !wakes
      let served := runs && s.hostRdy
      let bad := served && badCommand cmd
      let t : HostTxn := { wr := cmd.getLsbD 7, type := fld cmd 5 2, addr := fld cmd 0 5, dead := !served || bad, spent := false }
      let s := s.setHost { s.host with txn := some t, sent := [if runs then s.hostStatus else 0], readLive := false }
      if bad then hostFault 11 s else s

/-- The bytes in which HDO shows WAIT while a read of the open transaction is in flight: as many as the host clocks out in that time, a free number (R576). -/
def hostWaits (s : State) : State :=
  if s.host.readLive then hostSend (List.replicate (Config.freeWord (s.freeCtr * 128)).toNat 0) s.drawn else s

/-- HCS_N rises: what is not committed is dropped, a read in flight still completes into its latch (R576, R591). -/
def hostEnd (s : State) : State :=
  let s := hostWaits s
  s.setHost { s.host with txn := none, readLive := false }

/-- A memory request of the host that waits for a bank is withdrawn: what it lost is counted, its length a free value (R288, R291, R588). -/
def hostWithdrawn (s : State) : State :=
  match s.host.read with
  | some (.mem a _) =>
    match place a with
    | .sram b => let w := Config.freeWord (s.freeCtr * 128); bankLost waitHost b w w s.drawn
    | _ => s
  | _ => s

/-- A transaction open for tTO is abandoned (R587): a memory request waiting for a bank is withdrawn. -/
def hostTimeout (s : State) : State :=
  match s.host.txn with
  | some t =>
    if (t.dead && t.spent) || !s.vddRuns then s
    else
      let s := hostWithdrawn (hostWaits s)
      let rd := match s.host.read with
        | some (.mem _ _) => none
        | r => r
      let s := s.setHost { s.host with txn := some { t with dead := true, spent := true }, read := rd, readLive := false }
      let s := hostFault 9 s
      let s := s.setHreg hTOCNT (satAdd (s.hreg hTOCNT) 1)
      hostIrq 6 s
  | none => s

/-- Act in the open transaction if it is of a kind and still serves. In one that is ignored, each of the `n` bytes clocked out is 0x00 (R571, R586, R587). -/
def inTxn (n : Nat) (type : BitVec 2) (wr : Bool) (f : HostTxn → State → State) (s : State) : State :=
  match s.host.txn with
  | some t =>
    if t.dead then hostSend (List.replicate n 0) s
    else if t.type = type ∧ t.wr = wr ∧ !t.spent then f t s
    else s
  | none => s

def setTxn (t : HostTxn) (s : State) : State := s.setHost { s.host with txn := some t }

/-! ### Commits (R577, R581, R585) -/

/-- The window address of a target, as H.EADDR shows it. -/
def HostTgt.addr : HostTgt → Addr
  | .par i => parAddr i.toNat
  | .mem a _ => a

/-- A write commits into the write queue: discarded under lockout with LOCK, with WDROP when four wait (R577, R585). -/
def hostCommit (tgt : HostTgt) (v : Word) (s : State) : State :=
  if s.hostLocked then hostError 2 tgt.addr s
  else if 4 ≤ s.host.wq.length then hostError 8 tgt.addr s
  else
    (s.setHost { s.host with wq := s.host.wq ++ [{ tgt := tgt, val := v, latched := none, after := [] }] }).setPar P.HOST_WRCNT (s.par P.HOST_WRCNT + 1)

def State.memTgt (s : State) : HostTgt := .mem s.hostMaddr (fld (s.hreg hMLANE) 0 4)

/-- The five bytes of a parameter or memory write: HDO sends the live status, the write commits at the fifth (R575, R577, R581). -/
def hostWindowWrite (type : BitVec 2) (v : Word) (s : State) : State :=
  inTxn 5 type true (fun t s =>
    let st := s.hostStatus
    let s := hostSend (List.replicate 5 st) s
    let s := hostCommit (if type = 1 then .par s.hostPidx else s.memTgt) v s
    if t.addr.getLsbD 0 then hostInc type s else s) s

/-! ### Direct registers (R573) -/

/-- What a direct register reads as. -/
def State.directVal (s : State) (r : Fin 32) : Byte :=
  if r = hSTATUS then s.hostStatus
  else if r = hWQ then BitVec.ofNat 8 s.host.wq.length
  else s.hreg r

/-- A queued write that has not reached its destination and crosses to CORE. -/
def HostWrite.toCore (w : HostWrite) : Bool :=
  w.latched.isNone && (match w.tgt with | .par i => decide (shellOf i.toNat = .core) | .mem _ _ => true)

/-- A doorbell byte goes into the crossing to CORE, behind the writes that wait there (R48, R589). -/
def sendBell (b : Byte) (s : State) : State :=
  match ((List.range s.host.wq.length).filter (fun k => (s.host.wq[k]?.map HostWrite.toCore).getD false)).getLast? with
  | none => ringBell b s
  | some k => s.setHost { s.host with wq := s.host.wq.modify k (fun w => { w with after := w.after ++ [b] }) }

/-- The bits of a register that a write stores (Table HST-3): none of a read-only one. -/
def directMask (r : Nat) : Byte :=
  match r with
  | 0x03 => 0x7F
  | 0x04 => 0x01
  | 0x06 => 0x1F
  | 0x0B => 0x0F
  | 0x0F => 0x0F
  | 0x14 => 0x0F
  | 0x16 => 0
  | 0x17 => 0
  | 0x18 => 0
  | 0x19 => 0
  | 0x1A => 0
  | 0x1B => 0
  | 0x1C => 0
  | 0x1D => 0
  | _ => 0xFF

/-- A byte written to a direct register, no lockout in effect (Table HST-3). -/
def directStore (r : Fin 32) (b : Byte) (s : State) : State :=
  let old := s.hreg r
  if r = hSTATUS then s.setHreg r (old &&& ~~~(b &&& 1))
  else if r = hERR ∨ r = hIRQ then s.setHreg r (old &&& ~~~b)
  else
    let m := directMask r.val
    let s := s.setHreg r ((old &&& ~~~m) ||| (b &&& m))
    if r = 0x0B then hostCommit (.par s.hostPidx) (s.hostLatch 0x07) s
    else if r = 0x14 then hostCommit s.memTgt (s.hostLatch 0x10) s
    else if r = hDOORBELL then sendBell b s
    else s

/-- The address that H.EADDR takes when lockout discards a direct write: that of the commit, otherwise none is stated (log 90). -/
def directLocked (r : Fin 32) (s : State) : State :=
  if r = 0x0B then hostError 2 (parAddr s.hostPidx.toNat) s
  else if r = 0x14 then hostError 2 s.hostMaddr s
  else hostFault 2 s

/-- One byte of a direct write (R573, R585). -/
def directWrite (b : Byte) (s : State) : State :=
  inTxn 1 0 true (fun t s =>
    let r : Fin 32 := Fin.ofNat 32 t.addr.toNat
    let s := setTxn { t with addr := t.addr + 1 } (hostSend [s.hostStatus] s)
    if s.hostLocked then directLocked r s else directStore r b s) s

/-- One byte of a direct read (R573). -/
def directRead (s : State) : State :=
  inTxn 1 0 false (fun t s => setTxn { t with addr := t.addr + 1 } (hostSend [s.directVal (Fin.ofNat 32 t.addr.toNat)] s)) s

/-! ### The memory window (R580-R582) -/

/-- A region check of the window, as domain 1 (R582, Table HST-6): with the right in effect none. A failure is recorded in DOM.VIOL (R323). -/
def hostRegion (right : Nat) (need : Need) (a : Addr) (write : Bool) (s : State) : Bool × State :=
  if s.right right then (true, s)
  else
    match s.regionFail { master := .host, dom := 1, prv := false } spData a need with
    | some _ => (false, noteViol 3 1 a write s)
    | none => (true, s)

/-- The code and word of a read that may be poisoned (Table MEM-6). -/
def hostPoison (r : Option Word × State) : (BitVec 4 × Word) × State :=
  match r.1 with
  | some w => ((0, w), r.2)
  | none => ((5, 0), r.2)

/-- A read of the window (Tables HST-4, HST-6, HST-7b): the error code and the word. -/
def hostMemRead (a : Addr) (s : State) : (BitVec 4 × Word) × State :=
  if s.lifeState = 3 then ((1, 0), s)
  else
    match hostRegion rightMemR .r a false s with
    | (false, s) => ((3, 0), s)
    | (true, s) =>
      match place a with
      | .sram b => if s.asleep (archOf b) then ((6, 0), s) else hostPoison (sramRead finHost b (busGrant waitHost b s))
      | .tile b =>
        if !(s.umberHalted && s.right rightMemR) then ((4, 0), s)
        else if s.asleep 4 then ((6, 0), s)
        else hostPoison (tileRead b s)
      | .dnvm b => hostPoison (nvmRead (s.dnvmCell b) a s)
      | .prog b => hostPoison (nvmRead (s.progCell b) a s)
      | _ => ((4, 0), s)

/-- A write of the window (R581, R582). -/
def hostMemWrite (a : Addr) (lanes : BitVec 4) (v : Word) (s : State) : BitVec 4 × State :=
  if s.lifeState = 3 then (1, s)
  else if lanes = 0 then (0, s)
  else
    match hostRegion rightMemW (storeNeed lanes) a true s with
    | (false, s) => (3, s)
    | (true, s) =>
      match place a with
      | .sram b =>
        if s.asleep (archOf b) then (6, s)
        else
          match sramPartial finHost b lanes v (busGrant waitHost b s) with
          | (true, s) => (0, s)
          | (false, s) => (5, s)
      | .tile b =>
        if !(s.umberHalted && s.right rightMemW) then (4, s)
        else if s.asleep 4 then (6, s)
        else
          match tileWrite b lanes v s with
          | (true, s) => (0, s)
          | (false, s) => (5, s)
      | _ => (4, s)

/-! ### Reads (R576, R578-R580) -/

/-- A read is issued (R576): one at a time, and with INC = 0 one in a transaction. The byte after it is chosen before a reply can have come: WAIT. -/
def hostIssue (type : BitVec 2) (s : State) : State :=
  inTxn 1 type false (fun _ s =>
    if s.host.read.isSome then s
    else
      let tgt : HostTgt := if type = 1 then .par s.hostPidx else .mem s.hostMaddr 0xF
      let s := hostSend [0] (s.setHost { s.host with read := some tgt, readBehind := s.host.wq.length, readLive := true })
      if type = 1 then s.setHreg hPSTAT 2 else s) s

/-- A read of a parameter at the port: the code of Table HST-4 and the value (R576, R578, R579, R624, R625). -/
def hostParRead (i : Nat) (s : State) : (BitVec 4 × Word) × State :=
  if s.hostBarred i then ((1, 0), s)
  else if !populated i then ((0, 0), s.setHreg hSTATUS (putBit (s.hreg hSTATUS) 0 true))
  else if s.hostDenied i false then ((3, 0), notePerr .host i 8 false s)
  else
    match readPar s.hostAcc i s with
    | (.val w, s) => ((0, w), s)
    | (.refused r, s) => ((1, 0), notePerr .host i r false s)
    | (.wait, s) => ((7, 0), s)
    | (.bus, s) => ((4, 0), s)

/-- A queued write committed before the read has not been acknowledged: one to the same island for a parameter, where memory is CORE's, and one of memory for a
memory read (R578, R580). -/
def State.hostReadWaits (s : State) (tgt : HostTgt) : Bool :=
  (s.host.wq.take s.host.readBehind).any (fun w =>
    match tgt, w.tgt with
    | .par i, .par j => populated i.toNat && decide (shellOf i.toNat = shellOf j.toNat)
    | .par i, .mem _ _ => populated i.toNat && decide (shellOf i.toNat = .core)
    | .mem _ _, .mem _ _ => true
    | .mem _ _, .par _ => false)

/-- The answer of a read on HDO, in the transaction that issued it: token and value, or an error token that ends its part (R576). -/
def hostAnswer (type : BitVec 2) (code : BitVec 4) (w : Word) (s : State) : State :=
  if s.host.readLive then
    match s.host.txn with
    | some t =>
      if t.dead then s
      else
        let s := hostSend (hostToken code :: (if code = 0 then portBytes w else [])) s
        let inc := t.addr.getLsbD 0
        let s := setTxn { t with spent := !inc || code != 0 } s
        if inc && code == 0 then hostInc type s else s
    | none => s
  else s

/-- The read in flight is made, once, and completes into its latch (R576, R580, R591). -/
def hostReadDone (s : State) : State :=
  match s.host.read with
  | none => s
  | some tgt =>
    if !s.vddRuns || s.hostReadWaits tgt then s
    else
      let r := match tgt with
        | .par i => hostParRead i.toNat s
        | .mem a _ => hostMemRead a s
      let code := r.1.1
      let w := r.1.2
      let s := hostWaits (r.2.setHost { r.2.host with read := none })
      let s := match tgt with
        | .par _ => (setLatch 0x07 w s).setHreg hPSTAT (putFld (1 : Byte) 4 code)
        | .mem _ _ => setLatch 0x10 w s
      let s := if code = 0 then s else hostError code tgt.addr s
      let s := hostAnswer (match tgt with | .par _ => 1 | .mem _ _ => 2) code w s
      s.setHost { s.host with readLive := false }

/-! ### Acknowledgements (R577) -/

/-- What an entry comes back with: a shell's answer, that of an accepted write once its effect has landed (R51), or for the oldest entry not yet sent a denial, an
unpopulated index or a memory write; nothing while its shell still has it to take. -/
def hostEntryEnd (w : HostWrite) (next : Bool) (s : State) : Option (BitVec 4 × State) :=
  match w.latched with
  | some c =>
    let landed := match w.tgt with
      | .par i => s.landed i.toNat
      | .mem _ _ => true
    if c ≠ 0 || landed then some (c, s) else none
  | none =>
    if !next then none
    else
      match w.tgt with
      | .mem a lanes => some (hostMemWrite a lanes w.val s)
      | .par i =>
        let n := i.toNat
        if s.hostBarred n then some (1, s)
        else if !populated n then some (0, s.setHreg hSTATUS (putBit (s.hreg hSTATUS) 0 true))
        else if s.hostDenied n true then some (3, notePerr .host n 8 true s)
        else none

/-- The oldest entry whose acknowledgement has come is freed and a refusal reported (R577). -/
def hostAck (s : State) : State :=
  if !s.vddRuns then s
  else
    let n := s.hostNext
    let hit := (List.range s.host.wq.length).find? (fun k =>
      match s.host.wq[k]? with
      | some w => (hostEntryEnd w (decide (n = some k)) s).isSome
      | none => false)
    match hit with
    | none => s
    | some k =>
      match s.host.wq[k]? with
      | none => s
      | some w =>
        match hostEntryEnd w (decide (n = some k)) s with
        | none => s
        | some (c, s) =>
          let behind := if k < s.host.readBehind then s.host.readBehind - 1 else s.host.readBehind
          let s := ringAll w.after (s.setHost { s.host with wq := s.host.wq.eraseIdx k, readBehind := behind })
          let s := if w.tgt = .par (BitVec.ofNat 13 P.SYS_ROLE) then nvmSettled s else s
          if c = 0 then s else hostError c w.tgt.addr s

/-! ### Debug transport (R583) -/

/-- A debug operation of the open transaction, with `n` bytes after its command (R583, Tables HST-6, HST-7): END OF LIFE refuses it, a missing condition sets
RIGHTS. A read operation sends WAIT and then its token. -/
def debugOp (n : Nat) (op : BitVec 5) (ok : State → Bool) (f : State → State) (s : State) : State :=
  let wr := op != 8
  inTxn n 3 wr (fun t s =>
    if t.addr ≠ op then s
    else
      let s := setTxn { t with spent := true } s
      let refuse := fun (c : BitVec 4) (s : State) => hostFault c (if wr then s else hostSend [0, hostToken c] s)
      if s.lifeState = 3 then refuse 1 s
      else if !ok s then refuse 10 s
      else f s) s

/-- What a register selector names (R583). -/
inductive RegSel where
  | loc (l : Loc)
  | accPart (r : Fin 4) (part : Nat)
  | pc
  deriving DecidableEq, Repr

def regSel (sel : BitVec 8) : Option RegSel :=
  let n := sel.toNat
  if n < 0x10 then some (.loc (.d (Fin.ofNat 16 n)))
  else if n < 0x20 then some (.loc (.p (Fin.ofNat 16 n)))
  else if n < 0x28 then some (.loc (.n (Fin.ofNat 8 n)))
  else if n < 0x30 then some (.loc (.l (Fin.ofNat 8 n)))
  else if n < 0x3C then some (.accPart (Fin.ofNat 4 ((n - 0x30) / 3)) ((n - 0x30) % 3))
  else if 0x40 ≤ n ∧ n < 0x51 then some (.loc (.ctl (Fin.ofNat 17 (n - 0x40))))
  else if n = 0x7F then some .pc
  else none

/-- A register as REGRD reads it: what it holds. -/
def State.regValue (s : State) (r : RegSel) : Word :=
  match r with
  | .loc l => (s.umber.get l).setWidth 36
  | .accPart a part => accPart (s.umber.get (.ac a)) part
  | .pc => s.umber.pc.setWidth 36

/-- The register no longer has an older value inside a distance. -/
def forgetOld (l : Loc) (s : State) : State :=
  let u := s.umber
  s.setUmber { u with
    hist := u.hist.map (fun e => { e with writes := e.writes.filter (fun w => decide (w.loc ≠ l)), lost := e.lost.filter (fun m => decide (m.loc ≠ l)) }),
    left := u.left.map (fun e => (e.1, e.2.filter (fun m => decide (m.loc ≠ l)))) }

/-- A control register as REGWR leaves it: SR as a supervisor MVTC (R161: nothing else changes DOM, PRV, EXL and NMIL), VBASE unchanged, the rest whole (log 23). -/
def regWriteCtl (i : Fin 17) (old v : Word) : Word :=
  match i.val with
  | 0 => mvtcSr (putBit old 20 true) v &&& ~~~(0x000100000#36) ||| (old &&& 0x000100000#36)
  | 15 => v &&& 0x0001FFF0F
  | 16 => old
  | k => v &&& ctlMask k

/-- A register as REGWR writes it. -/
def setReg (r : RegSel) (v : Word) (s : State) : State :=
  match r with
  | .loc (.ctl i) =>
    let s := s.setUmber (s.umber.setCtl i (regWriteCtl i (s.umber.ctl i) v))
    if i = 0 then (List.finRange 12).foldl (fun s k => forgetOld (.flag k) s) (forgetOld (.ctl 0) s) else forgetOld (.ctl i) s
  | .loc l => forgetOld l (s.setUmber (s.umber.put l (v.setWidth 80)))
  | .accPart a part => forgetOld (.ac a) (s.setUmber (s.umber.put (.ac a) (setAccPart (s.umber.get (.ac a)) part v)))
  | .pc => s.setUmber { s.umber with pc := fld v 0 24 }

/-- REGRD: right REGS, Umber halted (R583, Table HST-7). -/
def regRead (sel : BitVec 8) (s : State) : State :=
  debugOp 8 8 (fun s => s.right rightRegs && s.umberHalted) (fun s =>
    match regSel sel with
    | some r => hostSend (0 :: hostToken 0 :: portBytes (s.regValue r)) s
    | none => hostFault 11 (hostSend [0, hostToken 11] s)) s

/-- REGWR: as REGRD, discarded under lockout (R583, R585). -/
def regWriteOp (sel : BitVec 8) (v : Word) (s : State) : State :=
  debugOp 6 9 (fun s => s.right rightRegs && s.umberHalted) (fun s =>
    match regSel sel with
    | some r => if s.hostLocked then hostFault 2 s else setReg r v s
    | none => hostFault 11 s) s

/-- HALT, RESUME, STEP and DBGIRQ need right HALT (Table HST-7). -/
def haltOp (op : BitVec 5) (f : State → State) (s : State) : State := debugOp 0 op (fun s => s.right rightHalt) f s

/-- START: in BLANK, before Umber has started (R516, R583). -/
def debugStart (slot : BitVec 1) (s : State) : State :=
  debugOp 1 5 (fun s => decide (s.lifeState = 0) && decide (s.umber.run = .inReset)) (fun s => bootSlot (some slot) s) s

end Sys2Proof.Machine
end

