-- ==== Sys2Proof/Machine/Spell.lean ====
section
/-!
DEFINITION. Sys2Proof/Machine/Spell.lean: which values spell the rows that are writes of one parameter: the field each row names, with its code.
-/

namespace Sys2Proof.Machine

/-- Bit `i` of the value is 1, and is 0. -/
def spOn (i : Nat) (v : Word) : Bool := v.getLsbD i
def spOff (i : Nat) (v : Word) : Bool := !v.getLsbD i

/-- DBG.CTL: SYSRST at 1; UMBRST at 1 without it (R630). -/
def spSysrst (v : Word) : Bool := spOn 3 v
def spUmbrst (v : Word) : Bool := spOn 4 v && spOff 3 v

/-- MEM.ARCHCTL: some field asks for a state (Table MEM-9). -/
def spArch (want : BitVec 2) (v : Word) : Bool := (List.range 5).any (fun k => (fld v (2 * k) 2 : BitVec 2) == want)

/-- DMA.CMD: bit `i` alone of START, RESUME and ABORT (R341). -/
def spDmaCmd (i : Nat) (v : Word) : Bool := (List.range 3).all (fun k => v.getLsbD k == (k == i))

/-- RADIO.CMD: a code of Table RAD-4, or none (R384). -/
def spRadio (code : BitVec 4) (v : Word) : Bool := (fld v 0 4 : BitVec 4) == code
def spRadioBad (v : Word) : Bool := (fld v 0 4 : BitVec 4) == 0 || decide (10 < (fld v 0 4 : BitVec 4).toNat)

/-- TRS.SCMD (R448). -/
def spScmd (code : BitVec 2) (v : Word) : Bool := (fld v 0 2 : BitVec 2) == code

/-- CRYPT.CMD.OP (R492). -/
def spOp (op : BitVec 5) (v : Word) : Bool := (fld v 0 5 : BitVec 5) == op

/-- LIFE.OWNCMD and LIFE.DBGCMD (R519, Table LIF-7). -/
def spOwn (v : Word) : Bool := v == 0xA55A
def spDbg (code : BitVec 3) (v : Word) : Bool := (fld v 0 3 : BitVec 3) == code

/-- POD.CMD.OP (R601). -/
def spPod (op : BitVec 3) (v : Word) : Bool := (fld v 0 3 : BitVec 3) == op

end Sys2Proof.Machine
end

