-- ==== Sys2Proof/Machine/ParamEvents.lean ====
section
/-!
DEFINITION. Sys2Proof/Machine/ParamEvents.lean: parameter writes and their acknowledgements (01 R50; 08 R263; 20 R622).
-/

namespace Sys2Proof.Machine

/-! ### Rows that are a write or a read of a parameter -/

/-- A row that is a write of a parameter (R50, R622): the write reaches its shell; a value that does not spell the row leaves the command without effect (log 4). -/
def regWrite (ok : Bool) (m : Master) (i : Nat) (v : Word) (s : State) : Host.Outcome State Fault Refusal :=
  .next (if ok then deliver m i v s else s)

/-- What a read leaves, its value aside; a refused one is recorded (R624). -/
def readLeaves (m : Master) (i : Nat) (r : ParRead × State) : State :=
  match r.1 with
  | .refused k => notePerr m i k false r.2
  | _ => r.2

/-- The region check of a read of a parameter at its data address (R322, R324). -/
def State.readGranted (s : State) (acc : Accessor) (i : Nat) : Bool := (s.regionFail acc spData (BitVec.ofNat 24 (0x400000 + i)) .r).isNone

/-- A row that is a read of a parameter (R627): the read of a master that its regions and masks permit (R324), with its side effect. The host's is the one it has
issued (R576). -/
def readEffect (m : Master) (i : Nat) (s : State) : State :=
  match m with
  | .sepia => if s.awake then readLeaves m i (readPar sepiaAcc i s) else s
  | .umber =>
    if s.awake && s.readGranted s.umberAcc i && !s.maskDenies s.umberAcc i false && !s.queuedFor (shellOf i) then readLeaves m i (readPar s.umberAcc i s) else s
  | .dma c => if s.awake && s.readGranted (s.dmaAcc c) i && !s.maskDenies (s.dmaAcc c) i false then readLeaves m i (readPar (s.dmaAcc c) i s) else s
  | .host => if s.host.read = some (.par (BitVec.ofNat 13 i)) then hostReadDone s else s

/-- PARAM_WRITE. R50: a write reaches its shell, is latched and takes effect. -/
def execParamWrite (m : Master) (idx : BitVec 13) (v : BitVec 36) (s : State) : Host.Outcome State Fault Refusal :=
  .next (deliver m idx.toNat v s)

/-- PARAM_WRITE_ACK. R263: the acknowledgement of the entry at a place of the parameter write queue. -/
def execParamWriteAck (k : Fin 8) (s : State) : Host.Outcome State Fault Refusal :=
  .next (ackWrite k.val s)

end Sys2Proof.Machine
end

