-- ==== Sys2Proof/Machine/CryptEvents.lean ====
section
/-!
DEFINITION. Sys2Proof/Machine/CryptEvents.lean: the cipher unit and the random numbers (15).
-/

namespace Sys2Proof.Machine

/-- AES_ECB_ENCRYPT. R492: OP 1. -/
def execAesEcbEncrypt (m : Master) (v : BitVec 36) (s : State) : Host.Outcome State Fault Refusal :=
  regWrite (spOp 1 v) m P.CRYPT_CMD v s

/-- AES_ECB_DECRYPT. R492: OP 2. -/
def execAesEcbDecrypt (m : Master) (v : BitVec 36) (s : State) : Host.Outcome State Fault Refusal :=
  regWrite (spOp 2 v) m P.CRYPT_CMD v s

/-- AES_CTR. R493: OP 3. -/
def execAesCtr (m : Master) (v : BitVec 36) (s : State) : Host.Outcome State Fault Refusal :=
  regWrite (spOp 3 v) m P.CRYPT_CMD v s

/-- AES_CCM_ENCRYPT. R493: OP 4. -/
def execAesCcmEncrypt (m : Master) (v : BitVec 36) (s : State) : Host.Outcome State Fault Refusal :=
  regWrite (spOp 4 v) m P.CRYPT_CMD v s

/-- AES_CCM_DECRYPT. R493: OP 5. -/
def execAesCcmDecrypt (m : Master) (v : BitVec 36) (s : State) : Host.Outcome State Fault Refusal :=
  regWrite (spOp 5 v) m P.CRYPT_CMD v s

/-- SHA256. R492: OP 6. -/
def execSha256Start (m : Master) (v : BitVec 36) (s : State) : Host.Outcome State Fault Refusal :=
  regWrite (spOp 6 v) m P.CRYPT_CMD v s

/-- HMAC_SHA256. R492: OP 7. -/
def execHmacSha256 (m : Master) (v : BitVec 36) (s : State) : Host.Outcome State Fault Refusal :=
  regWrite (spOp 7 v) m P.CRYPT_CMD v s

/-- DERIVE. R496: OP 8. -/
def execDerive (m : Master) (v : BitVec 36) (s : State) : Host.Outcome State Fault Refusal :=
  regWrite (spOp 8 v) m P.CRYPT_CMD v s

/-- ECDSA_SIGN. R493: OP 9. -/
def execEcdsaSign (m : Master) (v : BitVec 36) (s : State) : Host.Outcome State Fault Refusal :=
  regWrite (spOp 9 v) m P.CRYPT_CMD v s

/-- ECDSA_VERIFY. R492: OP 10. -/
def execEcdsaVerifyStart (m : Master) (v : BitVec 36) (s : State) : Host.Outcome State Fault Refusal :=
  regWrite (spOp 10 v) m P.CRYPT_CMD v s

/-- ECDH. R492: OP 11. -/
def execEcdh (m : Master) (v : BitVec 36) (s : State) : Host.Outcome State Fault Refusal :=
  regWrite (spOp 11 v) m P.CRYPT_CMD v s

/-- PUBKEY. R492: OP 12. -/
def execPubkey (m : Master) (v : BitVec 36) (s : State) : Host.Outcome State Fault Refusal :=
  regWrite (spOp 12 v) m P.CRYPT_CMD v s

/-- CLEAR. R492: OP 13. -/
def execClear (m : Master) (v : BitVec 36) (s : State) : Host.Outcome State Fault Refusal :=
  regWrite (spOp 13 v) m P.CRYPT_CMD v s

/-- WRAP. R498: OP 14. -/
def execWrap (m : Master) (v : BitVec 36) (s : State) : Host.Outcome State Fault Refusal :=
  regWrite (spOp 14 v) m P.CRYPT_CMD v s

/-- CIPHER_IN_WRITE. R495: a word of input, held while the FIFO is full. -/
def execCipherInWrite (m : Master) (v : BitVec 36) (s : State) : Host.Outcome State Fault Refusal :=
  regWrite true m P.CRYPT_IN v s

/-- CIPHER_OUT_READ. R495. -/
def execCipherOutRead (m : Master) (s : State) : Host.Outcome State Fault Refusal :=
  .next (readEffect m P.CRYPT_OUT s)

/-- CIPHER_OP_DONE. R496: the operation comes to its end. -/
def execCipherOpDone (s : State) : Host.Outcome State Fault Refusal :=
  .next (if s.cipherOn then cryptDone s else s)

/-- RNG_CTL_WRITE. R500. -/
def execRngCtlWrite (m : Master) (v : BitVec 36) (s : State) : Host.Outcome State Fault Refusal :=
  regWrite true m P.RNG_CTL v s

/-- What follows a change of the generator (R493, R498, R503, R508): the cipher unit's own draws first, then the waiting reads in order, then Sepia's
challenge. -/
def rngFollows (s : State) : State := challengeRetry (rngServe 17 (cryptPump s))

/-- RNG_STARTUP_PASS. R501: the 1,024 samples of the start-up test. -/
def execRngStartupPass (x : BitVec 1024) (s : State) : Host.Outcome State Fault Refusal :=
  .next (if s.cipherOn then rngFollows (Sys2Proof.Machine.rngStartupPass x s) else s)

/-- RNG_WORD. R500: the 288 raw samples of a word, which the draws and reads that wait take (R503). -/
def execRngWord (x : BitVec 288) (s : State) : Host.Outcome State Fault Refusal :=
  .next (if s.cipherOn then rngFollows (Sys2Proof.Machine.rngWord x s) else s)

/-- RNG_ALARM. R502: the samples up to a failure. -/
def execRngAlarm (xs : List Bool) (s : State) : Host.Outcome State Fault Refusal :=
  .next (if s.cipherOn then rngFollows (Sys2Proof.Machine.rngAlarm xs s) else s)

/-- RNG_DATA_READ. R503. -/
def execRngDataRead (m : Master) (s : State) : Host.Outcome State Fault Refusal :=
  .next (readEffect m P.RNG_DATA s)

end Sys2Proof.Machine
end

