-- ==== Sys2Proof/Machine/DebugEvents.lean ====
section
/-!
DEFINITION. Sys2Proof/Machine/DebugEvents.lean: debug operations and hits (16 R532, R533; 18 R583).
-/

namespace Sys2Proof.Machine

/-- DEBUG_HALT. R532: HALT. -/
def execDebugHalt (s : State) : Host.Outcome State Fault Refusal :=
  .next (haltOp 1 (requestHalt 0) s)

/-- UMBER_HALTED. R532: Umber halts at a boundary. -/
def execUmberHalted (s : State) : Host.Outcome State Fault Refusal :=
  .next (umberHalts s)

/-- DEBUG_RESUME. R532: RESUME. -/
def execDebugResume (s : State) : Host.Outcome State Fault Refusal :=
  .next (haltOp 2 resumeUmber s)

/-- DEBUG_STEP. R532: STEP. -/
def execDebugStep (s : State) : Host.Outcome State Fault Refusal :=
  .next (haltOp 3 stepUmber s)

/-- DBGIRQ. R532: DBGIRQ, source DEBUG (29). -/
def execDbgirq (s : State) : Host.Outcome State Fault Refusal :=
  .next (haltOp 4 (fun s => s.raiseIrq 29) s)

/-- DEBUG_START. R516: START. -/
def execDebugStart (slot : BitVec 1) (s : State) : Host.Outcome State Fault Refusal :=
  .next (Sys2Proof.Machine.debugStart slot s)

/-- REGRD. R583: REGRD. -/
def execRegrd (sel : BitVec 8) (s : State) : Host.Outcome State Fault Refusal :=
  .next (regRead sel s)

/-- REGWR. R583: REGWR. -/
def execRegwr (sel : BitVec 8) (v : BitVec 36) (s : State) : Host.Outcome State Fault Refusal :=
  .next (regWriteOp sel v s)

/-- BREAKPOINT_HIT. R533. -/
def execBreakpointHit (s : State) : Host.Outcome State Fault Refusal :=
  .next (breakHits s)

/-- WATCHPOINT_HIT. R533. -/
def execWatchpointHit (s : State) : Host.Outcome State Fault Refusal :=
  .next (watchHits s)

end Sys2Proof.Machine
end

