-- ==== Sys2Proof/Machine/Supply.lean ====
section
/-!
DEFINITION. Sys2Proof/Machine/Supply.lean: switchover, lockout and the Pier's power-on and brown-out as the comparators of Tables PIE-3 and ISL-19 decide them
(02 R69; 04 R135-R139), and the crystal edge with what they do at it.
-/

namespace Sys2Proof.Machine

/-! ### Comparators -/

/-- Comparator `k` of nominal threshold `thr` and tolerance `tol`, in millivolts: outside the band the level decides, inside it the answer is whatever the
comparator gives (log 81). -/
def comparesAbove (sup : Supplies) (k : Nat) (thr tol x : Int) : Bool :=
  if x < thr - tol then false else if thr + tol < x then true else sup.band.getLsbD k

/-- VSW = 1.70 V + 50 mV × code, of the settings in force (R135). -/
def State.vsw (s : State) : Int := 1700 + 50 * (fld s.pier.swcfg 1 4 : BitVec 4).toNat

/-- The threshold of an event (Table PIE-3): above VBK by `cmp` in compare mode, above VSW by `thr` in threshold mode. -/
def State.swThreshold (s : State) (cmp thr : Int) : Int :=
  if s.pier.swcfg.getLsbD 0 then s.vsw + thr else s.pier.sup.vbk.toNat + cmp

/-- VDD lies above the lockout trip point, the falling and the rising threshold of the move, the release point (Table PIE-3). -/
def State.aboveTrip (s : State) : Bool := comparesAbove s.pier.sup 0 (s.swThreshold 60 100) 15 s.pier.sup.vdd.toNat
def State.aboveFall (s : State) : Bool := comparesAbove s.pier.sup 1 (s.swThreshold (-40) 0) 15 s.pier.sup.vdd.toNat
def State.aboveRise (s : State) : Bool := comparesAbove s.pier.sup 2 (s.swThreshold 40 100) 15 s.pier.sup.vdd.toNat
def State.aboveRelease (s : State) : Bool := comparesAbove s.pier.sup 3 (s.swThreshold 110 150) 15 s.pier.sup.vdd.toNat

/-- VBK lies above the Pier brown-out level, 1.40 V ± 70 mV (Table ISL-19). -/
def State.vbkHolds (s : State) : Bool := comparesAbove s.pier.sup 4 1400 70 s.pier.sup.vbk.toNat

/-- The higher supply lies above the Pier power-on level, 1.45 V ± 70 mV (R69, Table ISL-19). -/
def startsPier (sup : Supplies) : Bool := comparesAbove sup 5 1450 70 (max sup.vdd.toNat sup.vbk.toNat : Nat)

/-- The supplies stand at new levels, with the Pier powered or not: VBKLOW follows VBK (R138; log 81), and a dip below the release point restarts the release count
(R137). -/
def setSupplies (sup : Supplies) (s : State) : State :=
  let s := s.setPier { s.pier with sup := sup }
  if s.pwr.pierOn then
    let s := setPierStatus 5 (decide (sup.vbk.toNat < 1600)) s
    if s.aboveRelease then s else s.setPier { s.pier with above := 0 }
  else s

/-- A free level from `lo` to `hi`, in millivolts, with free answers of the comparators inside their bands (log 81). -/
def freeLevel (lo hi n : Nat) : BitVec 12 := BitVec.ofNat 12 (lo + (Config.freeWord (n * 128)).toNat % (hi + 1 - lo))
def freeBand (n : Nat) : BitVec 6 := fld (Config.freeWord (n * 128)) 12 6

/-! ### Lockout and switchover -/

/-- VDD has fallen below the trip point and not yet below the falling threshold, since on a falling VDD lockout always trips before the supply moves (R136): a level
that is free between the two (log 81); VBK is as it was. -/
def State.fallen (s : State) : Supplies :=
  let w := Config.freeWord (s.freeCtr * 128)
  let sup := { s.pier.sup with vdd := fld w 0 12, band := fld w 12 6 }
  let t := s.setPier { s.pier with sup := sup }
  if !t.aboveTrip && t.aboveFall then sup
  else { s.pier.sup with vdd := BitVec.ofNat 12 (if s.pier.swcfg.getLsbD 0 then 1750 + 50 * (fld s.pier.swcfg 1 4 : BitVec 4).toNat else s.pier.sup.vbk.toNat) }

/-- Lockout trips where VDD lies below the trip point (R137). -/
def lockTrips (s : State) : State :=
  if s.pwr.pierOn && !s.locked && !s.aboveTrip then (let s := Sys2Proof.Machine.lockoutTrip s; s.setPier { s.pier with above := 0 }) else s

/-- LOCK clears, and the host port says so, in mode 2 as a signal that its stopped island still takes (R47, R137, R585). -/
def lockEnds (s : State) : State :=
  let s := Sys2Proof.Machine.lockoutRelease s
  let s := s.setPier { s.pier with above := 0 }
  if s.vddRuns || decide (s.pwr.mode = .retain) then hostIrq 5 s else s

/-- One tick of the release count (R137): LOCK clears at the 66th tick that VDD has stayed above the release point. -/
def countRelease (s : State) : State :=
  if !s.pwr.pierOn || !s.locked then s
  else if !s.aboveRelease then s.setPier { s.pier with above := 0 }
  else if 65 ≤ s.pier.above.toNat then lockEnds s
  else s.setPier { s.pier with above := s.pier.above + 1 }

/-- The supply moves (R136): to VBK where VDD lies below the falling threshold and lockout has tripped; a VBK below the Pier's brown-out level browns it out at
once (R138). Back to VDD where VDD lies above the rising threshold. -/
def supplyMoves (s : State) : State :=
  if !s.pwr.pierOn then s
  else if (s.par P.PIER_STATUS).getLsbD 4 then (if s.aboveRise then supplyMove false s else s)
  else if s.aboveFall || !s.locked then s
  else if s.vbkHolds then supplyMove true s
  else pierBrownout (supplyMove true s)

/-- The comparators are level-sensitive (R135): lockout first, then the move. -/
def compareSupplies (s : State) : State := supplyMoves (lockTrips s)

/-- The supplies at new levels, and what the comparators do at once (R135-R138). -/
def suppliesAt (sup : Supplies) (s : State) : State := compareSupplies (setSupplies sup s)

/-- VDD rises through the release point (R68), 50 mV above a trip point of 1.62 V to 1.72 V. Where the level known of it lies below 1.77 V it now stands at that
point: a free value no lower than the one known, at which the comparators answer at once (log 81). -/
def vddReleased (brownout : Bool) (s : State) : State :=
  let t := vddRise brownout s
  if s.pwr.vddOk || !s.pwr.pierOn || decide (1770 ≤ s.pier.sup.vdd.toNat) then t
  else suppliesAt { s.pier.sup with vdd := freeLevel (max 1670 s.pier.sup.vdd.toNat) 1770 s.freeCtr, band := freeBand s.freeCtr } t.drawn

/-- VDD falls below the trip point of its brown-out detector, of 1.62 V to 1.72 V (R68). Where the level known of it lies above, it now stands there: a free value, at
which the comparators have answered on the way, lockout first (R136; log 81). Then the VDD islands lose their power (R70). -/
def vddFalls (s : State) : State :=
  if s.pwr.vddOk && decide (1720 < s.pier.sup.vdd.toNat) then
    vddLoss (suppliesAt { s.pier.sup with vdd := freeLevel 1620 1720 s.freeCtr, band := freeBand s.freeCtr } s.drawn)
  else vddLoss s

/-- The supply in use falls below the Pier's brown-out level of 1.33 V to 1.47 V (R69, Table ISL-19): where the level known of it lies above, it now stands there, a
free value (log 81). -/
def supplyFails (s : State) : State :=
  let sup := s.pier.sup
  let v := freeLevel 1330 1470 s.freeCtr
  if !s.pwr.pierOn then s
  else if (s.par P.PIER_STATUS).getLsbD 4 then
    pierBrownout (if 1470 < sup.vbk.toNat then s.drawn.setPier { s.pier with sup := { sup with vbk := v, band := freeBand s.freeCtr } } else s)
  else pierBrownout (if 1470 < sup.vdd.toNat then s.drawn.setPier { s.pier with sup := { sup with vdd := v, band := freeBand s.freeCtr } } else s)

/-- A crystal edge with Sepia's check of the certificate windows at a new second (R530) and the comparators: a PIER.SWCFG latched before it comes into force, its thresholds are compared with VDD at once, and the release count
takes its tick (R135, R137). An edge at which a SWCFG comes into force is itself the first tick of a count that starts at it: R135 says only that the count
starts, and this is the model's choice (log 96). -/
def pierEdge (s : State) : State :=
  let sec := s.sepiaSec
  let s := crystalEdge s
  let s := if s.sepiaSec = sec then s else sepiaWindows s
  let s := s.setPier { s.pier with swcfg := fld (s.par P.PIER_SWCFG) 0 5 }
  countRelease (compareSupplies s)

/-- The Pier takes its P: values (R69, R646, R12); ONVBK and LOCK start as the comparators say for the supplies present (R136). VDD's release follows with
code 1. Supplies that do not reach the power-on level leave it unpowered at their levels. -/
def pierPowerOn (sup : Supplies) (s : State) : State :=
  if s.pwr.pierOn then s
  else if !startsPier sup then s.setPier { s.pier with sup := sup }
  else
    let s := { s with params := s.params.filter (fun e => decide (shellOf e.1 ≠ Shell.pier)) }
    let s := (s.setPier { PierSt.init with sup := sup }).setPwr { s.pwr with pierOn := true, code := 1 }
    let s := s.setPier { s.pier with wasOnVbk := !s.aboveRise }
    setPierStatus 5 (decide (sup.vbk.toNat < 1600)) (setPierStatus 4 (!s.aboveRise) (setPierStatus 3 (!s.aboveRelease) s))

end Sys2Proof.Machine
end

