-- ==== Sys2Proof/Machine/PowerEvents.lean ====
section
/-!
DEFINITION. Sys2Proof/Machine/PowerEvents.lean: power, modes, clocks and resets (02, 21).
-/

namespace Sys2Proof.Machine

/-- An Umber reset takes place, or waits until the fuses are done (R521, R640); after a revocation of domain 1 it is a system reset of code 8 (R641). In END OF LIFE
Umber's island has no power and Umber is never started: the request ends without effect (R515, R517). -/
def resetUmber (code : BitVec 5) (s : State) : State :=
  if s.lifeState = 3 then s.setPwr { s.pwr with umberRst := none }
  else if (s.par P.CRYPT_KREFUSE).getLsbD 1 then requestReset 8 (s.setPwr { s.pwr with umberRst := none })
  else if s.fuseBusy then s.setPwr { s.pwr with umberRst := some code } else umberReset code (s.setPwr { s.pwr with umberRst := none })

/-- The requested Umber reset (R630, R640). -/
def doUmberReset (s : State) : State :=
  match s.pwr.umberRst with
  | some code => if s.awake then resetUmber code s else s
  | none => s

/-- WAKE_ACCEPT. R64: the mode sequencer accepts the pending wake sources. -/
def execWakeAccept (s : State) : Host.Outcome State Fault Refusal :=
  .next (Sys2Proof.Machine.wakeAccept s)

/-- RETAIN_EXIT. R66: the RETAIN exit completes at the RETAIN wake vector. -/
def execRetainExit (s : State) : Host.Outcome State Fault Refusal :=
  .next (Sys2Proof.Machine.retainExit s)

/-- WARM_WAKE. R643: the warm wake from DOZE. -/
def execWarmWake (r : Readings) (s : State) : Host.Outcome State Fault Refusal :=
  .next (Sys2Proof.Machine.warmWake r s)

/-- COLD_BOOT. R642: the cold boot. -/
def execColdBoot (r : Readings) (s : State) : Host.Outcome State Fault Refusal :=
  .next (Sys2Proof.Machine.coldBoot r s)

/-- PIER_POWER_ON. R69, R646: the Pier takes its P: values, with the supplies at their levels. -/
def execPierPowerOn (vdd vbk : BitVec 12) (band : BitVec 6) (s : State) : Host.Outcome State Fault Refusal :=
  .next (Sys2Proof.Machine.pierPowerOn { vdd := vdd, vbk := vbk, band := band } s)

/-- PIER_BROWNOUT. R69, R152: the selected Pier supply falls below the brown-out level. -/
def execPierBrownout (s : State) : Host.Outcome State Fault Refusal :=
  .next (supplyFails s)

/-- VDD_POWER_ON. R68: VDD rises through the release point. -/
def execVddPowerOn (brownout : Bool) (s : State) : Host.Outcome State Fault Refusal :=
  .next (vddReleased brownout s)

/-- VDD_BROWNOUT. R70: VDD falls below the trip point. -/
def execVddBrownout (s : State) : Host.Outcome State Fault Refusal :=
  .next (vddFalls s)

/-- RST_N_RESET. R651: RST_N changes level. -/
def execRstNReset (low : Bool) (s : State) : Host.Outcome State Fault Refusal :=
  .next (resetPins low s.pwr.testen s)

/-- TESTEN_HIGH. R677: TESTEN changes level; high acts as RST_N low. -/
def execTestenHigh (high : Bool) (s : State) : Host.Outcome State Fault Refusal :=
  .next (resetPins s.pwr.rstPin high s)

/-- SOFTWARE_RESET. R630: DBG.CTL.SYSRST, a system reset of code 5, or 6 from the host. -/
def execSoftwareReset (m : Master) (v : BitVec 36) (s : State) : Host.Outcome State Fault Refusal :=
  regWrite (spSysrst v) m P.DBG_CTL v s

/-- UMBER_RESET_REQUEST. R630: DBG.CTL.UMBRST requests an Umber reset of code 18. -/
def execUmberResetRequest (m : Master) (v : BitVec 36) (s : State) : Host.Outcome State Fault Refusal :=
  regWrite (spUmbrst v) m P.DBG_CTL v s

/-- UMBER_RESET. R640: a requested Umber reset takes place; while fuses are blown it is held (R521). -/
def execUmberReset (s : State) : Host.Outcome State Fault Refusal :=
  .next (doUmberReset s)

/-- REF_SOURCE_READY. R52: REFRDY. -/
def execRefSourceReady (s : State) : Host.Outcome State Fault Refusal :=
  .next (refReady s)

/-- REF_PLL_LOCK. R46, R83: the REF PLL locks and store time starts from 0. -/
def execRefPllLock (s : State) : Host.Outcome State Fault Refusal :=
  .next (refLock s)

/-- REF_LOSS. R77: the 26 MHz source stops. -/
def execRefLoss (s : State) : Host.Outcome State Fault Refusal :=
  .next (Sys2Proof.Machine.refLoss s)

/-- CORE_PLL_LOCK. R55: the core PLL has locked. -/
def execCorePllLock (s : State) : Host.Outcome State Fault Refusal :=
  .next (Sys2Proof.Machine.corePllLock s)

/-- DVFS_POINT_WRITE. R59: a new target point. -/
def execDvfsPointWrite (m : Master) (v : BitVec 36) (s : State) : Host.Outcome State Fault Refusal :=
  regWrite true m P.PWR_DVFS v s

/-- DVFS_RAMP_END. R58: the move completes. -/
def execDvfsRampEnd (s : State) : Host.Outcome State Fault Refusal :=
  .next (dvfsEnd s)

/-- RADIO_POWER_ON. R370: PWR.ISLAND.RADIO = 1. -/
def execRadioPowerOn (m : Master) (v : BitVec 36) (s : State) : Host.Outcome State Fault Refusal :=
  regWrite (spOn 1 v) m P.PWR_ISLAND v s

/-- RADIO_POWER_OFF. R379: PWR.ISLAND.RADIO = 0. -/
def execRadioPowerOff (m : Master) (v : BitVec 36) (s : State) : Host.Outcome State Fault Refusal :=
  regWrite (spOff 1 v) m P.PWR_ISLAND v s

/-- TRESTLE_POWER_ON. R426: PWR.ISLAND.TRESTLE = 1. -/
def execTrestlePowerOn (m : Master) (v : BitVec 36) (s : State) : Host.Outcome State Fault Refusal :=
  regWrite (spOn 0 v) m P.PWR_ISLAND v s

/-- TRESTLE_POWER_OFF. R426: PWR.ISLAND.TRESTLE = 0. -/
def execTrestlePowerOff (m : Master) (v : BitVec 36) (s : State) : Host.Outcome State Fault Refusal :=
  regWrite (spOff 0 v) m P.PWR_ISLAND v s

/-- CIPHER_POWER_ON. R505: PWR.ISLAND.CIPHER = 1. -/
def execCipherPowerOn (m : Master) (v : BitVec 36) (s : State) : Host.Outcome State Fault Refusal :=
  regWrite (spOn 3 v) m P.PWR_ISLAND v s

/-- CIPHER_POWER_OFF. R505: PWR.ISLAND.CIPHER = 0. -/
def execCipherPowerOff (m : Master) (v : BitVec 36) (s : State) : Host.Outcome State Fault Refusal :=
  regWrite (spOff 3 v) m P.PWR_ISLAND v s

/-- L1_ENABLE. R72: PWR.ISLAND.L1 = 1, in master-anchor role, or refused. -/
def execL1Enable (m : Master) (v : BitVec 36) (s : State) : Host.Outcome State Fault Refusal :=
  regWrite (spOn 2 v) m P.PWR_ISLAND v s

/-- L1_DISABLE. R72: PWR.ISLAND.L1 = 0. -/
def execL1Disable (m : Master) (v : BitVec 36) (s : State) : Host.Outcome State Fault Refusal :=
  regWrite (spOff 2 v) m P.PWR_ISLAND v s

/-- L1_READY. R61: the first valid L1 sample. -/
def execL1Ready (s : State) : Host.Outcome State Fault Refusal :=
  .next (Sys2Proof.Machine.l1Ready s)

/-- SYNTH_G_LOCK_LOSS. R359: synthesiser G loses lock. -/
def execSynthGLockLoss (s : State) : Host.Outcome State Fault Refusal :=
  .next (synthGLoss s)

end Sys2Proof.Machine
end

