-- ==== Sys2Proof/Machine/SepiaTurn.lean ====
section
/-!
DEFINITION. Sys2Proof/Machine/SepiaTurn.lean: the priority order of Sepia's work (17 R542, Table SEP-1).
-/

namespace Sys2Proof.Machine

/-- Stage 3 of the watchdog (R556): the record with EPC and WDSTAT, the count in WDSTAT, and the Umber reset of code 16. -/
def wdStage3 (s : State) : State :=
  if s.wdEnabled && s.mgmt.wdStage == 2 && s.mgmt.wdLeft == 0 then
    let s := s.setPar P.MGMT_WDSTAT (bumpFld (s.par P.MGMT_WDSTAT) 18 8)
    let s := (wdEnter 3 s).countMgmt 11
    resetUmber 16 (s.pushLog 0x00A 0x013 s.umber.epc s.wdStat)
  else s

/-- An NMI condition or fault under NMIL (R181, R557): the record with NEPC and NCAUSE and the Umber reset of code 17. -/
def escalated (s : State) : State :=
  if s.umber.escalate then
    let s := (s.setUmber { s.umber with escalate := false }).countMgmt 12
    resetUmber 17 (s.pushLog 0x00B 0x000 s.umber.nepc s.umber.ncause)
  else s

/-- A revocation comes to its end (R344); for domain 1 with the system reset of code 8 (R641). -/
def revokeEnds (s : State) : State :=
  match s.rev with
  | none => s
  | some r =>
    let t := revokeFinish s
    if r.dom = 1 && t.rev.isNone then requestReset 8 t else t

/-- The watchdog stage that is due, an escalation that waits, and a revocation that can end (Table SEP-1, priority 1). -/
def watchdogWork (s : State) : State := if s.awake then revokeEnds (escalated (wdStage3 (wdStage2 (wdStage1 s)))) else s

/-- Sensor results that no command gives: free values. -/
def State.freeReadings (s : State) : Readings :=
  let w := fun (k : Nat) => Config.freeWord (s.freeCtr * 128 + k)
  { temp := w 0, vdd := w 1, vbk := w 2, podr := w 3, light := w 4, xtal := w 5 }

/-- The strike events that wait (priority 2). -/
def eventWork (s : State) : State :=
  if s.awake then s.time.sepiaEvs.foldl (fun s _ => strikeEvent s.freeReadings s.drawn) s else s

/-- The log records that wait, copies of Pier records among them (priority 3). -/
def logWork (s : State) : State :=
  if s.vddRuns then
    let s := copyPierEvents s
    s.mgmt.logQ.foldl (fun s _ => nvmSettled (writeLog s)) s
  else s

/-- The service that waits in the mailbox (priority 4). -/
def serviceWork (s : State) : State :=
  match s.mgmt.service with
  | none => s
  | some v =>
    if v.worked then s else
    let r := s.freeReadings
    let run := fun (f : Service → State → State) => onService v.code f s
    match v.code.toNat with
    | 1 => run svcNvmWrite
    | 2 => run svcLogAppend
    | 3 => onService 3 (svcSense r) s.drawn
    | 4 => onService 4 (svcPodTest r.podr) s.drawn
    | 5 => onService 5 (svcXtalChk r.xtal) s.drawn
    | 6 => run svcArmUpdate
    | 7 => run svcConfirm
    | 8 => run svcRegions
    | 9 => run svcKeyWrite
    | 10 => run svcSlotInfo
    | _ => s

/-- The NVM write queue, word by word to its end (priority 5). -/
def queueWork (s : State) : State :=
  let n := s.mgmt.nvmQ.foldl (fun n r => n + (r.data.length - r.done.toNat)) 0
  (List.range n).foldl (fun s _ => nvmSettled (nvmWordWrite 0 (nvmSettled s))) s

/-- The waiting work of Sepia that ranks above priority `p` is done first, in the order of Table SEP-1 (R542; log 85). -/
def higherWork (p : Nat) (s : State) : State :=
  let s := if 1 < p then watchdogWork s else s
  let s := if 2 < p then eventWork s else s
  let s := if 3 < p then logWork s else s
  let s := if 4 < p then serviceWork s else s
  if 5 < p then queueWork s else s

/-- Work of priority `p` is done in its turn, unless what ranks above it ends in a system reset. -/
def inTurn (p : Nat) (f : State → State) (s : State) : State :=
  let t := higherWork p s
  if t.pwr.mode = s.pwr.mode then f t else t

end Sys2Proof.Machine
end

