-- ==== Sys2Proof/Machine/DmaEvents.lean ====
section
/-!
DEFINITION. Sys2Proof/Machine/DmaEvents.lean: domains and DMA (10).
-/

namespace Sys2Proof.Machine

/-- REVOKE. R343: DOM.REVOKE with GO. -/
def execRevoke (m : Master) (v : BitVec 36) (s : State) : Host.Outcome State Fault Refusal :=
  regWrite (spOn 4 v) m P.DOM_REVOKE v s

/-- REVOKE_COMPLETE. R344; for domain 1 the Umber reset is a system reset of code 8 (R641). -/
def execRevokeComplete (s : State) : Host.Outcome State Fault Refusal :=
  .next (if s.awake then revokeEnds s else s)

/-- LKVIEW_WRITE. R353. -/
def execLkviewWrite (m : Master) (v : BitVec 36) (s : State) : Host.Outcome State Fault Refusal :=
  regWrite true m P.DOM_LKVIEW v s

/-- DMA_CTL_WRITE. R329. -/
def execDmaCtlWrite (m : Master) (ch : Fin 16) (v : BitVec 36) (s : State) : Host.Outcome State Fault Refusal :=
  regWrite true m (dmaIdx P.DMA_CTL ch) v s

/-- DMA_START. R334: START, or bit B:0xA30+c. -/
def execDmaStart (m : Master) (ch : Fin 16) (v : BitVec 36) (s : State) : Host.Outcome State Fault Refusal :=
  regWrite (spDmaCmd 0 v) m (dmaIdx P.DMA_CMD ch) v s

/-- DMA_RESUME. R340. -/
def execDmaResume (m : Master) (ch : Fin 16) (v : BitVec 36) (s : State) : Host.Outcome State Fault Refusal :=
  regWrite (spDmaCmd 1 v) m (dmaIdx P.DMA_CMD ch) v s

/-- DMA_ABORT. R341. -/
def execDmaAbort (m : Master) (ch : Fin 16) (v : BitVec 36) (s : State) : Host.Outcome State Fault Refusal :=
  regWrite (spDmaCmd 2 v) m (dmaIdx P.DMA_CMD ch) v s

/-- DMA_STRIKE_START. R98: the oldest strike start reaches the channels it selects. -/
def execDmaStrikeStart (s : State) : Host.Outcome State Fault Refusal :=
  .next (Sys2Proof.Machine.dmaStrikeStart s)

/-- DMA_REQUEST. R335: a request on a line. -/
def execDmaRequest (line : Fin 16) (s : State) : Host.Outcome State Fault Refusal :=
  .next (Sys2Proof.Machine.dmaRequest line s)

/-- DMA_CHAIN_START. R336. -/
def execDmaChainStart (ch : Fin 16) (s : State) : Host.Outcome State Fault Refusal :=
  .next (chainStart ch s)

/-- DMA_DESCRIPTOR_LOAD. R330: one word of the next descriptor. -/
def execDmaDescriptorLoad (ch : Fin 16) (s : State) : Host.Outcome State Fault Refusal :=
  .next (if s.awake then descriptorLoad ch s else s)

/-- DMA_ELEMENT. R337: one cycle of the engine. -/
def execDmaElement (s : State) : Host.Outcome State Fault Refusal :=
  .next (if s.awake then Sys2Proof.Machine.dmaElement s.repliesBack s.drawn else s)

/-- DMA_ABORT_DONE. R341: FAULT with code 10, or 9. -/
def execDmaAbortDone (ch : Fin 16) (s : State) : Host.Outcome State Fault Refusal :=
  .next (if s.awake then abortDone ch s else s)

end Sys2Proof.Machine
end

