-- ==== Sys2Proof/Machine/FaceEvents.lean ====
section
/-!
DEFINITION. Sys2Proof/Machine/FaceEvents.lean: the face port and the general pins (19).
-/

namespace Sys2Proof.Machine

/-- FACE_TXD_WRITE. R609. -/
def execFaceTxdWrite (m : Master) (v : BitVec 36) (s : State) : Host.Outcome State Fault Refusal :=
  regWrite true m P.FACE_TXD v s

/-- FACE_END. R610: FACE.CMD.END. -/
def execFaceEnd (m : Master) (v : BitVec 36) (s : State) : Host.Outcome State Fault Refusal :=
  regWrite (spOn 0 v) m P.FACE_CMD v s

/-- FACE_FLUSH. R613: FACE.CMD.FLUSH. -/
def execFaceFlush (m : Master) (v : BitVec 36) (s : State) : Host.Outcome State Fault Refusal :=
  regWrite (spOn 1 v) m P.FACE_CMD v s

/-- FACE_TRANSFER_START. R610. -/
def execFaceTransferStart (fbusy : Bool) (s : State) : Host.Outcome State Fault Refusal :=
  .next (faceStart fbusy s)

/-- FACE_TRANSFER_END. R610. -/
def execFaceTransferEnd (under fbusy : Bool) (s : State) : Host.Outcome State Fault Refusal :=
  .next (faceFinish under fbusy s)

/-- FBUSY_RELEASE. R609. -/
def execFbusyRelease (s : State) : Host.Outcome State Fault Refusal :=
  .next (Sys2Proof.Machine.fbusyRelease s)

/-- GPIO_EDGE. R611: a level arrives at a pin. -/
def execGpioEdge (g : Fin 8) (level : Bool) (s : State) : Host.Outcome State Fault Refusal :=
  .next (gpioInput g level s)

end Sys2Proof.Machine
end

