-- ==== Sys2Proof/Machine/HostEvents.lean ====
section
/-!
DEFINITION. Sys2Proof/Machine/HostEvents.lean: the host port (18).
-/

namespace Sys2Proof.Machine

/-- The next byte of the open transaction goes to H.DOORBELL. -/
def State.atDoorbell (s : State) : Bool :=
  match s.host.txn with
  | some t => t.wr && t.type == 0 && t.addr == 0x15
  | none => false

/-- HOST_TRANSACTION_START. R570: HCS_N falls and a command byte arrives. -/
def execHostTransactionStart (cmd : BitVec 8) (s : State) : Host.Outcome State Fault Refusal :=
  .next (hostStart cmd s)

/-- DIRECT_READ. R573: one byte of a direct read. -/
def execDirectRead (s : State) : Host.Outcome State Fault Refusal :=
  .next (Sys2Proof.Machine.directRead s)

/-- DIRECT_WRITE. R573: one byte of a direct write. -/
def execDirectWrite (b : BitVec 8) (s : State) : Host.Outcome State Fault Refusal :=
  .next (Sys2Proof.Machine.directWrite b s)

/-- HOST_PARAM_READ. R576: a parameter read is issued. -/
def execHostParamRead (s : State) : Host.Outcome State Fault Refusal :=
  .next (hostIssue 1 s)

/-- HOST_PARAM_WRITE. R577: a parameter write commits. -/
def execHostParamWrite (v : BitVec 36) (s : State) : Host.Outcome State Fault Refusal :=
  .next (hostWindowWrite 1 v s)

/-- HOST_MEM_READ. R580: a memory-window read is issued. -/
def execHostMemRead (s : State) : Host.Outcome State Fault Refusal :=
  .next (hostIssue 2 s)

/-- HOST_MEM_WRITE. R581: a memory-window write commits. -/
def execHostMemWrite (v : BitVec 36) (s : State) : Host.Outcome State Fault Refusal :=
  .next (hostWindowWrite 2 v s)

/-- HOST_READ_COMPLETE. R576. -/
def execHostReadComplete (s : State) : Host.Outcome State Fault Refusal :=
  .next (hostReadDone s)

/-- HOST_WRITE_ACK. R577. -/
def execHostWriteAck (s : State) : Host.Outcome State Fault Refusal :=
  .next (hostAck s)

/-- HOST_TRANSACTION_END. R591. -/
def execHostTransactionEnd (s : State) : Host.Outcome State Fault Refusal :=
  .next (hostEnd s)

/-- HOST_TIMEOUT. R587. -/
def execHostTimeout (s : State) : Host.Outcome State Fault Refusal :=
  .next (Sys2Proof.Machine.hostTimeout s)

/-- DOORBELL. R589: a direct write of H.DOORBELL. -/
def execDoorbell (b : BitVec 8) (s : State) : Host.Outcome State Fault Refusal :=
  .next (if s.atDoorbell then Sys2Proof.Machine.directWrite b s else s)

/-- DOORIN_READ. R589. -/
def execDoorinRead (m : Master) (s : State) : Host.Outcome State Fault Refusal :=
  .next (readEffect m P.HOST_DOORIN s)

/-- DOOROUT_WRITE. R589. -/
def execDooroutWrite (m : Master) (v : BitVec 36) (s : State) : Host.Outcome State Fault Refusal :=
  regWrite true m P.HOST_DOOROUT v s

end Sys2Proof.Machine
end

