-- ==== Sys2Proof/Machine/LifeEvents.lean ====
section
/-!
DEFINITION. Sys2Proof/Machine/LifeEvents.lean: life cycle and debug authorisation (16).
-/

namespace Sys2Proof.Machine

/-- A system reset or Umber reset that waited for BUSY to clear (R521). -/
def releaseHeld (s : State) : State :=
  match s.life.heldReset with
  | some code => systemReset code false s
  | none => s

/-- A transition ends; for a target of END OF LIFE a system reset follows (R521), otherwise one that was held. -/
def transitionEnds (vdd : BitVec 4) (stuck : BitVec 48) (s : State) : State :=
  match s.life.fuseOp with
  | some (.transition target) =>
    let s := finishTransition target vdd stuck s
    let r := (fld (s.par P.LIFE_TSTAT) 5 3 : BitVec 3)
    if target = lifeCode 3 && (r == 1 || r == 4) then systemReset 7 false s else releaseHeld s
  | _ => s

/-- Owner-hash programming ends (R519). -/
def ownerHashEnds (stuck : BitVec 256) (s : State) : State :=
  match s.life.fuseOp with
  | some (.ownerHash hash) => releaseHeld (finishOwnerHash hash stuck s)
  | _ => s

/-- TRANSITION_REQUEST. R520. -/
def execTransitionRequest (m : Master) (v : BitVec 36) (s : State) : Host.Outcome State Fault Refusal :=
  regWrite true m P.LIFE_TRANS v s

/-- TRANSITION_DONE. R521: VDD at each measurement, and the bits that do not blow. -/
def execTransitionDone (vdd : BitVec 4) (stuck : BitVec 48) (s : State) : Host.Outcome State Fault Refusal :=
  .next (transitionEnds vdd stuck s)

/-- OWNER_HASH_PROGRAM. R519. -/
def execOwnerHashProgram (m : Master) (v : BitVec 36) (s : State) : Host.Outcome State Fault Refusal :=
  regWrite (spOwn v) m P.LIFE_OWNCMD v s

/-- OWNER_HASH_DONE. R519: the bits that do not blow. -/
def execOwnerHashDone (stuck : BitVec 256) (s : State) : Host.Outcome State Fault Refusal :=
  .next (ownerHashEnds stuck s)

/-- DBG_CHALLENGE. R525: DBGCMD 1. -/
def execDbgChallenge (m : Master) (v : BitVec 36) (s : State) : Host.Outcome State Fault Refusal :=
  regWrite (spDbg 1 v) m P.LIFE_DBGCMD v s

/-- DBG_CHECK_RESPONSE. R526: DBGCMD 2. -/
def execDbgCheckResponse (m : Master) (v : BitVec 36) (s : State) : Host.Outcome State Fault Refusal :=
  regWrite (spDbg 2 v) m P.LIFE_DBGCMD v s

/-- RESPONSE_CHECK_DONE. R526. -/
def execResponseCheckDone (s : State) : Host.Outcome State Fault Refusal :=
  .next (if s.vddRuns then responseDone s else s)

/-- DBG_DROP_RIGHTS. R531: DBGCMD 3. -/
def execDbgDropRights (m : Master) (v : BitVec 36) (s : State) : Host.Outcome State Fault Refusal :=
  regWrite (spDbg 3 v) m P.LIFE_DBGCMD v s

/-- DBG_CHECK_CERTS. R529: DBGCMD 4. -/
def execDbgCheckCerts (m : Master) (v : BitVec 36) (s : State) : Host.Outcome State Fault Refusal :=
  regWrite (spDbg 4 v) m P.LIFE_DBGCMD v s

/-- CERT_CHECK_DONE. R529. -/
def execCertCheckDone (s : State) : Host.Outcome State Fault Refusal :=
  .next (if s.vddRuns then certsDone s else s)

/-- CERT_WINDOW_CHECK. R530. -/
def execCertWindowCheck (s : State) : Host.Outcome State Fault Refusal :=
  .next (if s.vddRuns then certWindows s else s)

end Sys2Proof.Machine
end

