-- ==== Sys2Proof/Machine/LinkEvents.lean ====
section
/-!
DEFINITION. Sys2Proof/Machine/LinkEvents.lean: the store link and the wake receiver (12).
-/

namespace Sys2Proof.Machine

/-- SYNC_DETECT. R398: a sync word with its rate, strength and gain. -/
def execSyncDetect (word : BitVec 32) (rate : Bool) (rssi : BitVec 8) (gain : BitVec 3) (s : State) : Host.Outcome State Fault Refusal :=
  .next (Sys2Proof.Machine.syncDetect word rate rssi gain s)

/-- FRAME_RECEIVED. R401: the bits of a frame up to tQ. -/
def execFrameReceived (bits : List Bool) (s : State) : Host.Outcome State Fault Refusal :=
  .next (Sys2Proof.Machine.frameReceived bits s)

/-- FRAME_TX_END. R402. -/
def execFrameTxEnd (s : State) : Host.Outcome State Fault Refusal :=
  .next (Sys2Proof.Machine.frameTxEnd s)

/-- ACK_TIMEOUT. R404. -/
def execAckTimeout (s : State) : Host.Outcome State Fault Refusal :=
  .next (Sys2Proof.Machine.ackTimeout s)

/-- WAKE_TRAIN_END. R410. -/
def execWakeTrainEnd (s : State) : Host.Outcome State Fault Refusal :=
  .next (trainEnd s)

/-- BURST_END. R467. -/
def execBurstEnd (s : State) : Host.Outcome State Fault Refusal :=
  .next (Sys2Proof.Machine.burstEnd s)

/-- WAKE_WINDOW_OPEN. R411. -/
def execWakeWindowOpen (s : State) : Host.Outcome State Fault Refusal :=
  .next (windowOpen s)

/-- WAKE_WINDOW_CLOSE. R411: the window closes with a detection level. -/
def execWakeWindowClose (level : BitVec 6) (s : State) : Host.Outcome State Fault Refusal :=
  .next (windowClose level s)

/-- WAKE_COLLECTION. R412. -/
def execWakeCollection (s : State) : Host.Outcome State Fault Refusal :=
  .next (startCollection s)

/-- WAKE_MATCH. R413: the 40 bits collected, and the envelope level. -/
def execWakeMatch (w : Collected) (s : State) : Host.Outcome State Fault Refusal :=
  .next (Sys2Proof.Machine.wakeMatch w.bits w.level s)

/-- WAKE_NOMATCH. R412. -/
def execWakeNomatch (w : Collected) (s : State) : Host.Outcome State Fault Refusal :=
  .next (wakeNoMatch w.bits w.level s)

end Sys2Proof.Machine
end

