-- ==== Sys2Proof/Machine/MemEvents.lean ====
section
/-!
DEFINITION. Sys2Proof/Machine/MemEvents.lean: the memories (09).
-/

namespace Sys2Proof.Machine

/-- SCRUB_READ. R301: a scrub access falls due and is granted or not. -/
def execScrubRead (granted : Bool) (s : State) : Host.Outcome State Fault Refusal :=
  .next (Sys2Proof.Machine.scrubRead granted s)

/-- DEMAND_WRITEBACK. R299. -/
def execDemandWriteback (s : State) : Host.Outcome State Fault Refusal :=
  .next (if s.awake then Sys2Proof.Machine.demandWriteback s else s)

/-- ARCH_REQUEST_ON. R294: some field of MEM.ARCHCTL asks for on. -/
def execArchRequestOn (m : Master) (v : BitVec 36) (s : State) : Host.Outcome State Fault Refusal :=
  regWrite (spArch 0 v) m P.MEM_ARCHCTL v s

/-- ARCH_REQUEST_SLEEP. R294: some field asks for sleep. -/
def execArchRequestSleep (m : Master) (v : BitVec 36) (s : State) : Host.Outcome State Fault Refusal :=
  regWrite (spArch 1 v) m P.MEM_ARCHCTL v s

/-- ARCH_REQUEST_OFF. R294: some field asks for off. -/
def execArchRequestOff (m : Master) (v : BitVec 36) (s : State) : Host.Outcome State Fault Refusal :=
  regWrite (spArch 2 v) m P.MEM_ARCHCTL v s

/-- ARCH_TRANSITION_DONE. R294: a step of an arch, or of the tile at 4, completes. -/
def execArchTransitionDone (k : Fin 5) (s : State) : Host.Outcome State Fault Refusal :=
  .next (if s.awake then archStepDone k.val s else s)

/-- ARCH_INIT_DONE. R296: the initialiser finishes an arch, or the tile at 4. -/
def execArchInitDone (k : Fin 5) (s : State) : Host.Outcome State Fault Refusal :=
  .next (if s.awake then Sys2Proof.Machine.archInitDone k.val s else s)

/-- MEM_INJECT. R319. -/
def execMemInject (m : Master) (v : BitVec 36) (s : State) : Host.Outcome State Fault Refusal :=
  regWrite (spOn 0 v) m P.MEM_INJECT v s

/-- NVM_WORD_WRITE. R307: the write controller completes a word. -/
def execNvmWordWrite (stuck : BitVec 43) (s : State) : Host.Outcome State Fault Refusal :=
  .next (if s.vddRuns then inTurn 5 (fun s => nvmSettled (Sys2Proof.Machine.nvmWordWrite stuck (nvmSettled s))) s else s)

/-- NVM_WRITE_ABORT. R548: a word write was not completed within 8 ms. -/
def execNvmWriteAbort (s : State) : Host.Outcome State Fault Refusal :=
  .next (if s.vddRuns then inTurn 5 (fun s => nvmSettled (nvmAbort (nvmSettled s))) s else s)

end Sys2Proof.Machine
end

