-- ==== Sys2Proof/Machine/MgmtEvents.lean ====
section
/-!
DEFINITION. Sys2Proof/Machine/MgmtEvents.lean: Sepia's services, watchdog, sensors and log (17).
-/

namespace Sys2Proof.Machine

/-- A service is worked while Sepia runs (R545), after the work that ranks above the mailbox (R542). -/
def serve (code : BitVec 8) (f : Service → State → State) (s : State) : State := if s.vddRuns then inTurn 4 (onService code f) s else s

/-- NVMWRITE. R546: service 0x01. -/
def execNvmwrite (s : State) : Host.Outcome State Fault Refusal :=
  .next (serve 0x01 svcNvmWrite s)

/-- LOGAPPEND. R560: service 0x02. -/
def execLogappend (s : State) : Host.Outcome State Fault Refusal :=
  .next (serve 0x02 svcLogAppend s)

/-- SENSE. R558: service 0x03. -/
def execSense (r : Readings) (s : State) : Host.Outcome State Fault Refusal :=
  .next (serve 0x03 (svcSense r) s)

/-- PODTEST. R545: service 0x04. -/
def execPodtest (podr : BitVec 36) (s : State) : Host.Outcome State Fault Refusal :=
  .next (serve 0x04 (svcPodTest podr) s)

/-- XTALCHK. R558: service 0x05. -/
def execXtalchk (ppm : BitVec 36) (s : State) : Host.Outcome State Fault Refusal :=
  .next (serve 0x05 (svcXtalChk ppm) s)

/-- ARMUPDATE. R553: service 0x06. -/
def execArmupdate (s : State) : Host.Outcome State Fault Refusal :=
  .next (serve 0x06 svcArmUpdate s)

/-- CONFIRM. R555: service 0x07. -/
def execConfirm (s : State) : Host.Outcome State Fault Refusal :=
  .next (serve 0x07 svcConfirm s)

/-- REGIONS. R551: service 0x08. -/
def execRegions (s : State) : Host.Outcome State Fault Refusal :=
  .next (serve 0x08 svcRegions s)

/-- KEYWRITE. R545: service 0x09. -/
def execKeywrite (s : State) : Host.Outcome State Fault Refusal :=
  .next (serve 0x09 svcKeyWrite s)

/-- SLOTINFO. R545: service 0x0A. -/
def execSlotinfo (s : State) : Host.Outcome State Fault Refusal :=
  .next (serve 0x0A svcSlotInfo s)

/-- SERVICE_DONE. R544. -/
def execServiceDone (s : State) : Host.Outcome State Fault Refusal :=
  .next (if s.vddRuns then svcDone s else s)

/-- ROLE_WRITE. R551. -/
def execRoleWrite (m : Master) (v : BitVec 36) (s : State) : Host.Outcome State Fault Refusal :=
  regWrite true m P.SYS_ROLE v s

/-- WDKICK. R556. -/
def execWdkick (m : Master) (v : BitVec 36) (s : State) : Host.Outcome State Fault Refusal :=
  regWrite true m P.MGMT_WDKICK v s

/-- WDT_STAGE1. R556. -/
def execWdtStage1 (s : State) : Host.Outcome State Fault Refusal :=
  .next (if s.awake then wdStage1 s else s)

/-- WDT_STAGE2. R556. -/
def execWdtStage2 (s : State) : Host.Outcome State Fault Refusal :=
  .next (if s.awake then wdStage2 s else s)

/-- WDT_STAGE3. R556: Sepia resets Umber with code 16. -/
def execWdtStage3 (s : State) : Host.Outcome State Fault Refusal :=
  .next (if s.awake then wdStage3 s else s)

/-- NMI_ESCALATION. R557: Sepia resets Umber with code 17. -/
def execNmiEscalation (s : State) : Host.Outcome State Fault Refusal :=
  .next (if s.awake then escalated s else s)

/-- SENSOR_SAMPLE. R558: periodic sampling. -/
def execSensorSample (r : Readings) (s : State) : Host.Outcome State Fault Refusal :=
  .next (if s.awake then inTurn 6 (samplePeriodic r) s else s)

/-- LOG_WRITE. R559: Sepia writes the oldest queued record; Pier records not yet copied are queued first (R140). -/
def execLogWrite (s : State) : Host.Outcome State Fault Refusal :=
  .next (if s.vddRuns then inTurn 3 (fun s => nvmSettled (writeLog (copyPierEvents s))) s else s)

/-- EVFIFO_READ. R543. -/
def execEvfifoRead (m : Master) (s : State) : Host.Outcome State Fault Refusal :=
  .next (readEffect m P.MGMT_EVFIFO s)

end Sys2Proof.Machine
end

