-- ==== Sys2Proof/Machine/TimeEvents.lean ====
section
/-!
DEFINITION. Sys2Proof/Machine/TimeEvents.lean: store time and strikes (03).
-/

namespace Sys2Proof.Machine

/-- What happens when no command waits: a TCLK edge while the REF group runs (R80), and the face port takes its next word (R608; log 3). -/
def idle (s : State) : State := faceShift (if s.refRuns then tclkEdge s else s)

/-- TIME.STEP with the TCLK edge at which it is applied (R85). -/
def stepWrite (m : Master) (v : Word) (s : State) : State :=
  let t := deliver m P.TIME_STEP v s
  if t.refRuns && decide (t.time.steps ≠ s.time.steps) then tclkEdge t else t

/-- ARM = 1 with the TCLK edge at which the unit arms (R92). -/
def armWrite (m : Master) (n : Fin 8) (v : Word) (s : State) : State :=
  if spOn 0 v then
    let t := deliver m (P.STRK_CTL + 16 * n.val) v s
    if t.refRuns && decide (t.time.armPend ≠ s.time.armPend) then tclkEdge t else t
  else s

/-- The edge at which a pending load applies or ends: the next TCLK edge in mode 0 (R86), the crystal edge of its tick in mode 1 (R89, R90). -/
def loadApply (s : State) : State :=
  if s.loadAtTclk then (if s.refRuns then tclkEdge s else s)
  else if s.time.load.isSome && s.crystalRuns then
    let t := pierEdge s
    if t.time.load.isNone then t else s
  else s

/-- A frozen capture releases itself after two Pier ticks (R88). -/
def capReleased (s : State) : State := if s.time.capFrozen && decide (2 ≤ s.time.capTicks.toNat) then releaseCap s else s

/-- The oldest radio action of the strikes (R96, R372): taken, or dropped with RMISS. -/
def strikeAction (s : State) : State :=
  match s.time.radioActs with
  | [] => s
  | (n, ract) :: rest =>
    if s.refRuns then
      let s := { s with time := { s.time with radioActs := rest } }
      match radioStrike ract s with
      | some s => s
      | none => setStrikeStatus (Fin.ofNat 8 n.toNat) 2 s
    else s

/-- TIME_INC_WRITE. R81: TIME.INC, or INCREF. -/
def execTimeIncWrite (m : Master) (v : BitVec 36) (s : State) : Host.Outcome State Fault Refusal :=
  regWrite true m P.TIME_INC v s

/-- TIME_STEP. R85: a phase step is latched and applied at the next TCLK edge. -/
def execTimeStep (m : Master) (v : BitVec 36) (s : State) : Host.Outcome State Fault Refusal :=
  .next (stepWrite m v s)

/-- TIME_LOAD. R86: LOAD = 1. -/
def execTimeLoad (m : Master) (v : BitVec 36) (s : State) : Host.Outcome State Fault Refusal :=
  regWrite (spOn 0 v) m P.TIME_CTL v s

/-- TIME_LOAD_APPLY. R86, R89: a pending load comes to its edge. -/
def execTimeLoadApply (s : State) : Host.Outcome State Fault Refusal :=
  .next (loadApply s)

/-- NOWF_READ. R84. -/
def execNowfRead (m : Master) (s : State) : Host.Outcome State Fault Refusal :=
  .next (readEffect m P.TIME_NOWF s)

/-- PIERCAP_READ. R88: the capture freezes. -/
def execPiercapRead (m : Master) (s : State) : Host.Outcome State Fault Refusal :=
  .next (readEffect m P.TIME_PIERCAP s)

/-- PIERCAPT_READ. R88: the capture is released. -/
def execPiercaptRead (m : Master) (s : State) : Host.Outcome State Fault Refusal :=
  .next (readEffect m P.TIME_PIERCAPT s)

/-- PIERCAP_RELEASE. R88: two Pier ticks have passed since the freeze. -/
def execPiercapRelease (s : State) : Host.Outcome State Fault Refusal :=
  .next (capReleased s)

/-- STRK_ARM. R92: ARM = 1; the unit arms, or refuses, at the next TCLK edge. -/
def execStrkArm (m : Master) (n : Fin 8) (v : BitVec 36) (s : State) : Host.Outcome State Fault Refusal :=
  .next (armWrite m n v s)

/-- STRK_DISARM. R92: ARM = 0. -/
def execStrkDisarm (m : Master) (n : Fin 8) (v : BitVec 36) (s : State) : Host.Outcome State Fault Refusal :=
  regWrite (spOff 0 v) m (P.STRK_CTL + 16 * n.val) v s

/-- STRIKE_FIRE. R93: the TCLK edge at which a target of the unit fires. -/
def execStrikeFire (n : Fin 8) (s : State) : Host.Outcome State Fault Refusal :=
  .next (if s.refRuns && s.strikeDue n then tclkEdge s else s)

/-- STRIKE_PULSE_END. R103: the TCLK edge at which a pulse end comes due. -/
def execStrikePulseEnd (s : State) : Host.Outcome State Fault Refusal :=
  .next (if s.refRuns && s.pulseEndDue then tclkEdge s else s)

/-- STRIKE_RADIO_ACTION. R96, R372: the oldest radio action reaches the radio, or is dropped with RMISS. -/
def execStrikeRadioAction (s : State) : Host.Outcome State Fault Refusal :=
  .next (strikeAction s)

/-- EPOCH_LATCH. R97, R444, R445: the samples up to the last one included, and the freezing edge at a phase of that sample. -/
def execEpochLatch (e : EpochAt) (s : State) : Host.Outcome State Fault Refusal :=
  .next (Sys2Proof.Machine.epochLatch e.phase (samplesUpTo e.xs s))

/-- SEPIA_STRIKE_EVENT. R543: Sepia takes the oldest strike event. -/
def execSepiaStrikeEvent (r : Readings) (s : State) : Host.Outcome State Fault Refusal :=
  .next (if s.awake then inTurn 2 (strikeEvent r) s else s)

end Sys2Proof.Machine
end

