-- ==== Sys2Proof/Machine/PierEvents.lean ====
section
/-!
DEFINITION. Sys2Proof/Machine/PierEvents.lean: the Pier (04).
-/

namespace Sys2Proof.Machine

/-- A crystal edge of the kind a row names; another kind of edge is not that row (log 3). -/
def edgeWhen (b : Bool) (s : State) : State := if s.crystalRuns && b then pierEdge s else s

/-- The next crystal edge makes a correction (R127). -/
def State.corrects (s : State) : Bool :=
  decide ((trimStep s.pier.winNext.toNat s.pier.trimAcc.toNat s.trimActive).2 ≠ 0)

/-- Alarm `n` matches at the next crystal edge (R129). -/
def State.alarmDue (s : State) (n : Fin 2) : Bool :=
  let halt := (s.par P.PIER_CTL).getLsbD 0
  !halt && (ticksTaken s.pier.secPend halt (trimStep s.pier.winNext.toNat s.pier.trimAcc.toNat s.trimActive).2 s.pier.tick).any (s.pier.alarms[n]).hits

/-- The shadow of Umber or of Sepia; the other masters have none (R123). -/
def shadowReleased (m : Master) (s : State) : State :=
  match m with
  | .umber => s.setPier { s.pier with umberShadow := releaseShadow s.pier.umberShadow, umberRes := s.pier.umberRes.release }
  | .sepia => s.setPier { s.pier with sepiaShadow := releaseShadow s.pier.sepiaShadow, sepiaRes := s.pier.sepiaRes.release }
  | _ => s

/-- The oscillator check finds no edge (R132, R140): a first finding sets OSCFAIL and OSF and writes a record; a later one sets OSF again if it was cleared,
and counts in OSFCNT only then: R132 leaves open whether a finding while OSF is 1 counts, and this is the model's choice (log 96). -/
def oscFails (s : State) : State :=
  if !s.pwr.pierOn then s
  else if (s.par P.PIER_STATUS).getLsbD 2 then (if (s.par P.PIER_STATUS).getLsbD 0 then s else setOsf s)
  else pierRecord 5 (setOsf (setPierStatus 2 true s))

/-- The cycles of the oscillator check's RC that a release count under OSCFAIL has taken (R137): any number that leaves the count short of its end (log 81). -/
def rcCounted (s : State) : State :=
  if s.locked && s.aboveRelease then
    let k := (Config.freeWord (s.freeCtr * 128)).toNat % (66 - min 65 s.pier.above.toNat)
    let s := s.drawn
    s.setPier { s.pier with above := s.pier.above + BitVec.ofNat 7 k }
  else s

/-- The first edge of a crystal that returns (R132, R140): OSCFAIL clears at it and a release count under way goes on (R137). The model counts no tick and sends
no strobe for this edge; the counted edges follow. R132 does not say whether it is one of them, and this is the model's choice (log 96). So is the edge at which a
PIER.SEC, an alarm setting, a PIER.SWCFG or a PWRON acknowledgement latched while OSCFAIL was 1 applies: the one after (log 96). -/
def oscReturns (s : State) : State :=
  if s.pwr.pierOn && (s.par P.PIER_STATUS).getLsbD 2 then
    let s := pierRecord 6 (setPierStatus 2 false (rcCounted s))
    if (s.par P.PIER_STATUS).getLsbD 0 then s else setOsf s
  else s

/-- The edge at which the release count ends (R137). While OSCFAIL is 1 the count goes by cycles of the oscillator check's RC, whose passing has no row:
the row then stands for their end (log 81). -/
def lockReleases (s : State) : State :=
  let s := compareSupplies s
  if !s.locked || !s.aboveRelease then s
  else if s.crystalRuns then (if 65 ≤ s.pier.above.toNat then pierEdge s else s)
  else if s.pwr.pierOn then lockEnds s
  else s

/-- PIER.SWCFG with the crystal edge at which it comes into force (R135). A write the shell discards, or a stopped crystal, brings no edge. -/
def swcfgWritten (m : Master) (v : Word) (sup : Supplies) (s : State) : State :=
  let s := suppliesAt sup s
  let t := deliver m P.PIER_SWCFG v s
  if !s.locked && s.crystalRuns && decide (t ≠ s) && decide (t.par P.PIER_SWCFG = plainWrite P.PIER_SWCFG (s.par P.PIER_SWCFG) v) && decide ((fld v 1 4 : BitVec 4) ≠ 15)
  then pierEdge t else t

/-- PIER_TICK_LO_READ. R123. -/
def execPierTickLoRead (m : Master) (s : State) : Host.Outcome State Fault Refusal :=
  .next (readEffect m P.PIER_TICK_LO s)

/-- PIER_TICK_HI_READ. R123. -/
def execPierTickHiRead (m : Master) (s : State) : Host.Outcome State Fault Refusal :=
  .next (readEffect m P.PIER_TICK_HI s)

/-- SHADOW_RELEASE. R123: the shadow of a master releases itself after two strobes. -/
def execShadowRelease (m : Master) (s : State) : Host.Outcome State Fault Refusal :=
  .next (shadowReleased m s)

/-- PIER_SEC_WRITE. R125. -/
def execPierSecWrite (m : Master) (v : BitVec 36) (s : State) : Host.Outcome State Fault Refusal :=
  regWrite true m P.PIER_SEC v s

/-- PIER_HALT_SET. R126: HALT = 1. -/
def execPierHaltSet (m : Master) (v : BitVec 36) (s : State) : Host.Outcome State Fault Refusal :=
  regWrite (spOn 0 v) m P.PIER_CTL v s

/-- PIER_HALT_CLEAR. R126: HALT = 0. -/
def execPierHaltClear (m : Master) (v : BitVec 36) (s : State) : Host.Outcome State Fault Refusal :=
  regWrite (spOff 0 v) m P.PIER_CTL v s

/-- PIER_TICK_WRITE. R126: accepted only under HALT. -/
def execPierTickWrite (m : Master) (hi : Bool) (v : BitVec 36) (s : State) : Host.Outcome State Fault Refusal :=
  regWrite true m (if hi then P.PIER_TICK_HI else P.PIER_TICK_LO) v s

/-- TRIM_WINDOW_BOUNDARY. R127: the crystal edge at a window boundary. -/
def execTrimWindowBoundary (s : State) : Host.Outcome State Fault Refusal :=
  .next (edgeWhen (s.pier.winNext == 0) s)

/-- TRIM_CORRECTION. R127: the crystal edge at which a tick is added or swallowed. -/
def execTrimCorrection (s : State) : Host.Outcome State Fault Refusal :=
  .next (edgeWhen s.corrects s)

/-- ALARM_MATCH. R130: the crystal edge at which an alarm matches. -/
def execAlarmMatch (n : Fin 2) (s : State) : Host.Outcome State Fault Refusal :=
  .next (edgeWhen (s.alarmDue n) s)

/-- OSC_FAIL. R132: no crystal edge for four periods of the RC. -/
def execOscFail (s : State) : Host.Outcome State Fault Refusal :=
  .next (oscFails s)

/-- OSC_RETURN. R132: the crystal returns. -/
def execOscReturn (s : State) : Host.Outcome State Fault Refusal :=
  .next (oscReturns s)

/-- SWCFG_WRITE. R135: PIER.SWCFG, and the comparators under its thresholds, with the supplies at their levels. -/
def execSwcfgWrite (m : Master) (v : BitVec 36) (vdd vbk : BitVec 12) (band : BitVec 6) (s : State) : Host.Outcome State Fault Refusal :=
  .next (swcfgWritten m v { vdd := vdd, vbk := vbk, band := band } s)

/-- LOCKOUT_TRIP. R136, R137: VDD falls below the trip point, with all the comparators do at its new level. -/
def execLockoutTrip (s : State) : Host.Outcome State Fault Refusal :=
  .next (if s.pwr.pierOn then suppliesAt s.fallen s.drawn else s)

/-- LOCKOUT_RELEASE. R137: the release point has been exceeded for 66 ticks. -/
def execLockoutRelease (s : State) : Host.Outcome State Fault Refusal :=
  .next (lockReleases s)

/-- SUPPLY_TO_VBK. R136, R138: the supplies at new levels; the supply moves where VDD lies below the falling threshold, and so below the trip point before it. -/
def execSupplyToVbk (sup : Supplies) (s : State) : Host.Outcome State Fault Refusal :=
  .next (suppliesAt sup s)

/-- SUPPLY_TO_VDD. R136: the supplies at new levels, with all the comparators do at them: the supply moves back where VDD lies above the rising threshold. -/
def execSupplyToVdd (sup : Supplies) (s : State) : Host.Outcome State Fault Refusal :=
  .next (suppliesAt sup s)

/-- PWRON_ACK. R142. -/
def execPwronAck (m : Master) (v : BitVec 36) (s : State) : Host.Outcome State Fault Refusal :=
  regWrite (spOn 0 v) m P.PIER_PWRSTAT v s

/-- PIER_TICK_EDGE. R87, R120: a crystal edge. -/
def execPierTickEdge (s : State) : Host.Outcome State Fault Refusal :=
  .next (edgeWhen true s)

end Sys2Proof.Machine
end

