-- ==== Sys2Proof/Machine/PodEvents.lean ====
section
/-!
DEFINITION. Sys2Proof/Machine/PodEvents.lean: the battery pod and the charge meter (19).
-/

namespace Sys2Proof.Machine

/-- POD_READ. R601: op 1. -/
def execPodRead (m : Master) (v : BitVec 36) (s : State) : Host.Outcome State Fault Refusal :=
  regWrite (spPod 1 v) m P.POD_CMD v s

/-- POD_WRITE. R601: op 2. -/
def execPodWrite (m : Master) (v : BitVec 36) (s : State) : Host.Outcome State Fault Refusal :=
  regWrite (spPod 2 v) m P.POD_CMD v s

/-- POD_ADDCHG. R601: op 3. -/
def execPodAddchg (m : Master) (v : BitVec 36) (s : State) : Host.Outcome State Fault Refusal :=
  regWrite (spPod 3 v) m P.POD_CMD v s

/-- POD_AUTH. R601: op 4. -/
def execPodAuth (m : Master) (v : BitVec 36) (s : State) : Host.Outcome State Fault Refusal :=
  regWrite (spPod 4 v) m P.POD_CMD v s

/-- POD_PING. R601: op 5. -/
def execPodPing (m : Master) (v : BitVec 36) (s : State) : Host.Outcome State Fault Refusal :=
  regWrite (spPod 5 v) m P.POD_CMD v s

/-- POD_RESULT_POLL. R598. -/
def execPodResultPoll (s : State) : Host.Outcome State Fault Refusal :=
  .next (podPoll s)

/-- POD_ANSWER. R598: a frame from the pod, or none. -/
def execPodAnswer (frame : Option (List Byte)) (s : State) : Host.Outcome State Fault Refusal :=
  .next (Sys2Proof.Machine.podAnswer frame s)

/-- POD_TIMEOUT. R598. -/
def execPodTimeout (s : State) : Host.Outcome State Fault Refusal :=
  .next (Sys2Proof.Machine.podTimeout s)

/-- POD_TRANSACTION_DONE. R601. -/
def execPodTransactionDone (s : State) : Host.Outcome State Fault Refusal :=
  .next (podDone s)

/-- POD_RELEASE_NOTICE. R605. -/
def execPodReleaseNotice (s : State) : Host.Outcome State Fault Refusal :=
  .next (releaseNotice s)

/-- POD_IDENTIFY. R607. -/
def execPodIdentify (pod : Option PodIdent) (s : State) : Host.Outcome State Fault Refusal :=
  .next (if s.awake then Sys2Proof.Machine.podIdentify pod s else s)

/-- CHARGE_FOLD. R602: meter pulses counted since the last fold, and the fold. -/
def execChargeFold (pulses : BitVec 36) (s : State) : Host.Outcome State Fault Refusal :=
  .next (if s.awake then Sys2Proof.Machine.chargeFold (countPulses pulses s) else s)

end Sys2Proof.Machine
end

