-- ==== Sys2Proof/Machine/RadioEvents.lean ====
section
/-!
DEFINITION. Sys2Proof/Machine/RadioEvents.lean: the radio front end (11).
-/

namespace Sys2Proof.Machine

/-- The automatic move that is due (R373). -/
def autoReturn (s : State) : State :=
  match s.radio.ret with
  | some (rx, v) => if s.refRuns then autoMove rx v s else s
  | none => s

/-- Some address of the receive FIFO's range is one the master may read (R320, R322, R368). -/
def State.rxFifoGranted (s : State) (acc : Accessor) : Bool :=
  (List.range 256).any (fun k => (s.regionFail acc spData (BitVec.ofNat 24 (0x410100 + k)) .r).isNone)

/-- A read of the receive FIFO by Umber or DMA (R368). -/
def rxFifoRead (m : Master) (s : State) : State :=
  match m with
  | .umber => if s.awake && s.rxFifoGranted s.umberAcc && s.radioPowered && !s.queuedFor .radio then (rxPop s).2 else s
  | .dma c => if s.awake && s.rxFifoGranted (s.dmaAcc c) && s.radioPowered then (rxPop s).2 else s
  | _ => s

/-- The second's SYNTH.TEMPNOW (R376). -/
def tempPeriodic (temp : BitVec 10) (s : State) : State :=
  if s.awake && s.radioPowered then inTurn 6 (fun s => if s.radioPowered then setTempNow temp s else s) s else s

/-- RADIO_CMD_SLEEP. R370: SLEEP. -/
def execRadioCmdSleep (m : Master) (v : BitVec 36) (s : State) : Host.Outcome State Fault Refusal :=
  regWrite (spRadio 1 v) m P.RADIO_CMD v s

/-- RADIO_CMD_STANDBY. R370: STANDBY. -/
def execRadioCmdStandby (m : Master) (v : BitVec 36) (s : State) : Host.Outcome State Fault Refusal :=
  regWrite (spRadio 2 v) m P.RADIO_CMD v s

/-- RADIO_CMD_RX. R370: RX. -/
def execRadioCmdRx (m : Master) (v : BitVec 36) (s : State) : Host.Outcome State Fault Refusal :=
  regWrite (spRadio 3 v) m P.RADIO_CMD v s

/-- RADIO_CMD_TX. R370: TX. -/
def execRadioCmdTx (m : Master) (v : BitVec 36) (s : State) : Host.Outcome State Fault Refusal :=
  regWrite (spRadio 4 v) m P.RADIO_CMD v s

/-- RADIO_CMD_TXSTART. R370: TXSTART. -/
def execRadioCmdTxstart (m : Master) (v : BitVec 36) (s : State) : Host.Outcome State Fault Refusal :=
  regWrite (spRadio 5 v) m P.RADIO_CMD v s

/-- RADIO_CMD_WAKELISTEN. R370: WAKELISTEN. -/
def execRadioCmdWakelisten (m : Master) (v : BitVec 36) (s : State) : Host.Outcome State Fault Refusal :=
  regWrite (spRadio 6 v) m P.RADIO_CMD v s

/-- RADIO_CMD_CHSW. R370: CHSW. -/
def execRadioCmdChsw (m : Master) (v : BitVec 36) (s : State) : Host.Outcome State Fault Refusal :=
  regWrite (spRadio 7 v) m P.RADIO_CMD v s

/-- RADIO_CMD_CALRC. R376: CALRC. -/
def execRadioCmdCalrc (m : Master) (v : BitVec 36) (s : State) : Host.Outcome State Fault Refusal :=
  regWrite (spRadio 8 v) m P.RADIO_CMD v s

/-- RADIO_CMD_CALIQ. R376: CALIQ. -/
def execRadioCmdCaliq (m : Master) (v : BitVec 36) (s : State) : Host.Outcome State Fault Refusal :=
  regWrite (spRadio 9 v) m P.RADIO_CMD v s

/-- RADIO_CMD_CALDC. R376: CALDC. -/
def execRadioCmdCaldc (m : Master) (v : BitVec 36) (s : State) : Host.Outcome State Fault Refusal :=
  regWrite (spRadio 10 v) m P.RADIO_CMD v s

/-- RADIO_CMD_INVALID. R384: code 0 or 11-15. -/
def execRadioCmdInvalid (m : Master) (v : BitVec 36) (s : State) : Host.Outcome State Fault Refusal :=
  regWrite (spRadioBad v) m P.RADIO_CMD v s

/-- RADIO_TRANSITION_DONE. R370: the transition in progress ends; `locked`: synthesiser A locked (R358). -/
def execRadioTransitionDone (locked : Bool) (s : State) : Host.Outcome State Fault Refusal :=
  .next (transitionDone locked s)

/-- RADIO_AUTORET. R373: the move of AUTORET. -/
def execRadioAutoret (s : State) : Host.Outcome State Fault Refusal :=
  .next (autoReturn s)

/-- RX_TIMEOUT. R373. -/
def execRxTimeout (s : State) : Host.Outcome State Fault Refusal :=
  .next (Sys2Proof.Machine.rxTimeout s)

/-- TX_UNDERRUN. R388. -/
def execTxUnderrun (s : State) : Host.Outcome State Fault Refusal :=
  .next (Sys2Proof.Machine.txUnderrun s)

/-- DIVERSITY_DECISION. R378: the strengths measured on both antennas and the gain in use. -/
def execDiversityDecision (a b : BitVec 8) (gain : BitVec 3) (s : State) : Host.Outcome State Fault Refusal :=
  .next (diversity a b gain s)

/-- FAULT_SEQUENCE_END. R379. -/
def execFaultSequenceEnd (s : State) : Host.Outcome State Fault Refusal :=
  .next (faultEnds s)

/-- RADIO_TX_FIFO_WRITE. R368: a word for the transmit FIFO. -/
def execRadioTxFifoWrite (m : Master) (v : BitVec 36) (s : State) : Host.Outcome State Fault Refusal :=
  .next (deliverFifo m v s)

/-- RADIO_RX_FIFO_READ. R368: a read of the receive FIFO. -/
def execRadioRxFifoRead (m : Master) (s : State) : Host.Outcome State Fault Refusal :=
  .next (rxFifoRead m s)

/-- RADIO_TXFLUSH. R368. -/
def execRadioTxflush (m : Master) (v : BitVec 36) (s : State) : Host.Outcome State Fault Refusal :=
  regWrite (spOn 16 v) m P.RADIO_FIFOCFG v s

/-- RADIO_RXFLUSH. R368. -/
def execRadioRxflush (m : Master) (v : BitVec 36) (s : State) : Host.Outcome State Fault Refusal :=
  regWrite (spOn 17 v) m P.RADIO_FIFOCFG v s

/-- XOTRIM_WRITE. R377. -/
def execXotrimWrite (m : Master) (v : BitVec 36) (s : State) : Host.Outcome State Fault Refusal :=
  regWrite true m P.SYNTH_XOTRIM v s

/-- XONOW_STEP. R377. -/
def execXonowStep (s : State) : Host.Outcome State Fault Refusal :=
  .next (xoStep s)

/-- TEMPNOW_PERIODIC. R376: Sepia writes the die temperature once a second while the RADIO region is powered. -/
def execTempnowPeriodic (temp : BitVec 10) (s : State) : Host.Outcome State Fault Refusal :=
  .next (tempPeriodic temp s)

end Sys2Proof.Machine
end

