-- ==== Sys2Proof/Machine/TrsEvents.lean ====
section
/-!
DEFINITION. Sys2Proof/Machine/TrsEvents.lean: Trestle (13).
-/

namespace Sys2Proof.Machine

/-- TRS_CHANNEL_ENABLE. R447. -/
def execTrsChannelEnable (m : Master) (c : Fin 48) (v : BitVec 36) (s : State) : Host.Outcome State Fault Refusal :=
  regWrite (spOn 0 v) m (chIdx P.CH_CTL c) v s

/-- TRS_CHANNEL_DISABLE. R447. -/
def execTrsChannelDisable (m : Master) (c : Fin 48) (v : BitVec 36) (s : State) : Host.Outcome State Fault Refusal :=
  regWrite (spOff 0 v) m (chIdx P.CH_CTL c) v s

/-- TRS_CHSTART. R447. -/
def execTrsChstart (m : Master) (v : BitVec 36) (s : State) : Host.Outcome State Fault Refusal :=
  regWrite true m P.TRS_CHSTARTLO v s

/-- CARRADJ. R435: taken at the next sample. -/
def execCarradj (m : Master) (c : Fin 48) (v : BitVec 36) (s : State) : Host.Outcome State Fault Refusal :=
  regWrite true m (chIdx P.CH_CARRADJ c) v s

/-- CODEADJ. R435: taken at the next sample. -/
def execCodeadj (m : Master) (c : Fin 48) (v : BitVec 36) (s : State) : Host.Outcome State Fault Refusal :=
  regWrite true m (chIdx P.CH_CODEADJ c) v s

/-- CARRRATE_APPLY. R435: the samples up to the one that applies CARRRATE to a channel. -/
def execCarrrateApply (c : Fin 48) (xs : List Smp) (s : State) : Host.Outcome State Fault Refusal :=
  .next (atSample xs (fun a _ => ratedBetween c a) s)

/-- QUANT_BLOCK_END. R428: the samples up to a block end. -/
def execQuantBlockEnd (xs : List Smp) (s : State) : Host.Outcome State Fault Refusal :=
  .next (atSample xs (fun _ b => b.trs.blockPos == 0) s)

/-- TRS_DUMP. R439: the samples up to a dump of a channel. -/
def execTrsDump (c : Fin 48) (xs : List Smp) (s : State) : Host.Outcome State Fault Refusal :=
  .next (atSample xs (dumpedBetween c) s)

/-- DUMP_WRITE. R441. -/
def execDumpWrite (s : State) : Host.Outcome State Fault Refusal :=
  .next (if s.awake then Sys2Proof.Machine.dumpWrite s else s)

/-- CMDATA_WRITE. R431. -/
def execCmdataWrite (m : Master) (v : BitVec 36) (s : State) : Host.Outcome State Fault Refusal :=
  regWrite true m P.TRS_CMDATA v s

/-- DUMPBASE_WRITE. R440: DUMPBASE, or DUMPLEN. -/
def execDumpbaseWrite (m : Master) (len : Bool) (v : BitVec 36) (s : State) : Host.Outcome State Fault Refusal :=
  regWrite true m (if len then P.TRS_DUMPLEN else P.TRS_DUMPBASE) v s

/-- SEARCH_CAPTURE. R448: SCMD 1. -/
def execSearchCapture (m : Master) (v : BitVec 36) (s : State) : Host.Outcome State Fault Refusal :=
  regWrite (spScmd 1 v) m P.TRS_SCMD v s

/-- SEARCH_PASS. R448: SCMD 2. -/
def execSearchPass (m : Master) (v : BitVec 36) (s : State) : Host.Outcome State Fault Refusal :=
  regWrite (spScmd 2 v) m P.TRS_SCMD v s

/-- SEARCH_ABORT. R448: SCMD 3. -/
def execSearchAbort (m : Master) (v : BitVec 36) (s : State) : Host.Outcome State Fault Refusal :=
  regWrite (spScmd 3 v) m P.TRS_SCMD v s

/-- SEARCH_CAPTURE_DONE. R448: the samples up to the one that fills the capture buffer. -/
def execSearchCaptureDone (xs : List Smp) (s : State) : Host.Outcome State Fault Refusal :=
  .next (atSample xs (fun a b => a.searchState == 1 && b.searchState != 1) s)

/-- SEARCH_RESULT_WRITE. R450: a result is formed, and the oldest one is written or added. -/
def execSearchResultWrite (s : State) : Host.Outcome State Fault Refusal :=
  .next (if s.awake then writeResult (if s.trsRuns then pushResult s else s) else s)

/-- SEARCH_PASS_DONE. R451. -/
def execSearchPassDone (s : State) : Host.Outcome State Fault Refusal :=
  .next (if s.awake then passDone s else s)

/-- CODENOW_READ. R452: the samples since the last command that carried some, and the read. -/
def execCodenowRead (m : Master) (c : ChanAt) (s : State) : Host.Outcome State Fault Refusal :=
  .next (readEffect m (chIdx P.CH_CODENOW c.ch) (samplesUpTo c.xs s))

end Sys2Proof.Machine
end

