-- ==== Sys2Proof/Machine/UmberAcc.lean ====
section
/-!
DEFINITION. Sys2Proof/Machine/UmberAcc.lean: the register MAC and accumulator instructions (07 R217, R226, R227; Tables UMD-1, UMD-5).
-/

namespace Sys2Proof.Machine

/-- MAC: ACd = ACd + Da × Db (R217, Table UMD-1). -/
def execMac (c : Cond) (sat : Bool) (acd : Fin 4) (ra rb : Fin 16) (s : State) : Host.Outcome State Fault Refusal :=
  umberStep c kRep (accBody acd (fun s => satAcc sat ((s.rdAc acd .mac).toInt + (s.rdD ra).toInt * (s.rdD rb).toInt))) s

/-- MSU: ACd = ACd − Da × Db (R217, Table UMD-1). -/
def execMsu (c : Cond) (sat : Bool) (acd : Fin 4) (ra rb : Fin 16) (s : State) : Host.Outcome State Fault Refusal :=
  umberStep c kRep (accBody acd (fun s => satAcc sat ((s.rdAc acd .mac).toInt - (s.rdD ra).toInt * (s.rdD rb).toInt))) s

/-- MPY: ACd = Da × Db (R217, Table UMD-1). -/
def execMpy (c : Cond) (acd : Fin 4) (ra rb : Fin 16) (s : State) : Host.Outcome State Fault Refusal :=
  umberStep c kRep (accBody acd (fun s => satAcc false ((s.rdD ra).toInt * (s.rdD rb).toInt))) s

/-- MPYN: ACd = −(Da × Db) (R217, Table UMD-1). -/
def execMpyn (c : Cond) (acd : Fin 4) (ra rb : Fin 16) (s : State) : Host.Outcome State Fault Refusal :=
  umberStep c kRep (accBody acd (fun s => satAcc false (-((s.rdD ra).toInt * (s.rdD rb).toInt)))) s

/-- CMAC: ACd, AC(d+1) accumulate the complex product; an odd d is reserved (R217, Table UMD-1). -/
def execCmac (c : Cond) (sat : Bool) (acd : Fin 4) (ra rb : Fin 16) (s : State) : Host.Outcome State Fault Refusal :=
  umberStep c (kRsv (acd.val % 2 == 1)) (fun s => .ok s (cmacWrites sat false acd (s.rdD ra) (s.rdD rb) s)) s

/-- CMACJ: ACd, AC(d+1) accumulate the complex product with the conjugate; an odd d is reserved (R217, Table UMD-1). -/
def execCmacj (c : Cond) (sat : Bool) (acd : Fin 4) (ra rb : Fin 16) (s : State) : Host.Outcome State Fault Refusal :=
  umberStep c (kRsv (acd.val % 2 == 1)) (fun s => .ok s (cmacWrites sat true acd (s.rdD ra) (s.rdD rb) s)) s

/-- ACADD (R226, Table UMD-5). -/
def execAcadd (c : Cond) (sat : Bool) (acd aca acb : Fin 4) (s : State) : Host.Outcome State Fault Refusal :=
  umberStep c kRep (accBody acd (fun s => satAcc sat ((s.rdAc aca .data).toInt + (s.rdAc acb .data).toInt))) s

/-- ACSUB (R226, Table UMD-5). -/
def execAcsub (c : Cond) (sat : Bool) (acd aca acb : Fin 4) (s : State) : Host.Outcome State Fault Refusal :=
  umberStep c kRep (accBody acd (fun s => satAcc sat ((s.rdAc aca .data).toInt - (s.rdAc acb .data).toInt))) s

/-- ACMOV (R226, Table UMD-5). -/
def execAcmov (c : Cond) (acd aca : Fin 4) (s : State) : Host.Outcome State Fault Refusal :=
  umberStep c kRep (accBody acd (fun s => { val := s.rdAc aca .data, flags := [] })) s

/-- ACNEG (R226, Table UMD-5). -/
def execAcneg (c : Cond) (sat : Bool) (acd aca : Fin 4) (s : State) : Host.Outcome State Fault Refusal :=
  umberStep c kRep (accBody acd (fun s => satAcc sat (-(s.rdAc aca .data).toInt))) s

/-- ACCLR (R226, Table UMD-5). -/
def execAcclr (c : Cond) (acd : Fin 4) (s : State) : Host.Outcome State Fault Refusal :=
  umberStep c kRep (accBody acd (fun _ => { val := 0, flags := [] })) s

/-- ACASR by k; k ≥ 80 gives 80 copies of bit 79 (R226, Table UMD-5). -/
def execAcasr (c : Cond) (acd aca : Fin 4) (k : BitVec 7) (s : State) : Host.Outcome State Fault Refusal :=
  umberStep c kRep (accBody acd (fun s => { val := (s.rdAc aca .data).sshiftRight k.toNat, flags := [] })) s

/-- ACLSL by k; k ≥ 80 gives 0 (R226, Table UMD-5, R218). -/
def execAclsl (c : Cond) (sat : Bool) (acd aca : Fin 4) (k : BitVec 7) (s : State) : Host.Outcome State Fault Refusal :=
  umberStep c kRep (accBody acd (fun s => satAcc sat ((s.rdAc aca .data).toInt * 2 ^ k.toNat))) s

/-- ACSET: Da × 2^35 (R226, Table UMD-5). -/
def execAcset (c : Cond) (acd : Fin 4) (ra : Fin 16) (s : State) : Host.Outcome State Fault Refusal :=
  umberStep c kRep (accBody acd (fun s => { val := BitVec.ofInt 80 ((s.rdD ra).toInt * 2 ^ 35), flags := [] })) s

/-- EXTA: ACa ÷ 2^k truncated toward zero; k of 45-63 is reserved (R226, Table UMD-5). -/
def execExta (c : Cond) (sat : Bool) (rd : Fin 16) (aca : Fin 4) (k : BitVec 6) (s : State) : Host.Outcome State Fault Refusal :=
  umberStep c (kRsv (decide (45 ≤ k.toNat))) (aluBody rd (fun s => aluExta sat (s.rdAc aca .data) k.toNat)) s

/-- NORM: ACa normalised in place, Dd = the shift count (R227). -/
def execNorm (c : Cond) (rd : Fin 16) (aca : Fin 4) (s : State) : Host.Outcome State Fault Refusal :=
  umberStep c kRep (fun s =>
    let a := s.rdAc aca .data
    let n := normAcc a
    .ok s ([wAc aca n, wD rd .alu (BitVec.ofInt 36 (normCount a))] ++ wFlags .flag [(fZ, n == 0), (fN, n.msb)])) s

/-- EXP: Dd = redundant sign bits − 8 (R227). -/
def execExp (c : Cond) (rd : Fin 16) (aca : Fin 4) (s : State) : Host.Outcome State Fault Refusal :=
  umberStep c kRep (dBody rd (fun s => BitVec.ofInt 36 (normCount (s.rdAc aca .data)))) s

end Sys2Proof.Machine
end

