-- ==== Sys2Proof/Machine/UmberAlu.lean ====
section
/-!
DEFINITION. Sys2Proof/Machine/UmberAlu.lean: the ALU, shift, multiply and immediate instructions (06 R199, Tables UMI-4 to UMI-6).
-/

namespace Sys2Proof.Machine

/-- ADD: Dd = Da + Db (R199, Table UMI-4). -/
def execAdd (c : Cond) (sat : Bool) (rd ra rb : Fin 16) (s : State) : Host.Outcome State Fault Refusal :=
  umberStep c kRep (aluBody rd (fun s => aluAdd sat (s.rdD ra) (s.rdD rb) false)) s

/-- ADC: Dd = Da + Db + C (R199, Table UMI-4). -/
def execAdc (c : Cond) (sat : Bool) (rd ra rb : Fin 16) (s : State) : Host.Outcome State Fault Refusal :=
  umberStep c kRep (aluBody rd (fun s => aluAdd sat (s.rdD ra) (s.rdD rb) (s.rdFlag 4))) s

/-- SUB: Dd = Da − Db, C = not borrow (R199, Table UMI-4). -/
def execSub (c : Cond) (sat : Bool) (rd ra rb : Fin 16) (s : State) : Host.Outcome State Fault Refusal :=
  umberStep c kRep (aluBody rd (fun s => aluSub sat (s.rdD ra) (s.rdD rb) false)) s

/-- SBC: Dd = Da − Db − (1 − C) (R199, Table UMI-4). -/
def execSbc (c : Cond) (sat : Bool) (rd ra rb : Fin 16) (s : State) : Host.Outcome State Fault Refusal :=
  umberStep c kRep (aluBody rd (fun s => aluSub sat (s.rdD ra) (s.rdD rb) (!(s.rdFlag 4)))) s

/-- AND: ZN (R199, Table UMI-4). -/
def execAnd (c : Cond) (rd ra rb : Fin 16) (s : State) : Host.Outcome State Fault Refusal :=
  umberStep c kRep (aluBody rd (fun s => aluZN ((s.rdD ra) &&& (s.rdD rb)))) s

/-- OR: ZN (R199, Table UMI-4). -/
def execOr (c : Cond) (rd ra rb : Fin 16) (s : State) : Host.Outcome State Fault Refusal :=
  umberStep c kRep (aluBody rd (fun s => aluZN ((s.rdD ra) ||| (s.rdD rb)))) s

/-- XOR: ZN (R199, Table UMI-4). -/
def execXor (c : Cond) (rd ra rb : Fin 16) (s : State) : Host.Outcome State Fault Refusal :=
  umberStep c kRep (aluBody rd (fun s => aluZN ((s.rdD ra) ^^^ (s.rdD rb)))) s

/-- ANDN: Da and not Db, ZN (R199, Table UMI-4). -/
def execAndn (c : Cond) (rd ra rb : Fin 16) (s : State) : Host.Outcome State Fault Refusal :=
  umberStep c kRep (aluBody rd (fun s => aluZN ((s.rdD ra) &&& ~~~(s.rdD rb)))) s

/-- MIN: signed minimum, ZN (R199, Table UMI-4). -/
def execMin (c : Cond) (rd ra rb : Fin 16) (s : State) : Host.Outcome State Fault Refusal :=
  umberStep c kRep (aluBody rd (fun s => aluZN (if (s.rdD ra).slt (s.rdD rb) then (s.rdD ra) else (s.rdD rb)))) s

/-- MAX: signed maximum, ZN (R199, Table UMI-4). -/
def execMax (c : Cond) (rd ra rb : Fin 16) (s : State) : Host.Outcome State Fault Refusal :=
  umberStep c kRep (aluBody rd (fun s => aluZN (if (s.rdD ra).slt (s.rdD rb) then (s.rdD rb) else (s.rdD ra)))) s

/-- MINU: unsigned minimum, ZN (R199, Table UMI-4). -/
def execMinu (c : Cond) (rd ra rb : Fin 16) (s : State) : Host.Outcome State Fault Refusal :=
  umberStep c kRep (aluBody rd (fun s => aluZN (if (s.rdD ra).ult (s.rdD rb) then (s.rdD ra) else (s.rdD rb)))) s

/-- MAXU: unsigned maximum, ZN (R199, Table UMI-4). -/
def execMaxu (c : Cond) (rd ra rb : Fin 16) (s : State) : Host.Outcome State Fault Refusal :=
  umberStep c kRep (aluBody rd (fun s => aluZN (if (s.rdD ra).ult (s.rdD rb) then (s.rdD rb) else (s.rdD ra)))) s

/-- CMP: the flags of Da − Db (R199, Table UMI-4). -/
def execCmp (c : Cond) (ra rb : Fin 16) (s : State) : Host.Outcome State Fault Refusal :=
  umberStep c kRep (flagBody (fun s => (aluSub false (s.rdD ra) (s.rdD rb) false).flags)) s

/-- TST: the ZN flags of Da and Db (R199, Table UMI-4). -/
def execTst (c : Cond) (ra rb : Fin 16) (s : State) : Host.Outcome State Fault Refusal :=
  umberStep c kRep (flagBody (fun s => znFlags ((s.rdD ra) &&& (s.rdD rb)))) s

/-- ABS: Dd = |Da|, C = 0 (R199, Table UMI-4). -/
def execAbs (c : Cond) (sat : Bool) (rd ra : Fin 16) (s : State) : Host.Outcome State Fault Refusal :=
  umberStep c kRep (aluBody rd (fun s => aluAbs sat (s.rdD ra))) s

/-- NEG: Dd = 0 − Da (R199, Table UMI-4). -/
def execNeg (c : Cond) (sat : Bool) (rd ra : Fin 16) (s : State) : Host.Outcome State Fault Refusal :=
  umberStep c kRep (aluBody rd (fun s => aluSub sat 0 (s.rdD ra) false)) s

/-- LSL by Db bits 5:0 (R199, Table UMI-5). -/
def execLsl (c : Cond) (sat : Bool) (rd ra rb : Fin 16) (s : State) : Host.Outcome State Fault Refusal :=
  umberStep c kRep (aluBody rd (fun s => aluLsl sat (s.rdD ra) (fld (s.rdD rb) 0 6 : BitVec 6).toNat)) s

/-- LSR by Db bits 5:0 (R199, Table UMI-5). -/
def execLsr (c : Cond) (rd ra rb : Fin 16) (s : State) : Host.Outcome State Fault Refusal :=
  umberStep c kRep (aluBody rd (fun s => aluLsr (s.rdD ra) (fld (s.rdD rb) 0 6 : BitVec 6).toNat)) s

/-- ASR by Db bits 5:0 (R199, Table UMI-5). -/
def execAsr (c : Cond) (rd ra rb : Fin 16) (s : State) : Host.Outcome State Fault Refusal :=
  umberStep c kRep (aluBody rd (fun s => aluAsr (s.rdD ra) (fld (s.rdD rb) 0 6 : BitVec 6).toNat)) s

/-- ROL by Db bits 5:0 (R199, Table UMI-5). -/
def execRol (c : Cond) (rd ra rb : Fin 16) (s : State) : Host.Outcome State Fault Refusal :=
  umberStep c kRep (aluBody rd (fun s => aluRol (s.rdD ra) (fld (s.rdD rb) 0 6 : BitVec 6).toNat)) s

/-- LSLI by k (R199, Table UMI-5). -/
def execLsli (c : Cond) (sat : Bool) (rd ra : Fin 16) (k : BitVec 6) (s : State) : Host.Outcome State Fault Refusal :=
  umberStep c kRep (aluBody rd (fun s => aluLsl sat (s.rdD ra) k.toNat)) s

/-- LSRI by k (R199, Table UMI-5). -/
def execLsri (c : Cond) (rd ra : Fin 16) (k : BitVec 6) (s : State) : Host.Outcome State Fault Refusal :=
  umberStep c kRep (aluBody rd (fun s => aluLsr (s.rdD ra) k.toNat)) s

/-- ASRI by k (R199, Table UMI-5). -/
def execAsri (c : Cond) (rd ra : Fin 16) (k : BitVec 6) (s : State) : Host.Outcome State Fault Refusal :=
  umberStep c kRep (aluBody rd (fun s => aluAsr (s.rdD ra) k.toNat)) s

/-- ROLI by k (R199, Table UMI-5). -/
def execRoli (c : Cond) (rd ra : Fin 16) (k : BitVec 6) (s : State) : Host.Outcome State Fault Refusal :=
  umberStep c kRep (aluBody rd (fun s => aluRol (s.rdD ra) k.toNat)) s

/-- CLZ: leading 0 bits, no flag (R199, Table UMI-5). -/
def execClz (c : Cond) (rd ra : Fin 16) (s : State) : Host.Outcome State Fault Refusal :=
  umberStep c kRep (dBody rd (fun s => wClz (s.rdD ra))) s

/-- CLS: leading bits equal to bit 35, excluding it (R199, Table UMI-5). -/
def execCls (c : Cond) (rd ra : Fin 16) (s : State) : Host.Outcome State Fault Refusal :=
  umberStep c kRep (dBody rd (fun s => wCls (s.rdD ra))) s

/-- EXTS: sign-extend from bit b; b ≥ 36 is reserved (R199, Table UMI-5). -/
def execExts (c : Cond) (rd ra : Fin 16) (b : BitVec 6) (s : State) : Host.Outcome State Fault Refusal :=
  umberStep c (kRsv (decide (36 ≤ b.toNat))) (dBody rd (fun s => wExts (s.rdD ra) b.toNat)) s

/-- EXTZ: clear the bits above bit b; b ≥ 36 is reserved (R199, Table UMI-5). -/
def execExtz (c : Cond) (rd ra : Fin 16) (b : BitVec 6) (s : State) : Host.Outcome State Fault Refusal :=
  umberStep c (kRsv (decide (36 ≤ b.toNat))) (dBody rd (fun s => wExtz (s.rdD ra) b.toNat)) s

/-- SWAPH: exchange the halfword lanes (R199, Table UMI-5). -/
def execSwaph (c : Cond) (rd ra : Fin 16) (s : State) : Host.Outcome State Fault Refusal :=
  umberStep c kRep (dBody rd (fun s => wSwaph (s.rdD ra))) s

/-- MUL: bits 35:0 of the product, ZN (R199, Table UMI-5). -/
def execMul (c : Cond) (rd ra rb : Fin 16) (s : State) : Host.Outcome State Fault Refusal :=
  umberStep c kRep (aluBody rd (fun s => aluZN (wMul (s.rdD ra) (s.rdD rb)))) s

/-- MULH: bits 71:36 of the signed product, ZN (R199, Table UMI-5). -/
def execMulh (c : Cond) (rd ra rb : Fin 16) (s : State) : Host.Outcome State Fault Refusal :=
  umberStep c kRep (aluBody rd (fun s => aluZN (wMulh (s.rdD ra) (s.rdD rb)))) s

/-- MULHU: bits 71:36 of the unsigned product, ZN (R199, Table UMI-5). -/
def execMulhu (c : Cond) (rd ra rb : Fin 16) (s : State) : Host.Outcome State Fault Refusal :=
  umberStep c kRep (aluBody rd (fun s => aluZN (wMulhu (s.rdD ra) (s.rdD rb)))) s

/-- MULQ: the Q1.35 product truncated, C = 0 (R199, Table UMI-5, R233). -/
def execMulq (c : Cond) (sat : Bool) (rd ra rb : Fin 16) (s : State) : Host.Outcome State Fault Refusal :=
  umberStep c kRep (aluBody rd (fun s => aluMulq sat (s.rdD ra) (s.rdD rb))) s

/-- ADDI: Dd = Dd + v (R199, Table UMI-6). -/
def execAddi (c : Cond) (sat : Bool) (rd : Fin 16) (v : BitVec 18) (s : State) : Host.Outcome State Fault Refusal :=
  umberStep c kRep (aluBody rd (fun s => aluAdd sat (s.rdD rd) (imm18 v) false)) s

/-- ANDI: ZN (R199, Table UMI-6). -/
def execAndi (c : Cond) (rd : Fin 16) (v : BitVec 18) (s : State) : Host.Outcome State Fault Refusal :=
  umberStep c kRep (aluBody rd (fun s => aluZN ((s.rdD rd) &&& (imm18 v)))) s

/-- ORI: ZN (R199, Table UMI-6). -/
def execOri (c : Cond) (rd : Fin 16) (v : BitVec 18) (s : State) : Host.Outcome State Fault Refusal :=
  umberStep c kRep (aluBody rd (fun s => aluZN ((s.rdD rd) ||| (imm18 v)))) s

/-- XORI: ZN (R199, Table UMI-6). -/
def execXori (c : Cond) (rd : Fin 16) (v : BitVec 18) (s : State) : Host.Outcome State Fault Refusal :=
  umberStep c kRep (aluBody rd (fun s => aluZN ((s.rdD rd) ^^^ (imm18 v)))) s

/-- CMPI: the flags of Dd − v (R199, Table UMI-6). -/
def execCmpi (c : Cond) (rd : Fin 16) (v : BitVec 18) (s : State) : Host.Outcome State Fault Refusal :=
  umberStep c kRep (flagBody (fun s => (aluSub false (s.rdD rd) (imm18 v) false).flags)) s

/-- LDI: Dd = v (R199, Table UMI-6). -/
def execLdi (c : Cond) (rd : Fin 16) (v : BitVec 18) (s : State) : Host.Outcome State Fault Refusal :=
  umberStep c kRep (dBody rd (fun _ => (imm18 v))) s

/-- LDIH: bits 35:18 = u, bits 17:0 unchanged (R199, Table UMI-6). -/
def execLdih (c : Cond) (rd : Fin 16) (u : BitVec 18) (s : State) : Host.Outcome State Fault Refusal :=
  umberStep c kRep (dBody rd (fun s => putFld (s.rdD rd) 18 u)) s

/-- TSTI: the ZN flags of Dd and v (R199, Table UMI-6). -/
def execTsti (c : Cond) (rd : Fin 16) (v : BitVec 18) (s : State) : Host.Outcome State Fault Refusal :=
  umberStep c kRep (flagBody (fun s => znFlags ((s.rdD rd) &&& (imm18 v)))) s

/-- ADDPI: Pd = Pd + v modulo 2^24, linear whatever PMODE says (R199, Table UMI-6). -/
def execAddpi (c : Cond) (pd : Fin 16) (v : BitVec 18) (s : State) : Host.Outcome State Fault Refusal :=
  umberStep c kRep (pBody pd (fun s => s.rdP pd .data + v.signExtend 24)) s

/-- LDPI: Pd = v modulo 2^24 (R199, Table UMI-6). -/
def execLdpi (c : Cond) (pd : Fin 16) (v : BitVec 18) (s : State) : Host.Outcome State Fault Refusal :=
  umberStep c kRep (pBody pd (fun _ => v.signExtend 24)) s

/-- LDPIH: Pd bits 23:18 = u (R199, Table UMI-6). -/
def execLdpih (c : Cond) (pd : Fin 16) (u : BitVec 6) (s : State) : Host.Outcome State Fault Refusal :=
  umberStep c kRep (pBody pd (fun s => putFld (s.rdP pd .data) 18 u)) s

/-- LDNI: Nd or Ld = v modulo 2^24 (R199, Table UMI-6). -/
def execLdni (c : Cond) (nl : Fin 16) (v : BitVec 18) (s : State) : Host.Outcome State Fault Refusal :=
  umberStep c kRep (nlBody nl (fun _ => v.signExtend 24)) s

end Sys2Proof.Machine
end

