-- ==== Sys2Proof/Machine/UmberBit.lean ====
section
/-!
DEFINITION. Sys2Proof/Machine/UmberBit.lean: the bit operations (05 R167-R169, R173, R185; 06 R207; 07 R245).
-/

namespace Sys2Proof.Machine

/-- Where a bit address lies (Table UMM-5). -/
inductive BitPlace where
  | flag (i : Fin 12)
  | reserved
  | lock (k : BitVec 8)
  | ram (k : Nat)
  | peri
  deriving DecidableEq, Repr

def bitPlace (b : BitVec 12) : BitPlace :=
  let n := b.toNat
  if n < 0x00C then .flag (Fin.ofNat 12 n)
  else if n < 0x100 then .reserved
  else if n < 0x200 then .lock (fld b 0 8)
  else if n < 0x800 then .ram (n - 0x200)
  else .peri

/-- The region check of a bit access: 0x100-0xFFF only (R173, R322). -/
def checkBit {α : Type} (b : BitVec 12) (need : Need) (s : State) (k : MemR α) : MemR α :=
  if b.toNat < 0x100 || s.passed (.bit b) then k
  else
    match s.regionFail s.umberAcc spBit (b.setWidth 24) need with
    | some sub => .trap (trapProt sub (b.setWidth 24)) s
    | none => k

/-- A read of a bit variable; one of a peripheral bit waits for the queued writes to its island (R264). -/
def readBit (b : BitVec 12) (s : State) : MemR Bool :=
  match bitPlace b with
  | .flag i => .ok (s.rdFlag i) s
  | .reserved => .ok false s
  | .lock k => .ok (s.lockOwner k).isSome s
  | .ram k => .ok (s.umber.bitRam.getLsbD k) s
  | .peri =>
    match bitHome b with
    | none => .ok false s
    | some i => if s.queuedFor (shellOf i) then .wait s (.bit b) else .ok (s.periBit b) s

/-- A set of a lock bit (R169), unless a revocation of its domain has come first (R185): then SUB 1. -/
def setLock {α : Type} (b : BitVec 12) (k : BitVec 8) (s : State) (f : State → MemR α) : MemR α :=
  if s.umber.inFlight = 0 then f (takeLock k s.umberAcc.dom s) else .trap (trapProt 1 (b.setWidth 24)) s

/-- A lock bit written (R169): 1 takes it as TAS does; 0 frees it for its owner or at PRV = 1, else SUB 5. -/
def writeLock (b : BitVec 12) (k : BitVec 8) (v : Bool) (s : State) : MemR (List Wr) :=
  let acc := s.umberAcc
  if v then setLock b k s (fun s => .ok [] s)
  else
    match s.lockOwner k with
    | none => .ok [] s
    | some d => if d = acc.dom ∨ acc.prv then .ok [] (freeLock k s) else .trap (trapProt 5 (b.setWidth 24)) s

/-- A write of a bit variable, with the SR bit write it may be (R168, R169, R188, R207). -/
def writeBit (b : BitVec 12) (v : Bool) (s : State) : MemR (List Wr) :=
  match bitPlace b with
  | .flag i => .ok (wFlags .flag [(i.val, v)]) s
  | .reserved => .ok [] s
  | .lock k => writeLock b k v s
  | .ram k => .ok [] (s.setUmber { s.umber with bitRam := putBit s.umber.bitRam k v })
  | .peri =>
    match bitHome b with
    | none => .ok [] s
    | some _ => (enqueue (.bit b) (.bit b) (boolWord v) s).bind (fun _ s => .ok [] s)

/-- Finish a bit write. -/
def bitWritten (r : MemR (List Wr)) : Body := r.body (fun ws s => .ok s ws)

/-- A bit set to a value (R207). -/
def setBitBody (b : BitVec 12) (v : State → Bool) : State → Body := fun s => bitWritten (checkBit b .w s (writeBit b (v s) s))

/-- BSET: b = 1 (R207, Table UMI-10). -/
def execBset (c : Cond) (b : BitVec 12) (s : State) : Host.Outcome State Fault Refusal :=
  umberStep c kRep (setBitBody b (fun _ => true)) s

/-- BCLR: b = 0 (R169, R207, Table UMI-10). -/
def execBclr (c : Cond) (b : BitVec 12) (s : State) : Host.Outcome State Fault Refusal :=
  umberStep c kRep (setBitBody b (fun _ => false)) s

/-- The bit that BTGL inverts: read once, before its write waits (R168). -/
def toggled (b : BitVec 12) (s : State) : MemR Bool :=
  match s.umber.frame with
  | [] => (readBit b s).bind (fun v s => .ok v (s.setUmber { s.umber with frame := [boolWord v] }))
  | w :: _ => .ok (w.getLsbD 0) s

/-- BTGL: b = not b; on a lock bit the reserved-opcode trap (R168, R169, R197, R207). -/
def execBtgl (c : Cond) (b : BitVec 12) (s : State) : Host.Outcome State Fault Refusal :=
  umberStep c kRep (fun s =>
    match bitPlace b with
    | .lock _ => .trap trapRsv s
    | _ => bitWritten (checkBit b .w s ((toggled b s).bind (fun v s => writeBit b (!v) s)))) s

/-- The predicate PBd. -/
def predReg (pb : Fin 2) : Fin 12 := Fin.ofNat 12 pb.val

/-- A predicate formed from itself and the bit variable or its complement (R207). -/
def predBody (pb : Fin 2) (compl : Bool) (b : BitVec 12) (f : Bool → Bool → Bool) : State → Body := fun s =>
  let old := s.rdFlag (predReg pb)
  (checkBit b .r s (readBit b s)).body (fun v s => .ok s (wFlags .flag [(pb.val, f old (xor v compl))]))

/-- BTST: PBd = b or not b (R207, Table UMI-10). -/
def execBtst (c : Cond) (pb : Fin 2) (compl : Bool) (b : BitVec 12) (s : State) : Host.Outcome State Fault Refusal :=
  umberStep c kRep (predBody pb compl b (fun _ v => v)) s

/-- BAND: PBd = PBd and b or not b (R207, Table UMI-10). -/
def execBand (c : Cond) (pb : Fin 2) (compl : Bool) (b : BitVec 12) (s : State) : Host.Outcome State Fault Refusal :=
  umberStep c kRep (predBody pb compl b (fun p v => p && v)) s

/-- BOR: PBd = PBd or b or not b (R207, Table UMI-10). -/
def execBor (c : Cond) (pb : Fin 2) (compl : Bool) (b : BitVec 12) (s : State) : Host.Outcome State Fault Refusal :=
  umberStep c kRep (predBody pb compl b (fun p v => p || v)) s

/-- BMOV b, Dd.k: b = Dd bit k; k ≥ 36 is reserved (R207, Table UMI-10). -/
def execBmovToBit (c : Cond) (b : BitVec 12) (rd : Fin 16) (k : BitVec 6) (s : State) : Host.Outcome State Fault Refusal :=
  umberStep c (kRsv (decide (36 ≤ k.toNat))) (setBitBody b (fun s => (s.rdD rd).getLsbD k.toNat)) s

/-- BMOV Dd.k, b: Dd bit k = b, the other bits unchanged; k ≥ 36 is reserved (R207, Table UMI-10). -/
def execBmovFromBit (c : Cond) (rd : Fin 16) (k : BitVec 6) (b : BitVec 12) (s : State) : Host.Outcome State Fault Refusal :=
  umberStep c (kRsv (decide (36 ≤ k.toNat))) (fun s =>
    let w := s.rdD rd
    (checkBit b .r s (readBit b s)).body (fun v s => .ok s [wD rd .alu (putBit w k.toNat v)])) s

/-- TAS: PBd = old b or not old b, and b is set: a lock bit for SR.DOM, a bit of the RAM; any other address is reserved (R169, R245). -/
def execTas (c : Cond) (pb : Fin 2) (compl : Bool) (b : BitVec 12) (s : State) : Host.Outcome State Fault Refusal :=
  umberStep c kNoRep (fun s =>
    match bitPlace b with
    | .lock k =>
      (checkBit b .rw s (setLock b k s (fun t => .ok (s.lockOwner k).isSome t))).body (fun old s =>
        .ok s (wFlags .flag [(pb.val, xor old compl)]))
    | .ram k =>
      (checkBit b .rw s (.ok (s.umber.bitRam.getLsbD k) s)).body (fun old s =>
        .ok (s.setUmber { s.umber with bitRam := putBit s.umber.bitRam k true }) (wFlags .flag [(pb.val, xor old compl)]))
    | _ => .trap trapRsv s) s

end Sys2Proof.Machine
end

