-- ==== Sys2Proof/Machine/UmberEvents.lean ====
section
/-!
DEFINITION. Sys2Proof/Machine/UmberEvents.lean: SYNC and STOP (01 R51; 02 R62), the extension space (06 R198), interrupt and NMI entry (05 R180, R182, R183) and
the drain of the store buffer (08 R267).
-/

namespace Sys2Proof.Machine

/-- SYNC: the store buffer drains, and it completes when every queued parameter write is acknowledged (R51, R269, Table UMI-12). -/
def execSync (c : Cond) (s : State) : Host.Outcome State Fault Refusal :=
  umberStep c kNoRep (fun s =>
    let s := drainSettled s
    if s.umber.pwq.isEmpty then .ok s [] else .wait s .sync) s

/-- STOP, permitted: the store buffer drains, a write by Sepia's NVM controller is waited for, the reservation clears, and the entry is made or abandoned
while the program counter stands after it (R62, R242, R269). -/
def stopBody (s : State) : Body :=
  let s := drainSettled s
  if s.stopWaits (fld (s.par P.PWR_MODE) 0 2 : BitVec 2).toNat then .wait s .stop
  else .jump (tryStop (advancePc (commit [] (setResv none s))))

/-- STOP: privileged (R62, R174, Table UMI-12). -/
def execStop (c : Cond) (s : State) : Host.Outcome State Fault Refusal :=
  umberStep c { cf := true, rep := false } (fun s => if srPrv s.umber.sr then stopBody s else .trap trapPriv s) s

/-- Queued writes beyond the first `n` leave BSTAT as it is if they are refused (R198). -/
def quietFrom (n : Nat) (s : State) : State :=
  s.setUmber { s.umber with pwq := s.umber.pwq.mapIdx (fun k w => if k < n then w else { w with quiet := true }) }

/-- The store an encoding of the extension space may make (R198): none that faults, none to the protection unit, and no control register changes, also when a
shell refuses it. -/
def extensionStore (a : Addr) (w : Word) (s : State) : MemR Unit :=
  let store := match storeWord 0xF a w s with
    | .trap _ _ => .ok () s
    | .ok _ t => .ok () (quietFrom s.umber.pwq.length t)
    | r => r
  match place a with
  | .par i => if !populated i.toNat || (decide (0x600 ≤ i.toNat) && decide (i.toNat < 0xA00)) then .ok () s else store
  | _ => store

/-- The results of the extension space, undefined within the bounds of R198: free values in every register but the control registers, SR with its flags among them, and
one store of a free word at a free address where SR.DOM may store one. -/
def extensionBody (s : State) : Body :=
  let w := fun (k : Nat) => Config.freeWord (s.freeCtr * 128 + k)
  let d := (List.finRange 16).map (fun r => wD r .load (w r.val))
  let p := (List.finRange 16).map (fun r => wP r .load (fld (w (16 + r.val)) 0 24))
  let n := (List.finRange 8).map (fun r => wN r .load (fld (w (32 + r.val)) 0 24))
  let l := (List.finRange 8).map (fun r => wL r .load (fld (w (40 + r.val)) 0 24))
  let ac := (List.finRange 4).map (fun r => wAc r (Config.freeAcc (s.freeCtr * 128 + r.val)))
  (extensionStore (fld (w 53) 0 24) (w 54) s).body (fun _ s => .ok s (d ++ p ++ n ++ l ++ ac))

/-- Major 0x3F: undefined results whatever its condition (R198). RPT does not accept it (R228). -/
def execExtensionSpace (_c : Cond) (s : State) : Host.Outcome State Fault Refusal :=
  umberStep 0 kNoRep extensionBody s

/-! ### Interrupt and NMI entry -/

/-- Interrupt entry at an instruction boundary (R178, R179, R182, R183). -/
def interruptNow (s : State) : State :=
  match s.irqNext with
  | none => s
  | some n =>
    if s.irqTakes then
      let lvl := BitVec.ofNat 3 (s.irqLevel n)
      let s := s.setUmber { s.umber with ipend := putBit s.umber.ipend n false }
      enterException (16 + n) s.umber.pc (causeWord (16 + n) false false none 0 0) none none (some lvl) s.umber.sr s
    else s

/-- Interrupt entry; a strike interrupt on its way to CORE may have arrived (R48). Where none is acceptable it does not come about (log 4). -/
def execInterruptEntry (s : State) : Host.Outcome State Fault Refusal :=
  .next (interruptNow (if s.irqNext.isNone then arriveIrqs s else s))

/-- NMI entry of a watchdog stage 2 at an instruction boundary, except while NMIL = 1 (R180, R183, R275). -/
def execNmiEntry (s : State) : Host.Outcome State Fault Refusal :=
  if s.nmiTakes then
    .next (enterNmi s.umber.pc (causeWord 2 false false none 0 0) s)
  else .next s

/-- The oldest store-buffer entry writes its bank (R267, R311); an arch that waits for it begins its step (R295). -/
def execStoreBufferDrain (s : State) : Host.Outcome State Fault Refusal :=
  if s.vddRuns then .next (archesSettle (drainOne s)) else .next s

end Sys2Proof.Machine
end

