-- ==== Sys2Proof/Machine/UmberF36.lean ====
section
/-!
DEFINITION. Sys2Proof/Machine/UmberF36.lean: the F36 instructions (07 R235-R239, Table UMD-8).
-/

namespace Sys2Proof.Machine

/-- FADD: Da + Db (R235-R238, Table UMD-8). -/
def execFadd (c : Cond) (rd ra rb : Fin 16) (s : State) : Host.Outcome State Fault Refusal :=
  umberStep c kRep (fBody rd (fun s => fAdd (s.rdD ra) (s.rdD rb))) s

/-- FSUB: Da − Db (R235-R238, Table UMD-8). -/
def execFsub (c : Cond) (rd ra rb : Fin 16) (s : State) : Host.Outcome State Fault Refusal :=
  umberStep c kRep (fBody rd (fun s => fSub (s.rdD ra) (s.rdD rb))) s

/-- FMUL: Da × Db (R235-R238, Table UMD-8). -/
def execFmul (c : Cond) (rd ra rb : Fin 16) (s : State) : Host.Outcome State Fault Refusal :=
  umberStep c kRep (fBody rd (fun s => fMul (s.rdD ra) (s.rdD rb))) s

/-- FMAC: Dd + Da × Db with one truncation (R235-R238, Table UMD-8). -/
def execFmac (c : Cond) (rd ra rb : Fin 16) (s : State) : Host.Outcome State Fault Refusal :=
  umberStep c kRep (fBody rd (fun s => fMac false (s.rdD rd) (s.rdD ra) (s.rdD rb))) s

/-- FMSU: Dd − Da × Db with one truncation (R235-R238, Table UMD-8). -/
def execFmsu (c : Cond) (rd ra rb : Fin 16) (s : State) : Host.Outcome State Fault Refusal :=
  umberStep c kRep (fBody rd (fun s => fMac true (s.rdD rd) (s.rdD ra) (s.rdD rb))) s

/-- FRCP: 1 ÷ Da (R235-R238, Table UMD-8). -/
def execFrcp (c : Cond) (rd ra : Fin 16) (s : State) : Host.Outcome State Fault Refusal :=
  umberStep c kRep (fBody rd (fun s => fRcp (s.rdD ra))) s

/-- FCMP: the flags of R239. -/
def execFcmp (c : Cond) (ra rb : Fin 16) (s : State) : Host.Outcome State Fault Refusal :=
  umberStep c kRep (flagBody (fun s => fCmp (s.rdD ra) (s.rdD rb))) s

/-- FABS: sign cleared (R235-R238, Table UMD-8). -/
def execFabs (c : Cond) (rd ra : Fin 16) (s : State) : Host.Outcome State Fault Refusal :=
  umberStep c kRep (fBody rd (fun s => fAbs (s.rdD ra))) s

/-- FNEG: sign inverted (R235-R238, Table UMD-8). -/
def execFneg (c : Cond) (rd ra : Fin 16) (s : State) : Host.Outcome State Fault Refusal :=
  umberStep c kRep (fBody rd (fun s => fNeg (s.rdD ra))) s

/-- NORM.F: significand scaled to 1 ≤ |v| < 2 (R235-R238, Table UMD-8). -/
def execNormF (c : Cond) (rd ra : Fin 16) (s : State) : Host.Outcome State Fault Refusal :=
  umberStep c kRep (fBody rd (fun s => fNorm (s.rdD ra))) s

/-- EXP.F: floor(log2 |Da|) (R235-R238, Table UMD-8). -/
def execExpF (c : Cond) (rd ra : Fin 16) (s : State) : Host.Outcome State Fault Refusal :=
  umberStep c kRep (fBody rd (fun s => fExp (s.rdD ra))) s

/-- FCVT.FI: signed integer Da × 2^k to F36 (R235-R238, Table UMD-8). -/
def execFcvtFi (c : Cond) (rd ra : Fin 16) (k : BitVec 9) (s : State) : Host.Outcome State Fault Refusal :=
  umberStep c kRep (fBody rd (fun s => fFromInt (s.rdD ra).toInt k.toInt)) s

/-- FCVT.IF: Da × 2^k to a signed word (R235-R238, Table UMD-8). -/
def execFcvtIf (c : Cond) (rd ra : Fin 16) (k : BitVec 9) (s : State) : Host.Outcome State Fault Refusal :=
  umberStep c kRep (fBody rd (fun s => fCvtIF (s.rdD ra) k.toInt)) s

/-- FCVT.FU: unsigned integer Da × 2^k to F36 (R235-R238, Table UMD-8). -/
def execFcvtFu (c : Cond) (rd ra : Fin 16) (k : BitVec 9) (s : State) : Host.Outcome State Fault Refusal :=
  umberStep c kRep (fBody rd (fun s => fFromInt ((s.rdD ra).toNat : Int) k.toInt)) s

/-- FCVT.UF: Da × 2^k to an unsigned word (R235-R238, Table UMD-8). -/
def execFcvtUf (c : Cond) (rd ra : Fin 16) (k : BitVec 9) (s : State) : Host.Outcome State Fault Refusal :=
  umberStep c kRep (fBody rd (fun s => fCvtUF (s.rdD ra) k.toInt)) s

end Sys2Proof.Machine
end

