-- ==== Sys2Proof/Machine/UmberFlow.lean ====
section
/-!
DEFINITION. Sys2Proof/Machine/UmberFlow.lean: branches, calls and RPT (06 R203-R206, R213; 07 R228).
-/

namespace Sys2Proof.Machine

/-- BR: PC = address + DISP24 after two delay slots (R203, R204, Table UMI-11). -/
def execBr (c : Cond) (disp : BitVec 24) (s : State) : Host.Outcome State Fault Refusal :=
  branchStep c kNoRep (fun s => s.umber.pc + disp) (fun s => .branch s [] true (s.umber.pc + disp)) s

/-- CALL: P14 = address + 3, PC = address + DISP24 (R203, R204, Table UMI-11). No row of Tables UMI-13 and UMT-1 names the P14 it writes: that it has the class of an ALU
write is the model's choice (R209; log 102). -/
def execCall (c : Cond) (disp : BitVec 24) (s : State) : Host.Outcome State Fault Refusal :=
  branchStep c kNoRep (fun s => s.umber.pc + disp) (fun s => .branch s [wP 14 .alu (s.umber.pc + 3)] true (s.umber.pc + disp)) s

/-- JMP: PC = Pa (R203, R204, Table UMI-11). -/
def execJmp (c : Cond) (pa : Fin 16) (s : State) : Host.Outcome State Fault Refusal :=
  branchStep c kNoRep (fun s => s.rdP pa .addr) (fun s => .branch s [] true (s.rdP pa .addr)) s

/-- JCALL: the target is read before P14 is written (R213, Table UMI-11), P14 with the class of CALL's (log 102). -/
def execJcall (c : Cond) (pa : Fin 16) (s : State) : Host.Outcome State Fault Refusal :=
  branchStep c kNoRep (fun s => s.rdP pa .addr) (fun s => .branch s [wP 14 .alu (s.umber.pc + 3)] true (s.rdP pa .addr)) s

/-- The count of an RPT: 1-4,096 (Table UMI-11); RPT Da reads Da when it issues (R228). -/
def rptCount (n : RptCount) (s : State) : BitVec 13 :=
  let k : BitVec 12 := match n with
    | .imm v => v
    | .reg ra => fld (s.rdD ra) 0 12
  if k = 0 then 4096 else k.setWidth 13

/-- RPT: the next instruction is repeated n times (R228). -/
def execRpt (c : Cond) (n : RptCount) (s : State) : Host.Outcome State Fault Refusal :=
  umberStep c { cf := true, rep := false } (fun s => .ok (s.setUmber { s.umber with rpt := some (rptCount n s) }) []) s

end Sys2Proof.Machine
end

