-- ==== Sys2Proof/Machine/UmberFrame.lean ====
section
/-!
DEFINITION. Sys2Proof/Machine/UmberFrame.lean: CALLM, CALLMR and RETM (05 R177; 06 R203-R206, R213).
-/

namespace Sys2Proof.Machine

/-- MASK12 selects: bit i names D(4 + i) for i = 0-7 and P(2 + i) for i = 8-11 (R205). -/
def frameRegs (mask : BitVec 12) : List Nat := bitsSet mask 12

/-- The value of the register that bit i names, as it is saved (R205). -/
def State.frameReg (s : State) (i : Nat) : Word :=
  if i < 8 then s.rdD (Fin.ofNat 16 (4 + i)) else (s.rdP (Fin.ofNat 16 (2 + i)) .data).setWidth 36

/-- The header of a frame (R205). -/
def frameHeader (mask : BitVec 12) : Word :=
  putFld (mask.setWidth 36 : Word) 12 (BitVec.ofNat 8 ((frameRegs mask).length + 3))

/-- The words of a frame, T - 1 first: return address, SR, the registers, the header (R205). Tables UMI-13 and UMT-1 do not name CALLM as a reader of flags: the model
gives the SR it saves the distance 1 of their other readers, so that a flag written just before shows its older value (log 102). -/
def State.frameWords (s : State) (mask : BitVec 12) (ret : Addr) : List Word :=
  [ret.setWidth 36, s.rdSr] ++ (frameRegs mask).map s.frameReg ++ [frameHeader mask]

/-- Words with the addresses that descend from T - 1. -/
def frameAt (t : Addr) (ws : List Word) : List (Addr × Word) := ws.mapIdx (fun j w => (t - BitVec.ofNat 24 (j + 1), w))

/-- One word of a frame is dealt with: the next one waits for nothing of it. -/
def frameStep (w : Word) (s : State) : State := s.setUmber { s.umber with frame := s.umber.frame ++ [w], hold := .none }

/-- Store the words of a frame in order, each checked as a data access (R205); a word that waits for the parameter write queue holds the rest (R263). Where words would
fault with different kinds the fault is that of the first in access order, here and where RETM loads them: R179 orders the kinds of one access, and this is the
model's choice (log 102). -/
def storeFrame : List (Addr × Word) → State → MemR Unit
  | [], s => .ok () s
  | e :: es, s => (storeWord 0xF e.1 e.2 s).bind (fun _ s => storeFrame es (frameStep e.2 s))

/-- How many words are written before one faults. -/
def frameDone : List (Addr × Word) → State → Nat
  | [], _ => 0
  | e :: es, s =>
    match storeWord 0xF e.1 e.2 s with
    | .ok _ s => frameDone es (frameStep e.2 s) + 1
    | _ => 0

/-- Words of memory become undefined. -/
def ruinWords (as : List Addr) (s : State) : State :=
  ((as.mapIdx (fun j a => (a, Config.freeWord (s.freeCtr * 128 + j)))).foldl (fun s e =>
    match storeWord 0xF e.1 e.2 s with
    | .ok _ s => s
    | _ => s) s).drawn

/-- The state a faulting frame leaves: the words already written are undefined (R177), and the refusal of the one that faulted is noted (R191). `done` words
had been written before the instruction had to wait. -/
def frameRuin (done : List (Addr × Word)) (ws : List (Addr × Word)) (s : State) : State :=
  let k := frameDone ws s
  let s := ruinWords ((done.filter (fun e => !wordOnly e.1) ++ ws.take k).map (fun e => e.1)) s
  match (ws.drop k).head? with
  | some e =>
    match storeWord 0xF e.1 e.2 s with
    | .trap _ s => s
    | _ => s
  | none => s

/-- CALLM and CALLMR, their condition true (R205). The target is read before the push (R213). -/
def callmBody (mask : BitVec 12) (target : State → Addr) : State → Body := fun s =>
  let t := s.rdP 15 .addr
  let ws := frameAt t (s.frameWords mask (s.umber.pc + 3))
  let top := t - BitVec.ofNat 24 ws.length
  let tgt := target s
  let n := s.umber.frame.length
  match storeFrame (ws.drop n) s with
  | .ok _ s' => .branch s' [wP 15 .frame top] true tgt
  | .trap t' _ => .trap t' (frameRuin (ws.take n) (ws.drop n) s)
  | .wait s' h => .wait s' h

/-- CALLM: a frame below P15, P14 unchanged, PC = address + DISP12 (R204, R205, Table UMI-11). -/
def execCallm (c : Cond) (mask disp : BitVec 12) (s : State) : Host.Outcome State Fault Refusal :=
  let target := fun (s : State) => s.umber.pc + disp.signExtend 24
  branchStep c kNoRep target (callmBody mask target) s

/-- CALLMR: a frame below P15, PC = Pt (R204, R205, R213, Table UMI-11). -/
def execCallmr (c : Cond) (mask : BitVec 12) (pt : Fin 16) (s : State) : Host.Outcome State Fault Refusal :=
  let target := fun (s : State) => s.rdP pt .addr
  branchStep c kNoRep target (callmBody mask target) s

/-- Data words at ascending addresses (R206), after those read before the instruction had to wait. -/
def loadWords : List Addr → State → MemR (List Word)
  | [], s => .ok s.umber.frame s
  | a :: as, s => (loadWord true a s).bind (fun r s => loadWords as (frameStep r.1 s))

/-- The header is well formed (R206). -/
def headerOk (h : Word) : Bool :=
  (fld h 20 16 : BitVec 16) == 0 && decide ((fld h 12 8 : BitVec 8).toNat = (frameRegs (fld h 0 12)).length + 3)

/-- The write that restores the register of bit i from a frame word (R205, R206). -/
def frameRestore (i : Nat) (w : Word) : Wr :=
  if i < 8 then wD (Fin.ofNat 16 (4 + i)) .frame w else wP (Fin.ofNat 16 (2 + i)) .frame (fld w 0 24)

/-- The writes of RETM from the words above the header, lowest address first (R206). -/
def retmWrites (p15 : Addr) (h : Word) (ws : List Word) : List Wr :=
  let bits := frameRegs (fld h 0 12)
  let n := bits.length
  let sr := ws.getD n 0
  wFlags .frame ((List.range 6).map (fun k => (k, sr.getLsbD k)))
    ++ bits.mapIdx (fun k i => frameRestore i (ws.getD (n - 1 - k) 0))
    ++ [wP 15 .frame (p15 + (fld h 12 8 : BitVec 8).setWidth 24)]

/-- RETM, its condition true (R206). -/
def retmBody (s : State) : Body :=
  let p15 := s.rdP 15 .addr
  match loadWords (if s.umber.frame.isEmpty then [p15] else []) s with
  | .trap t s => .trap t s
  | .wait s h => .wait s h
  | .ok got s1 =>
    let h := got.getD 0 0
    if !headerOk h then .trap trapRsv s1
    else
      let size := (fld h 12 8 : BitVec 8).toNat
      match loadWords (((List.range size).map (fun j => p15 + BitVec.ofNat 24 j)).drop got.length) s1 with
      | .trap t s => .trap t s
      | .wait s h => .wait s h
      | .ok ws s2 => .branch s2 (retmWrites p15 h (ws.drop 1)) true (fld (ws.getD (size - 1) 0) 0 24)

/-- RETM: header, registers and return address are read before anything is written; PB0, PB1, Z, N, C and V are restored (R206). The target of an untaken
one is not stated: a free value. -/
def execRetm (c : Cond) (s : State) : Host.Outcome State Fault Refusal :=
  branchStep c kNoRep (fun s => fld (Config.freeWord (s.freeCtr * 128 + 127)) 0 24) retmBody s

end Sys2Proof.Machine
end

