-- ==== Sys2Proof/Machine/UmberMac.lean ====
section
/-!
DEFINITION. Sys2Proof/Machine/UmberMac.lean: the dual-fetch MAC instructions (07 R219-R225, R247, R248; Tables UMD-2, UMD-3).
-/

namespace Sys2Proof.Machine

/-- The operands a dual fetch reads: X with its load class, Y, and the coefficient of the C3 form. -/
structure DualOps where
  x : Word
  xp : Prod
  y : Word
  c : Word

/-- X and Y lie in data SRAM or the tile, awake (R221, R297). -/
def dualPlace (a : Addr) (s : State) : MemR Unit :=
  match place a with
  | .sram b => if s.asleep (archOf b) then asleepTrap a s else .ok () s
  | .tile _ => if s.asleep 4 then asleepTrap a s else .ok () s
  | _ => .trap (trapBus a) s

/-- The read of X or Y, with forwarding (R221). -/
def dualRead (a : Addr) (s : State) : MemR (Word × Prod) :=
  watched a false (match place a with
    | .sram b => poisonable a .load (umberSramRead b s)
    | .tile b => poisonable a .loadTile (tileRead b s)
    | _ => .trap (trapBus a) s)

/-- Where C is read: the program word at P13, in the program NVM read window (R223). -/
def coefAddr (p13 : Addr) : Addr := 0x300000#24 + p13

/-- C lies in program NVM (R223). -/
def coefPlace (p13 : Addr) (s : State) : MemR Unit :=
  if p13.toNat < 0x030000 then .ok () s else .trap (trapBus (coefAddr p13)) s

/-- The read of C (R223, R308). -/
def coefRead (p13 : Addr) (s : State) : MemR (Word × Prod) :=
  let a := coefAddr p13
  watched a false (poisonable a .load (nvmRead (s.progCell (fld p13 0 18)) a s))

/-- The bank stall of X and Y in one SRAM bank, counted in MEM.STALLCNT (R224, R261, R309). -/
def bankStall (x y : Addr) (s : State) : State :=
  match place x, place y with
  | .sram a, .sram b => if bankOf a = bankOf b then s.setPar P.MEM_STALLCNT (satAdd (s.par P.MEM_STALLCNT) 1) else s
  | _, _ => s

/-- The reads of a dual fetch, faults by kind and then in the order X, Y, C (R179, R221, R223, R247). -/
def dualFetch (c3 : Bool) (x y : Addr) (p13 : Addr) (s : State) : MemR DualOps :=
  let reads := fun (s : State) =>
    (dualRead x (bankStall x y s)).bind (fun rx s => (dualRead y s).bind (fun ry s =>
      if c3 then (coefRead p13 s).bind (fun rc s => .ok { x := rx.1, xp := rx.2, y := ry.1, c := rc.1 } s)
      else .ok { x := rx.1, xp := rx.2, y := ry.1, c := 0 } s))
  let places := fun (s : State) =>
    (dualPlace x s).bind (fun _ s => (dualPlace y s).bind (fun _ s =>
      if c3 then (coefPlace p13 s).bind (fun _ s => reads s) else reads s))
  checkData x .r s (checkData y .r s
    (if c3 then checkData (coefAddr p13) .r s (places s) else places s))

/-- The product of Table UMD-2: X × Y, or C × (X + Y), exact (R219). -/
def dualProduct (c3 : Bool) (o : DualOps) : Int :=
  if c3 then o.c.toInt * (o.x.toInt + o.y.toInt) else o.x.toInt * o.y.toInt

/-- The forms that raise the reserved-opcode trap whatever they do: Py = P13 with C3 (R223). -/
def dualRsv (py : Fin 8) (c3 : Bool) : Bool := c3 && py.val == 5

/-- A dual-fetch instruction: its operands, then the accumulator writes, Dx, the pointers and P13 (R219-R223). -/
def dualStep (c : Cond) (rsv : Bool) (px py : Fin 8) (amx amy : BitVec 2) (dx : Fin 16) (c3 : Bool) (accW : DualOps → State → List Wr) (s : State) :
    Host.Outcome State Fault Refusal :=
  umberStep c (kRsv rsv) (fun s =>
    let p13 := s.rdP 13 .addr
    let mods := amxMod px amx s ++ amyMod py amy s ++ (if c3 then [wP 13 .postMod (p13 + 1)] else [])
    (dualFetch c3 (s.rdP (pxReg px) .addr) (s.rdP (pyReg py) .addr) p13 s).body (fun o s' =>
      .ok s' (accW o s ++ (if dx = 0 then [] else [wD dx o.xp o.x]) ++ mods))) s

/-- One accumulator with its flags. -/
def accWrites (acd : Fin 4) (r : AccR) : List Wr := wAc acd r.val :: wFlags .flag r.flags

/-- MACD: ACd += X × Y, or C × (X + Y) (R219, Table UMD-2). -/
def execMacd (c : Cond) (sat : Bool) (acd : Fin 4) (px py : Fin 8) (amx amy : BitVec 2) (dx : Fin 16) (c3 : Bool) (s : State) :
    Host.Outcome State Fault Refusal :=
  dualStep c (dualRsv py c3) px py amx amy dx c3
    (fun o s => accWrites acd (satAcc sat ((s.rdAc acd .mac).toInt + dualProduct c3 o))) s

/-- MSUD: ACd −= X × Y, or C × (X + Y) (R219, Table UMD-2). -/
def execMsud (c : Cond) (sat : Bool) (acd : Fin 4) (px py : Fin 8) (amx amy : BitVec 2) (dx : Fin 16) (c3 : Bool) (s : State) :
    Host.Outcome State Fault Refusal :=
  dualStep c (dualRsv py c3) px py amx amy dx c3
    (fun o s => accWrites acd (satAcc sat ((s.rdAc acd .mac).toInt - dualProduct c3 o))) s

/-- MPYD: ACd = X × Y, or C × (X + Y) (R219, Table UMD-2). -/
def execMpyd (c : Cond) (acd : Fin 4) (px py : Fin 8) (amx amy : BitVec 2) (dx : Fin 16) (c3 : Bool) (s : State) :
    Host.Outcome State Fault Refusal :=
  dualStep c (dualRsv py c3) px py amx amy dx c3 (fun o _ => accWrites acd (satAcc false (dualProduct c3 o))) s

/-- CMACD: as CMAC on the C18 words X and Y; C3 and an odd d are reserved (R219, Table UMD-2). -/
def execCmacd (c : Cond) (sat : Bool) (acd : Fin 4) (px py : Fin 8) (amx amy : BitVec 2) (dx : Fin 16) (c3 : Bool) (s : State) :
    Host.Outcome State Fault Refusal :=
  dualStep c (c3 || acd.val % 2 == 1) px py amx amy dx c3 (fun o s => cmacWrites sat false acd o.x o.y s) s

end Sys2Proof.Machine
end

