-- ==== Sys2Proof/Machine/UmberMove.lean ====
section
/-!
DEFINITION. Sys2Proof/Machine/UmberMove.lean: moves between register classes (06 R200, Table UMI-7).
-/

namespace Sys2Proof.Machine

/-- MOV: Dd = Da (R200, Table UMI-7). -/
def execMov (c : Cond) (rd ra : Fin 16) (s : State) : Host.Outcome State Fault Refusal :=
  umberStep c kRep (dBody rd (fun s => (s.rdD ra))) s

/-- MVDP: Pd = Da bits 23:0 (R200, Table UMI-7). -/
def execMvdp (c : Cond) (pd ra : Fin 16) (s : State) : Host.Outcome State Fault Refusal :=
  umberStep c kRep (pBody pd (fun s => fld (s.rdD ra) 0 24)) s

/-- MVPD: Dd = zero-extended Pa (R200, Table UMI-7). -/
def execMvpd (c : Cond) (rd pa : Fin 16) (s : State) : Host.Outcome State Fault Refusal :=
  umberStep c kRep (dBody rd (fun s => (s.rdP pa .data).setWidth 36)) s

/-- MVDN: Nd or Ld = Da bits 23:0 (R200, Table UMI-7). -/
def execMvdn (c : Cond) (nl ra : Fin 16) (s : State) : Host.Outcome State Fault Refusal :=
  umberStep c kRep (nlBody nl (fun s => fld (s.rdD ra) 0 24)) s

/-- MVND: Dd = sign-extended Na or zero-extended La (R200, Table UMI-7). -/
def execMvnd (c : Cond) (rd nl : Fin 16) (s : State) : Host.Outcome State Fault Refusal :=
  umberStep c kRep (dBody rd (fun s => s.rdNL nl)) s

/-- MVPP: Pd = Pa (R200, Table UMI-7). -/
def execMvpp (c : Cond) (pd pa : Fin 16) (s : State) : Host.Outcome State Fault Refusal :=
  umberStep c kRep (pBody pd (fun s => s.rdP pa .data)) s

/-- ADDP: Pd = Pa + Db bits 23:0 (R200, Table UMI-7). -/
def execAddp (c : Cond) (pd pa rb : Fin 16) (s : State) : Host.Outcome State Fault Refusal :=
  umberStep c kRep (pBody pd (fun s => s.rdP pa .data + fld (s.rdD rb) 0 24)) s

/-- SUBP: Dd = Pa − Pb, sign-extended from bit 23 (R200, Table UMI-7). -/
def execSubp (c : Cond) (rd pa pb : Fin 16) (s : State) : Host.Outcome State Fault Refusal :=
  umberStep c kRep (dBody rd (fun s => (s.rdP pa .data - s.rdP pb .data).signExtend 36)) s

/-- MVDA: Dd = the part; part 3 is reserved (R200, Table UMI-7). -/
def execMvda (c : Cond) (rd : Fin 16) (acn : Fin 4) (part : BitVec 2) (s : State) : Host.Outcome State Fault Refusal :=
  umberStep c (kRsv (part == 3)) (dBody rd (fun s => accPart (s.rdAc acn .data) part.toNat)) s

/-- MVAD: the part = Da; part 3 is reserved (R200, Table UMI-7). -/
def execMvad (c : Cond) (acn : Fin 4) (part : BitVec 2) (ra : Fin 16) (s : State) : Host.Outcome State Fault Refusal :=
  umberStep c (kRsv (part == 3)) (fun s => .ok s [wAc acn (setAccPart (s.umber.get (.ac acn)) part.toNat (s.rdD ra))]) s

end Sys2Proof.Machine
end

