-- ==== Sys2Proof/Machine/Dispatch.lean ====
section
/-!
DEFINITION. Sys2Proof/Machine/Dispatch.lean: one arm per command, each one direct call of its meaning.
-/

namespace Sys2Proof.Machine

/-- The effect of a command on everything but the queue of waiting commands. -/
def exec (i : Instr) (s : State) : Host.Outcome State Fault Refusal :=
  match i with
  | .add c sat rd ra rb => Sys2Proof.Machine.execAdd c sat rd ra rb s
  | .adc c sat rd ra rb => Sys2Proof.Machine.execAdc c sat rd ra rb s
  | .sub c sat rd ra rb => Sys2Proof.Machine.execSub c sat rd ra rb s
  | .sbc c sat rd ra rb => Sys2Proof.Machine.execSbc c sat rd ra rb s
  | .and c rd ra rb => Sys2Proof.Machine.execAnd c rd ra rb s
  | .or c rd ra rb => Sys2Proof.Machine.execOr c rd ra rb s
  | .xor c rd ra rb => Sys2Proof.Machine.execXor c rd ra rb s
  | .andn c rd ra rb => Sys2Proof.Machine.execAndn c rd ra rb s
  | .min c rd ra rb => Sys2Proof.Machine.execMin c rd ra rb s
  | .max c rd ra rb => Sys2Proof.Machine.execMax c rd ra rb s
  | .minu c rd ra rb => Sys2Proof.Machine.execMinu c rd ra rb s
  | .maxu c rd ra rb => Sys2Proof.Machine.execMaxu c rd ra rb s
  | .cmp c ra rb => Sys2Proof.Machine.execCmp c ra rb s
  | .tst c ra rb => Sys2Proof.Machine.execTst c ra rb s
  | .abs c sat rd ra => Sys2Proof.Machine.execAbs c sat rd ra s
  | .neg c sat rd ra => Sys2Proof.Machine.execNeg c sat rd ra s
  | .lsl c sat rd ra rb => Sys2Proof.Machine.execLsl c sat rd ra rb s
  | .lsr c rd ra rb => Sys2Proof.Machine.execLsr c rd ra rb s
  | .asr c rd ra rb => Sys2Proof.Machine.execAsr c rd ra rb s
  | .rol c rd ra rb => Sys2Proof.Machine.execRol c rd ra rb s
  | .lsli c sat rd ra k => Sys2Proof.Machine.execLsli c sat rd ra k s
  | .lsri c rd ra k => Sys2Proof.Machine.execLsri c rd ra k s
  | .asri c rd ra k => Sys2Proof.Machine.execAsri c rd ra k s
  | .roli c rd ra k => Sys2Proof.Machine.execRoli c rd ra k s
  | .clz c rd ra => Sys2Proof.Machine.execClz c rd ra s
  | .cls c rd ra => Sys2Proof.Machine.execCls c rd ra s
  | .exts c rd ra b => Sys2Proof.Machine.execExts c rd ra b s
  | .extz c rd ra b => Sys2Proof.Machine.execExtz c rd ra b s
  | .swaph c rd ra => Sys2Proof.Machine.execSwaph c rd ra s
  | .mul c rd ra rb => Sys2Proof.Machine.execMul c rd ra rb s
  | .mulh c rd ra rb => Sys2Proof.Machine.execMulh c rd ra rb s
  | .mulhu c rd ra rb => Sys2Proof.Machine.execMulhu c rd ra rb s
  | .mulq c sat rd ra rb => Sys2Proof.Machine.execMulq c sat rd ra rb s
  | .addi c sat rd v => Sys2Proof.Machine.execAddi c sat rd v s
  | .andi c rd v => Sys2Proof.Machine.execAndi c rd v s
  | .ori c rd v => Sys2Proof.Machine.execOri c rd v s
  | .xori c rd v => Sys2Proof.Machine.execXori c rd v s
  | .cmpi c rd v => Sys2Proof.Machine.execCmpi c rd v s
  | .ldi c rd v => Sys2Proof.Machine.execLdi c rd v s
  | .ldih c rd u => Sys2Proof.Machine.execLdih c rd u s
  | .tsti c rd v => Sys2Proof.Machine.execTsti c rd v s
  | .addpi c pd v => Sys2Proof.Machine.execAddpi c pd v s
  | .ldpi c pd v => Sys2Proof.Machine.execLdpi c pd v s
  | .ldpih c pd u => Sys2Proof.Machine.execLdpih c pd u s
  | .ldni c nl v => Sys2Proof.Machine.execLdni c nl v s
  | .mov c rd ra => Sys2Proof.Machine.execMov c rd ra s
  | .mvdp c pd ra => Sys2Proof.Machine.execMvdp c pd ra s
  | .mvpd c rd pa => Sys2Proof.Machine.execMvpd c rd pa s
  | .mvdn c nl ra => Sys2Proof.Machine.execMvdn c nl ra s
  | .mvnd c rd nl => Sys2Proof.Machine.execMvnd c rd nl s
  | .mvpp c pd pa => Sys2Proof.Machine.execMvpp c pd pa s
  | .addp c pd pa rb => Sys2Proof.Machine.execAddp c pd pa rb s
  | .subp c rd pa pb => Sys2Proof.Machine.execSubp c rd pa pb s
  | .mvda c rd acn part => Sys2Proof.Machine.execMvda c rd acn part s
  | .mvad c acn part ra => Sys2Proof.Machine.execMvad c acn part ra s
  | .ld c rd pp am ofs => Sys2Proof.Machine.execLd c rd pp am ofs s
  | .st c rd pp am ofs => Sys2Proof.Machine.execSt c rd pp am ofs s
  | .ldp c pd pp am ofs => Sys2Proof.Machine.execLdp c pd pp am ofs s
  | .stp c pd pp am ofs => Sys2Proof.Machine.execStp c pd pp am ofs s
  | .ldo c nl pp am ofs => Sys2Proof.Machine.execLdo c nl pp am ofs s
  | .sto c nl pp am ofs => Sys2Proof.Machine.execSto c nl pp am ofs s
  | .ldh c k rd pp am ofs => Sys2Proof.Machine.execLdh c k rd pp am ofs s
  | .ldhu c k rd pp am ofs => Sys2Proof.Machine.execLdhu c k rd pp am ofs s
  | .sth c k rd pp am ofs => Sys2Proof.Machine.execSth c k rd pp am ofs s
  | .ldq c k rd pp am ofs => Sys2Proof.Machine.execLdq c k rd pp am ofs s
  | .ldqu c k rd pp am ofs => Sys2Proof.Machine.execLdqu c k rd pp am ofs s
  | .stq c k rd pp am ofs => Sys2Proof.Machine.execStq c k rd pp am ofs s
  | .ldd c rd pp am ofs => Sys2Proof.Machine.execLdd c rd pp am ofs s
  | .std c rd pp am ofs => Sys2Proof.Machine.execStd c rd pp am ofs s
  | .lr c rd pp am ofs => Sys2Proof.Machine.execLr c rd pp am ofs s
  | .sc c rd pp am ofs => Sys2Proof.Machine.execSc c rd pp am ofs s
  | .atadd c rd pp am ofs => Sys2Proof.Machine.execAtadd c rd pp am ofs s
  | .atswp c rd pp am ofs => Sys2Proof.Machine.execAtswp c rd pp am ofs s
  | .mac c sat acd ra rb => Sys2Proof.Machine.execMac c sat acd ra rb s
  | .msu c sat acd ra rb => Sys2Proof.Machine.execMsu c sat acd ra rb s
  | .mpy c acd ra rb => Sys2Proof.Machine.execMpy c acd ra rb s
  | .mpyn c acd ra rb => Sys2Proof.Machine.execMpyn c acd ra rb s
  | .cmac c sat acd ra rb => Sys2Proof.Machine.execCmac c sat acd ra rb s
  | .cmacj c sat acd ra rb => Sys2Proof.Machine.execCmacj c sat acd ra rb s
  | .macd c sat acd px py amx amy dx c3 => Sys2Proof.Machine.execMacd c sat acd px py amx amy dx c3 s
  | .msud c sat acd px py amx amy dx c3 => Sys2Proof.Machine.execMsud c sat acd px py amx amy dx c3 s
  | .mpyd c acd px py amx amy dx c3 => Sys2Proof.Machine.execMpyd c acd px py amx amy dx c3 s
  | .cmacd c sat acd px py amx amy dx c3 => Sys2Proof.Machine.execCmacd c sat acd px py amx amy dx c3 s
  | .acadd c sat acd aca acb => Sys2Proof.Machine.execAcadd c sat acd aca acb s
  | .acsub c sat acd aca acb => Sys2Proof.Machine.execAcsub c sat acd aca acb s
  | .acmov c acd aca => Sys2Proof.Machine.execAcmov c acd aca s
  | .acneg c sat acd aca => Sys2Proof.Machine.execAcneg c sat acd aca s
  | .acclr c acd => Sys2Proof.Machine.execAcclr c acd s
  | .acasr c acd aca k => Sys2Proof.Machine.execAcasr c acd aca k s
  | .aclsl c sat acd aca k => Sys2Proof.Machine.execAclsl c sat acd aca k s
  | .acset c acd ra => Sys2Proof.Machine.execAcset c acd ra s
  | .exta c sat rd aca k => Sys2Proof.Machine.execExta c sat rd aca k s
  | .norm c rd aca => Sys2Proof.Machine.execNorm c rd aca s
  | .exp c rd aca => Sys2Proof.Machine.execExp c rd aca s
  | .fadd c rd ra rb => Sys2Proof.Machine.execFadd c rd ra rb s
  | .fsub c rd ra rb => Sys2Proof.Machine.execFsub c rd ra rb s
  | .fmul c rd ra rb => Sys2Proof.Machine.execFmul c rd ra rb s
  | .fmac c rd ra rb => Sys2Proof.Machine.execFmac c rd ra rb s
  | .fmsu c rd ra rb => Sys2Proof.Machine.execFmsu c rd ra rb s
  | .frcp c rd ra => Sys2Proof.Machine.execFrcp c rd ra s
  | .fcmp c ra rb => Sys2Proof.Machine.execFcmp c ra rb s
  | .fabs c rd ra => Sys2Proof.Machine.execFabs c rd ra s
  | .fneg c rd ra => Sys2Proof.Machine.execFneg c rd ra s
  | .normF c rd ra => Sys2Proof.Machine.execNormF c rd ra s
  | .expF c rd ra => Sys2Proof.Machine.execExpF c rd ra s
  | .fcvtFi c rd ra k => Sys2Proof.Machine.execFcvtFi c rd ra k s
  | .fcvtIf c rd ra k => Sys2Proof.Machine.execFcvtIf c rd ra k s
  | .fcvtFu c rd ra k => Sys2Proof.Machine.execFcvtFu c rd ra k s
  | .fcvtUf c rd ra k => Sys2Proof.Machine.execFcvtUf c rd ra k s
  | .bset c b => Sys2Proof.Machine.execBset c b s
  | .bclr c b => Sys2Proof.Machine.execBclr c b s
  | .btgl c b => Sys2Proof.Machine.execBtgl c b s
  | .btst c pb compl b => Sys2Proof.Machine.execBtst c pb compl b s
  | .band c pb compl b => Sys2Proof.Machine.execBand c pb compl b s
  | .bor c pb compl b => Sys2Proof.Machine.execBor c pb compl b s
  | .bmovToBit c b rd k => Sys2Proof.Machine.execBmovToBit c b rd k s
  | .bmovFromBit c rd k b => Sys2Proof.Machine.execBmovFromBit c rd k b s
  | .tas c pb compl b => Sys2Proof.Machine.execTas c pb compl b s
  | .br c disp => Sys2Proof.Machine.execBr c disp s
  | .call c disp => Sys2Proof.Machine.execCall c disp s
  | .jmp c pa => Sys2Proof.Machine.execJmp c pa s
  | .jcall c pa => Sys2Proof.Machine.execJcall c pa s
  | .callm c mask disp => Sys2Proof.Machine.execCallm c mask disp s
  | .callmr c mask pt => Sys2Proof.Machine.execCallmr c mask pt s
  | .retm c => Sys2Proof.Machine.execRetm c s
  | .rpt c n => Sys2Proof.Machine.execRpt c n s
  | .nop c => Sys2Proof.Machine.execNop c s
  | .sync c => Sys2Proof.Machine.execSync c s
  | .stop c => Sys2Proof.Machine.execStop c s
  | .trap c code => Sys2Proof.Machine.execTrap c code s
  | .reti c => Sys2Proof.Machine.execReti c s
  | .mvtc c cidx rd => Sys2Proof.Machine.execMvtc c cidx rd s
  | .mvfc c rd cidx => Sys2Proof.Machine.execMvfc c rd cidx s
  | .reservedOpcode c => Sys2Proof.Machine.execReservedOpcode c s
  | .extensionSpace c => Sys2Proof.Machine.execExtensionSpace c s
  | .interruptEntry => Sys2Proof.Machine.execInterruptEntry s
  | .nmiEntry => Sys2Proof.Machine.execNmiEntry s
  | .storeBufferDrain => Sys2Proof.Machine.execStoreBufferDrain s
  | .paramWrite m idx v => Sys2Proof.Machine.execParamWrite m idx v s
  | .paramWriteAck k => Sys2Proof.Machine.execParamWriteAck k s
  | .wakeAccept => Sys2Proof.Machine.execWakeAccept s
  | .retainExit => Sys2Proof.Machine.execRetainExit s
  | .warmWake r => Sys2Proof.Machine.execWarmWake r s
  | .coldBoot r => Sys2Proof.Machine.execColdBoot r s
  | .pierPowerOn vdd vbk band => Sys2Proof.Machine.execPierPowerOn vdd vbk band s
  | .pierBrownout => Sys2Proof.Machine.execPierBrownout s
  | .vddPowerOn brownout => Sys2Proof.Machine.execVddPowerOn brownout s
  | .vddBrownout => Sys2Proof.Machine.execVddBrownout s
  | .rstNReset low => Sys2Proof.Machine.execRstNReset low s
  | .testenHigh high => Sys2Proof.Machine.execTestenHigh high s
  | .softwareReset m v => Sys2Proof.Machine.execSoftwareReset m v s
  | .umberResetRequest m v => Sys2Proof.Machine.execUmberResetRequest m v s
  | .umberReset => Sys2Proof.Machine.execUmberReset s
  | .refSourceReady => Sys2Proof.Machine.execRefSourceReady s
  | .refPllLock => Sys2Proof.Machine.execRefPllLock s
  | .refLoss => Sys2Proof.Machine.execRefLoss s
  | .corePllLock => Sys2Proof.Machine.execCorePllLock s
  | .dvfsPointWrite m v => Sys2Proof.Machine.execDvfsPointWrite m v s
  | .dvfsRampEnd => Sys2Proof.Machine.execDvfsRampEnd s
  | .radioPowerOn m v => Sys2Proof.Machine.execRadioPowerOn m v s
  | .radioPowerOff m v => Sys2Proof.Machine.execRadioPowerOff m v s
  | .trestlePowerOn m v => Sys2Proof.Machine.execTrestlePowerOn m v s
  | .trestlePowerOff m v => Sys2Proof.Machine.execTrestlePowerOff m v s
  | .cipherPowerOn m v => Sys2Proof.Machine.execCipherPowerOn m v s
  | .cipherPowerOff m v => Sys2Proof.Machine.execCipherPowerOff m v s
  | .l1Enable m v => Sys2Proof.Machine.execL1Enable m v s
  | .l1Disable m v => Sys2Proof.Machine.execL1Disable m v s
  | .l1Ready => Sys2Proof.Machine.execL1Ready s
  | .synthGLockLoss => Sys2Proof.Machine.execSynthGLockLoss s
  | .timeIncWrite m v => Sys2Proof.Machine.execTimeIncWrite m v s
  | .timeStep m v => Sys2Proof.Machine.execTimeStep m v s
  | .timeLoad m v => Sys2Proof.Machine.execTimeLoad m v s
  | .timeLoadApply => Sys2Proof.Machine.execTimeLoadApply s
  | .nowfRead m => Sys2Proof.Machine.execNowfRead m s
  | .piercapRead m => Sys2Proof.Machine.execPiercapRead m s
  | .piercaptRead m => Sys2Proof.Machine.execPiercaptRead m s
  | .piercapRelease => Sys2Proof.Machine.execPiercapRelease s
  | .strkArm m n v => Sys2Proof.Machine.execStrkArm m n v s
  | .strkDisarm m n v => Sys2Proof.Machine.execStrkDisarm m n v s
  | .strikeFire n => Sys2Proof.Machine.execStrikeFire n s
  | .strikePulseEnd => Sys2Proof.Machine.execStrikePulseEnd s
  | .strikeRadioAction => Sys2Proof.Machine.execStrikeRadioAction s
  | .epochLatch e => Sys2Proof.Machine.execEpochLatch e s
  | .sepiaStrikeEvent r => Sys2Proof.Machine.execSepiaStrikeEvent r s
  | .pierTickLoRead m => Sys2Proof.Machine.execPierTickLoRead m s
  | .pierTickHiRead m => Sys2Proof.Machine.execPierTickHiRead m s
  | .shadowRelease m => Sys2Proof.Machine.execShadowRelease m s
  | .pierSecWrite m v => Sys2Proof.Machine.execPierSecWrite m v s
  | .pierHaltSet m v => Sys2Proof.Machine.execPierHaltSet m v s
  | .pierHaltClear m v => Sys2Proof.Machine.execPierHaltClear m v s
  | .pierTickWrite m hi v => Sys2Proof.Machine.execPierTickWrite m hi v s
  | .trimWindowBoundary => Sys2Proof.Machine.execTrimWindowBoundary s
  | .trimCorrection => Sys2Proof.Machine.execTrimCorrection s
  | .alarmMatch n => Sys2Proof.Machine.execAlarmMatch n s
  | .oscFail => Sys2Proof.Machine.execOscFail s
  | .oscReturn => Sys2Proof.Machine.execOscReturn s
  | .swcfgWrite m v vdd vbk band => Sys2Proof.Machine.execSwcfgWrite m v vdd vbk band s
  | .lockoutTrip => Sys2Proof.Machine.execLockoutTrip s
  | .lockoutRelease => Sys2Proof.Machine.execLockoutRelease s
  | .supplyToVbk sup => Sys2Proof.Machine.execSupplyToVbk sup s
  | .supplyToVdd sup => Sys2Proof.Machine.execSupplyToVdd sup s
  | .pwronAck m v => Sys2Proof.Machine.execPwronAck m v s
  | .scrubRead granted => Sys2Proof.Machine.execScrubRead granted s
  | .demandWriteback => Sys2Proof.Machine.execDemandWriteback s
  | .archRequestOn m v => Sys2Proof.Machine.execArchRequestOn m v s
  | .archRequestSleep m v => Sys2Proof.Machine.execArchRequestSleep m v s
  | .archRequestOff m v => Sys2Proof.Machine.execArchRequestOff m v s
  | .archTransitionDone k => Sys2Proof.Machine.execArchTransitionDone k s
  | .archInitDone k => Sys2Proof.Machine.execArchInitDone k s
  | .memInject m v => Sys2Proof.Machine.execMemInject m v s
  | .nvmWordWrite stuck => Sys2Proof.Machine.execNvmWordWrite stuck s
  | .nvmWriteAbort => Sys2Proof.Machine.execNvmWriteAbort s
  | .revoke m v => Sys2Proof.Machine.execRevoke m v s
  | .revokeComplete => Sys2Proof.Machine.execRevokeComplete s
  | .lkviewWrite m v => Sys2Proof.Machine.execLkviewWrite m v s
  | .dmaCtlWrite m ch v => Sys2Proof.Machine.execDmaCtlWrite m ch v s
  | .dmaStart m ch v => Sys2Proof.Machine.execDmaStart m ch v s
  | .dmaResume m ch v => Sys2Proof.Machine.execDmaResume m ch v s
  | .dmaAbort m ch v => Sys2Proof.Machine.execDmaAbort m ch v s
  | .dmaStrikeStart => Sys2Proof.Machine.execDmaStrikeStart s
  | .dmaRequest line => Sys2Proof.Machine.execDmaRequest line s
  | .dmaChainStart ch => Sys2Proof.Machine.execDmaChainStart ch s
  | .dmaDescriptorLoad ch => Sys2Proof.Machine.execDmaDescriptorLoad ch s
  | .dmaElement => Sys2Proof.Machine.execDmaElement s
  | .dmaAbortDone ch => Sys2Proof.Machine.execDmaAbortDone ch s
  | .radioCmdSleep m v => Sys2Proof.Machine.execRadioCmdSleep m v s
  | .radioCmdStandby m v => Sys2Proof.Machine.execRadioCmdStandby m v s
  | .radioCmdRx m v => Sys2Proof.Machine.execRadioCmdRx m v s
  | .radioCmdTx m v => Sys2Proof.Machine.execRadioCmdTx m v s
  | .radioCmdTxstart m v => Sys2Proof.Machine.execRadioCmdTxstart m v s
  | .radioCmdWakelisten m v => Sys2Proof.Machine.execRadioCmdWakelisten m v s
  | .radioCmdChsw m v => Sys2Proof.Machine.execRadioCmdChsw m v s
  | .radioCmdCalrc m v => Sys2Proof.Machine.execRadioCmdCalrc m v s
  | .radioCmdCaliq m v => Sys2Proof.Machine.execRadioCmdCaliq m v s
  | .radioCmdCaldc m v => Sys2Proof.Machine.execRadioCmdCaldc m v s
  | .radioCmdInvalid m v => Sys2Proof.Machine.execRadioCmdInvalid m v s
  | .radioTransitionDone locked => Sys2Proof.Machine.execRadioTransitionDone locked s
  | .radioAutoret => Sys2Proof.Machine.execRadioAutoret s
  | .rxTimeout => Sys2Proof.Machine.execRxTimeout s
  | .txUnderrun => Sys2Proof.Machine.execTxUnderrun s
  | .diversityDecision a b gain => Sys2Proof.Machine.execDiversityDecision a b gain s
  | .faultSequenceEnd => Sys2Proof.Machine.execFaultSequenceEnd s
  | .radioTxFifoWrite m v => Sys2Proof.Machine.execRadioTxFifoWrite m v s
  | .radioRxFifoRead m => Sys2Proof.Machine.execRadioRxFifoRead m s
  | .radioTxflush m v => Sys2Proof.Machine.execRadioTxflush m v s
  | .radioRxflush m v => Sys2Proof.Machine.execRadioRxflush m v s
  | .xotrimWrite m v => Sys2Proof.Machine.execXotrimWrite m v s
  | .xonowStep => Sys2Proof.Machine.execXonowStep s
  | .syncDetect word rate rssi gain => Sys2Proof.Machine.execSyncDetect word rate rssi gain s
  | .frameReceived bits => Sys2Proof.Machine.execFrameReceived bits s
  | .frameTxEnd => Sys2Proof.Machine.execFrameTxEnd s
  | .ackTimeout => Sys2Proof.Machine.execAckTimeout s
  | .wakeTrainEnd => Sys2Proof.Machine.execWakeTrainEnd s
  | .burstEnd => Sys2Proof.Machine.execBurstEnd s
  | .wakeWindowOpen => Sys2Proof.Machine.execWakeWindowOpen s
  | .wakeWindowClose level => Sys2Proof.Machine.execWakeWindowClose level s
  | .wakeCollection => Sys2Proof.Machine.execWakeCollection s
  | .wakeMatch w => Sys2Proof.Machine.execWakeMatch w s
  | .wakeNomatch w => Sys2Proof.Machine.execWakeNomatch w s
  | .trsChannelEnable m c v => Sys2Proof.Machine.execTrsChannelEnable m c v s
  | .trsChannelDisable m c v => Sys2Proof.Machine.execTrsChannelDisable m c v s
  | .trsChstart m v => Sys2Proof.Machine.execTrsChstart m v s
  | .carradj m c v => Sys2Proof.Machine.execCarradj m c v s
  | .codeadj m c v => Sys2Proof.Machine.execCodeadj m c v s
  | .carrrateApply c xs => Sys2Proof.Machine.execCarrrateApply c xs s
  | .quantBlockEnd xs => Sys2Proof.Machine.execQuantBlockEnd xs s
  | .trsDump c xs => Sys2Proof.Machine.execTrsDump c xs s
  | .dumpWrite => Sys2Proof.Machine.execDumpWrite s
  | .cmdataWrite m v => Sys2Proof.Machine.execCmdataWrite m v s
  | .dumpbaseWrite m len v => Sys2Proof.Machine.execDumpbaseWrite m len v s
  | .searchCapture m v => Sys2Proof.Machine.execSearchCapture m v s
  | .searchPass m v => Sys2Proof.Machine.execSearchPass m v s
  | .searchAbort m v => Sys2Proof.Machine.execSearchAbort m v s
  | .searchCaptureDone xs => Sys2Proof.Machine.execSearchCaptureDone xs s
  | .searchResultWrite => Sys2Proof.Machine.execSearchResultWrite s
  | .searchPassDone => Sys2Proof.Machine.execSearchPassDone s
  | .codenowRead m c => Sys2Proof.Machine.execCodenowRead m c s
  | .aesEcbEncrypt m v => Sys2Proof.Machine.execAesEcbEncrypt m v s
  | .aesEcbDecrypt m v => Sys2Proof.Machine.execAesEcbDecrypt m v s
  | .aesCtr m v => Sys2Proof.Machine.execAesCtr m v s
  | .aesCcmEncrypt m v => Sys2Proof.Machine.execAesCcmEncrypt m v s
  | .aesCcmDecrypt m v => Sys2Proof.Machine.execAesCcmDecrypt m v s
  | .sha256Start m v => Sys2Proof.Machine.execSha256Start m v s
  | .hmacSha256 m v => Sys2Proof.Machine.execHmacSha256 m v s
  | .derive m v => Sys2Proof.Machine.execDerive m v s
  | .ecdsaSign m v => Sys2Proof.Machine.execEcdsaSign m v s
  | .ecdsaVerifyStart m v => Sys2Proof.Machine.execEcdsaVerifyStart m v s
  | .ecdh m v => Sys2Proof.Machine.execEcdh m v s
  | .pubkey m v => Sys2Proof.Machine.execPubkey m v s
  | .clear m v => Sys2Proof.Machine.execClear m v s
  | .wrap m v => Sys2Proof.Machine.execWrap m v s
  | .cipherInWrite m v => Sys2Proof.Machine.execCipherInWrite m v s
  | .cipherOutRead m => Sys2Proof.Machine.execCipherOutRead m s
  | .cipherOpDone => Sys2Proof.Machine.execCipherOpDone s
  | .rngCtlWrite m v => Sys2Proof.Machine.execRngCtlWrite m v s
  | .rngStartupPass x => Sys2Proof.Machine.execRngStartupPass x s
  | .rngWord x => Sys2Proof.Machine.execRngWord x s
  | .rngAlarm xs => Sys2Proof.Machine.execRngAlarm xs s
  | .rngDataRead m => Sys2Proof.Machine.execRngDataRead m s
  | .transitionRequest m v => Sys2Proof.Machine.execTransitionRequest m v s
  | .transitionDone vdd stuck => Sys2Proof.Machine.execTransitionDone vdd stuck s
  | .ownerHashProgram m v => Sys2Proof.Machine.execOwnerHashProgram m v s
  | .ownerHashDone stuck => Sys2Proof.Machine.execOwnerHashDone stuck s
  | .dbgChallenge m v => Sys2Proof.Machine.execDbgChallenge m v s
  | .dbgCheckResponse m v => Sys2Proof.Machine.execDbgCheckResponse m v s
  | .responseCheckDone => Sys2Proof.Machine.execResponseCheckDone s
  | .dbgDropRights m v => Sys2Proof.Machine.execDbgDropRights m v s
  | .dbgCheckCerts m v => Sys2Proof.Machine.execDbgCheckCerts m v s
  | .certCheckDone => Sys2Proof.Machine.execCertCheckDone s
  | .certWindowCheck => Sys2Proof.Machine.execCertWindowCheck s
  | .debugHalt => Sys2Proof.Machine.execDebugHalt s
  | .umberHalted => Sys2Proof.Machine.execUmberHalted s
  | .debugResume => Sys2Proof.Machine.execDebugResume s
  | .debugStep => Sys2Proof.Machine.execDebugStep s
  | .dbgirq => Sys2Proof.Machine.execDbgirq s
  | .debugStart slot => Sys2Proof.Machine.execDebugStart slot s
  | .regrd sel => Sys2Proof.Machine.execRegrd sel s
  | .regwr sel v => Sys2Proof.Machine.execRegwr sel v s
  | .breakpointHit => Sys2Proof.Machine.execBreakpointHit s
  | .watchpointHit => Sys2Proof.Machine.execWatchpointHit s
  | .nvmwrite => Sys2Proof.Machine.execNvmwrite s
  | .logappend => Sys2Proof.Machine.execLogappend s
  | .sense r => Sys2Proof.Machine.execSense r s
  | .podtest podr => Sys2Proof.Machine.execPodtest podr s
  | .xtalchk ppm => Sys2Proof.Machine.execXtalchk ppm s
  | .armupdate => Sys2Proof.Machine.execArmupdate s
  | .confirm => Sys2Proof.Machine.execConfirm s
  | .regions => Sys2Proof.Machine.execRegions s
  | .keywrite => Sys2Proof.Machine.execKeywrite s
  | .slotinfo => Sys2Proof.Machine.execSlotinfo s
  | .serviceDone => Sys2Proof.Machine.execServiceDone s
  | .roleWrite m v => Sys2Proof.Machine.execRoleWrite m v s
  | .wdkick m v => Sys2Proof.Machine.execWdkick m v s
  | .wdtStage1 => Sys2Proof.Machine.execWdtStage1 s
  | .wdtStage2 => Sys2Proof.Machine.execWdtStage2 s
  | .wdtStage3 => Sys2Proof.Machine.execWdtStage3 s
  | .nmiEscalation => Sys2Proof.Machine.execNmiEscalation s
  | .sensorSample r => Sys2Proof.Machine.execSensorSample r s
  | .logWrite => Sys2Proof.Machine.execLogWrite s
  | .evfifoRead m => Sys2Proof.Machine.execEvfifoRead m s
  | .hostTransactionStart cmd => Sys2Proof.Machine.execHostTransactionStart cmd s
  | .directRead => Sys2Proof.Machine.execDirectRead s
  | .directWrite b => Sys2Proof.Machine.execDirectWrite b s
  | .hostParamRead => Sys2Proof.Machine.execHostParamRead s
  | .hostParamWrite v => Sys2Proof.Machine.execHostParamWrite v s
  | .hostMemRead => Sys2Proof.Machine.execHostMemRead s
  | .hostMemWrite v => Sys2Proof.Machine.execHostMemWrite v s
  | .hostReadComplete => Sys2Proof.Machine.execHostReadComplete s
  | .hostWriteAck => Sys2Proof.Machine.execHostWriteAck s
  | .hostTransactionEnd => Sys2Proof.Machine.execHostTransactionEnd s
  | .hostTimeout => Sys2Proof.Machine.execHostTimeout s
  | .doorbell b => Sys2Proof.Machine.execDoorbell b s
  | .doorinRead m => Sys2Proof.Machine.execDoorinRead m s
  | .dooroutWrite m v => Sys2Proof.Machine.execDooroutWrite m v s
  | .podRead m v => Sys2Proof.Machine.execPodRead m v s
  | .podWrite m v => Sys2Proof.Machine.execPodWrite m v s
  | .podAddchg m v => Sys2Proof.Machine.execPodAddchg m v s
  | .podAuth m v => Sys2Proof.Machine.execPodAuth m v s
  | .podPing m v => Sys2Proof.Machine.execPodPing m v s
  | .podResultPoll => Sys2Proof.Machine.execPodResultPoll s
  | .podAnswer frame => Sys2Proof.Machine.execPodAnswer frame s
  | .podTimeout => Sys2Proof.Machine.execPodTimeout s
  | .podTransactionDone => Sys2Proof.Machine.execPodTransactionDone s
  | .podReleaseNotice => Sys2Proof.Machine.execPodReleaseNotice s
  | .podIdentify pod => Sys2Proof.Machine.execPodIdentify pod s
  | .chargeFold pulses => Sys2Proof.Machine.execChargeFold pulses s
  | .faceTxdWrite m v => Sys2Proof.Machine.execFaceTxdWrite m v s
  | .faceEnd m v => Sys2Proof.Machine.execFaceEnd m v s
  | .faceFlush m v => Sys2Proof.Machine.execFaceFlush m v s
  | .faceTransferStart fbusy => Sys2Proof.Machine.execFaceTransferStart fbusy s
  | .faceTransferEnd under fbusy => Sys2Proof.Machine.execFaceTransferEnd under fbusy s
  | .fbusyRelease => Sys2Proof.Machine.execFbusyRelease s
  | .gpioEdge g level => Sys2Proof.Machine.execGpioEdge g level s
  | .pierTickEdge => Sys2Proof.Machine.execPierTickEdge s
  | .tempnowPeriodic temp => Sys2Proof.Machine.execTempnowPeriodic temp s

end Sys2Proof.Machine
end

