-- ==== Sys2Proof/Machine/Fetch.lean ====
section
/-!
DEFINITION. Sys2Proof/Machine/Fetch.lean: Umber runs its program: the word that program NVM holds at the program counter, decoded (05 R164, R183; 06 R192, R198,
R214), with the order of an NMI, a fault and an interrupt at one boundary (05 R179).
-/

namespace Sys2Proof.Machine

/-- The word of program NVM at the program counter, a single wrong bit corrected (R164, R300). A word that cannot be read is fetched by no instruction (R179);
what stood there is free (log 6). -/
def State.progWord (s : State) : Word :=
  match eccRead (s.progCell (fld s.umber.pc 0 18)) with
  | .good w => w
  | .corrected w _ => w
  | .bad _ => Config.freeWord s.freeCtr

/-- The latest thing Umber did was to leave its instruction stream for a handler (R257). -/
def State.leftStream (s : State) : Bool :=
  match s.umber.hist with
  | [] => false
  | e :: _ => decide (e.gap = .exception) && decide (s.umber.hold = .none)

/-- Umber's next instruction runs (R192). -/
def fetchStep (s : State) : State :=
  match exec (decodeUmber s.progWord) s with
  | .next t => t
  | .fault _ => s
  | .refused _ => s

/-- One turn of Umber: an NMI is taken first, then a fault of the next instruction, then an interrupt; otherwise the instruction runs (R179, R180, R182, R187). -/
def umberTurn (s : State) : State :=
  if !s.umberRuns then s
  else if s.nmiTakes then enterNmi s.umber.pc (causeWord 2 false false none 0 0) s
  else
    let t := fetchStep s
    if s.irqTakes && !t.leftStream then interruptNow s else t

/-- What a step does with no command waiting: time passes, and Umber takes a turn (log 3). -/
def idleStep (s : State) : State := umberTurn (idle s)

end Sys2Proof.Machine
end

