-- ==== Sys2Proof/Safety.lean ====
section
/-!
DEFINITION. Sys2Proof/Safety.lean: what claims call a well-kept state and a command that comes about: the canonical form of memories and maps, an Umber
instruction that issues, and a step that does not stop.
-/

namespace Sys2Proof.Machine

/-- The memories are in their one canonical form: addresses strictly rising, no entry equal to what an unlisted word reads as. -/
abbrev Memory.wf (m : MemSt) : Prop :=
  SMap.wf m.sram (fun _ => 0) ∧ SMap.wf m.tile (fun _ => 0) ∧ SMap.wf m.prog (fun _ => 0) ∧ SMap.wf m.dnvm (fun _ => 0) ∧
    SMap.wf m.poison (fun _ => false) ∧ SMap.wf m.defects (fun _ => 0)

/-- Memories, parameters, block masks and code memory are in canonical form, so that equal contents are equal data. -/
abbrev State.canonical (s : State) : Prop :=
  Memory.wf s.mem ∧ SMap.wf s.params resetOf ∧ SMap.wf s.masks (fun _ => 0x00030003#32) ∧ SMap.wf s.trs.codeMem (fun _ => 0)

/-- The outcome is a next state: neither a fault nor a refusal. -/
def GoesOn (o : Host.Outcome State Fault Refusal) : Prop := ∃ t, o = .next t

/-- The state in which the instruction at the program counter is fetched: a breakpoint address issued inside a run without a boundary is noted (R533),
and what held for one boundary only is past. -/
def State.atIssue (s : State) : State :=
  let s := if s.atBoundary then s else noteBreakpoint s
  s.setUmber { s.umber with bpPass := false, ieFence := false, wakeIrq := false }

/-- The state after the fetch of the instruction at the program counter, the records of the way to it written (R629). -/
def State.fetched (s : State) : State := flushTraces (fetchCheck s.atIssue).2

/-- The quad of program NVM that lies `k` after that of the program counter. -/
def State.quadAhead (s : State) (k : Fin 4) : BitVec 16 := (fld s.umber.pc 2 16 : BitVec 16) + BitVec.ofNat 16 k.val

/-- That quad lies in program NVM. -/
def State.quadIn (s : State) (k : Fin 4) : Prop := (fld s.umber.pc 2 16 : BitVec 16).toNat + k.val < 0xC000

/-- The fetch finds nothing for Sepia to log: the prefetch buffer holds the quad of the program counter and the three after it, as far as program NVM goes, or
all their words are readable (R258, R308). -/
def State.quadReadable (s : State) : Prop :=
  (∀ k : Fin 4, s.quadIn k → s.umber.prefetch.contains (s.quadAhead k) = true) ∨
    ∀ k : Fin 4, s.quadIn k → ∀ j : BitVec 2, cellBad (s.progCell (s.quadAhead k ++ j)) = false

/-- No instruction at the program counter has begun and waits: the next one is fetched, and has dealt with no word yet (R262, R263). -/
def State.begins (s : State) : Prop := s.umber.holds = false ∧ s.umber.frame = []

/-- An instruction issues: Umber runs in modes 4-7 and is not stopped by debug, no RPT waits for it, it begins now, and its fetch raises no fault and logs no
unreadable word (R164, R179, R228, R258). -/
def State.issues (s : State) : Prop :=
  s.umberReady = true ∧ s.umber.rpt = none ∧ s.begins ∧ s.quadReadable ∧ (fetchCheck s.atIssue).1 = none

/-- The state after an instruction that completes with the writes `ws` out of the state `s1` its body leaves: registers and flags take their values, the
program counter moves on (R203). -/
def completed (s1 : State) (ws : List Wr) : State := afterInstr (advancePc (commit ws s1))

/-- The state after a branch: its first slot is next (R203). -/
def branched (s1 : State) (ws : List Wr) (taken : Bool) (target : Addr) : State := afterInstr (startSlots taken target (commit ws s1))

end Sys2Proof.Machine
end

