-- ==== Sys2Proof/Safety/Events.lean ====
section
/-!
DEFINITION. Sys2Proof/Safety/Events.lean: the words in which the statements about commands that are no instruction are said: parts of the state, what stays, and how a
write of a parameter arrives at its shell and is answered (01 R50; 08 R263; 18 R577; 20 R622, R624).
-/

namespace Sys2Proof.Claims

open Sys2Proof.Machine

/-! ### Parts of the state -/

/-- The parts that a command may be said to leave alone. `umber` is Umber without the parts named by themselves; `mgmt` is Sepia without its log queue; `host` is the host
port without its write queue. -/
inductive Part where
  | masks | pwr | umber | ipend | pwq | sb | locks | resv | mem | bank | time | pier | mgmt | log | dma | dmaLast | rev | radio | wake | trs | crypt | rng | life | host | wq
  | pod | face | gpio | lines
  deriving DecidableEq, Repr

def Part.all : List Part :=
  [.masks, .pwr, .umber, .ipend, .pwq, .sb, .locks, .resv, .mem, .bank, .time, .pier, .mgmt, .log, .dma, .dmaLast, .rev, .radio, .wake, .trs, .crypt, .rng, .life, .host, .wq,
   .pod, .face, .gpio, .lines]

/-- Umber without the parts that have a name of their own. -/
def umberRest (u : UmberSt) : UmberSt := { u with ipend := 0, pwq := [], sb := [], locks := [], resv := none }

abbrev Part.same (p : Part) (s t : State) : Prop :=
  match p with
  | .masks => t.masks = s.masks
  | .pwr => t.pwr = s.pwr
  | .umber => umberRest t.umber = umberRest s.umber
  | .ipend => t.umber.ipend = s.umber.ipend
  | .pwq => t.umber.pwq = s.umber.pwq
  | .sb => t.umber.sb = s.umber.sb
  | .locks => t.umber.locks = s.umber.locks
  | .resv => t.umber.resv = s.umber.resv
  | .mem => t.mem = s.mem
  | .bank => t.bank = s.bank
  | .time => t.time = s.time
  | .pier => t.pier = s.pier
  | .mgmt => { t.mgmt with logQ := [] } = { s.mgmt with logQ := [] }
  | .log => t.mgmt.logQ = s.mgmt.logQ
  | .dma => t.dma = s.dma
  | .dmaLast => t.dmaLast = s.dmaLast
  | .rev => t.rev = s.rev
  | .radio => t.radio = s.radio
  | .wake => t.wake = s.wake
  | .trs => t.trs = s.trs
  | .crypt => t.crypt = s.crypt
  | .rng => t.rng = s.rng
  | .life => t.life = s.life
  | .host => { t.host with wq := [] } = { s.host with wq := [] }
  | .wq => t.host.wq = s.host.wq
  | .pod => t.pod = s.pod
  | .face => t.face = s.face
  | .gpio => t.gpio = s.gpio
  | .lines => t.lines = s.lines

/-- Nothing changes but the parts `ps` and the parameters `ix`. -/
structure Untouched (ps : List Part) (ix : List Nat) (s t : State) : Prop where
  parts : ∀ p, p ∉ ps → p.same s t
  params : ∀ i, i ∉ ix → t.par i = s.par i
  pending : t.pending = s.pending

/-- A command answers a next state with these values, and the rest untouched. -/
def Happens (i : Instr) (ps : List Part) (ix : List Nat) (needs : State → Prop) (gives : State → State → Prop) : Prop :=
  ∀ s : State, needs s → ∃ t, exec i s = .next t ∧ gives s t ∧ Untouched ps ix s t

/-- `n` parameters from `b`, each `k` apart. -/
def every (b k n : Nat) : List Nat := (List.range n).map (fun j => b + k * j)

/-- Where a record of Sepia's log goes: its queue, or LOGDROP when 32 wait (R559). -/
def logIx : List Nat := [P.MGMT_LOGDROP]

/-- No work of Sepia that ranks above priority `p` of Table SEP-1 waits: there is nothing to do first (R542). -/
def nothingAbove (p : Nat) (s : State) : Prop := higherWork p s = s

/-- No region of domain 0 is enabled, as R328 leaves them: Sepia reads every word of NVM (R320; log 83). -/
def sepiaFree (s : State) : Prop := ∀ r < 16, (s.par (P.MPU_BASE + 3 * r + 2)).getLsbD 3 = false

/-! ### Writes of parameters -/

/-- The write of index `i` that stands ready at its shell (R50, R263, R577): Sepia's in modes 3-7; Umber's if it is the oldest of its queue for that island; the host's if it
is the oldest of its queue, the port runs and no doorbell waits behind it (R48). A DMA channel's write is part of its element. -/
def arriving (m : Master) (i : Nat) (v : Word) (s : State) : Option Accessor :=
  match m with
  | .sepia => if s.awake then some { master := .sepia, dom := 0, prv := true } else none
  | .umber =>
    match s.umber.pwq.find? (fun w => w.latched.isNone && decide (w.tgt.shell = shellOf i)) with
    | some w => if w.tgt = .par (BitVec.ofNat 13 i) ∧ w.val = v then some { master := .umber, dom := w.dom, prv := w.prv } else none
    | none => none
  | .host =>
    if s.vddRuns = false then none
    else match s.host.wq.find? (fun w => w.latched.isNone) with
    | some w => if w.tgt = .par (BitVec.ofNat 13 i) ∧ w.val = v ∧ w.after = [] then some { master := .host, dom := 1, prv := s.right 5 } else none
    | none => none
  | .dma _ => none

/-- The queue that a master's write waits in. -/
def queueOf : Master → List Part
  | .umber => [.pwq]
  | .host => [.wq]
  | _ => []

/-- The oldest waiting entry for a shell is latched with a reason, and the others stay. -/
def latchFirst (sh : Shell) (r : BitVec 4) : List PWrite → List PWrite
  | [] => []
  | w :: ws => if w.latched.isNone && decide (w.tgt.shell = sh) then { w with latched := some r } :: ws else w :: latchFirst sh r ws

def answerFirst (e : BitVec 4) : List HostWrite → List HostWrite
  | [] => []
  | w :: ws => if w.latched.isNone then { w with latched := some e } :: ws else w :: answerFirst e ws

/-- The write has been answered with a reason, 0 accepted (R624); the host's entry holds the error code of Table HST-4. -/
def answered (m : Master) (i : Nat) (r : BitVec 4) (s t : State) : Prop :=
  match m with
  | .umber => t.umber.pwq = latchFirst (shellOf i) r s.umber.pwq
  | .host => t.host.wq = answerFirst (if r = 0 then 0 else if r = 4 then 2 else 1) s.host.wq
  | _ => True

/-- The write can be taken now: the cipher's input has room (R495), and no denial of the host's stopped it at its port (R578). -/
def taken (acc : Accessor) (i : Nat) (s : State) : Prop :=
  s.holdsWrite acc i = false ∧ (acc.master = .host → s.hostDenied i true = false ∧ s.hostBarred i = false)

/-- A write of index `i` that its shell accepts (R622): the values it leaves, the parts and parameters it may change. -/
def Accepts (c : Instr) (m : Master) (i : Nat) (v : Word) (ps : List Part) (ix : List Nat) (needs : Accessor → State → Prop)
    (gives : Accessor → State → State → Prop) : Prop :=
  ∀ (acc : Accessor) (s : State), arriving m i v s = some acc → taken acc i s → s.writeRefusal acc i v = 0 → needs acc s →
    ∃ t, exec c s = .next t ∧ gives acc s t ∧ answered m i 0 s t ∧ Untouched (queueOf m ++ ps) ix s t

/-- The same of a write whose effect reaches far: what `gives` says, and nothing of the rest. -/
def Takes (c : Instr) (m : Master) (i : Nat) (v : Word) (needs : Accessor → State → Prop) (gives : Accessor → State → State → Prop) : Prop :=
  ∀ (acc : Accessor) (s : State), arriving m i v s = some acc → taken acc i s → s.writeRefusal acc i v = 0 → needs acc s →
    ∃ t, exec c s = .next t ∧ gives acc s t ∧ t.pending = s.pending

/-- The same of a command that is no write. -/
def Runs (c : Instr) (needs : State → Prop) (gives : State → State → Prop) : Prop :=
  ∀ s : State, needs s → ∃ t, exec c s = .next t ∧ gives s t ∧ t.pending = s.pending

/-- A write that its shell declines with a reason (R624): SYS.PERR keeps the first record, PERRCNT counts, and nothing else changes but what `ix` names. -/
def Declines (c : Instr) (m : Master) (i : Nat) (v : Word) (ix : List Nat) : Prop :=
  ∀ (acc : Accessor) (s : State), arriving m i v s = some acc → taken acc i s → s.writeRefusal acc i v ≠ 0 →
    ∃ t, exec c s = .next t ∧ answered m i (s.writeRefusal acc i v) s t ∧
      (t.par P.SYS_PERRCNT).toNat % 2 ^ 16 = min ((s.par P.SYS_PERRCNT).toNat % 2 ^ 16 + 1) (2 ^ 16 - 1) ∧
      ((s.par P.SYS_PERR).getLsbD 35 = true → t.par P.SYS_PERR = s.par P.SYS_PERR) ∧
      ((s.par P.SYS_PERR).getLsbD 35 = false → t.par P.SYS_PERR = BitVec.ofNat 36 (i + 2 ^ 13 * (match m with | .sepia => 0 | .umber => 1 | .dma _ => 2 | .host => 3) +
        2 ^ 16 * (s.writeRefusal acc i v).toNat + 2 ^ 20 + 2 ^ 35)) ∧
      Untouched (queueOf m) ([P.SYS_PERR, P.SYS_PERRCNT] ++ ix) s t

/-! ### Reads of parameters -/

/-- The regions let a master read index `i` at its data address (R322). -/
def granted (acc : Accessor) (i : Nat) (s : State) : Bool := (s.regionFail acc spData (BitVec.ofNat 24 (0x400000 + i)) .r).isNone

/-- A read of index `i` by a master that neither its regions nor its masks deny and nothing keeps waiting (R264, R324, R627). The host's reads are made by HOST_READ_COMPLETE. -/
def reading (m : Master) (i : Nat) (s : State) : Option Accessor :=
  match m with
  | .sepia => if s.awake then some { master := .sepia, dom := 0, prv := true } else none
  | .umber => if s.awake && granted s.umberAcc i s && !s.maskDenies s.umberAcc i false && !s.queuedFor (shellOf i) then some s.umberAcc else none
  | .dma ch => if s.awake && granted (s.dmaAcc ch) i s && !s.maskDenies (s.dmaAcc ch) i false then some (s.dmaAcc ch) else none
  | .host => none

/-- A read of index `i` that its shell serves: powered, not in END OF LIFE for another master than Sepia, and by the owner or requester where the parameter has one. -/
def served (acc : Accessor) (i : Nat) (s : State) : Prop :=
  (s.lifeState = 3 → acc.master = .sepia) ∧ s.shellOff i = false ∧ s.foreign acc i = false

/-- A read of index `i` that is served: what it leaves, and what stays. -/
def Reads (c : Instr) (m : Master) (i : Nat) (ps : List Part) (ix : List Nat) (needs : Accessor → State → Prop) (gives : State → State → Prop) : Prop :=
  ∀ (acc : Accessor) (s : State), reading m i s = some acc → served acc i s → needs acc s →
    ∃ t, exec c s = .next t ∧ gives s t ∧ Untouched ps ix s t

/-- A bit of a parameter. -/
def bit (t : State) (i k : Nat) : Bool := (t.par i).getLsbD k

end Sys2Proof.Claims
end

