-- ==== Sys2Proof/Certificates/Slice0/CipherClaims.lean ====
section
/-!
DEFINITION. Sys2Proof/Certificates/Slice0/CipherClaims.lean: the statements about the cipher unit and the random numbers (15).
-/

namespace Sys2Proof.Claims

open Sys2Proof.Machine

/-- Each row of CRYPT.CMD with its OP (Table CRY-1). -/
def eachOp (m : Master) (v : Word) (p : Instr → Nat → Prop) : Prop :=
  p (.aesEcbEncrypt m v) 1 ∧ p (.aesEcbDecrypt m v) 2 ∧ p (.aesCtr m v) 3 ∧ p (.aesCcmEncrypt m v) 4 ∧ p (.aesCcmDecrypt m v) 5 ∧ p (.sha256Start m v) 6 ∧ p (.hmacSha256 m v) 7 ∧
  p (.derive m v) 8 ∧ p (.ecdsaSign m v) 9 ∧ p (.ecdsaVerifyStart m v) 10 ∧ p (.ecdh m v) 11 ∧ p (.pubkey m v) 12 ∧ p (.clear m v) 13 ∧ p (.wrap m v) 14

/-- Fields of CMD (Table CRY-5). -/
def opOf (v : Word) : Nat := (v.extractLsb' 0 5).toNat
def slotOf (v : Word) : BitVec 4 := v.extractLsb' 5 4
def ksrc (v : Word) : Nat := (v.extractLsb' 9 2).toNat
def micOf (v : Word) : Nat := (v.extractLsb' 11 4).toNat
def ccml (v : Word) : Nat := (v.extractLsb' 17 3).toNat

/-- A command that names an operation, with its fields in range. -/
def cmdGood (v : Word) : Prop := ccml v ≠ 7 ∧ ((opOf v = 4 ∨ opOf v = 5) → 1 ≤ micOf v ∧ micOf v ≤ 7)

def lenOf (s : State) : Nat := ((s.par P.CRYPT_LEN).extractLsb' 0 24).toNat
def alenOf (s : State) : Nat := ((s.par P.CRYPT_ALEN).extractLsb' 0 16).toNat

/-- The length errors of R494. -/
def lengthBad (v : Word) (s : State) : Prop :=
  ((opOf v = 1 ∨ opOf v = 2) ∧ lenOf s % 16 ≠ 0) ∨ ((opOf v = 4 ∨ opOf v = 5) ∧ (65280 ≤ alenOf s ∨ 2 ^ (8 * (ccml v + 2)) ≤ lenOf s))

/-- The input words of an operation (Table CRY-1, R491): each string starts in a new word. -/
def inputOf (v : Word) (s : State) : Nat :=
  let w := fun (n : Nat) => (n + 3) / 4
  match opOf v with
  | 4 => w (alenOf s) + w (lenOf s)
  | 5 => w (alenOf s) + w (lenOf s) + w (2 * micOf v + 2)
  | 9 => 8
  | 10 => 40
  | 11 => 16
  | 12 => 0
  | 13 => 0
  | 14 => 1
  | _ => w (lenOf s)

/-- CRYPT.KEYDOM: the KEY registers, or KT, hold a key of a domain. -/
def keyHeld (s : State) (kt : Bool) : Option Dom :=
  let k := if kt then 5 else 0
  if bit s P.CRYPT_KEYDOM (k + 4) then some ((s.par P.CRYPT_KEYDOM).extractLsb' k 4) else none

/-- The word of a slot's header, as CRYPT.SLOTINFO shows it. -/
def headerOf (s : State) (slot : BitVec 4) : Word := s.slotHeader slot

/-- The TYPE and the use bit that an operation needs of a slot (Tables CRY-1, CRY-3). -/
def slotFits (op : Nat) (h : Word) : Prop :=
  let t := (h.extractLsb' 0 4).toNat
  if op = 1 ∨ op = 3 ∨ op = 4 then (t = 1 ∨ t = 2) ∧ h.getLsbD 20 = true
  else if op = 2 ∨ op = 5 then (t = 1 ∨ t = 2) ∧ h.getLsbD 21 = true
  else if op = 7 ∨ op = 8 then t = 3 ∧ h.getLsbD 22 = true
  else if op = 9 ∨ op = 12 then t = 4 ∧ h.getLsbD 23 = true
  else t = 4 ∧ h.getLsbD 24 = true

/-- Domain `d` may use a slot for an operation (R497, R499). -/
def slotPermits (op : Nat) (d : Dom) (slot : BitVec 4) (s : State) : Prop :=
  slotFits op (headerOf s slot) ∧ (slot = 15 → op = 8) ∧ bit s P.CRYPT_KREFUSE d.toNat = false ∧ (d = 0 ∨ (headerOf s slot).getLsbD (4 + d.toNat) = true)

def slotEmpty (slot : BitVec 4) (s : State) : Prop := let t := ((headerOf s slot).extractLsb' 0 4).toNat; t = 0 ∨ 5 ≤ t

/-- OP 1-5, 7 and 8 take the KEY registers, every keyed operation but 14 KT (R497); OP 6, 10 and 13 take no key. -/
def direct (op : Nat) : Bool := op ≤ 5 || op == 7 || op == 8
def keyless (op : Nat) : Bool := op == 6 || op == 10 || op == 13

/-- The key of a command is there, and its owner may use it (R497-R499). -/
def keyReady (v : Word) (d : Dom) (s : State) : Prop :=
  if keyless (opOf v) then True
  else if opOf v = 14 then d = 0 ∧ (ksrc v = 3 ∨ keyHeld s false = some 0)
  else if ksrc v = 0 then ¬ slotEmpty (slotOf v) s ∧ slotPermits (opOf v) d (slotOf v) s ∧ (s.unwrap (slotOf v)).isSome = true
  else (direct (opOf v) = true ∧ ksrc v = 1 ∧ keyHeld s false = some d) ∨ (ksrc v = 2 ∧ keyHeld s true = some d)

/-- A command whose key its owner may not use: CODE 2 (R497-R499). -/
def keyDenied (v : Word) (d : Dom) (s : State) : Prop :=
  keyless (opOf v) = false ∧
    (if opOf v = 14 then d ≠ 0 ∨ (ksrc v ≠ 3 ∧ (keyHeld s false).isSome = true ∧ keyHeld s false ≠ some 0)
     else if ksrc v = 0 then ¬ slotEmpty (slotOf v) s ∧ ¬ slotPermits (opOf v) d (slotOf v) s
     else (direct (opOf v) = true ∧ ksrc v = 1 ∧ (keyHeld s false).isSome = true ∧ keyHeld s false ≠ some d) ∨
      (ksrc v = 2 ∧ (keyHeld s true).isSome = true ∧ keyHeld s true ≠ some d))

/-- An empty slot, or a body whose MIC fails: CODE 3 (R499). -/
def keyBad (v : Word) (d : Dom) (s : State) : Prop :=
  keyless (opOf v) = false ∧ opOf v ≠ 14 ∧ ksrc v = 0 ∧ (slotEmpty (slotOf v) s ∨ (slotPermits (opOf v) d (slotOf v) s ∧ s.unwrap (slotOf v) = none))

/-- The command takes its key from a slot; that reading of the slot counts and records what its words need (R308). -/
def slotKeyed (v : Word) : Bool := !keyless (opOf v) && opOf v != 14 && ksrc v == 0
def slotParts (v : Word) : List Part := if slotKeyed v then [.log] else []
def slotIx (v : Word) : List Nat := if slotKeyed v then [P.MEM_NVMCECNT, P.MEM_NVMSTAT, P.MEM_NVMERR, P.MGMT_LOGDROP] else []

/-- The operation draws random words (R493, R498). -/
def drawing (v : Word) : Prop := opOf v = 9 ∨ (opOf v = 14 ∧ ksrc v = 3)

def crIx : List Nat := every 0x1C00 1 256

/-- An operation has ended with a CODE (R496): BUSY clear, DONE, OWNER, LASTOP, OPCNT and the interrupt. -/
def ended (op : Nat) (slot : BitVec 4) (owner : Dom) (code : Nat) (s t : State) : Prop :=
  t.crypt.op = none ∧ bit t P.CRYPT_STATUS 0 = false ∧ bit t P.CRYPT_STATUS 1 = true ∧ ((t.par P.CRYPT_STATUS).extractLsb' 2 5).toNat = code ∧
    (t.par P.CRYPT_STATUS).extractLsb' 10 4 = owner ∧
    t.par P.CRYPT_LASTOP = BitVec.ofNat 36 (op + 2 ^ 5 * slot.toNat + 2 ^ 9 * owner.toNat + 2 ^ 13 * code) ∧ t.par P.CRYPT_OPCNT = s.par P.CRYPT_OPCNT + 1 ∧
    (bit s P.CRYPT_IRQEN 0 = true → t.umber.ipend.getLsbD 19 = true)

/-- CRYPT.CMD (R492, R494, R497, R499, R502, R511). -/
def ciphers : Prop :=
  -- the operation starts: BUSY, its owner, and the input words it expects
  (∀ (m : Master) (v : Word), eachOp m v fun r op => opOf v = op →
    Accepts r m P.CRYPT_CMD v (.crypt :: slotParts v) (slotIx v ++ crIx)
      (fun acc s => cmdGood v ∧ s.crypt.op = none ∧ s.crypt.inFifo = [] ∧ ¬ lengthBad v s ∧ keyReady v acc.dom s ∧ (drawing v → bit s P.RNG_STATUS 1 = false))
      (fun acc s t => bit t P.CRYPT_STATUS 0 = true ∧ (t.par P.CRYPT_STATUS).extractLsb' 10 4 = acc.dom ∧
        (∃ o, t.crypt.op = some o ∧ o.cmd = v.extractLsb' 0 20 ∧ o.owner = acc.dom ∧ o.need = BitVec.ofNat 23 (inputOf v s) ∧ o.got = [] ∧ o.outPend = [] ∧
          (keyless (opOf v) = false → ksrc v = 1 → o.key = s.crypt.keys) ∧ (keyless (opOf v) = false → opOf v ≠ 14 → ksrc v = 2 → o.key = s.crypt.kt)) ∧
        t.crypt.outFifo = (if opOf v = 13 then [] else s.crypt.outFifo) ∧ t.crypt.keys = (if opOf v = 13 then Vector.replicate 8 0 else s.crypt.keys) ∧
        t.crypt.kt = (if opOf v = 13 then Vector.replicate 8 0 else s.crypt.kt) ∧ (opOf v = 13 → t.par P.CRYPT_KEYDOM = 0))) ∧
  -- a length error ends it at once with CODE 8
  (∀ (m : Master) (v : Word), eachOp m v fun r op => opOf v = op → Accepts r m P.CRYPT_CMD v [.crypt, .ipend] crIx
    (fun _ s => cmdGood v ∧ s.crypt.op = none ∧ lengthBad v s)
    (fun acc s t => ended op (slotOf v) acc.dom 8 s t ∧ t.crypt = s.crypt)) ∧
  -- a key denied ends it with CODE 2, an empty or damaged slot with CODE 3
  (∀ (m : Master) (v : Word), eachOp m v fun r op => opOf v = op → Accepts r m P.CRYPT_CMD v ([.crypt, .ipend] ++ slotParts v) (slotIx v ++ crIx)
    (fun acc s => cmdGood v ∧ s.crypt.op = none ∧ ¬ lengthBad v s ∧ keyDenied v acc.dom s)
    (fun acc s t => ended op (slotOf v) acc.dom 2 s t ∧ t.crypt = s.crypt)) ∧
  (∀ (m : Master) (v : Word), eachOp m v fun r op => opOf v = op → Accepts r m P.CRYPT_CMD v [.crypt, .ipend, .log] ([P.MEM_NVMCECNT, P.MEM_NVMSTAT, P.MEM_NVMERR, P.MGMT_LOGDROP] ++ crIx)
    (fun acc s => cmdGood v ∧ s.crypt.op = none ∧ ¬ lengthBad v s ∧ keyBad v acc.dom s)
    (fun acc s t => ended op (slotOf v) acc.dom 3 s t ∧ t.crypt = s.crypt)) ∧
  -- after an alarm, sign and WRAP with generation end with CODE 5
  (∀ (m : Master) (v : Word), eachOp m v fun r op => opOf v = op → Accepts r m P.CRYPT_CMD v ([.crypt, .ipend] ++ slotParts v) (slotIx v ++ crIx)
    (fun acc s => cmdGood v ∧ s.crypt.op = none ∧ drawing v ∧ keyReady v acc.dom s ∧ bit s P.RNG_STATUS 1 = true)
    (fun acc s t => ended op (slotOf v) acc.dom 5 s t ∧ t.crypt = s.crypt)) ∧
  -- a command while an operation runs is ignored with CMDREJ, except the owner's CLEAR; so is one whose fields are out of range
  (∀ (m : Master) (v : Word), eachOp m v fun r op => opOf v = op → Accepts r m P.CRYPT_CMD v [] [P.CRYPT_STATUS]
    (fun acc s => ¬ cmdGood v ∨ ∃ o, s.crypt.op = some o ∧ ¬ (op = 13 ∧ o.owner = acc.dom))
    (fun _ s t => bit t P.CRYPT_STATUS 7 = true ∧ (t.par P.CRYPT_STATUS).extractLsb' 0 7 = (s.par P.CRYPT_STATUS).extractLsb' 0 7)) ∧
  -- CLEAR from the owner ends the running operation with CODE 7 and runs
  (∀ (m : Master) (v : Word), opOf v = 13 → Accepts (.clear m v) m P.CRYPT_CMD v [.crypt, .ipend] crIx
    (fun acc s => cmdGood v ∧ ∃ o, s.crypt.op = some o ∧ o.owner = acc.dom)
    (fun acc s t => t.crypt.inFifo = [] ∧ t.crypt.outFifo = [] ∧ t.crypt.keys = Vector.replicate 8 0 ∧ t.crypt.kt = Vector.replicate 8 0 ∧ t.par P.CRYPT_KEYDOM = 0 ∧
      bit t P.CRYPT_STATUS 0 = true ∧ bit t P.CRYPT_STATUS 1 = true ∧ ((t.par P.CRYPT_STATUS).extractLsb' 2 5).toNat = 7 ∧ t.par P.CRYPT_OPCNT = s.par P.CRYPT_OPCNT + 1 ∧
      ∃ o, t.crypt.op = some o ∧ o.cmd = v.extractLsb' 0 20 ∧ o.owner = acc.dom ∧ o.need = 0))

/-- The payload block that OP 1, 2 or 3 forms from 16 bytes, the `j`-th of the payload. -/
def blockOut (o : CryptOp) (j : Nat) (bs : List Byte) : List Byte :=
  if o.cmd.extractLsb' 0 5 = 1 then aesEnc o.rks bs
  else if o.cmd.extractLsb' 0 5 = 2 then aesDec o.rks bs
  else xorBytes bs (aesEnc o.rks (natBe 16 (beNat o.ivBytes + j)))

/-- Input and output (R325, R493, R495). -/
def cipherData : Prop :=
  -- CIPHER_IN_WRITE: one word fewer is expected; no word is lost
  (∀ (m : Master) (v : Word), Accepts (.cipherInWrite m v) m P.CRYPT_IN v [.crypt, .rng] crIx
    (fun _ s => ∃ o, s.crypt.op = some o ∧ o.nonce = [] ∧ ¬ (o.cmd.extractLsb' 0 5 = 9 ∨ o.cmd.extractLsb' 0 5 = 14))
    (fun _ s t => ∃ o, s.crypt.op = some o ∧ ∃ p, t.crypt.op = some p ∧ p.need = o.need - 1 ∧ p.got ++ t.crypt.inFifo = o.got ++ s.crypt.inFifo ++ [v.extractLsb' 0 32] ∧
      p.cmd = o.cmd ∧ p.owner = o.owner ∧ t.crypt.keys = s.crypt.keys ∧ t.crypt.kt = s.crypt.kt ∧ t.rng = s.rng)) ∧
  -- the fourth word of a block of OP 1, 2 or 3 forms its output
  (∀ (m : Master) (v : Word), Accepts (.cipherInWrite m v) m P.CRYPT_IN v [.crypt] crIx
    (fun _ s => s.crypt.inFifo = [] ∧ s.crypt.outFifo.length ≤ 12 ∧ ∃ o, s.crypt.op = some o ∧ (o.cmd.extractLsb' 0 5 = 1 ∨ o.cmd.extractLsb' 0 5 = 2 ∨ o.cmd.extractLsb' 0 5 = 3) ∧
      o.outPend = [] ∧ o.got.length % 4 = 3 ∧ 4 * o.got.length + 4 ≤ o.len.toNat)
    (fun _ s t => t.crypt.inFifo = [] ∧ ∃ o, s.crypt.op = some o ∧
      t.crypt.outFifo = s.crypt.outFifo ++
        bytesToWords (blockOut o (o.got.length / 4) (wordsToBytes (o.got.drop (4 * (o.got.length / 4)) ++ [v.extractLsb' 0 32]))))) ∧
  -- any other write to IN is refused: INERR, counted in CNT7
  (∀ (m : Master) (v : Word), ∀ (acc : Accessor) (s : State), arriving m P.CRYPT_IN v s = some acc → taken acc P.CRYPT_IN s →
    (s.writeRefusal acc P.CRYPT_IN v = 2 ∨ s.writeRefusal acc P.CRYPT_IN v = 6) →
    ∃ t, exec (.cipherInWrite m v) s = .next t ∧ answered m P.CRYPT_IN (s.writeRefusal acc P.CRYPT_IN v) s t ∧ bit t P.CRYPT_STATUS 8 = true ∧ t.crypt = s.crypt ∧
      (t.par (P.CRYPT_CNT + 7)).toNat = min ((s.par (P.CRYPT_CNT + 7)).toNat + 1) (2 ^ 36 - 1) ∧
      Untouched (queueOf m) [P.SYS_PERR, P.SYS_PERRCNT, P.CRYPT_STATUS, P.CRYPT_CNT + 7] s t) ∧
  -- CIPHER_OUT_READ pops one word; an empty OUT sets OUTERR
  (∀ m : Master, Reads (.cipherOutRead m) m P.CRYPT_OUT [.crypt] crIx (fun _ s => s.crypt.op = none ∧ s.crypt.outFifo ≠ [])
    (fun s t => t.crypt = { s.crypt with outFifo := s.crypt.outFifo.tail } ∧ t.par P.CRYPT_STATUS = s.par P.CRYPT_STATUS)) ∧
  (∀ m : Master, Reads (.cipherOutRead m) m P.CRYPT_OUT [.crypt] crIx
    (fun _ s => s.crypt.outFifo ≠ [] ∧ ∃ o, s.crypt.op = some o ∧ o.cmd.extractLsb' 0 5 ≠ 9 ∧ o.cmd.extractLsb' 0 5 ≠ 14 ∧ 16 ≤ s.crypt.outFifo.length)
    (fun s t => t.crypt.outFifo.take 15 = s.crypt.outFifo.tail.take 15 ∧ ∃ o, s.crypt.op = some o ∧ ∀ w, o.outPend.head? = some w → t.crypt.outFifo[15]? = some w)) ∧
  (∀ m : Master, Reads (.cipherOutRead m) m P.CRYPT_OUT [] [P.CRYPT_STATUS, P.CRYPT_CNT + 7] (fun _ s => s.crypt.outFifo = [])
    (fun s t => bit t P.CRYPT_STATUS 9 = true ∧ (t.par (P.CRYPT_CNT + 7)).toNat = min ((s.par (P.CRYPT_CNT + 7)).toNat + 1) (2 ^ 36 - 1)))

/-- The operation has all its input, its output so far has left, and OUT is empty. -/
def atEnd (op : Nat) (s : State) : Option CryptOp :=
  match s.crypt.op with
  | some o =>
    if (o.cmd.extractLsb' 0 5).toNat = op ∧ o.need = 0 ∧ s.crypt.inFifo = [] ∧ o.outPend = [] ∧ s.crypt.outFifo = [] ∧ s.cipherOn = true then some o else none
  | none => none

def opSlot (o : CryptOp) : BitVec 4 := o.cmd.extractLsb' 5 4

/-- The operation ends with a CODE and these words in OUT; KT stays. -/
def endsWith (op code : Nat) (out : CryptOp → List (BitVec 32)) (needs : CryptOp → State → Prop) : Prop :=
  Happens .cipherOpDone [.crypt, .ipend] crIx (fun s => ∃ o, atEnd op s = some o ∧ needs o s)
    (fun s t => ∃ o, atEnd op s = some o ∧ ended op (opSlot o) o.owner code s t ∧ t.crypt.outFifo = out o ∧ t.crypt.keys = s.crypt.keys ∧ t.crypt.kt = s.crypt.kt)

/-- The private key, and a 32-byte string of the input from word `w` as an integer (R491, R493). -/
def privateOf (o : CryptOp) : Nat := beNat (wordsToBytes o.key.toList)
def intAt (o : CryptOp) (w : Nat) : Nat := beNat (wordsToBytes ((o.got.drop w).take 8))
def intWords (v : Nat) : List (BitVec 32) := bytesToWords (natBe 32 v)
def coords (q : Point) : List (BitVec 32) := match q with | some (x, y) => intWords x ++ intWords y | none => []

/-- The input as bytes: a string of `n` bytes from word `w`. -/
def bytesAt (o : CryptOp) (w n : Nat) : List Byte := (wordsToBytes (o.got.drop w)).take n

/-- CIPHER_OP_DONE: what each operation ends with (R493, R496, R498, R508). -/
def cipherEnds : Prop :=
  endsWith 1 0 (fun _ => []) (fun _ _ => True) ∧ endsWith 2 0 (fun _ => []) (fun _ _ => True) ∧
  -- CTR writes the counter after the last block back to IV0-3
  Happens .cipherOpDone [.crypt, .ipend] crIx (fun s => (atEnd 3 s).isSome = true)
    (fun s t => ∃ o, atEnd 3 s = some o ∧ ended 3 (opSlot o) o.owner 0 s t ∧
      ∀ i : Fin 4, (t.par (P.CRYPT_IV + i.val)).extractLsb' 0 32 = (bytesToWords (natBe 16 (beNat o.ivBytes + (o.len.toNat + 15) / 16))).getD i.val 0) ∧
  -- CCM: the MIC, or its check
  endsWith 4 0 (fun o => bytesToWords (ccmMic o.rks (ccml (o.cmd.setWidth 36) + 2) (2 * micOf (o.cmd.setWidth 36) + 2) o.nonceBytes (bytesAt o 0 o.alen.toNat)
    (bytesAt o ((o.alen.toNat + 3) / 4) o.len.toNat))) (fun o _ => o.got.length = (o.alen.toNat + 3) / 4 + (o.len.toNat + 3) / 4) ∧
  (∀ good : Bool, endsWith 5 (if good then 0 else 1) (fun _ => []) (fun o _ =>
    let l := ccml (o.cmd.setWidth 36) + 2
    let mm := 2 * micOf (o.cmd.setWidth 36) + 2
    let a := (o.alen.toNat + 3) / 4
    let p := (o.len.toNat + 3) / 4
    o.got.length = a + p + (mm + 3) / 4 ∧
      (good = true ↔ ccmMic o.rks l mm o.nonceBytes (bytesAt o 0 o.alen.toNat) (ccmCrypt o.rks l o.nonceBytes (bytesAt o a o.len.toNat)) = bytesAt o (a + p) mm))) ∧
  endsWith 6 0 (fun o => bytesToWords (sha256 (bytesAt o 0 o.len.toNat))) (fun o _ => o.got.length = (o.len.toNat + 3) / 4) ∧
  endsWith 7 0 (fun o => bytesToWords (hmac o.keyBytes (bytesAt o 0 o.len.toNat))) (fun o _ => o.got.length = (o.len.toNat + 3) / 4) ∧
  -- DERIVE: into KT, which records the owner
  Happens .cipherOpDone [.crypt, .ipend] crIx (fun s => ∃ o, atEnd 8 s = some o ∧ o.got.length = (o.len.toNat + 3) / 4)
    (fun s t => ∃ o, atEnd 8 s = some o ∧ ended 8 (opSlot o) o.owner 0 s t ∧ t.crypt.outFifo = [] ∧ keyHeld t true = some o.owner ∧
      t.crypt.kt.toList = bytesToWords (hmac o.keyBytes (bytesAt o 0 o.len.toNat))) ∧
  -- ECDSA sign with its nonce drawn; after an alarm CODE 5
  (∀ r q : Nat, endsWith 9 0 (fun _ => intWords r ++ intWords q) (fun o s => bit s P.RNG_STATUS 1 = false ∧ o.got.length = 8 ∧ o.nonce.length = 8 ∧
    ecdsaSign (privateOf o) (intAt o 0) (beNat (wordsToBytes o.nonce)) = some (r, q))) ∧
  endsWith 9 5 (fun _ => []) (fun _ s => bit s P.RNG_STATUS 1 = true) ∧
  -- verify: CODE 0 valid, 1 invalid, 4 with a point that is not on P-256
  (∀ good : Bool, endsWith 10 (if good then 0 else 1) (fun _ => []) (fun o _ => o.got.length = 40 ∧ onCurve (intAt o 8) (intAt o 16) = true ∧
    ecdsaVerify (intAt o 0) (intAt o 8) (intAt o 16) (intAt o 24) (intAt o 32) = good)) ∧
  endsWith 10 4 (fun _ => []) (fun o _ => o.got.length = 40 ∧ onCurve (intAt o 8) (intAt o 16) = false) ∧
  -- ECDH: the shared x, into OUT or with KTOUT into KT
  endsWith 11 0 (fun o => (coords (pointMul 256 (privateOf o % p256n) (some (intAt o 0, intAt o 8)))).take 8) (fun o _ => o.cmd.getLsbD 15 = false ∧ o.got.length = 16 ∧
    onCurve (intAt o 0) (intAt o 8) = true ∧ (pointMul 256 (privateOf o % p256n) (some (intAt o 0, intAt o 8))).isSome = true) ∧
  Happens .cipherOpDone [.crypt, .ipend] crIx (fun s => ∃ o, atEnd 11 s = some o ∧ o.cmd.getLsbD 15 = true ∧ o.got.length = 16 ∧ onCurve (intAt o 0) (intAt o 8) = true ∧
      (pointMul 256 (privateOf o % p256n) (some (intAt o 0, intAt o 8))).isSome = true)
    (fun s t => ∃ o, atEnd 11 s = some o ∧ ended 11 (opSlot o) o.owner 0 s t ∧ t.crypt.outFifo = [] ∧ keyHeld t true = some o.owner ∧
      t.crypt.kt.toList = (coords (pointMul 256 (privateOf o % p256n) (some (intAt o 0, intAt o 8)))).take 8) ∧
  endsWith 11 4 (fun _ => []) (fun o _ => o.got.length = 16 ∧ onCurve (intAt o 0) (intAt o 8) = false) ∧
  endsWith 12 0 (fun o => coords (pointMul 256 (privateOf o % p256n) (some p256g))) (fun o _ => (pointMul 256 (privateOf o % p256n) (some p256g)).isSome = true) ∧
  endsWith 13 0 (fun _ => []) (fun _ _ => True) ∧
  -- WRAP: 15 words of body
  Happens .cipherOpDone [.crypt, .ipend] crIx (fun s => ∃ o, atEnd 14 s = some o ∧ ksrc (o.cmd.setWidth 36) ≠ 3 ∧ o.got.length = 1)
    (fun s t => ∃ o, atEnd 14 s = some o ∧ ended 14 (opSlot o) o.owner 0 s t ∧
      t.crypt.outFifo = s.wrapBody (opSlot o) (o.got.getD 0 0)
        (if (o.got.getD 0 0).extractLsb' 0 4 = 1 then (wordsToBytes o.key.toList).take 16 ++ List.replicate 16 0 else wordsToBytes o.key.toList))

/-- The conditioner: stage j + 1 is bit j (R500). -/
def conditioned (r : BitVec 64) (b : Bool) : BitVec 64 :=
  (r <<< 1) ||| (BitVec.ofBool (xor (xor (xor (xor (r.getLsbD 63) (r.getLsbD 62)) (r.getLsbD 60)) (r.getLsbD 59)) b)).setWidth 64

/-- Its state after samples, and bit 63 after every 8th of them. -/
def conditioner (r : BitVec 64) (xs : List Bool) : BitVec 64 := xs.foldl conditioned r
def outBit (r : BitVec 64) (xs : List Bool) (k : Nat) : Bool := (conditioner r (xs.take (8 * k + 8))).getLsbD 63

/-- The run of identical samples after each of `xs`, from the run before them. -/
def runs : Bool → Nat → List Bool → List Nat
  | _, _, [] => []
  | l, n, b :: bs => let k := if n ≠ 0 ∧ b = l then n + 1 else 1; k :: runs b k bs

def runsOf (s : State) (xs : List Bool) : List Nat := runs s.rng.last s.rng.run.toNat xs
def samplesOf {n : Nat} (x : BitVec n) : List Bool := (List.range n).map (fun i => x.getLsbD i)
def countTrue (xs : List Bool) : Nat := (xs.filter id).length

/-- The generator runs on its raw source, and no operation and no challenge waits for its words. -/
def rawSource (s : State) : Prop :=
  s.cipherOn = true ∧ bit s P.RNG_STATUS 1 = false ∧ bit s P.RNG_CTL 0 = false ∧ s.life.chalWait = false ∧ s.crypt.op = none

/-- Runs of fewer than 40 samples alone: the next word forms. -/
def formsWord (x : BitVec 288) (s : State) : Prop :=
  rawSource s ∧ bit s P.RNG_CTL 1 = false ∧ s.rng.passed = true ∧ s.rng.run.toNat < 40 ∧ ∀ k ∈ runsOf s (samplesOf x), k < 40

/-- The word that 288 samples form: 36 bits, first bit in bit 0. -/
def formed (x : BitVec 288) (s : State) (w : Word) : Prop := ∀ k < 36, w.getLsbD k = outBit s.rng.r (samplesOf x) k

/-- A read of RNG.DATA that a master's masks permit, outside END OF LIFE. -/
def readsRandom (m : Master) (s : State) : Prop := (reading m P.RNG_DATA s).isSome = true ∧ s.lifeState ≠ 3

/-- The master makes no read that waits or has its answer. -/
def noneWaits (m : Master) (s : State) : Prop := ∀ e ∈ s.rng.waiters, e.1 ≠ m

/-- The random number generator (R500-R503). -/
def randomness : Prop :=
  -- RNG_CTL_WRITE empties the FIFO and starts the start-up test again
  (∀ (m : Master) (v : Word), Accepts (.rngCtlWrite m v) m P.RNG_CTL v [.rng] [P.RNG_CTL, P.RNG_STATUS] (fun _ _ => True)
    (fun _ s t => t.rng.fifo = [] ∧ t.rng.passed = false ∧ t.rng.samples = 0 ∧ t.rng.run = 0 ∧ t.rng.ones = 0 ∧ t.par P.RNG_CTL = v &&& 3 ∧ bit t P.RNG_STATUS 0 = false ∧
      (t.par P.RNG_STATUS).extractLsb' 4 5 = 0 ∧ bit t P.RNG_STATUS 1 = bit s P.RNG_STATUS 1)) ∧
  -- RNG_STARTUP_PASS: no run of 40 and fewer than 624 samples of one value among the 1,024
  (∀ x : BitVec 1024, Happens (.rngStartupPass x) [.rng] [P.RNG_APCNT, P.RNG_RCMAX]
    (fun s => rawSource s ∧ s.rng = RngSt.init ∧ (∀ k ∈ runsOf s (samplesOf x), k < 40) ∧ countTrue (samplesOf x) < 624 ∧ 400 < countTrue (samplesOf x))
    (fun s t => t.rng.passed = true ∧ t.rng.fifo = [] ∧ t.rng.r = conditioner s.rng.r (samplesOf x) ∧
      (t.par P.RNG_APCNT).toNat = max (countTrue (samplesOf x)) (1024 - countTrue (samplesOf x)) ∧ t.par P.RNG_RCMAX = 0)) ∧
  -- RNG_WORD: 36 bits from 288 samples, first bit in bit 0; READY
  (∀ x : BitVec 288, Happens (.rngWord x) [.rng] [P.RNG_STATUS, P.RNG_RCMAX]
    (fun s => formsWord x s ∧ s.rng.fifo.length < 16 ∧ s.rng.waiters = [])
    (fun s t => (∃ w, formed x s w ∧ t.rng.fifo = s.rng.fifo ++ [w]) ∧
      t.rng.r = conditioner s.rng.r (samplesOf x) ∧ bit t P.RNG_STATUS 0 = true ∧ ((t.par P.RNG_STATUS).extractLsb' 4 5).toNat = s.rng.fifo.length + 1 ∧
      (t.par P.RNG_RCMAX).toNat = (runsOf s (samplesOf x)).foldl max (s.par P.RNG_RCMAX).toNat)) ∧
  -- with 16 words in the FIFO none is formed, and the samples are tested all the same
  (∀ x : BitVec 288, Happens (.rngWord x) [.rng] [P.RNG_RCMAX]
    (fun s => formsWord x s ∧ 16 ≤ s.rng.fifo.length ∧ s.rng.waiters = [])
    (fun s t => t.rng.fifo = s.rng.fifo ∧ t.rng.r = conditioner s.rng.r (samplesOf x) ∧ (runsOf s (samplesOf x)).getLast? = some t.rng.run.toNat ∧
      (t.par P.RNG_RCMAX).toNat = (runsOf s (samplesOf x)).foldl max (s.par P.RNG_RCMAX).toNat)) ∧
  -- a read that waits takes the word
  (∀ (x : BitVec 288) (m : Master), Happens (.rngWord x) [.rng] [P.RNG_STATUS, P.RNG_RCMAX, P.RNG_WORDCNT]
    (fun s => formsWord x s ∧ s.rng.fifo = [] ∧ s.rng.waiters = [(m, .waiting)])
    (fun s t => (∃ w, formed x s w ∧ t.rng.waiters = [(m, .word w)]) ∧ t.rng.fifo = [] ∧ t.par P.RNG_WORDCNT = s.par P.RNG_WORDCNT + 1)) ∧
  -- RNG_ALARM: the 40th identical sample; the FIFO empties
  (∀ xs : List Bool, Happens (.rngAlarm xs) [.rng, .ipend, .log] [P.RNG_STATUS, P.RNG_ALMINFO, P.RNG_RCMAX, P.MGMT_LOGDROP]
    (fun s => rawSource s ∧ s.rng.run.toNat < 40 ∧ s.rng.passed = true ∧ (runsOf s xs).getLast? = some 40 ∧ ∀ k ∈ (runsOf s xs).dropLast, k < 40)
    (fun s t => bit t P.RNG_STATUS 1 = true ∧ bit t P.RNG_STATUS 0 = false ∧ (t.par P.RNG_STATUS).extractLsb' 2 2 = 3 ∧ t.rng.fifo = [] ∧
      t.rng.waiters = s.rng.waiters.map (fun e => if e.2 = .waiting then (e.1, .failed) else e) ∧ (t.par P.RNG_RCMAX).toNat = max (s.par P.RNG_RCMAX).toNat 40 ∧
      t.par P.RNG_ALMINFO = ((40 : BitVec 11) ++ (s.rng.samples + BitVec.ofNat 20 xs.length - 1)).setWidth 36 ∧ t.umber.ipend.getLsbD 20 = true)) ∧
  -- RNG_DATA_READ pops one word
  (∀ m : Master, Happens (.rngDataRead m) [.rng] [P.RNG_STATUS, P.RNG_WORDCNT]
    (fun s => readsRandom m s ∧ noneWaits m s ∧ s.cipherOn = true ∧ bit s P.RNG_STATUS 1 = false ∧ s.rng.fifo ≠ [])
    (fun s t => t.rng = { s.rng with fifo := s.rng.fifo.tail } ∧ t.par P.RNG_WORDCNT = s.par P.RNG_WORDCNT + 1 ∧
      (t.par P.RNG_STATUS).extractLsb' 4 5 = BitVec.ofNat 5 s.rng.fifo.tail.length)) ∧
  -- with no word there it waits in its turn, and asked again takes the answer that has come
  (∀ m : Master, Happens (.rngDataRead m) [.rng] [] (fun s => readsRandom m s ∧ noneWaits m s ∧ s.cipherOn = true ∧ bit s P.RNG_STATUS 1 = false ∧ s.rng.fifo = [])
    (fun s t => t.rng = { s.rng with waiters := s.rng.waiters ++ [(m, .waiting)] })) ∧
  (∀ (m : Master) (a : RngWait), a ≠ .waiting → Happens (.rngDataRead m) [.rng] [] (fun s => readsRandom m s ∧ s.rng.waiters.find? (fun e => decide (e.1 = m)) = some (m, a))
    (fun s t => t.rng = { s.rng with waiters := s.rng.waiters.filter (fun e => decide (e.1 ≠ m)) })) ∧
  -- one that meets the alarm or an unpowered island, or is refused in END OF LIFE, takes nothing
  (∀ m : Master, Happens (.rngDataRead m) [] [P.SYS_PERR, P.SYS_PERRCNT]
    (fun s => (reading m P.RNG_DATA s).isSome = true ∧ noneWaits m s ∧ (bit s P.RNG_STATUS 1 = true ∨ s.cipherOn = false ∨ (s.lifeState = 3 ∧ m ≠ .sepia))) (fun _ _ => True))

end Sys2Proof.Claims
end

