-- ==== Sys2Proof/Safety/UmberFrame.lean ====
section
/-!
DEFINITION. Sys2Proof/Safety/UmberFrame.lean: the words in which the statements about Umber's instructions are said: flags, what stays, where
the program counter goes, and a table row as condition, places written and values.
-/

namespace Sys2Proof.Claims

open Sys2Proof.Machine

/-! ### Flags of a state (Table UMM-3) -/

def flag (t : State) (i : Nat) : Bool := t.umber.sr.getLsbD i
def z (t : State) : Bool := flag t 2
def n (t : State) : Bool := flag t 3
def c (t : State) : Bool := flag t 4
def v (t : State) : Bool := flag t 5
def sv (t : State) : Bool := flag t 6

/-! ### What stays -/

/-- Umber's registers but those at the places `ls`. IPEND may gain the WAKEM source, whose interrupt waits for the first instruction (R413). -/
structure RegsKept (ls : List Loc) (s t : State) : Prop where
  d : ∀ r, .d r ∉ ls → t.umber.d[r] = s.umber.d[r]
  p : ∀ r, .p r ∉ ls → t.umber.p[r] = s.umber.p[r]
  n : ∀ r, .n r ∉ ls → t.umber.n[r] = s.umber.n[r]
  l : ∀ r, .l r ∉ ls → t.umber.l[r] = s.umber.l[r]
  ac : ∀ r, .ac r ∉ ls → t.umber.ac[r] = s.umber.ac[r]
  flags : .ctl 0 ∉ ls → ∀ i : Fin 12, .flag i ∉ ls → flag t i.val = flag s i.val
  status : .ctl 0 ∉ ls → ∀ k, 12 ≤ k → flag t k = flag s k
  ctl : ∀ k : Fin 17, k ≠ 0 → k ≠ 12 → .ctl k ∉ ls → t.umber.ctl k = s.umber.ctl k
  pend : .ctl 12 ∉ ls → ∀ k, k ≠ 10 → t.umber.ipend.getLsbD k = s.umber.ipend.getLsbD k
  run : t.umber.run = s.umber.run

/-- Every word of data SRAM, the tile and both NVM macros reads as before, poison marks included. -/
structure CellsKept (s t : State) : Prop where
  sram : ∀ a, t.sramCell a = s.sramCell a
  tile : ∀ a, t.tileCell a = s.tileCell a
  prog : ∀ a, t.progCell a = s.progCell a
  dnvm : ∀ a, t.dnvmCell a = s.dnvmCell a
  poison : ∀ a, t.poisoned a = s.poisoned a

/-- The buffers, lock bits, bit RAM and the reservation of Umber. -/
structure BuffersKept (s t : State) : Prop where
  sb : t.umber.sb = s.umber.sb
  pwq : t.umber.pwq = s.umber.pwq
  locks : t.umber.locks = s.umber.locks
  bitRam : t.umber.bitRam = s.umber.bitRam
  resv : t.umber.resv = s.umber.resv

/-- The parameters that the fetch of an instruction and its end may change: the record of a corrected NVM word (R308), WAKE.STATUS.WAKEM (R413), and the
traces of the branch taken or the exception entered before it (R629). -/
def fetchKeeps (i : Nat) : Prop :=
  i ≠ P.MEM_NVMCECNT ∧ i ≠ P.MEM_NVMSTAT ∧ i ≠ P.WAKE_STATUS ∧ i ≠ P.DBG_TRCIDX ∧ ¬ (P.DBG_TRC ≤ i ∧ i < P.DBG_TRC + 256) ∧
    i ≠ P.DBG_EXCIDX ∧ ¬ (P.DBG_EXC ≤ i ∧ i < P.DBG_EXC + 16)

/-- Every other block of the part, with the parameters that `keep` names. -/
structure BlocksKept (keep : Nat → Prop) (s t : State) : Prop where
  params : ∀ i, keep i → t.par i = s.par i
  pending : t.pending = s.pending
  masks : t.masks = s.masks
  bank : t.bank = s.bank
  pwr : t.pwr = s.pwr
  time : t.time = s.time
  pier : t.pier = s.pier
  mgmt : t.mgmt = s.mgmt
  dma : t.dma = s.dma
  rev : t.rev = s.rev
  radio : t.radio = s.radio
  wake : t.wake = s.wake
  trs : t.trs = s.trs
  crypt : t.crypt = s.crypt
  rng : t.rng = s.rng
  life : t.life = s.life
  host : t.host = s.host
  pod : t.pod = s.pod
  face : t.face = s.face
  gpio : t.gpio = s.gpio
  lines : t.lines = s.lines

/-- Past an instruction that is no branch (R203): the next address, or through the slots of the branch before it. -/
def flowsOn (s t : State) : Prop :=
  match s.umber.slots with
  | none => t.umber.pc = s.umber.pc + 1 ∧ t.umber.slots = none
  | some k =>
    if k.slot = 1 then t.umber.pc = s.umber.pc + 1 ∧ t.umber.slots = some { k with slot := 2 }
    else if k.taken then t.umber.pc = k.target ∧ t.umber.slots = none
    else t.umber.pc = s.umber.pc + 1 ∧ t.umber.slots = none

/-- What an instruction that only writes registers and flags at `ls` leaves. -/
structure OnlyRegs (ls : List Loc) (s t : State) : Prop where
  regs : RegsKept ls s t
  cells : CellsKept s t
  buffers : BuffersKept s t
  blocks : BlocksKept fetchKeeps s t
  flow : flowsOn s t

/-! ### Table rows -/

/-- One row of an instruction table: its condition, the places it writes, and what they hold afterward. -/
structure Row where
  cond : Cond
  writes : List Loc
  holds : State → State → Prop

/-- Every instruction of a table completes with its row's values wherever it issues with its condition true, and changes nothing else. -/
def Completes (rows : Instr → Option Row) : Prop :=
  ∀ (i : Instr) (r : Row) (s : State), rows i = some r → s.issues → condTrue r.cond s = true →
    ∃ t, exec i s = .next t ∧ r.holds s t ∧ OnlyRegs r.writes s t

/-- With its condition false an instruction of the table completes and changes nothing (R196). -/
def Skips (rows : Instr → Option Row) : Prop :=
  ∀ (i : Instr) (r : Row) (s : State), rows i = some r → s.issues → condTrue r.cond s = false →
    ∃ t, exec i s = .next t ∧ OnlyRegs [] s t

end Sys2Proof.Claims
end

