-- ==== Sys2Proof/Safety/UmberRows.lean ====
section
/-!
DEFINITION. Sys2Proof/Safety/UmberRows.lean: the rows of the instruction tables of Umber that read and write registers only, in the spec's terms:
exact integers, bits and fields (06 Tables UMI-4 to UMI-7; 07 Tables UMD-1 and UMD-5).
-/

namespace Sys2Proof.Claims

open Sys2Proof.Machine

/-! ### Tables UMI-4 to UMI-6: results with ZNCV -/

/-- A signed result under the saturation bit (R193, R199): in range it is exact and V clears; outside, S = 1 gives the nearest end with SV and V set, S = 0 wraps
with V set and SV as it was. Z and N come from the result. -/
def signedResult (sat : Bool) (rd : Fin 16) (x : Int) (cout : Bool) (s t : State) : Prop :=
  let r := t.umber.d[rd]
  z t = decide (r = 0) ∧ n t = r.msb ∧ c t = cout ∧
  (-2 ^ 35 ≤ x ∧ x < 2 ^ 35 → r.toInt = x ∧ v t = false ∧ sv t = sv s) ∧
  (x < -2 ^ 35 ∨ 2 ^ 35 ≤ x → v t = true) ∧
  (x < -2 ^ 35 → sat = true → r = 0x800000000#36 ∧ sv t = true) ∧
  (2 ^ 35 ≤ x → sat = true → r = 0x7FFFFFFFF#36 ∧ sv t = true) ∧
  (x < -2 ^ 35 ∨ 2 ^ 35 ≤ x → sat = false → r = BitVec.ofInt 36 x ∧ sv t = sv s)

def signedRow (cc : Cond) (sat : Bool) (rd : Fin 16) (x : State → Int) (cout : State → Bool) : Row :=
  { cond := cc, writes := [.d rd, .flag 2, .flag 3, .flag 4, .flag 5, .flag 6], holds := fun s t => signedResult sat rd (x s) (cout s) s t }

def carry (s : State) : Bool := s.rdFlag 4

/-- ADD, ADC, SUB, SBC, NEG, ABS, ADDI and MULQ: the exact result of each, and C: the carry out of bit 35, or not-borrow, or 0. -/
def sumRows : Instr → Option Row
  | .add cc sat rd ra rb => some (signedRow cc sat rd (fun s => (s.rdD ra).toInt + (s.rdD rb).toInt)
      (fun s => decide (2 ^ 36 ≤ (s.rdD ra).toNat + (s.rdD rb).toNat)))
  | .adc cc sat rd ra rb => some (signedRow cc sat rd (fun s => (s.rdD ra).toInt + (s.rdD rb).toInt + ((carry s).toNat : Int))
      (fun s => decide (2 ^ 36 ≤ (s.rdD ra).toNat + (s.rdD rb).toNat + (carry s).toNat)))
  | .sub cc sat rd ra rb => some (signedRow cc sat rd (fun s => (s.rdD ra).toInt - (s.rdD rb).toInt)
      (fun s => decide ((s.rdD rb).toNat ≤ (s.rdD ra).toNat)))
  | .sbc cc sat rd ra rb => some (signedRow cc sat rd (fun s => (s.rdD ra).toInt - (s.rdD rb).toInt - (1 - ((carry s).toNat : Int)))
      (fun s => decide ((s.rdD rb).toNat + (1 - (carry s).toNat) ≤ (s.rdD ra).toNat)))
  | .neg cc sat rd ra => some (signedRow cc sat rd (fun s => -(s.rdD ra).toInt) (fun s => decide (s.rdD ra = 0)))
  | .abs cc sat rd ra => some (signedRow cc sat rd (fun s => |(s.rdD ra).toInt|) (fun _ => false))
  | .addi cc sat rd w => some (signedRow cc sat rd (fun s => (s.rdD rd).toInt + w.toInt)
      (fun s => decide (2 ^ 36 ≤ (s.rdD rd).toNat + (w.signExtend 36).toNat)))
  | .mulq cc sat rd ra rb => some (signedRow cc sat rd (fun s => ((s.rdD ra).toInt * (s.rdD rb).toInt).tdiv (2 ^ 35)) (fun _ => false))
  | _ => none

/-- The flags of a − b with no result kept (R199): Z equality, N and V of the wrapped difference, C not-borrow. -/
def compareFlags (a b : Word) (s t : State) : Prop :=
  z t = decide (a = b) ∧ n t = (a - b).msb ∧ v t = decide (a.toInt - b.toInt < -2 ^ 35 ∨ 2 ^ 35 ≤ a.toInt - b.toInt) ∧
  c t = decide (b.toNat ≤ a.toNat) ∧ sv t = sv s

def compareRow (cc : Cond) (a b : State → Word) : Row :=
  { cond := cc, writes := [.flag 2, .flag 3, .flag 4, .flag 5], holds := fun s t => compareFlags (a s) (b s) s t }

def compareRows : Instr → Option Row
  | .cmp cc ra rb => some (compareRow cc (fun s => s.rdD ra) (fun s => s.rdD rb))
  | .cmpi cc rd w => some (compareRow cc (fun s => s.rdD rd) (fun _ => w.signExtend 36))
  | _ => none

/-! ### Results with ZN -/

/-- ZN: Z and N from the result, V cleared (R199). -/
def zn (r : Word) (t : State) : Prop := z t = decide (r = 0) ∧ n t = r.msb ∧ v t = false

def znRow (cc : Cond) (rd : Fin 16) (f : State → Word) : Row :=
  { cond := cc, writes := [.d rd, .flag 2, .flag 3, .flag 5], holds := fun s t => t.umber.d[rd] = f s ∧ zn (f s) t }

/-- TST and TSTI keep no result. -/
def testRow (cc : Cond) (f : State → Word) : Row :=
  { cond := cc, writes := [.flag 2, .flag 3, .flag 5], holds := fun s t => zn (f s) t }

/-- The logic rows, bit by bit. -/
def bitwise (f : Bool → Bool → Bool) (a b : Word) : Word := BitVec.ofFnLE (fun i : Fin 36 => f (a.getLsbD i.val) (b.getLsbD i.val))

def logicRows : Instr → Option Row
  | .and cc rd ra rb => some (znRow cc rd (fun s => bitwise (fun x y => x && y) (s.rdD ra) (s.rdD rb)))
  | .or cc rd ra rb => some (znRow cc rd (fun s => bitwise (fun x y => x || y) (s.rdD ra) (s.rdD rb)))
  | .xor cc rd ra rb => some (znRow cc rd (fun s => bitwise (fun x y => x != y) (s.rdD ra) (s.rdD rb)))
  | .andn cc rd ra rb => some (znRow cc rd (fun s => bitwise (fun x y => x && !y) (s.rdD ra) (s.rdD rb)))
  | .andi cc rd w => some (znRow cc rd (fun s => bitwise (fun x y => x && y) (s.rdD rd) (w.signExtend 36)))
  | .ori cc rd w => some (znRow cc rd (fun s => bitwise (fun x y => x || y) (s.rdD rd) (w.signExtend 36)))
  | .xori cc rd w => some (znRow cc rd (fun s => bitwise (fun x y => x != y) (s.rdD rd) (w.signExtend 36)))
  | .tst cc ra rb => some (testRow cc (fun s => bitwise (fun x y => x && y) (s.rdD ra) (s.rdD rb)))
  | .tsti cc rd w => some (testRow cc (fun s => bitwise (fun x y => x && y) (s.rdD rd) (w.signExtend 36)))
  | _ => none

/-- The signed and unsigned extrema, and the integer products. -/
def productRows : Instr → Option Row
  | .min cc rd ra rb => some (znRow cc rd (fun s => BitVec.ofInt 36 (min (s.rdD ra).toInt (s.rdD rb).toInt)))
  | .max cc rd ra rb => some (znRow cc rd (fun s => BitVec.ofInt 36 (max (s.rdD ra).toInt (s.rdD rb).toInt)))
  | .minu cc rd ra rb => some (znRow cc rd (fun s => BitVec.ofNat 36 (min (s.rdD ra).toNat (s.rdD rb).toNat)))
  | .maxu cc rd ra rb => some (znRow cc rd (fun s => BitVec.ofNat 36 (max (s.rdD ra).toNat (s.rdD rb).toNat)))
  | .mul cc rd ra rb => some (znRow cc rd (fun s => BitVec.ofNat 36 ((s.rdD ra).toNat * (s.rdD rb).toNat)))
  | .mulh cc rd ra rb => some (znRow cc rd (fun s =>
      ((BitVec.ofInt 72 ((s.rdD ra).toInt * (s.rdD rb).toInt)).extractLsb' 36 36)))
  | .mulhu cc rd ra rb => some (znRow cc rd (fun s =>
      ((BitVec.ofNat 72 ((s.rdD ra).toNat * (s.rdD rb).toNat)).extractLsb' 36 36)))
  | _ => none

/-! ### Shifts -/

/-- The carry of a shift: the last bit out; a shift by 0 leaves it (R199, Table UMI-5). -/
def shiftCarry (k : Nat) (out : Bool) (s t : State) : Prop := c t = if k = 0 then c s else out

/-- Bit `i` of `a` after a left shift by `k`: zeros enter at the bottom; of a right shift: `fill` enters at the top. -/
def leftBits (a : Word) (k : Nat) : Word := BitVec.ofFnLE (fun i : Fin 36 => decide (k ≤ i.val) && a.getLsbD (i.val - k))
def rightBits (a : Word) (k : Nat) (fill : Bool) : Word := BitVec.ofFnLE (fun i : Fin 36 => if i.val + k < 36 then a.getLsbD (i.val + k) else fill)
def turnedBits (a : Word) (k : Nat) : Word := BitVec.ofFnLE (fun i : Fin 36 => a.getLsbD ((i.val + (36 - k % 36)) % 36))

def rightRow (cc : Cond) (rd : Fin 16) (arith : Bool) (a : State → Word) (k : State → Nat) : Row :=
  { cond := cc, writes := [.d rd, .flag 2, .flag 3, .flag 4, .flag 5],
    holds := fun s t =>
      let fill := arith && (a s).msb
      let r := rightBits (a s) (k s) fill
      t.umber.d[rd] = r ∧ zn r t ∧ shiftCarry (k s) (if k s ≤ 36 then (a s).getLsbD (k s - 1) else fill) s t }

/-- The left shift. With S = 0 the bits are shifted; with S = 1 the result saturates where a bit shifted out, or bit 35 of the result, differs from bit 35 of the
operand (Table UMI-5). V follows signed overflow (log 20). -/
def leftRow (cc : Cond) (sat : Bool) (rd : Fin 16) (a : State → Word) (k : State → Nat) : Row :=
  { cond := cc, writes := [.d rd, .flag 2, .flag 3, .flag 4, .flag 5, .flag 6],
    holds := fun s t =>
      let w := a s
      let r := t.umber.d[rd]
      let outBits : Prop := ∃ i < 36, 35 ≤ i + k s ∧ w.getLsbD i ≠ w.msb
      let beyond : Prop := outBits ∨ (36 ≤ k s ∧ w ≠ 0)
      z t = decide (r = 0) ∧ n t = r.msb ∧ shiftCarry (k s) (if k s ≤ 36 then w.getLsbD (36 - k s) else false) s t ∧
      (¬ beyond → r = leftBits w (k s) ∧ v t = false ∧ sv t = sv s) ∧
      (beyond → v t = true) ∧
      (beyond → sat = false → r = leftBits w (k s) ∧ sv t = sv s) ∧
      (beyond → sat = true → r = (if w.msb then 0x800000000#36 else 0x7FFFFFFFF#36) ∧ sv t = true) }

def byReg (rb : Fin 16) (s : State) : Nat := (s.rdD rb).toNat % 64

def shiftRows : Instr → Option Row
  | .lsl cc sat rd ra rb => some (leftRow cc sat rd (fun s => s.rdD ra) (byReg rb))
  | .lsli cc sat rd ra k => some (leftRow cc sat rd (fun s => s.rdD ra) (fun _ => k.toNat))
  | .lsr cc rd ra rb => some (rightRow cc rd false (fun s => s.rdD ra) (byReg rb))
  | .lsri cc rd ra k => some (rightRow cc rd false (fun s => s.rdD ra) (fun _ => k.toNat))
  | .asr cc rd ra rb => some (rightRow cc rd true (fun s => s.rdD ra) (byReg rb))
  | .asri cc rd ra k => some (rightRow cc rd true (fun s => s.rdD ra) (fun _ => k.toNat))
  | .rol cc rd ra rb => some (znRow cc rd (fun s => turnedBits (s.rdD ra) (byReg rb s)))
  | .roli cc rd ra k => some (znRow cc rd (fun s => turnedBits (s.rdD ra) k.toNat))
  | _ => none

/-! ### Results without flags -/

def dRow (cc : Cond) (rd : Fin 16) (f : State → Word → Prop) : Row :=
  { cond := cc, writes := [.d rd], holds := fun s t => f s t.umber.d[rd] }

/-- The number of leading bits of `a`, from bit `top` down, that equal `b` is `k`. -/
def leading (a : Word) (top : Nat) (b : Bool) (k : Nat) : Prop :=
  k ≤ top + 1 ∧ (∀ i, i < k → a.getLsbD (top - i) = b) ∧ (k ≤ top → a.getLsbD (top - k) ≠ b)

/-- CLZ, CLS, EXTS, EXTZ and SWAPH (Table UMI-5). EXTS and EXTZ stand here for the bit numbers that exist. -/
def countRows : Instr → Option Row
  | .clz cc rd ra => some (dRow cc rd (fun s r => leading (s.rdD ra) 35 false r.toNat))
  | .cls cc rd ra => some (dRow cc rd (fun s r => leading (s.rdD ra) 34 (s.rdD ra).msb r.toNat))
  | .exts cc rd ra b => if b.toNat < 36 then some (dRow cc rd (fun s r =>
      ∀ i < 36, r.getLsbD i = (s.rdD ra).getLsbD (min i b.toNat))) else none
  | .extz cc rd ra b => if b.toNat < 36 then some (dRow cc rd (fun s r =>
      ∀ i < 36, r.getLsbD i = (decide (i ≤ b.toNat) && (s.rdD ra).getLsbD i))) else none
  | .swaph cc rd ra => some (dRow cc rd (fun s r => ∀ i < 36, r.getLsbD i = (s.rdD ra).getLsbD ((i + 18) % 36)))
  | _ => none

/-! ### Moves and immediates (Tables UMI-6 and UMI-7) -/

def pRow (cc : Cond) (pd : Fin 16) (f : State → Addr) : Row :=
  { cond := cc, writes := [.p pd], holds := fun s t => t.umber.p[pd] = f s }

/-- N0-N7 for a selector below 8, L0-L7 above (Tables UMI-6, UMI-7, UMI-9). -/
def nlLoc (nl : Fin 16) : Loc := if nl.val < 8 then .n (Fin.ofNat 8 nl.val) else .l (Fin.ofNat 8 (nl.val - 8))
def nlHeld (t : State) (nl : Fin 16) : Addr := if nl.val < 8 then t.umber.n[nl.val % 8] else t.umber.l[nl.val % 8]

/-- An N register is read as a signed number, an L register as an unsigned one (R156). -/
def nlRead (s : State) (nl : Fin 16) : Word :=
  if nl.val < 8 then (s.rdN (Fin.ofNat 8 nl.val) .data).signExtend 36 else (s.rdL (Fin.ofNat 8 (nl.val - 8)) .data).setWidth 36

def nlRow (cc : Cond) (nl : Fin 16) (f : State → Addr) : Row :=
  { cond := cc, writes := [nlLoc nl], holds := fun s t => nlHeld t nl = f s }

def wRow (cc : Cond) (rd : Fin 16) (f : State → Word) : Row := dRow cc rd (fun s r => r = f s)

/-- A part of an accumulator as a word: bits 35:0, bits 71:36, or bits 79:72 sign-extended (R157). -/
def partOf (a : Acc) (part : BitVec 2) : Word :=
  if part = 0 then a.extractLsb' 0 36 else if part = 1 then a.extractLsb' 36 36 else (a.extractLsb' 72 8).signExtend 36

/-- The accumulator with a part replaced, the others unchanged (R157). -/
def withPart (a : Acc) (part : BitVec 2) (w : Word) : Acc :=
  if part = 0 then a.extractLsb' 36 44 ++ w
  else if part = 1 then a.extractLsb' 72 8 ++ w ++ a.extractLsb' 0 36
  else w.extractLsb' 0 8 ++ a.extractLsb' 0 72

def moveRows : Instr → Option Row
  | .ldi cc rd w => some (wRow cc rd (fun _ => w.signExtend 36))
  | .ldih cc rd u => some (wRow cc rd (fun s => u ++ (s.rdD rd).extractLsb' 0 18))
  | .mov cc rd ra => some (wRow cc rd (fun s => s.rdD ra))
  | .mvpd cc rd pa => some (wRow cc rd (fun s => (s.rdP pa .data).setWidth 36))
  | .mvnd cc rd nl => some (wRow cc rd (fun s => nlRead s nl))
  | .subp cc rd pa pb => some (wRow cc rd (fun s => (s.rdP pa .data - s.rdP pb .data).signExtend 36))
  | .mvda cc rd acn part => if part = 3 then none else some (wRow cc rd (fun s => partOf (s.rdAc acn .data) part))
  | .mvad cc acn part ra => if part = 3 then none else some
      { cond := cc, writes := [.ac acn], holds := fun s t => t.umber.ac[acn] = withPart s.umber.ac[acn] part (s.rdD ra) }
  | .addpi cc pd w => some (pRow cc pd (fun s => s.rdP pd .data + w.signExtend 24))
  | .ldpi cc pd w => some (pRow cc pd (fun _ => w.signExtend 24))
  | .ldpih cc pd u => some (pRow cc pd (fun s => u ++ (s.rdP pd .data).extractLsb' 0 18))
  | .mvdp cc pd ra => some (pRow cc pd (fun s => (s.rdD ra).extractLsb' 0 24))
  | .mvpp cc pd pa => some (pRow cc pd (fun s => s.rdP pa .data))
  | .addp cc pd pa rb => some (pRow cc pd (fun s => s.rdP pa .data + (s.rdD rb).extractLsb' 0 24))
  | .ldni cc nl w => some (nlRow cc nl (fun _ => w.signExtend 24))
  | .mvdn cc nl ra => some (nlRow cc nl (fun s => (s.rdD ra).extractLsb' 0 24))
  | _ => none

/-! ### Accumulators (Tables UMD-1 and UMD-5) -/

/-- A MAC-class result (R218): with S = 0 it wraps modulo 2^80 and no flag changes; with S = 1 it is held to the 72-bit range, with V and SV set where it was
outside and V cleared where it was not. -/
def accResult (sat : Bool) (acd : Fin 4) (x : Int) (s t : State) : Prop :=
  let r := t.umber.ac[acd]
  (sat = false → r = BitVec.ofInt 80 x ∧ v t = v s ∧ sv t = sv s) ∧
  (sat = true → -2 ^ 71 ≤ x ∧ x < 2 ^ 71 → r = BitVec.ofInt 80 x ∧ v t = false ∧ sv t = sv s) ∧
  (sat = true → x < -2 ^ 71 → r = BitVec.ofInt 80 (-2 ^ 71) ∧ v t = true ∧ sv t = true) ∧
  (sat = true → 2 ^ 71 ≤ x → r = BitVec.ofInt 80 (2 ^ 71 - 1) ∧ v t = true ∧ sv t = true)

def accRow (cc : Cond) (sat : Bool) (acd : Fin 4) (x : State → Int) : Row :=
  { cond := cc, writes := [.ac acd, .flag 5, .flag 6], holds := fun s t => accResult sat acd (x s) s t }

def accPlainRow (cc : Cond) (acd : Fin 4) (f : State → Acc) : Row :=
  { cond := cc, writes := [.ac acd], holds := fun s t => t.umber.ac[acd] = f s }

def macRows : Instr → Option Row
  | .mac cc sat acd ra rb => some (accRow cc sat acd (fun s => (s.rdAc acd .mac).toInt + (s.rdD ra).toInt * (s.rdD rb).toInt))
  | .msu cc sat acd ra rb => some (accRow cc sat acd (fun s => (s.rdAc acd .mac).toInt - (s.rdD ra).toInt * (s.rdD rb).toInt))
  | .mpy cc acd ra rb => some (accRow cc false acd (fun s => (s.rdD ra).toInt * (s.rdD rb).toInt))
  | .mpyn cc acd ra rb => some (accRow cc false acd (fun s => -((s.rdD ra).toInt * (s.rdD rb).toInt)))
  | .acadd cc sat acd aca acb => some (accRow cc sat acd (fun s => (s.rdAc aca .data).toInt + (s.rdAc acb .data).toInt))
  | .acsub cc sat acd aca acb => some (accRow cc sat acd (fun s => (s.rdAc aca .data).toInt - (s.rdAc acb .data).toInt))
  | .acneg cc sat acd aca => some (accRow cc sat acd (fun s => -(s.rdAc aca .data).toInt))
  | .aclsl cc sat acd aca k => some (accRow cc sat acd (fun s => (s.rdAc aca .data).toInt * 2 ^ k.toNat))
  | .acmov cc acd aca => some (accPlainRow cc acd (fun s => s.rdAc aca .data))
  | .acclr cc acd => some (accPlainRow cc acd (fun _ => 0))
  | .acasr cc acd aca k => some (accPlainRow cc acd (fun s => BitVec.ofInt 80 ((s.rdAc aca .data).toInt / 2 ^ k.toNat)))
  | .acset cc acd ra => some (accPlainRow cc acd (fun s => BitVec.ofInt 80 ((s.rdD ra).toInt * 2 ^ 35)))
  | _ => none

/-- The two halves of a C18 word as signed integers (Table UMM-7). -/
def re (w : Word) : Int := (w.extractLsb' 18 18).toInt
def im (w : Word) : Int := (w.extractLsb' 0 18).toInt

/-- CMAC and CMACJ (R216, R217): the complex product, by the conjugate of Db in CMACJ, shifted left by 36 bits into the pair; each half saturates by itself, and
V is set if either did. An odd first accumulator is reserved. -/
def complexResult (sat : Bool) (acd : Fin 4) (x y : Int) (s t : State) : Prop :=
  let out (w : Int) : Prop := w < -2 ^ 71 ∨ 2 ^ 71 ≤ w
  let held (w : Int) : Acc := BitVec.ofInt 80 (if sat then max (-2 ^ 71) (min w (2 ^ 71 - 1)) else w)
  t.umber.ac[acd] = held x ∧ t.umber.ac[Fin.ofNat 4 (acd.val + 1)] = held y ∧
  (sat = false → v t = v s ∧ sv t = sv s) ∧
  (sat = true → ¬ out x ∧ ¬ out y → v t = false ∧ sv t = sv s) ∧
  (sat = true → out x ∨ out y → v t = true ∧ sv t = true)

def complexRow (cc : Cond) (sat : Bool) (acd : Fin 4) (x y : State → Int) : Option Row :=
  if acd.val % 2 = 1 then none else some
    { cond := cc, writes := [.ac acd, .ac (Fin.ofNat 4 (acd.val + 1)), .flag 5, .flag 6],
      holds := fun s t => complexResult sat acd ((s.rdAc acd .mac).toInt + x s * 2 ^ 36) ((s.rdAc (Fin.ofNat 4 (acd.val + 1)) .mac).toInt + y s * 2 ^ 36) s t }

def complexRows : Instr → Option Row
  | .cmac cc sat acd ra rb => complexRow cc sat acd
      (fun s => re (s.rdD ra) * re (s.rdD rb) - im (s.rdD ra) * im (s.rdD rb))
      (fun s => re (s.rdD ra) * im (s.rdD rb) + im (s.rdD ra) * re (s.rdD rb))
  | .cmacj cc sat acd ra rb => complexRow cc sat acd
      (fun s => re (s.rdD ra) * re (s.rdD rb) + im (s.rdD ra) * im (s.rdD rb))
      (fun s => im (s.rdD ra) * re (s.rdD rb) - re (s.rdD ra) * im (s.rdD rb))
  | _ => none

/-- The redundant sign bits of an accumulator: how many bits below bit 79 equal it (R227). -/
def signBits (a : Acc) (k : Nat) : Prop :=
  k ≤ 79 ∧ (∀ i, i < k → a.getLsbD (78 - i) = a.msb) ∧ (k < 79 → a.getLsbD (78 - k) ≠ a.msb)

/-- EXTA, NORM and EXP (R226, R227). -/
def extractRows : Instr → Option Row
  | .exta cc sat rd aca k => if 45 ≤ k.toNat then none else some
      { cond := cc, writes := [.d rd, .flag 5, .flag 6],
        holds := fun s t =>
          let q := (s.rdAc aca .data).toInt.tdiv (2 ^ k.toNat)
          let r := t.umber.d[rd]
          (sat = false → r = BitVec.ofInt 36 q ∧ v t = v s ∧ sv t = sv s) ∧
          (sat = true → -2 ^ 35 ≤ q ∧ q < 2 ^ 35 → r.toInt = q ∧ v t = false ∧ sv t = sv s) ∧
          (sat = true → q < -2 ^ 35 → r = 0x800000000#36 ∧ v t = true ∧ sv t = true) ∧
          (sat = true → 2 ^ 35 ≤ q → r = 0x7FFFFFFFF#36 ∧ v t = true ∧ sv t = true) }
  | .norm cc rd aca => some
      { cond := cc, writes := [.ac aca, .d rd, .flag 2, .flag 3],
        holds := fun s t => ∃ k, signBits (s.rdAc aca .data) k ∧ t.umber.d[rd] = BitVec.ofInt 36 ((k : Int) - 8) ∧
          t.umber.ac[aca] = (if 8 ≤ k then BitVec.ofInt 80 ((s.rdAc aca .data).toInt * 2 ^ (k - 8))
            else BitVec.ofInt 80 ((s.rdAc aca .data).toInt.tdiv (2 ^ (8 - k)))) ∧
          z t = decide (t.umber.ac[aca] = 0) ∧ n t = t.umber.ac[aca].msb }
  | .exp cc rd aca => some (dRow cc rd (fun s r => ∃ k, signBits (s.rdAc aca .data) k ∧ r = BitVec.ofInt 36 ((k : Int) - 8)))
  | _ => none

/-- Every instruction of these tables. -/
def registerRows (i : Instr) : Option Row :=
  (sumRows i).orElse fun _ => (compareRows i).orElse fun _ => (logicRows i).orElse fun _ => (productRows i).orElse fun _ =>
  (shiftRows i).orElse fun _ => (countRows i).orElse fun _ => (moveRows i).orElse fun _ => (macRows i).orElse fun _ =>
  (complexRows i).orElse fun _ => extractRows i

end Sys2Proof.Claims
end

