-- ==== Sys2Proof/Safety/MemoryRows.lean ====
section
/-!
DEFINITION. Sys2Proof/Safety/MemoryRows.lean: Umber's loads, stores and atomics in the spec's terms: what a word of data space reads as, addressing modes, lanes
and the rows of Table UMI-9 (05 R166; 06 R201, R202, R210; 07 R241-R244; 08 R265-R269).
-/

namespace Sys2Proof.Claims

open Sys2Proof.Machine

/-! ### What a word reads as -/

/-- The data of a stored word after correction; none where the word is uncorrectable (R299, R302). -/
def readable (w : Machine.Cell) : Option Word :=
  match eccRead w with
  | .good d => some d
  | .corrected d _ => some d
  | .bad _ => none

/-- Nonet lane `k` of an SRAM word as the store buffer holds it: the youngest entry that covers the lane (R268). -/
def buffered (s : State) (b : BitVec 18) (k : Nat) : Option (BitVec 9) :=
  (s.umber.sb.reverse.find? (fun e => decide (e.addr = b) && e.mask.getLsbD k)).map (fun e => e.data.extractLsb' (9 * k) 9)

/-- A word with the lanes that the store buffer holds in place of its own (R268). -/
def withBuffered (s : State) (b : BitVec 18) (w : Word) : Word :=
  BitVec.ofFnLE (fun i : Fin 36 => match buffered s b (i.val / 9) with
    | some x => x.getLsbD (i.val % 9)
    | none => w.getLsbD i.val)

/-- A word with the lanes of a mask taken from another (R166). -/
def merged (mask : BitVec 4) (old new : Word) : Word :=
  BitVec.ofFnLE (fun i : Fin 36 => if mask.getLsbD (i.val / 9) then new.getLsbD i.val else old.getLsbD i.val)

/-- What Umber reads at a word of SRAM: with every lane buffered the array does not matter; otherwise it must be neither poisoned nor uncorrectable (R268). -/
def sramWord (s : State) (b : BitVec 18) : Option Word :=
  if (buffered s b 0).isSome && (buffered s b 1).isSome && (buffered s b 2).isSome && (buffered s b 3).isSome then some (withBuffered s b 0)
  else if s.poisoned b then none
  else (readable (s.sramCell b)).map (withBuffered s b)

/-- What Umber reads at a word of memory: none where the word is asleep, poisoned, uncorrectable, hidden or no memory at all. -/
def dataWord (s : State) (a : Addr) : Option Word :=
  match place a with
  | .sram b => if s.archState (b.toNat / 65536) = 2 then sramWord s b else none
  | .tile b => if s.archState 4 = 2 then readable (s.tileCell b) else none
  | .dnvm b => readable (s.dnvmCell b)
  | .prog b => readable (s.progCell b)
  | _ => none

/-- SR.DOM and SR.PRV of Umber may make an access (R173, R322). -/
def permits (s : State) (need : Need) (a : Addr) : Prop := s.regionFail s.umberAcc spData a need = none

/-! ### Addressing (Table UMI-8) -/

/-- The forms of the table: AM 0-5 with the offset bits and pointers each allows. OFS12 bit 11 is PM, but for AM 1 where all twelve bits are the offset. -/
abbrev legal (pp : Fin 16) (am : BitVec 3) (ofs : BitVec 12) : Prop :=
  (am = 0 ∧ ofs = 0) ∨ am = 1 ∨ ((am = 2 ∨ am = 3) ∧ ofs.toNat % 2048 = 0) ∨
    (am = 4 ∧ ofs.toNat % 2048 = 0 ∧ pp.val < 8) ∨ (am = 5 ∧ ofs.toNat % 2048 = 0 ∧ 8 ≤ pp.val)

/-- The address of the access. -/
def address (pp : Fin 16) (am : BitVec 3) (ofs : BitVec 12) (s : State) : Addr :=
  if am = 1 then s.rdP pp .addr + ofs.signExtend 24
  else if am = 5 then s.rdP pp .addr - 1
  else s.rdP pp .addr

/-- The smallest power of two not below `l` (R231). -/
def powerFor (l : Nat) : Nat := 2 ^ (((List.range 25).find? (fun j => decide (l ≤ 2 ^ j))).getD 0)

/-- A pointer after a step of `d`, or of Nk (R159, R231, R232). Pk, k < 8, in mode 1 of PMODE with L = Lk > 0 goes round its buffer: with m the smallest power of two not
below L, B the pointer with its low log2(m) bits cleared and o = Pk − B it becomes B + ((o + d) mod L). In mode 2 a step of Nk adds with the carries toward bit 0. Every
other step is linear. -/
def afterStep (s : State) (pp : Fin 16) (byN : Bool) (d : Int) : Addr :=
  let k : Fin 8 := Fin.ofNat 8 pp.val
  let p := s.rdP pp .addr
  let l := (s.rdL k .addr).toNat
  let mode : BitVec 2 := if pp.val < 8 then (s.rdCtl 1).extractLsb' (2 * pp.val) 2 else 0
  if mode = 1 ∧ 0 < l then BitVec.ofInt 24 ((p.toNat - p.toNat % powerFor l : Nat) + ((p.toNat % powerFor l : Nat) + d) % (l : Int))
  else if mode = 2 ∧ byN = true then (p.reverse + (s.rdN k .addr).reverse).reverse
  else p + BitVec.ofInt 24 d

/-- The pointer after the access: none where it is unchanged. -/
def pointerAfter (pp : Fin 16) (am : BitVec 3) (s : State) : Option Addr :=
  if am = 2 then some (afterStep s pp false 1)
  else if am = 3 then some (afterStep s pp false (-1))
  else if am = 4 then some (afterStep s pp true (s.rdN (Fin.ofNat 8 pp.val) .addr).toInt)
  else if am = 5 then some (s.rdP pp .addr - 1)
  else none

/-- The pointer of the mode holds what the table says, unless the instruction loads that very pointer (R210). -/
def pointerMoved (pp : Fin 16) (am : BitVec 3) (loaded : List Loc) (s t : State) : Prop :=
  Loc.p pp ∉ loaded → ∀ a, pointerAfter pp am s = some a → t.umber.p[pp] = a

/-- The places a mode writes. -/
def modePlaces (pp : Fin 16) (am : BitVec 3) : List Loc := if 2 ≤ am.toNat then [.p pp] else []

/-! ### What an access leaves -/

/-- The parameters an access to memory may change beside those of the fetch: the records and counters of block MEM. -/
def memKeeps (i : Nat) : Prop := fetchKeeps i ∧ i / 256 ≠ 5

/-- An access that stores nothing: registers at `ls`, and interrupt sources MEM (28, the threshold of corrections) and WAKEM, apart. -/
structure LoadLeaves (ls : List Loc) (s t : State) : Prop where
  regs : RegsKept (.ctl 12 :: ls) s t
  pend : ∀ k, k ≠ 10 → k ≠ 28 → t.umber.ipend.getLsbD k = s.umber.ipend.getLsbD k
  cells : CellsKept s t
  buffers : BuffersKept s t
  blocks : BlocksKept memKeeps s t
  flow : flowsOn s t

/-! ### Loads (Table UMI-9) -/

/-- A load of one word: its condition, mode and destination, and the value there as bits of the word. -/
structure LoadRow where
  cond : Cond
  pp : Fin 16
  am : BitVec 3
  ofs : BitVec 12
  dest : Loc
  value : Word → BitVec 80

def half (k : Fin 2) (w : Word) : BitVec 18 := w.extractLsb' (18 * k.val) 18
def nonet (k : Fin 4) (w : Word) : BitVec 9 := w.extractLsb' (9 * k.val) 9

def loadRows : Instr → Option LoadRow
  | .ld cc rd pp am ofs => some ⟨cc, pp, am, ofs, .d rd, fun w => w.setWidth 80⟩
  | .ldp cc pd pp am ofs => some ⟨cc, pp, am, ofs, .p pd, fun w => (w.extractLsb' 0 24).setWidth 80⟩
  | .ldo cc nl pp am ofs => some ⟨cc, pp, am, ofs, nlLoc nl, fun w => (w.extractLsb' 0 24).setWidth 80⟩
  | .ldh cc k rd pp am ofs => some ⟨cc, pp, am, ofs, .d rd, fun w => ((half k w).signExtend 36).setWidth 80⟩
  | .ldhu cc k rd pp am ofs => some ⟨cc, pp, am, ofs, .d rd, fun w => (half k w).setWidth 80⟩
  | .ldq cc k rd pp am ofs => some ⟨cc, pp, am, ofs, .d rd, fun w => ((nonet k w).signExtend 36).setWidth 80⟩
  | .ldqu cc k rd pp am ofs => some ⟨cc, pp, am, ofs, .d rd, fun w => (nonet k w).setWidth 80⟩
  | _ => none

/-! ### Stores (Table UMI-9) -/

/-- A store of one word or of lanes of it: its condition, the nonet lanes it writes, its mode and the data, lanes in place. -/
structure StoreRow where
  cond : Cond
  mask : BitVec 4
  pp : Fin 16
  am : BitVec 3
  ofs : BitVec 12
  data : State → Word

def storeRows : Instr → Option StoreRow
  | .st cc rd pp am ofs => some ⟨cc, 15, pp, am, ofs, fun s => s.rdD rd⟩
  | .stp cc pd pp am ofs => some ⟨cc, 15, pp, am, ofs, fun s => (s.rdP pd .data).setWidth 36⟩
  | .sto cc nl pp am ofs => some ⟨cc, 15, pp, am, ofs, fun s => nlRead s nl⟩
  | .sth cc k rd pp am ofs => some ⟨cc, 3 <<< (2 * k.val), pp, am, ofs, fun s => ((s.rdD rd).extractLsb' 0 18).setWidth 36 <<< (18 * k.val)⟩
  | .stq cc k rd pp am ofs => some ⟨cc, 1 <<< k.val, pp, am, ofs, fun s => ((s.rdD rd).extractLsb' 0 9).setWidth 36 <<< (9 * k.val)⟩
  | _ => none

/-- The permission a store needs: a store of lanes reads the word it merges into (R288, R322). -/
def storeNeeds (mask : BitVec 4) : Need := if mask = 15 then .w else .rw

/-- The store buffer with room: with four entries waiting the oldest drains first (R267). -/
def roomy (s : State) : State := if 4 ≤ s.umber.sb.length then drainOne s else s

/-- A reservation after a write to an SRAM word: lost if it is that word's (R242, R266). -/
def resvAfter (s : State) (b : BitVec 18) : Option (Addr × Dom) :=
  match s.umber.resv with
  | some (a, d) => if a = b.setWidth 24 then none else some (a, d)
  | none => none

/-- The memories, the store buffer and the reservation after a store of lanes of a word (R265-R267, R289): a store to SRAM waits in the buffer, one to the tile is made at
once, its other lanes those of the word read and corrected. -/
structure StoredAt (a : Addr) (mask : BitVec 4) (w : Word) (s t : State) : Prop where
  sram : ∀ b, t.sramCell b = if a.toNat < 0x040000 then (roomy s).sramCell b else s.sramCell b
  poison : ∀ b, t.poisoned b = if a.toNat < 0x040000 then (roomy s).poisoned b else s.poisoned b
  sb : t.umber.sb = if a.toNat < 0x040000 then (roomy s).umber.sb ++ [{ addr := a.extractLsb' 0 18, mask := mask, data := w }] else s.umber.sb
  resv : t.umber.resv = if a.toNat < 0x040000 then resvAfter (roomy s) (a.extractLsb' 0 18) else s.umber.resv
  other : ∀ b, ¬ (a.toNat < 0x040000) → b ≠ a.extractLsb' 0 12 → t.tileCell b = s.tileCell b
  tile : a.toNat < 0x040000 → ∀ b, t.tileCell b = s.tileCell b
  word : ¬ (a.toNat < 0x040000) → ∃ m, (mask = 15 ∧ m = w ∨ ∃ old, readable (s.tileCell (a.extractLsb' 0 12)) = some old ∧ m = merged mask old w) ∧
    t.tileCell (a.extractLsb' 0 12) = checkBits m ++ m
  prog : ∀ b, t.progCell b = s.progCell b
  dnvm : ∀ b, t.dnvmCell b = s.dnvmCell b

/-- The state that an access leaves. -/
def leftBy {α : Type} : MemR α → State
  | .ok _ s => s
  | .trap _ s => s
  | .wait s _ => s

/-- The state after the access of a load of one word, and of a store of one whole word. -/
def loaded (a : Addr) (s : State) : State := leftBy (loadWord false a s)
def stored (a : Addr) (w : Word) (s : State) : State := leftBy (storeWord 15 a w s)

/-- A store of lanes of a word can be made there: data SRAM or the tile, READY; for part of a word the rest of it can be read (R288, R289, Table MEM-6). -/
def storable (s : State) (a : Addr) (mask : BitVec 4) : Prop :=
  (a.toNat < 0x040000 ∧ s.archState (a.toNat / 65536) = 2 ∧ (mask = 15 ∨ s.poisoned (a.extractLsb' 0 18) = false)) ∨
  (0x100000 ≤ a.toNat ∧ a.toNat < 0x101000 ∧ s.archState 4 = 2 ∧ (mask = 15 ∨ (readable (s.tileCell (a.extractLsb' 0 12))).isSome = true))

/-- The parameters that a store and the drains it makes may change: block MEM and the count of lost log records. -/
def drainKeeps (i : Nat) : Prop := memKeeps i ∧ i ≠ P.MGMT_LOGDROP

/-- What an instruction that stores leaves beside the memories: registers at `ls`, the other buffers, every block but Sepia's log queue. -/
structure StoreLeaves (ls : List Loc) (s t : State) : Prop where
  regs : RegsKept (.ctl 12 :: ls) s t
  pend : ∀ k, k ≠ 10 → k ≠ 28 → t.umber.ipend.getLsbD k = s.umber.ipend.getLsbD k
  pwq : t.umber.pwq = s.umber.pwq
  locks : t.umber.locks = s.umber.locks
  bitRam : t.umber.bitRam = s.umber.bitRam
  blocks : BlocksKept drainKeeps s { t with mgmt := { t.mgmt with logQ := s.mgmt.logQ } }

/-! ### Atomics (Table UMI-9, major 0x38) -/

/-- LR, SC, ATADD and ATSWP address with AM 0 and 1 only (R202). -/
abbrev legalAtomic (am : BitVec 3) (ofs : BitVec 12) : Prop := (am = 0 ∧ ofs = 0) ∨ am = 1

/-- An atomic at the bank: condition, register, mode and the word it writes from Dd and the old word. -/
structure AtomRow where
  cond : Cond
  rd : Fin 16
  pp : Fin 16
  am : BitVec 3
  ofs : BitVec 12
  new : Word → Word → Word

def atomRows : Instr → Option AtomRow
  | .atadd cc rd pp am ofs => some ⟨cc, rd, pp, am, ofs, fun w old => w + old⟩
  | .atswp cc rd pp am ofs => some ⟨cc, rd, pp, am, ofs, fun w _ => w⟩
  | _ => none

/-- The memory of `t` is that of `s` but for one word of SRAM. -/
structure OneWord (b : BitVec 18) (s t : State) : Prop where
  sram : ∀ a, a ≠ b → t.sramCell a = s.sramCell a
  poison : ∀ a, a ≠ b → t.poisoned a = s.poisoned a
  tile : ∀ a, t.tileCell a = s.tileCell a
  prog : ∀ a, t.progCell a = s.progCell a
  dnvm : ∀ a, t.dnvmCell a = s.dnvmCell a

/-- The stored word `b` holds data with correct check bits, unless MEM.INJECT was armed for it: then the named check bits are inverted (R319). -/
def storedAs (s : State) (b : BitVec 18) (w : Word) : Machine.Cell :=
  let inj := s.par P.MEM_INJECT
  if inj.getLsbD 0 = true ∧ (s.par P.MEM_INJADDR).extractLsb' 0 18 = b then (checkBits w ^^^ inj.extractLsb' 1 7) ++ w else checkBits w ++ w

end Sys2Proof.Claims
end

