-- ==== Sys2Proof/Certificates/Slice0/DmaClaims.lean ====
section
/-!
DEFINITION. Sys2Proof/Certificates/Slice0/DmaClaims.lean: the statements about domains, revocation and DMA (10).
-/

namespace Sys2Proof.Claims

open Sys2Proof.Machine

/-- Parameter `p` of DMA channel `ch`. -/
def ofCh (p : Nat) (ch : Fin 16) : Nat := p + 16 * ch.val

/-- The domain a revocation names. -/
def revDom (v : Word) : Dom := v.extractLsb' 0 4

/-- Revocation and DOM.LKVIEW (R343, R344, R353). -/
def revocation : Prop :=
  -- REVOKE: regions disabled, locks and reservation released, the domain's busy channels ABORTING, REVSTAT.BUSY
  (∀ (m : Master) (v : Word), v.getLsbD 4 = true → Takes (.revoke m v) m P.DOM_REVOKE v (fun _ _ => True)
    (fun _ s t => (∀ r < 16, bit t (P.MPU_BASE + 48 * (revDom v).toNat + 3 * r + 2) 3 = false) ∧
      (∀ e ∈ s.umber.locks, (e ∈ t.umber.locks ↔ e.2 ≠ revDom v)) ∧
      (∀ a d, s.umber.resv = some (a, d) → t.umber.resv = if d = revDom v then none else some (a, d)) ∧
      (∀ ch : Fin 16, s.dmaOwner ch = revDom v → s.dmaState ch ≠ 0 → t.dmaState ch = 4) ∧
      (∀ ch : Fin 16, s.dmaOwner ch ≠ revDom v → t.dma[ch] = s.dma[ch] ∧ t.dmaState ch = s.dmaState ch) ∧
      bit t P.DOM_REVSTAT (revDom v).toNat = true ∧ bit t P.DOM_REVSTAT 16 = true ∧ (t.par P.DOM_REVSTAT).extractLsb' 17 4 = revDom v ∧ t.rev.isSome = true ∧
      t.mem.sram = s.mem.sram ∧ t.pier = s.pier ∧ t.time = s.time ∧ t.pwr = s.pwr)) ∧
  -- REVOKE_COMPLETE, once no channel it stopped is still ABORTING: BUSY clears and REVLOG records it
  Happens .revokeComplete [.rev, .log] ([P.DOM_REVSTAT, P.MGMT_LOGDROP] ++ every P.DOM_REVLOG 1 4)
    (fun s => s.awake = true ∧ ∃ r, s.rev = some r ∧ r.dom ≠ 1 ∧ r.cipherAck = true ∧ ∀ ch : Fin 16, (s.dma[ch]).revoked = true → s.dmaState ch ≠ 4)
    (fun s t => t.rev = none ∧ bit t P.DOM_REVSTAT 16 = false ∧ ∀ r, s.rev = some r →
      t.par (P.DOM_REVLOG + ((s.par P.DOM_REVSTAT).extractLsb' 21 8).toNat % 4) =
        BitVec.ofNat 36 (r.dom.toNat + 2 ^ 4 * r.byKernel.toNat + 2 ^ 5 * r.channels.toNat + 2 ^ 21 * r.lockCount.toNat + 2 ^ 30 * r.resv.toNat)) ∧
  -- LKVIEW_WRITE: VALUE 1 takes a clear bit for the writer's domain, VALUE 0 clears it
  (∀ (m : Master) (v : Word), Accepts (.lkviewWrite m v) m P.DOM_LKVIEW v [.locks] [] (fun _ _ => True)
    (fun acc s t => ∀ k : Fin 256, SMap.find t.umber.locks k.val =
      if k.val = ((s.par P.DOM_LKSEL).extractLsb' 0 8).toNat then
        (if v.getLsbD 0 then some ((SMap.find s.umber.locks k.val).getD acc.dom) else none)
      else SMap.find s.umber.locks k.val))

/-- The descriptor in the parameters of a channel (R330). -/
def paramDescOf (s : State) (ch : Fin 16) (i : Fin 7) : Word := s.par (ofCh P.DMA_DESC0 ch + i.val)

/-- A descriptor is well formed (R330). -/
def descGood (d : Fin 7 → Word) : Prop :=
  (d 0).toNat < 256 ∧ (d 0).getLsbD 3 = false ∧ (d 0).extractLsb' 6 2 ≠ 3 ∧ (d 6).toNat < 2 ^ 24 ∧ (d 3).extractLsb' 0 18 ≠ 0 ∧
    ((d 0).getLsbD 2 = true → (d 0).extractLsb' 0 2 = 2) ∧
    (let n := if (d 0).extractLsb' 0 2 = 0 then 26 else if (d 0).extractLsb' 0 2 = 1 then 25 else 24; (d 1).toNat < 2 ^ n ∧ (d 2).toNat < 2 ^ n)

/-- The STATE of a channel that starts on a descriptor: RUN, or WAIT when its first element needs a request that has not come (R334, R335). -/
def startState (d : Fin 7 → Word) (byReq : Bool) : BitVec 3 := if ((d 0).extractLsb' 6 2 = 1 ∨ (d 0).extractLsb' 6 2 = 2) ∧ byReq = false then 2 else 1

/-- What a start does to an idle channel with a good parameter descriptor (R330, R334, R335). -/
def started (ch : Fin 16) (byReq : Bool) (s t : State) : Prop :=
  t.dmaState ch = startState (paramDescOf s ch) byReq ∧ t.par (ofCh P.DMA_XFERCNT ch) = 0 ∧ t.par (ofCh P.DMA_DPTR ch) = 0x000FFFFFF ∧
    (t.dma[ch]).row = 0 ∧ (t.dma[ch]).elem = 0 ∧ (t.dma[ch]).phase = .source ∧ (t.dma[ch]).sent = false ∧ (t.dma[ch]).half = none ∧ (t.dma[ch]).param = true ∧
    (∀ i : Fin 7, (t.dma[ch]).desc[i] = paramDescOf s ch i)

/-- The parameters of channel `ch` that the engine writes. -/
def chIx (ch : Fin 16) : List Nat :=
  [ofCh P.DMA_STATUS ch, ofCh P.DMA_XFERCNT ch, ofCh P.DMA_DPTR ch, ofCh P.DMA_CURSRC ch, ofCh P.DMA_CURDST ch, ofCh P.DMA_REMAIN ch, ofCh P.DMA_FADDR ch]

/-- The channel has stopped in FAULT with a code (R339). -/
def faulted (ch : Fin 16) (code : BitVec 5) (t : State) : Prop :=
  t.dmaState ch = 3 ∧ bit t (ofCh P.DMA_STATUS ch) 10 = true ∧ (t.par (ofCh P.DMA_STATUS ch)).extractLsb' 4 5 = code ∧ t.umber.ipend.getLsbD 12 = true

/-- Memory stays but for where an arch that waited for the channel is bound: its step may begin as the channel stops (R295, R313). -/
def archesOnly (s t : State) : Prop := t.mem = { s.mem with toOff := t.mem.toOff }

/-- All elements of the channel's descriptor have been made. -/
def pastEnd (s : State) (ch : Fin 16) : Bool := decide ((s.dma[ch]).phase = .source ∧ (s.dma[ch]).elem = (s.dma[ch]).icnt)

/-- Writes of a channel's parameters (R329, R334, R339-R341). -/
def dmaCommands : Prop :=
  (∀ (m : Master) (ch : Fin 16) (v : Word), Accepts (.dmaCtlWrite m ch v) m (ofCh P.DMA_CTL ch) v [] [ofCh P.DMA_CTL ch] (fun _ _ => True)
    (fun _ _ t => t.dmaOwner ch = v.extractLsb' 0 4 ∧ ∀ k < 36, bit t (ofCh P.DMA_CTL ch) k = (decide (k < 20) && v.getLsbD k))) ∧
  (∀ (m : Master) (ch : Fin 16) (v : Word), v.extractLsb' 0 3 = 1 →
    Accepts (.dmaStart m ch v) m (ofCh P.DMA_CMD ch) v [.dma] (chIx ch) (fun _ s => s.dmaState ch = 0 ∧ descGood (paramDescOf s ch))
      (fun _ s t => started ch false s t ∧ ∀ x : Fin 16, x ≠ ch → t.dma[x] = s.dma[x])) ∧
  -- a bad descriptor is refused with code 8
  (∀ (m : Master) (ch : Fin 16) (v : Word), v.extractLsb' 0 3 = 1 →
    Accepts (.dmaStart m ch v) m (ofCh P.DMA_CMD ch) v [.dma, .mem, .ipend] (P.MEM_ARCHSTAT :: chIx ch) (fun _ s => s.dmaState ch = 0 ∧ ¬ descGood (paramDescOf s ch))
      (fun _ s t => faulted ch 8 t ∧ archesOnly s t ∧ ∀ x : Fin 16, x ≠ ch → t.dma[x] = s.dma[x])) ∧
  -- a start of a channel that is not IDLE is ignored with STARTIGN
  (∀ (m : Master) (ch : Fin 16) (v : Word), v.extractLsb' 0 3 = 1 →
    Accepts (.dmaStart m ch v) m (ofCh P.DMA_CMD ch) v [] [ofCh P.DMA_STATUS ch] (fun _ s => s.dmaState ch ≠ 0)
      (fun _ s t => bit t (ofCh P.DMA_STATUS ch) 13 = true ∧ t.dmaState ch = s.dmaState ch)) ∧
  -- RESUME: the faulting element again; elsewhere CMDERR
  (∀ (m : Master) (ch : Fin 16) (v : Word), v.extractLsb' 0 3 = 2 →
    Accepts (.dmaResume m ch v) m (ofCh P.DMA_CMD ch) v [.dma] [ofCh P.DMA_STATUS ch] (fun _ s => s.dmaState ch = 3 → pastEnd s ch = false)
      (fun _ s t => (s.dmaState ch = 3 → t.dmaState ch = 1 ∨ t.dmaState ch = 2) ∧ (t.dma[ch]).elem = (s.dma[ch]).elem ∧ (t.dma[ch]).row = (s.dma[ch]).row ∧
        (t.dma[ch]).phase = (s.dma[ch]).phase ∧ (s.dmaState ch ≠ 3 → t.dmaState ch = s.dmaState ch ∧ bit t (ofCh P.DMA_STATUS ch) 12 = true ∧ t.dma[ch] = s.dma[ch]))) ∧
  -- of a channel whose abort came with its last element made, the end of the chain follows (log 54)
  (∀ (m : Master) (ch : Fin 16) (v : Word), v.extractLsb' 0 3 = 2 →
    Accepts (.dmaResume m ch v) m (ofCh P.DMA_CMD ch) v [.dma, .ipend] [ofCh P.DMA_STATUS ch]
      (fun _ s => s.dmaState ch = 3 ∧ pastEnd s ch = true ∧ ((s.dma[ch]).desc[0]).getLsbD 4 = true)
      (fun _ s t => t.dmaState ch = 0 ∧ bit t (ofCh P.DMA_STATUS ch) 9 = true ∧ (t.dma[ch]).chain = (s.par (ofCh P.DMA_CTL ch)).getLsbD 15 ∧
        ∀ x : Fin 16, x ≠ ch → t.dma[x] = s.dma[x])) ∧
  -- ABORT: ABORTING from RUN and WAIT, IDLE with the record discarded from FAULT
  (∀ (m : Master) (ch : Fin 16) (v : Word), v.extractLsb' 0 3 = 4 →
    Accepts (.dmaAbort m ch v) m (ofCh P.DMA_CMD ch) v [.dma] (chIx ch) (fun _ _ => True)
      (fun _ s t => (s.dmaState ch = 1 ∨ s.dmaState ch = 2 → t.dmaState ch = 4 ∧ (t.dma[ch]).abortCode = 10) ∧
        (s.dmaState ch = 3 → t.dmaState ch = 0 ∧ t.par (ofCh P.DMA_FADDR ch) = 0 ∧ t.par (ofCh P.DMA_REMAIN ch) = 0) ∧
        (s.dmaState ch = 0 ∨ s.dmaState ch = 4 → t.dmaState ch = s.dmaState ch ∧ t.dma = s.dma))) ∧
  -- DMA_ABORT_DONE: FAULT with code 10, or the 9 of a revocation, once no reply of an access across its crossing is outstanding
  (∀ ch : Fin 16, Happens (.dmaAbortDone ch) [.dma, .mem, .ipend] (P.MEM_ARCHSTAT :: chIx ch)
    (fun s => s.awake = true ∧ s.dmaState ch = 4 ∧ (s.dma[ch]).sent = false)
    (fun s t => archesOnly s t ∧ faulted ch (s.dma[ch]).abortCode t ∧ ∀ x : Fin 16, x ≠ ch → t.dma[x] = s.dma[x])) ∧
  (∀ ch : Fin 16, Happens (.dmaAbortDone ch) [] [] (fun s => (s.dma[ch]).sent = true) (fun _ _ => True))

/-- TRIG and the strike and line that a channel names (Table DMA-13). -/
def trig (s : State) (ch : Fin 16) : BitVec 2 := (s.par (ofCh P.DMA_CTL ch)).extractLsb' 6 2
def names (s : State) (ch : Fin 16) (line : Fin 16) : Prop := ((s.par (ofCh P.DMA_CTL ch)).extractLsb' 11 4).toNat = line.val

/-- Starts by strikes, requests and chains (R98, R334-R336). -/
def dmaStarts : Prop :=
  -- DMA_STRIKE_START: every selected channel that names the strike and is IDLE
  (∀ (n : BitVec 3) (ch : Fin 16), Runs .dmaStrikeStart
    (fun s => s.awake = true ∧ (s.time.signals.head?).bind (·.dma) = some (1#16 <<< ch.val) ∧ (s.time.signals.head?).map (·.unit) = some n ∧ trig s ch = 1 ∧ (s.par (ofCh P.DMA_CTL ch)).extractLsb' 8 3 = n ∧ s.dmaState ch = 0 ∧
      descGood (paramDescOf s ch))
    (fun s t => started ch false s t ∧ t.time = { s.time with signals := s.time.signals.tail } ∧ t.mem = s.mem)) ∧
  (∀ (n : Fin 8) (ch : Fin 16), Runs .dmaStrikeStart
    (fun s => s.awake = true ∧ (s.time.signals.head?).bind (·.dma) = some (1#16 <<< ch.val) ∧ (s.time.signals.head?).map (·.unit) = some (BitVec.ofNat 3 n.val) ∧
      (trig s ch ≠ 1 ∨ s.dmaState ch ≠ 0))
    (fun s t => bit t (P.STRK_STATUS + 16 * n.val) 3 = true ∧
      (trig s ch = 1 → (s.par (ofCh P.DMA_CTL ch)).extractLsb' 8 3 = BitVec.ofNat 3 n.val → bit t (ofCh P.DMA_STATUS ch) 13 = true) ∧ t.dma = s.dma ∧ t.dmaState ch = s.dmaState ch)) ∧
  -- signals keep their order: an interrupt sent before the start has arrived by then (R48)
  (∀ n : BitVec 3, Runs .dmaStrikeStart
    (fun s => s.awake = true ∧ (∃ g r, s.time.signals = [g, r] ∧ g.unit = n ∧ g.dma = none ∧ r.dma = some 0))
    (fun _ t => t.umber.ipend.getLsbD n.toNat = true ∧ t.time.signals = [])) ∧
  -- DMA_REQUEST: a waiting channel runs, a running paced one keeps the request, an idle one of TRIG 2 starts
  (∀ line : Fin 16, Runs (.dmaRequest line) (fun s => s.awake = true ∧ s.lineLevel line.val = true)
    (fun s t => ∀ ch : Fin 16, names s ch line →
      (s.dmaState ch = 2 → t.dmaState ch = 1 ∧ (t.dma[ch]).credit = true) ∧
      (s.dmaState ch = 1 → (s.dma[ch]).paced = true → (t.dma[ch]).reqPend = true ∧ t.dmaState ch = 1) ∧
      (s.dmaState ch = 0 → trig s ch = 2 → descGood (paramDescOf s ch) → started ch true s t) ∧
      (s.dmaState ch = 3 ∨ s.dmaState ch = 4 → t.dmaState ch = s.dmaState ch ∧ t.dma[ch] = s.dma[ch]))) ∧
  (∀ line : Fin 16, Happens (.dmaRequest line) [] [] (fun s => s.lineLevel line.val = false) (fun s t => t.dma = s.dma)) ∧
  -- DMA_CHAIN_START: CHNEXT starts
  (∀ ch next : Fin 16, Happens (.dmaChainStart ch) [.dma] (chIx next)
    (fun s => s.awake = true ∧ (s.dma[ch]).chain = true ∧ ((s.par (ofCh P.DMA_CTL ch)).extractLsb' 16 4).toNat = next.val ∧ s.dmaState next = 0 ∧ descGood (paramDescOf s next))
    (fun s t => started next false s t ∧ (ch ≠ next → (t.dma[ch]).chain = false)))

/-- Only channel `ch` has an access to present: it runs with no reply outstanding, and every other channel does not run or waits for a reply (R337). -/
def alone (s : State) (ch : Fin 16) : Prop :=
  s.dmaState ch = 1 ∧ (s.dma[ch]).sent = false ∧ ∀ x : Fin 16, x ≠ ch → s.dmaState x ≠ 1 ∨ (s.dma[x]).sent = true

/-- No channel waits for a reply. -/
def noReply (s : State) : Prop := ∀ x : Fin 16, (s.dma[x]).sent = false

/-- The words of an SRAM element: its word, READY and permitted to the channel's domain (R331, R339). -/
def wordOk (s : State) (ch : Fin 16) (need : Need) (a : Addr) : Prop :=
  a.toNat < 0x040000 ∧ s.archState (a.toNat / 65536) = 2 ∧ s.regionFail (s.dmaAcc ch) spData a need = none

/-- A word element of the source at index `i` of the parameter space. -/
def crossing (s : State) (ch : Fin 16) (i : BitVec 13) : Prop :=
  (s.dma[ch]).phase = .source ∧ ((s.dma[ch]).desc[0]).extractLsb' 0 2 = 2 ∧ (s.dma[ch]).elemAddr false = 0x400000 + i.toNat

/-- Channel `ch` alone has an access to present, of a doubleword's source at the even word `a`. -/
def doublewordAt (s : State) (ch : Fin 16) (a : Addr) : Prop :=
  s.awake = true ∧ noReply s ∧ alone s ch ∧ (s.dma[ch]).phase = .source ∧ ((s.dma[ch]).desc[0]).extractLsb' 0 2 = 3 ∧ (s.dma[ch]).elemAddr false = a.toNat ∧
    a.getLsbD 0 = false

/-- The word of a descriptor at DPTR = `a` that is read next, and its data. -/
def nextWord (s : State) (ch : Fin 16) (a : Addr) : Addr := a + ((s.dma[ch]).words).setWidth 24
def dataAt (s : State) (a : Addr) : Word := (s.sramCell (a.extractLsb' 0 18)).extractLsb' 0 36

/-- Channel `ch` reads its next descriptor at DPTR = `a`, and the word now due is readable and permitted. -/
def loading (s : State) (ch : Fin 16) (a : Addr) : Prop :=
  s.awake = true ∧ alone s ch ∧ (s.dma[ch]).phase = .descriptor ∧ (s.dma[ch]).param = false ∧ s.par (ofCh P.DMA_DPTR ch) = a.setWidth 36 ∧ a.toNat + 7 ≤ 0x040000 ∧
    wordOk s ch .r (nextWord s ch a) ∧ s.poisoned ((nextWord s ch a).extractLsb' 0 18) = false ∧
    eccRead (s.sramCell ((nextWord s ch a).extractLsb' 0 18)) = .good (dataAt s (nextWord s ch a))

/-- Elements and descriptors (R330-R332, R336, R337). -/
def dmaAccesses : Prop :=
  -- DMA_ELEMENT, source phase of a word element in SRAM: the word read is kept for the destination phase
  (∀ (ch : Fin 16) (a : Addr), Happens .dmaElement [.dma, .mem, .bank, .ipend] (every 0x500 1 256)
    (fun s => s.awake = true ∧ noReply s ∧ alone s ch ∧ (s.dma[ch]).half = none ∧ (s.dma[ch]).phase = .source ∧ ((s.dma[ch]).desc[0]).extractLsb' 0 2 = 2 ∧ (s.dma[ch]).elemAddr false = a.toNat ∧
      wordOk s ch .r a ∧ s.poisoned (a.extractLsb' 0 18) = false ∧ (readable (s.sramCell (a.extractLsb' 0 18))).isSome = true)
    (fun s t => (t.dma[ch]).phase = .dest ∧ readable (s.sramCell (a.extractLsb' 0 18)) = some (t.dma[ch]).kept.1 ∧ t.mem.sram = s.mem.sram ∧
      ∀ x : Fin 16, x ≠ ch → t.dma[x] = s.dma[x])) ∧
  -- DMA_ELEMENT, destination phase: the word is written, XFERCNT counts, and the next element of the row follows
  (∀ (ch : Fin 16) (a : Addr), Happens .dmaElement [.dma, .dmaLast, .mem, .bank, .resv] (P.MEM_INJECT :: P.MEM_ARCHSTAT :: every P.MEM_GRANT 1 16 ++ chIx ch)
    (fun s => s.awake = true ∧ noReply s ∧ alone s ch ∧ (s.dma[ch]).phase = .dest ∧ ((s.dma[ch]).desc[0]).extractLsb' 0 3 = 2 ∧ (s.dma[ch]).elemAddr true = a.toNat ∧
      wordOk s ch .w a ∧ (s.dma[ch]).elem + 1 ≠ (s.dma[ch]).icnt ∧ (s.dma[ch]).pace = 0)
    (fun s t => t.sramCell (a.extractLsb' 0 18) = storedAs s (a.extractLsb' 0 18) (s.dma[ch]).kept.1 ∧ OneWord (a.extractLsb' 0 18) s t ∧
      t.par (ofCh P.DMA_XFERCNT ch) = s.par (ofCh P.DMA_XFERCNT ch) + 1 ∧ (t.dma[ch]).elem = (s.dma[ch]).elem + 1 ∧ (t.dma[ch]).row = (s.dma[ch]).row ∧
      (t.dma[ch]).phase = .source ∧ t.dmaState ch = 1)) ∧
  -- a doubleword takes two accesses of a phase, one word in each (Table DMA-7)
  (∀ (ch : Fin 16) (a : Addr), Happens .dmaElement [.dma, .mem, .bank, .ipend] (every 0x500 1 256)
    (fun s => doublewordAt s ch a ∧ (s.dma[ch]).half = none ∧ wordOk s ch .r a ∧ s.regionFail (s.dmaAcc ch) spData (a + 1) .r = none ∧
      s.poisoned (a.extractLsb' 0 18) = false ∧ (readable (s.sramCell (a.extractLsb' 0 18))).isSome = true)
    (fun s t => (t.dma[ch]).phase = .source ∧ (t.dma[ch]).half = readable (s.sramCell (a.extractLsb' 0 18)) ∧ ∀ x : Fin 16, x ≠ ch → t.dma[x] = s.dma[x])) ∧
  (∀ (ch : Fin 16) (a : Addr) (w : Word), Happens .dmaElement [.dma, .mem, .bank, .ipend] (every 0x500 1 256)
    (fun s => doublewordAt s ch a ∧ (s.dma[ch]).half = some w ∧ a.toNat < 0x03FFFF ∧ s.archState ((a + 1).toNat / 65536) = 2 ∧
      s.poisoned ((a + 1).extractLsb' 0 18) = false ∧ (readable (s.sramCell ((a + 1).extractLsb' 0 18))).isSome = true)
    (fun s t => (t.dma[ch]).phase = .dest ∧ (t.dma[ch]).half = none ∧ (t.dma[ch]).kept.1 = w ∧
      readable (s.sramCell ((a + 1).extractLsb' 0 18)) = some (t.dma[ch]).kept.2 ∧ ∀ x : Fin 16, x ≠ ch → t.dma[x] = s.dma[x])) ∧
  -- an access its regions do not permit stops the channel with code 1 at the source and is recorded in DOM.VIOL
  (∀ (ch : Fin 16) (a : Addr), Happens .dmaElement [.dma, .mem, .ipend] ([P.DOM_VIOL, P.DOM_VIOLCNT, P.MEM_ARCHSTAT] ++ chIx ch)
    (fun s => s.awake = true ∧ noReply s ∧ alone s ch ∧ (s.dma[ch]).half = none ∧ (s.dma[ch]).phase = .source ∧ ((s.dma[ch]).desc[0]).extractLsb' 0 2 = 2 ∧ (s.dma[ch]).elemAddr false = a.toNat ∧
      s.regionFail (s.dmaAcc ch) spData a .r ≠ none)
    (fun s t => faulted ch 1 t ∧ archesOnly s t ∧ (t.par (ofCh P.DMA_FADDR ch)).extractLsb' 0 24 = a ∧
      (bit s P.DOM_VIOL 35 = false → (t.par P.DOM_VIOL).extractLsb' 0 24 = a ∧ (t.par P.DOM_VIOL).extractLsb' 24 4 = s.dmaOwner ch ∧ bit t P.DOM_VIOL 35 = true))) ∧
  -- an access of the parameter space that passes its checks is sent, and the channel presents nothing more until its reply
  (∀ (ch : Fin 16) (i : BitVec 13), Happens .dmaElement [.dma] []
    (fun s => s.awake = true ∧ noReply s ∧ alone s ch ∧ (s.dma[ch]).half = none ∧ crossing s ch i ∧ populated i.toNat = false ∧
      s.regionFail (s.dmaAcc ch) spData (0x400000 + i.setWidth 24) .r = none)
    (fun s t => t.dma[ch] = { s.dma[ch] with sent := true, ahead := 0 } ∧ ∀ x : Fin 16, x ≠ ch → t.dma[x] = s.dma[x])) ∧
  -- the reply completes the access as it was checked, in a channel that aborts too: an unpopulated index reads 0 with NOPARAM (R327, R341, R625)
  (∀ (ch : Fin 16) (i : BitVec 13), Happens .dmaElement [.dma] [ofCh P.DMA_STATUS ch]
    (fun s => s.awake = true ∧ (∀ x : Fin 16, x ≠ ch → (s.dma[x]).sent = false ∧ s.dmaState x ≠ 1) ∧ s.dmaState ch = 4 ∧
      (s.dma[ch]).sent = true ∧ (s.dma[ch]).ahead = 0 ∧ (s.dma[ch]).half = none ∧ crossing s ch i ∧ populated i.toNat = false)
    (fun s t => t.dma[ch] = { s.dma[ch] with sent := false, half := none, phase := .dest, kept := (0, 0) } ∧ t.dmaState ch = 4 ∧ bit t (ofCh P.DMA_STATUS ch) 11 = true)) ∧
  -- an access behind another one in its crossing has no reply before that one's (R47, R48)
  (∀ (ch x : Fin 16) (i : BitVec 13), ch ≠ x → Runs .dmaElement
    (fun s => s.awake = true ∧ (∀ y : Fin 16, y ≠ ch → y ≠ x → (s.dma[y]).sent = false ∧ s.dmaState y ≠ 1) ∧ s.dmaState x = 4 ∧ (s.dma[x]).sent = true ∧
      (s.dma[x]).ahead = 0 ∧ (s.dma[x]).half = none ∧ crossing s x i ∧ populated i.toNat = false ∧ (s.dma[ch]).sent = true ∧ (s.dma[ch]).ahead = 1#16 <<< x.val)
    (fun s t => (t.dma[x]).sent = false ∧ t.dma[ch] = { s.dma[ch] with ahead := 0 })) ∧
  -- a channel that starts on its parameter descriptor again reads DESC0-6 whatever DPTR holds (R330)
  (∀ ch : Fin 16, Runs (.dmaDescriptorLoad ch)
    (fun s => s.awake = true ∧ alone s ch ∧ (s.dma[ch]).phase = .descriptor ∧ (s.dma[ch]).param = true ∧ descGood (paramDescOf s ch))
    (fun s t => (∀ i : Fin 7, (t.dma[ch]).desc[i] = paramDescOf s ch i) ∧ (t.dma[ch]).phase = .source ∧ (t.dmaState ch = 1 ∨ t.dmaState ch = 2) ∧ t.mem = s.mem)) ∧
  -- DMA_DESCRIPTOR_LOAD: one word at DPTR; after the seventh the descriptor is checked, and the first element follows
  (∀ (ch : Fin 16) (a : Addr), Runs (.dmaDescriptorLoad ch)
    (fun s => loading s ch a ∧ (s.dma[ch]).words.toNat < 6)
    (fun s t => (∀ i : Fin 7, (t.dma[ch]).desc[i] = if i.val = (s.dma[ch]).words.toNat then dataAt s (nextWord s ch a) else (s.dma[ch]).desc[i]) ∧
      (t.dma[ch]).words = (s.dma[ch]).words + 1 ∧ (t.dma[ch]).phase = .descriptor ∧ t.dmaState ch = 1 ∧ t.mem = s.mem)) ∧
  (∀ (ch : Fin 16) (a : Addr), Runs (.dmaDescriptorLoad ch)
    (fun s => loading s ch a ∧ (s.dma[ch]).words = 6 ∧ descGood (fun i => if i.val = 6 then dataAt s (nextWord s ch a) else (s.dma[ch]).desc[i]))
    (fun s t => (∀ i : Fin 7, (t.dma[ch]).desc[i] = if i.val = 6 then dataAt s (nextWord s ch a) else (s.dma[ch]).desc[i]) ∧ (t.dma[ch]).row = 0 ∧
      (t.dma[ch]).elem = 0 ∧ (t.dma[ch]).phase = .source ∧ (t.dma[ch]).words = 0 ∧ (t.dmaState ch = 1 ∨ t.dmaState ch = 2) ∧ t.mem = s.mem))

end Sys2Proof.Claims
end

