-- ==== Sys2Proof/Certificates/Slice0/RadioClaims.lean ====
section
/-!
DEFINITION. Sys2Proof/Certificates/Slice0/RadioClaims.lean: the statements about the radio, the store link and the wake receiver (11, 12).
-/

namespace Sys2Proof.Claims

open Sys2Proof.Machine

/-- The rows of RADIO.CMD with their codes (Table RAD-4). -/
def radioRows (m : Master) (v : Word) : List (Instr × Nat) :=
  [(.radioCmdSleep m v, 1), (.radioCmdStandby m v, 2), (.radioCmdRx m v, 3), (.radioCmdTx m v, 4), (.radioCmdTxstart m v, 5), (.radioCmdWakelisten m v, 6),
   (.radioCmdChsw m v, 7), (.radioCmdCalrc m v, 8), (.radioCmdCaliq m v, 9), (.radioCmdCaldc m v, 10)]

/-- RADIO.STATE.CODE and HOLD (Table RAD-3): 0 OFF, 1 SLEEP, 2 STANDBY, 3 CAL, 4 RXWARM, 5 RX, 6 TXWARM, 7 TX, 8 WAKELISTEN. -/
def code (s : State) : Nat := ((s.par P.RADIO_STATE).extractLsb' 0 4).toNat
def holding (s : State) : Bool := code s == 7 && bit s P.RADIO_STATE 4

/-- STATE right after a command of Table RAD-4 is accepted, and whether a transition is then in progress; none where it is rejected (R370, R376, R379). Out of STANDBY a
transition needs REFLOCK, else it waits; out of SLEEP it needs REFEN. -/
def accepted (cmd : Nat) (s : State) : Option (Nat × Bool) :=
  let st := code s
  let lock := bit s P.PWR_STATUS 4
  let ref := bit s P.PWR_CLKCTL 0
  let now := s.radio.trans.isSome
  if bit s P.RADIO_STATE 6 || st == 0 then none
  else
    match cmd with
    | 1 => if st == 2 || st == 8 then some (st, true) else none
    | 2 => some (st, if st == 1 then ref else if st == 2 then false else true)
    | 3 => if st == 2 then some (if lock then (4, true) else (2, false)) else if st == 7 then some (if bit s P.RADIO_STATE 5 then (7, now) else (4, true)) else none
    | 4 => if st == 2 then some (if lock then (6, true) else (2, false)) else if st == 5 then some (6, true) else none
    | 5 => if holding s then some (7, true) else none
    | 6 => if st == 2 then some (2, true) else if st == 1 then some (1, ref) else none
    | 7 => if st == 2 then some (2, now) else if st == 5 || holding s then some (3, true) else none
    | _ => if st == 2 then some (if lock then (3, true) else (2, false)) else none

/-- The parameters of the RADIO and LINK shells and of SYNTH. -/
def radioIx : List Nat := (List.range 0x300).map (0x0B00 + ·)

/-- A command acts at once: the radio clock runs, or it is one that waits for REFLOCK or REFRDY itself, with nothing else waiting (R76, R370). -/
def clocked (cmd : Nat) (s : State) : Prop :=
  s.refRuns = true ∨ (s.radio.late = [] ∧ bit s P.RADIO_STATE 6 = false ∧
    ((code s = 2 ∧ cmd ∈ [3, 4, 8, 9, 10] ∧ bit s P.PWR_STATUS 4 = false) ∨ (code s = 1 ∧ cmd ∈ [2, 6])))

/-- The commands of the radio (R370, R376, R384). -/
def radioCommands : Prop :=
  (∀ (m : Master) (v : Word), ∀ r ∈ radioRows m v, (v.extractLsb' 0 4).toNat = r.2 →
    Accepts r.1 m P.RADIO_CMD v [.radio, .wake, .ipend] (P.WAKE_STATUS :: P.WAKE_LEVEL :: radioIx) (fun _ s => clocked r.2 s ∧ (accepted r.2 s).isSome = true)
      (fun _ s t => some (code t, t.radio.trans.isSome) = accepted r.2 s ∧ t.radioPowered = true ∧ bit t P.RADIO_STATUS 0 = bit s P.RADIO_STATUS 0 ∧
        -- outside OFF, SLEEP, STANDBY and WAKELISTEN the wake receiver collects nothing (R364, R389)
        (code s = 2 → code t ≠ 2 → bit t P.WAKE_STATUS 3 = false))) ∧
  -- a command that its state does not accept is ignored with CMDREJ
  (∀ (m : Master) (v : Word), ∀ r ∈ radioRows m v, (v.extractLsb' 0 4).toNat = r.2 →
    Accepts r.1 m P.RADIO_CMD v [.ipend] [P.RADIO_STATUS, P.RADIO_CNT + 4] (fun _ s => s.refRuns = true ∧ accepted r.2 s = none)
      (fun _ s t => bit t P.RADIO_STATUS 0 = true ∧ t.par (P.RADIO_CNT + 4) = s.par (P.RADIO_CNT + 4) + 1)) ∧
  -- RADIO_CMD_INVALID: a code of no command
  (∀ (m : Master) (v : Word), (v.extractLsb' 0 4 = 0 ∨ 10 < (v.extractLsb' 0 4).toNat) →
    Accepts (.radioCmdInvalid m v) m P.RADIO_CMD v [.ipend] [P.RADIO_STATUS, P.RADIO_CNT + 4] (fun _ s => s.refRuns = true)
      (fun _ s t => bit t P.RADIO_STATUS 0 = true ∧ t.par (P.RADIO_CNT + 4) = s.par (P.RADIO_CNT + 4) + 1)) ∧
  -- without a radio clock a command is acknowledged and waits for it (R50, R76)
  (∀ (m : Master) (v : Word), ∀ r ∈ radioRows m v, (v.extractLsb' 0 4).toNat = r.2 →
    Accepts r.1 m P.RADIO_CMD v [.radio] [] (fun _ s => ¬ clocked r.2 s)
      (fun _ s t => t.radio = { s.radio with late := s.radio.late ++ [.cmd (BitVec.ofNat 4 r.2) ((s.par P.RADIO_CHAN).extractLsb' 0 6)] }))

/-- The ends of transitions and the events of the front end (R358, R373, R376-R379, R388). -/
def radioEvents : Prop :=
  -- RADIO_TRANSITION_DONE: down to SLEEP, STANDBY or WAKELISTEN
  (∀ (b : Bool) (k : BitVec 4), Happens (.radioTransitionDone b) [.radio, .ipend] [P.RADIO_STATE, P.RADIO_STATUS, P.WAKE_STATUS] (fun s => s.radio.trans = some (.lower k none true))
    (fun s t => code t = k.toNat ∧ t.radio.trans = none ∧ bit t P.RADIO_STATUS 13 = true ∧
      bit t P.WAKE_STATUS 3 = (bit s P.WAKE_STATUS 3 && !(code s == 8 && k != 8)))) ∧
  -- out of SLEEP, with REFRDY
  (∀ b : Bool, Happens (.radioTransitionDone b) [.radio, .ipend] [P.RADIO_STATE, P.RADIO_STATUS, P.WAKE_STATUS]
    (fun s => s.radio.trans = some (.up false true) ∧ bit s P.PWR_STATUS 3 = true) (fun _ t => code t = 2 ∧ t.radio.trans = none ∧ bit t P.RADIO_STATUS 13 = true)) ∧
  -- a warm-up to RX: the window opens with the loop locked; without lock STANDBY with UNLOCK
  Happens (.radioTransitionDone true) [.radio, .ipend] (P.WAKE_STATUS :: radioIx) (fun s => s.radio.trans = some (.warm true false false false))
    (fun _ t => code t = 5 ∧ t.radio.trans = none ∧ bit t P.RADIO_STATUS 13 = true ∧ bit t P.SYNTH_ASTAT 0 = true) ∧
  (∀ rx rc iq dc : Bool, Happens (.radioTransitionDone false) [.radio, .ipend] (P.WAKE_STATUS :: radioIx)
    (fun s => s.radio.trans = some (.warm rx rc iq dc))
    (fun s t => code t = 2 ∧ t.radio.trans = none ∧ bit t P.RADIO_STATUS 1 = true ∧ bit t P.SYNTH_ASTAT 0 = false ∧
      (t.par P.SYNTH_ASTAT).extractLsb' 19 6 = s.radio.chan ∧ t.par P.SYNTH_ACALCNT = s.par P.SYNTH_ACALCNT + 1 ∧
      t.par P.SYNTH_AFAILCNT = s.par P.SYNTH_AFAILCNT + 1)) ∧
  -- TXSTART of a wake train: SENDING with what LINK.WAKETX and WAKEREP say
  (∀ b : Bool, Happens (.radioTransitionDone b) [.radio, .ipend] [P.RADIO_STATE, P.RADIO_STATUS, P.WAKE_STATUS]
    (fun s => s.radio.trans = some .start ∧ s.radio.tx = none ∧ s.radio.txcfg.extractLsb' 0 2 = 2)
    (fun s t => code t = 7 ∧ bit t P.RADIO_STATE 5 = true ∧ bit t P.RADIO_STATUS 13 = true ∧
      t.radio.sendCfg = s.par P.LINK_CFG ∧ t.radio.sendSync = (s.par P.LINK_SYNC).extractLsb' 0 32 ∧
      t.radio.tx = some (.train ((s.par P.LINK_WAKETX).extractLsb' 0 16) ((s.par P.LINK_WAKETX).extractLsb' 16 8) ((s.par P.LINK_WAKEREP).extractLsb' 0 16)))) ∧
  -- RADIO_AUTORET: 0 STANDBY, 3 SLEEP, and after RX 1 goes on receiving
  (∀ rx : Bool, Happens .radioAutoret [.radio, .ipend] radioIx (fun s => s.refRuns = true ∧ s.radio.ret = some (rx, 0))
    (fun _ t => t.radio.ret = none ∧ t.radio.trans = some (.lower 2 none false))) ∧
  (∀ rx : Bool, Happens .radioAutoret [.radio, .ipend] radioIx (fun s => s.refRuns = true ∧ s.radio.ret = some (rx, 3))
    (fun _ t => t.radio.ret = none ∧ t.radio.trans = some (.lower 2 (some 1) false))) ∧
  Happens .radioAutoret [.radio, .ipend] (P.WAKE_STATUS :: radioIx) (fun s => s.refRuns = true ∧ s.radio.ret = some (true, 1)) (fun _ t => t.radio.ret = none ∧ code t = 5) ∧
  -- RX_TIMEOUT: STANDBY with RXTO, in an acknowledgement wait with TXDONE; behind a frame under reception it waits for the frame's end
  Happens .rxTimeout [.radio, .ipend] radioIx
    (fun s => code s = 5 ∧ s.par P.RADIO_RXTO ≠ 0 ∧ s.radio.trans = none ∧ bit s P.RADIO_STATE 6 = false ∧ s.radio.ret = none)
    (fun s t => (s.radio.rx = none → bit t P.RADIO_STATUS 8 = true ∧ t.radio.trans = some (.lower 2 none false) ∧ t.radio.ackWait = none ∧
        (s.radio.ackWait.isSome = true → bit t P.LINK_STATUS 8 = true)) ∧
      (s.radio.rx ≠ none → t.radio = { s.radio with rxtoDue := true })) ∧
  -- TX_UNDERRUN: a normal end with TXUNDER, the FIFO empty
  Happens .txUnderrun [.radio, .ipend, .lines] (P.WAKE_STATUS :: radioIx) (fun s => bit s P.RADIO_STATE 5 = true ∧ s.radio.tx = some (.frame none false) ∧ s.radio.txFifo.length ≤ 256)
    (fun s t => bit t P.RADIO_STATUS 4 = true ∧ bit t P.LINK_STATUS 8 = true ∧ t.radio.tx = none ∧ t.radio.txFifo = [] ∧ t.radio.air = some (.frame false s.radio.chan [])) ∧
  -- DIVERSITY_DECISION: the stronger antenna, A on a tie, once in a window that measures; with AGC the gain is chosen with it
  (∀ (a b : BitVec 8) (g : BitVec 3), Happens (.diversityDecision a b g) [.radio] [P.RADIO_DIV, P.RADIO_CNT + 5, P.RADIO_CNT + 6, P.RADIO_GAIN, P.RADIO_RSSI, P.RADIO_STATE]
    (fun s => code s = 5 ∧ (s.radio.meas = true ∨ s.radio.gfskMeas = true) ∧ s.radio.rx = none ∧ bit s P.RADIO_STATE 6 = false)
    (fun s t => bit t P.RADIO_DIV 0 = decide (a.toNat < b.toNat) ∧ (t.par P.RADIO_DIV).extractLsb' 1 8 = a ∧ (t.par P.RADIO_DIV).extractLsb' 9 8 = b ∧
      t.par P.RADIO_RSSI = (if a.toNat < b.toNat then b else a).setWidth 36 ∧ t.radio = { s.radio with meas := false, gfskMeas := false } ∧ code t = 5 ∧
      t.par P.RADIO_GAIN = (if s.radio.rxcfg.getLsbD 3 then g.setWidth 36 else s.par P.RADIO_GAIN))) ∧
  (∀ (a b : BitVec 8) (g : BitVec 3), Happens (.diversityDecision a b g) [] [] (fun s => s.radio.meas = false ∧ s.radio.gfskMeas = false) (fun _ _ => True)) ∧
  -- FAULT_SEQUENCE_END: FAULTSTATE with FABORT
  Happens .faultSequenceEnd [.radio, .ipend] [P.RADIO_STATE, P.RADIO_STATUS, P.WAKE_STATUS] (fun s => bit s P.RADIO_STATE 6 = true ∧ s.radio.down = false)
    (fun s t => code t = (if bit s P.RADIO_FAULTSTATE 0 then 1 else 2) ∧ bit t P.RADIO_STATE 6 = false ∧ bit t P.RADIO_STATUS 2 = true) ∧
  -- or power-down, where PWR.ISLAND.RADIO still asks for it
  Runs .faultSequenceEnd (fun s => bit s P.RADIO_STATE 6 = true ∧ s.radio.down = true ∧ bit s P.PWR_ISLAND 1 = false)
    (fun _ t => code t = 0 ∧ t.radio = RadioSt.init)

/-- The regions let the master read the receive FIFO at some address of its range, where its read may stand (R322, R368). -/
def fifoReadable (m : Master) (s : State) : Prop :=
  ∃ k < 256, s.regionFail (match m with | .dma ch => s.dmaAcc ch | _ => s.umberAcc) spData (BitVec.ofNat 24 (0x410100 + k)) .r = none

/-- The FIFOs, XOTRIM and the die temperature (R368, R376, R377). -/
def radioData : Prop :=
  -- RADIO_TX_FIFO_WRITE: Umber's oldest write for the radio; TXOVF when 256 words wait; without a radio clock it waits for it (R76)
  (∀ v : Word, Happens (.radioTxFifoWrite .umber v) [.pwq, .radio, .lines, .ipend] [P.RADIO_STATUS]
    (fun s => s.radioPowered = true ∧ ∃ w, s.umber.pwq.find? (fun w => w.latched.isNone && decide (w.tgt.shell = Shell.radio)) = some w ∧ w.tgt = .fifo ∧ w.val = v)
    (fun s t => t.umber.pwq = latchFirst Shell.radio 0 s.umber.pwq ∧
      (s.refRuns = true → s.radio.txFifo.length < 256 → t.radio = { s.radio with txFifo := s.radio.txFifo ++ [v] } ∧ t.par P.RADIO_STATUS = s.par P.RADIO_STATUS) ∧
      (s.refRuns = true → 256 ≤ s.radio.txFifo.length → t.radio = s.radio ∧ bit t P.RADIO_STATUS 5 = true) ∧
      (s.refRuns = false → t.radio = { s.radio with late := s.radio.late ++ [.push v] } ∧ t.par P.RADIO_STATUS = s.par P.RADIO_STATUS))) ∧
  -- RADIO_RX_FIFO_READ: one word leaves; RXUNDER where none is there
  (∀ m : Master, m = .umber ∨ m.isDma = true → Happens (.radioRxFifoRead m) [.radio, .ipend] [P.RADIO_STATUS]
    (fun s => s.awake = true ∧ s.radioPowered = true ∧ s.queuedFor Shell.radio = false ∧ fifoReadable m s)
    (fun s t => t.radio = { s.radio with rxFifo := s.radio.rxFifo.tail } ∧ (s.radio.rxFifo = [] → bit t P.RADIO_STATUS 6 = true) ∧
      (s.radio.rxFifo ≠ [] → t.par P.RADIO_STATUS = s.par P.RADIO_STATUS))) ∧
  (∀ (m : Master) (v : Word), v.getLsbD 16 = true → Accepts (.radioTxflush m v) m P.RADIO_FIFOCFG v [.radio, .lines] [P.RADIO_FIFOCFG] (fun _ s => s.refRuns = true)
    (fun _ s t => t.radio = { s.radio with txFifo := [], rxFifo := if v.getLsbD 17 then [] else s.radio.rxFifo })) ∧
  (∀ (m : Master) (v : Word), v.getLsbD 17 = true → Accepts (.radioRxflush m v) m P.RADIO_FIFOCFG v [.radio, .lines] [P.RADIO_FIFOCFG] (fun _ s => s.refRuns = true)
    (fun _ s t => t.radio = { s.radio with rxFifo := [], txFifo := if v.getLsbD 16 then [] else s.radio.txFifo })) ∧
  (∀ (m : Master) (v : Word), Accepts (.xotrimWrite m v) m P.SYNTH_XOTRIM v [] [P.SYNTH_XOTRIM] (fun _ _ => True)
    (fun _ _ t => (t.par P.SYNTH_XOTRIM).extractLsb' 0 8 = v.extractLsb' 0 8)) ∧
  -- XONOW_STEP: the applied code moves one toward XOTRIM, once the clock of the REF group runs (R50, R383)
  Happens .xonowStep [] [] (fun s => s.refRuns = false) (fun _ _ => True) ∧
  Happens .xonowStep [] [P.SYNTH_XONOW] (fun s => s.refRuns = true ∧ bit s P.PWR_CLKCTL 1 = false ∧ s.par P.SYNTH_XONOW = ((s.par P.SYNTH_XONOW).extractLsb' 0 8).setWidth 36)
    (fun s t => let a := ((s.par P.SYNTH_XONOW).extractLsb' 0 8).toNat; let b := ((s.par P.SYNTH_XOTRIM).extractLsb' 0 8).toNat
      (t.par P.SYNTH_XONOW).toNat = if a < b then a + 1 else if b < a then a - 1 else a) ∧
  (∀ k : BitVec 10, Happens (.tempnowPeriodic k) [] [P.SYNTH_TEMPNOW, P.RADIO_CALSTAT] (fun s => s.awake = true ∧ s.radioPowered = true ∧ nothingAbove 6 s)
    (fun s t => t.par P.SYNTH_TEMPNOW = k.setWidth 36 ∧
      (s.refRuns = true → bit t P.RADIO_CALSTAT 1 = decide (40 ≤ (k.toInt - ((s.par P.SYNTH_TEMPIQ).extractLsb' 0 10).toInt).natAbs)) ∧
      (s.refRuns = false → t.par P.RADIO_CALSTAT = s.par P.RADIO_CALSTAT)))

/-- The bits from the first length bit to the last CRC bit, before whitening (R394-R396). -/
def airData (len : BitVec 8) (body : List Byte) : List Bool :=
  let data := lsbBits len ++ body.flatMap lsbBits
  data ++ crcBits (crc24 data)

/-- The whitening register before bit `i` (R397). -/
def whitener (w : BitVec 9) : Nat → BitVec 9
  | 0 => w
  | i + 1 => let v := whitener w i; (v <<< 1) ||| (BitVec.ofBool (v.getLsbD 8 ^^ v.getLsbD 4)).setWidth 9

/-- The bits of a frame on air (Table LNK-1), by LINK.CFG and LINK.SYNC as its sending took them: bytes 0x55, the sync from bit 0, and `data` whitened where WHITEN is 1. -/
def onAir (s : State) (data bits : List Bool) : Prop :=
  let pre := 32 + 8 * (s.radio.sendCfg.extractLsb' 1 4).toNat
  bits.length = pre + 32 + data.length ∧ (∀ i < pre, bits[i]? = some (decide (i % 2 = 0))) ∧ (∀ i < 32, bits[pre + i]? = some (s.radio.sendSync.getLsbD i)) ∧
    ∀ i < data.length, bits[pre + 32 + i]? = data[i]?.map (fun b => b ^^ (s.radio.sendCfg.getLsbD 0 && (whitener (0x100 + s.radio.chan.setWidth 9) i).getLsbD 8))

/-- Chip `j` of the base sequence of Table SIG-3 (R466). -/
def baseChip (j : Nat) : Bool := (baseSequence[j]?).getD false

/-- The group of slot `i` of a burst with offset `k`: 8,184 slots each from 16k on, group 0 also below 16k (R468). -/
def groupOf (k i : Nat) : Nat := if i < 16 * k then 0 else (i - 16 * k) / 8184

/-- The sign bit of group `g`: bit g mod 36 of word floor(g / 36) of the transmit FIFO (R468). -/
def signBit (fifo : List Word) (g : Nat) : Bool := ((fifo[g / 36]?).getD 0).getLsbD (g % 36)

/-- The store link (R396-R406, R410, R419, R467, R468). -/
def storeLink : Prop :=
  -- SYNC_DETECT: with at most the tolerated bit errors: the stamp is two cycles back, a history entry, STATUS.SYNC
  (∀ (w : BitVec 32) (rssi : BitVec 8) (g : BitVec 3), Happens (.syncDetect w false rssi g) [.radio, .ipend]
      ([P.TIME_SYNCS, P.TIME_SYNCF] ++ radioIx)
    (fun s => code s = 5 ∧ s.radio.rxcfg.extractLsb' 0 2 ≠ 3 ∧ s.radio.rx = none ∧ s.radio.ret = none ∧ s.radio.trans = none ∧ bit s P.RADIO_STATE 6 = false ∧ w = (s.par P.LINK_SYNC).extractLsb' 0 32)
    (fun s t => let stamp : StoreTime := (s.time.acc - (s.par P.TIME_INC).setWidth 92 - (s.par P.TIME_INC).setWidth 92).extractLsb' 28 64
      t.par P.TIME_SYNCS = (stamp.extractLsb' 32 32).setWidth 36 ∧ t.par P.TIME_SYNCF = (stamp.extractLsb' 0 32).setWidth 36 ∧ bit t P.LINK_STATUS 12 = true ∧
        (∃ f, t.radio.rx = some f ∧ f.stamp = stamp ∧ f.rssi = rssi) ∧ (t.par P.LINK_HISTIDX).extractLsb' 0 4 = (s.par P.LINK_HISTIDX).extractLsb' 0 4 + 1)) ∧
  -- FRAME_RECEIVED: what a station sends (whitened, with its CRC) is taken back: without filtering, its record enters the receive FIFO
  (∀ (len : BitVec 8) (body : List Byte) (f : RxFrame) (s : State), body.length = 6 + len.toNat → s.radio.rx = some f → s.radio.ackWait = none → s.radio.rxtoDue = false →
    ((f.filter.map (·.cfg)).getD (s.par P.LINK_RXCFG)).getLsbD 0 = false → s.radio.rxFifo.length + 3 + (len.toNat + 9) / 4 ≤ 256 →
    ∃ t, exec (.frameReceived (s.whiten (airData len body))) s = .next t ∧
      (∃ d, t.radio.rxFifo[s.radio.rxFifo.length]? = some d ∧ d.extractLsb' 0 8 = len ∧ d.getLsbD 21 = true ∧ d.getLsbD 22 = false ∧ d.extractLsb' 17 2 = 3 ∧
        t.radio.rxFifo = s.radio.rxFifo ++ d :: byteWords body ++ [(f.stamp.extractLsb' 32 32).setWidth 36, (f.stamp.extractLsb' 0 32).setWidth 36]) ∧
      bit t P.LINK_STATUS 0 = true ∧ bit t P.LINK_STATUS 1 = bit s P.LINK_STATUS 1 ∧ t.radio.rx = none ∧
      (s.radio.rxcfg.getLsbD 2 = false → t.radio.ret = some (true, (s.par P.RADIO_AUTORET).extractLsb' 2 2)) ∧ Untouched [.radio, .ipend, .lines] radioIx s t) ∧
  -- a frame whose CRC fails, without storing of such frames: CRCERR, nothing stored
  (∀ bits : List Bool, bits.length = 128 → Happens (.frameReceived bits) [.radio, .ipend] radioIx
    (fun s => s.radio.rx.isSome = true ∧ s.radio.ackWait = none ∧ s.radio.rxtoDue = false ∧ bit s P.LINK_RXCFG 4 = false ∧ bitsNat ((s.whiten bits).take 8) = 6 ∧
      (s.whiten bits).drop 104 ≠ crcBits (crc24 ((s.whiten bits).take 104)))
    (fun s t => bit t P.LINK_STATUS 1 = true ∧ t.radio.rxFifo = s.radio.rxFifo ∧ t.radio.rx = none)) ∧
  -- FRAME_TX_END: the frame of the record words is on air, TXDONE
  (∀ w : Word, Happens .frameTxEnd [.radio, .ipend, .lines] (P.WAKE_STATUS :: radioIx)
    (fun s => bit s P.RADIO_STATE 5 = true ∧ s.radio.tx = some (.frame (some w) false) ∧ (((w.extractLsb' 0 8).toNat + 9) / 4 ≤ s.radio.txFifo.length) ∧
      bit s P.LINK_TXCTL 0 = false ∧ s.radio.rxNext = false)
    (fun s t => let n := ((w.extractLsb' 0 8).toNat + 9) / 4
      (∃ bits, t.radio.air = some (.frame false s.radio.chan bits) ∧
        onAir s (airData (w.extractLsb' 0 8) (laneBytes (6 + (w.extractLsb' 0 8).toNat) (s.radio.txFifo.take n))) bits) ∧
        t.radio.txFifo = s.radio.txFifo.drop n ∧ bit t P.LINK_STATUS 8 = true ∧ t.radio.tx = none ∧
        t.radio.ret = some (false, (s.par P.RADIO_AUTORET).extractLsb' 0 2))) ∧
  -- TX_UNDERRUN of a frame: TXUNDER, and on air stands what was sent, to the last byte whose word the FIFO had; of a burst to the last group whose sign it had (R388, R468)
  (∀ (w : Word) (rate : Bool), Happens .txUnderrun [.radio, .ipend, .lines] (P.WAKE_STATUS :: radioIx)
    (fun s => bit s P.RADIO_STATE 5 = true ∧ s.radio.tx = some (.frame (some w) rate) ∧ s.radio.txFifo.length < ((w.extractLsb' 0 8).toNat + 9) / 4 ∧ s.radio.rxNext = false)
    (fun s t => bit t P.RADIO_STATUS 4 = true ∧ bit t P.LINK_STATUS 8 = true ∧ t.radio.tx = none ∧ t.radio.txFifo = [] ∧
      ∃ bits, t.radio.air = some (.frame rate s.radio.chan bits) ∧
        onAir s (lsbBits (w.extractLsb' 0 8) ++ (laneBytes (4 * s.radio.txFifo.length) s.radio.txFifo).flatMap lsbBits) bits)) ∧
  (∀ (k : BitVec 6) (n : BitVec 10), Happens .txUnderrun [.radio, .ipend, .lines] (P.WAKE_STATUS :: radioIx)
    (fun s => bit s P.RADIO_STATE 5 = true ∧ s.radio.tx = some (.burst k n true) ∧ s.radio.txFifo.length < ((n.toNat + 7) / 8 + 35) / 36 ∧ s.radio.rxNext = false)
    (fun s t => bit t P.RADIO_STATUS 4 = true ∧ bit t P.LINK_STATUS 10 = true ∧ t.radio.tx = none ∧ t.radio.txFifo = [] ∧
      ∃ chips, t.radio.air = some (.burst s.radio.chan k n chips) ∧
        chips.length = (if s.radio.txFifo = [] then 0 else 16 * k.toNat + 8184 * (36 * s.radio.txFifo.length)) ∧
        ∀ i < chips.length, chips[i]? = some (xor (baseChip ((i + 1023 - 16 * k.toNat) % 1023)) (signBit s.radio.txFifo (groupOf k.toNat i))))) ∧
  -- ACK_TIMEOUT: the wait ends with ACKTO; behind a detected sync it waits for that frame
  Happens .ackTimeout [.radio, .ipend] radioIx (fun s => code s = 5 ∧ s.radio.ackWait.isSome = true ∧ s.radio.ret = none)
    (fun s t => (s.radio.rx = none → t.radio.ackWait = none ∧ bit t P.LINK_STATUS 7 = true ∧ bit t P.LINK_STATUS 8 = true ∧
        t.radio.ret = (if s.radio.rxcfg.getLsbD 2 then none else some (true, (s.par P.RADIO_AUTORET).extractLsb' 0 2))) ∧
      (s.radio.rx ≠ none → t.radio.ackWait = s.radio.ackWait.map (fun a => { a with due := true }))) ∧
  -- WAKE_TRAIN_END and BURST_END
  (∀ (g : BitVec 16) (c : BitVec 8) (n : BitVec 16), Happens .wakeTrainEnd [.radio, .ipend] (P.WAKE_STATUS :: radioIx)
    (fun s => s.radio.tx = some (.train g c n) ∧ bit s P.RADIO_STATE 5 = true ∧ s.radio.rxNext = false)
    (fun _ t => t.radio.air = some (.train ((0xAA : BitVec 8) ++ g ++ c ++ (0xA5 + g.extractLsb' 8 8 + g.extractLsb' 0 8 + c)) n) ∧ bit t P.LINK_STATUS 11 = true ∧ t.radio.tx = none)) ∧
  -- a burst: slot i sends chip (i - 16k) mod 1,023 of the base sequence, inverted where the sign bit of its group is 1
  (∀ (k : BitVec 6) (n : BitVec 10) (data : Bool), Happens .burstEnd [.radio, .ipend, .lines] (P.WAKE_STATUS :: radioIx)
    (fun s => s.radio.tx = some (.burst k n data) ∧ bit s P.RADIO_STATE 5 = true ∧ s.radio.rxNext = false ∧
      (data = true → ((n.toNat + 7) / 8 + 35) / 36 ≤ s.radio.txFifo.length))
    (fun s t => bit t P.LINK_STATUS 10 = true ∧ t.radio.tx = none ∧
      ∃ chips, t.radio.air = some (.burst s.radio.chan k n chips) ∧ chips.length = 1023 * n.toNat ∧
        ∀ i < 1023 * n.toNat, chips[i]? = some (xor (baseChip ((i + 1023 - 16 * k.toNat) % 1023)) (data && signBit s.radio.txFifo (groupOf k.toNat i)))))

/-- The parameters of the WAKE shell. -/
def wakeIx : List Nat := every P.WAKE_CFG 1 0x100

/-- A collected word matches an enabled group at a starting position (R412). -/
def wakeHit (s : State) (bits : BitVec 40) (p : Nat) : Prop :=
  let r := bits.rotateLeft p
  r.extractLsb' 32 8 = 0xAA ∧ r.extractLsb' 0 8 = 0xA5 + r.extractLsb' 24 8 + r.extractLsb' 16 8 + r.extractLsb' 8 8 ∧
    ∃ k < 4, let g := s.par (P.WAKE_GRP + k); g.getLsbD 32 = true ∧ (r.extractLsb' 16 16 ^^^ g.extractLsb' 0 16) &&& g.extractLsb' 16 16 = 0

/-- The wake receiver listens on its schedule: modes 1 and 2. -/
def scheduled (s : State) : Prop := s.pwr.mode = .doze ∨ s.pwr.mode = .retain

/-- A collection can complete: one of a window while the crystal runs, or past the exit that found it in progress, or one of WAKELISTEN (R364, R423, R424). -/
def collected (s : State) : Prop :=
  bit s P.WAKE_STATUS 3 = true ∧ (scheduled s → s.crystalRuns = true) ∧ (¬ scheduled s → s.wake.window.isSome = true ∨ code s = 8)

/-- The wake receiver (R411-R415, R423-R425). -/
def wakeReceiver : Prop :=
  -- WAKE_WINDOW_OPEN: the window opens for 40 crystal cycles, or QUIET counts down
  Happens .wakeWindowOpen [.wake] [P.WAKE_STATUS, P.WAKE_WINCNT]
    (fun s => (s.pwr.mode = .doze ∨ s.pwr.mode = .retain) ∧ s.pwr.exiting = false ∧ s.wake.openDue = true ∧ bit s P.WAKE_CFG 0 = true ∧ s.crystalRuns = true)
    (fun s t => t.wake.openDue = false ∧
      ((s.par P.WAKE_STATUS).extractLsb' 4 4 = 0 → t.wake.window = some 40 ∧ t.par P.WAKE_WINCNT = s.par P.WAKE_WINCNT + 1 ∧ t.par P.WAKE_STATUS = s.par P.WAKE_STATUS) ∧
      ((s.par P.WAKE_STATUS).extractLsb' 4 4 ≠ 0 → t.wake.window = s.wake.window ∧ (t.par P.WAKE_STATUS).extractLsb' 4 4 = (s.par P.WAKE_STATUS).extractLsb' 4 4 - 1)) ∧
  (∀ l : BitVec 6, Happens (.wakeWindowClose l) [.wake] [P.WAKE_LEVEL] (fun s => s.wake.window = some 0 ∧ bit s P.WAKE_STATUS 3 = false)
    (fun s t => t.wake = { s.wake with window := none } ∧ t.par P.WAKE_LEVEL = l.setWidth 36)) ∧
  Happens .wakeCollection [] [P.WAKE_STATUS, P.WAKE_EDGECNT]
    (fun s => ((scheduled s ∧ s.pwr.exiting = false ∧ s.wake.window.isSome = true ∧ s.crystalRuns = true) ∨ code s = 8) ∧ bit s P.WAKE_STATUS 3 = false)
    (fun s t => bit t P.WAKE_STATUS 3 = true ∧ t.par P.WAKE_EDGECNT = s.par P.WAKE_EDGECNT + 1) ∧
  -- WAKE_MATCH: MATCH, the count, REPORT and RTICK; the interrupt at once in WAKELISTEN and where Umber has executed an instruction since the mode, else pending; during a RETAIN exit WAKESRC records it
  (∀ (bits : BitVec 40) (l : BitVec 6), Happens (.wakeMatch { bits := bits, level := l }) [.wake, .ipend] (P.PWR_WAKESRC :: wakeIx)
    (fun s => collected s ∧ ∃ p < 40, wakeHit s bits p)
    (fun s t => (s.wake.window.isSome = true → t.par P.WAKE_LEVEL = l.setWidth 36) ∧
      (∀ k < 36, bit t P.PWR_WAKESRC k = (bit s P.PWR_WAKESRC k || (decide (k = 2) && decide (s.pwr.mode = .retain) && s.pwr.exiting))) ∧ bit t P.WAKE_STATUS 0 = true ∧ bit t P.WAKE_STATUS 3 = false ∧ t.par P.WAKE_MATCHCNT = s.par P.WAKE_MATCHCNT + 1 ∧ t.wake = { s.wake with window := none } ∧
      t.par P.WAKE_RTICK_LO = s.pier.tick.extractLsb' 0 36 ∧ (t.par P.WAKE_STATUS).extractLsb' 4 4 = (s.par P.WAKE_CFG).extractLsb' 1 4 ∧
      (if s.awake = true ∧ (code s = 8 ∨ s.umber.fresh = false) then t.umber.ipend.getLsbD 10 = true ∧ bit t P.WAKE_STATUS 1 = bit s P.WAKE_STATUS 1
        else t.umber.ipend = s.umber.ipend ∧ bit t P.WAKE_STATUS 1 = true))) ∧
  (∀ (bits : BitVec 40) (l : BitVec 6), Happens (.wakeNomatch { bits := bits, level := l }) [.wake] [P.WAKE_STATUS, P.WAKE_LEVEL]
    (fun s => collected s ∧ ¬ ∃ p < 40, wakeHit s bits p)
    (fun s t => bit t P.WAKE_STATUS 2 = true ∧ bit t P.WAKE_STATUS 3 = false ∧ t.wake = { s.wake with window := none } ∧
      (s.wake.window.isSome = true → t.par P.WAKE_LEVEL = l.setWidth 36))) ∧
  -- while the crystal has failed no collection of modes 1 and 2 completes (R424), and elsewhere none without a window or WAKELISTEN (R364, R423)
  (∀ w : Collected, ∀ c ∈ [Instr.wakeMatch w, .wakeNomatch w], Happens c [] []
    (fun s => (scheduled s ∧ s.crystalRuns = false) ∨ (¬ scheduled s ∧ s.wake.window = none ∧ code s ≠ 8)) (fun _ _ => True))

end Sys2Proof.Claims
end

