-- ==== Sys2Proof/Certificates/Slice0/TrestleClaims.lean ====
section
/-!
DEFINITION. Sys2Proof/Certificates/Slice0/TrestleClaims.lean: the statements about Trestle (13).
-/

namespace Sys2Proof.Claims

open Sys2Proof.Machine

/-- Parameter `p` of channel `cc` (R452), and all 64 of them. -/
def ofTrack (p : Nat) (cc : Fin 48) : Nat := p + 64 * cc.val
def trackIx (cc : Fin 48) : List Nat := every (0x1000 + 64 * cc.val) 1 64

/-- The TRS parameters of blocks 0x0F to 0x1B, and those of a sample, with the clip count of the L1 path. -/
def trsIx : List Nat := every 0x0F00 1 0xD00
def sampleIx : List Nat := P.SYNTH_L1CLIP :: trsIx

def enabled (s : State) (cc : Fin 48) : Bool := bit s (ofTrack P.CH_CTL cc) 0

/-- The state of a channel at its enabling sample (R447). -/
def atEnable (cc : Fin 48) (t : State) : Prop :=
  let h := t.trs.ch[cc]
  enabled t cc = true ∧ h.carr = 0 ∧ h.code = 0 ∧ h.sec = 0 ∧ h.acc = Vector.replicate 10 0 ∧ h.epochs = 0 ∧ h.ended = false ∧ h.age = 0 ∧
    h.intcfg = (t.par (ofTrack P.CH_INTCFG cc)).extractLsb' 0 12 ∧ h.carrAdj = [] ∧ h.codeAdj = [] ∧ t.par (ofTrack P.CH_EPOCHCNT cc) = 0

/-- The code and tap configuration of a channel can be used (R430, R431, R436). -/
def genGood (cfg init : Word) : Prop :=
  let n := (cfg.extractLsb' 0 4).toNat
  10 ≤ n ∧ n ≤ 13 ∧ cfg.getLsbD (4 + n - 1) = true ∧ init.extractLsb' 0 13 ≠ 0

def codeGood (s : State) (cc : Fin 48) : Prop :=
  let cfg := s.par (ofTrack P.CH_CODECFG cc)
  if cfg.getLsbD 0 then (cfg.extractLsb' 2 13).toNat ≤ 4096
  else genGood (s.par (ofTrack P.CH_G1CFG cc)) (s.par (ofTrack P.CH_G1INIT cc)) ∧
    ((s.par (ofTrack P.CH_G2CFG cc)).getLsbD 17 = true → genGood (s.par (ofTrack P.CH_G2CFG cc)) (s.par (ofTrack P.CH_G2INIT cc)))

def tapsGood (s : State) (cc : Fin 48) : Prop :=
  let d := ((s.par (ofTrack P.CH_TAPSP cc)).extractLsb' 0 6).toNat
  let d2 := ((s.par (ofTrack P.CH_TAPSP cc)).extractLsb' 6 7).toNat
  1 ≤ d ∧ d ≤ 32 ∧ 1 ≤ d2 ∧ d2 ≤ 64 ∧ d ≤ d2

/-- Enables, adjustments and reads of a channel (R430, R435, R436, R447, R452). -/
def channels : Prop :=
  -- TRS_CHANNEL_ENABLE of a channel at rest, while Trestle's clock runs
  (∀ (m : Master) (cc : Fin 48) (v : Word), v.getLsbD 0 = true →
    Accepts (.trsChannelEnable m cc v) m (ofTrack P.CH_CTL cc) v [.trs] [ofTrack P.CH_CTL cc, ofTrack P.CH_STATUS cc, ofTrack P.CH_EPOCHCNT cc]
      (fun _ s => s.trsRuns = true ∧ enabled s cc = false)
      (fun _ s t => atEnable cc t ∧ (t.par (ofTrack P.CH_CTL cc)).extractLsb' 0 3 = v.extractLsb' 0 3 ∧ ∀ d : Fin 48, d ≠ cc → t.trs.ch[d] = s.trs.ch[d])) ∧
  -- of one that runs: INP stays, RING is stored, tracking goes on
  (∀ (m : Master) (cc : Fin 48) (v : Word), v.getLsbD 0 = true →
    Accepts (.trsChannelEnable m cc v) m (ofTrack P.CH_CTL cc) v [] [ofTrack P.CH_CTL cc] (fun _ s => s.trsRuns = true ∧ enabled s cc = true)
      (fun _ _ t => (t.par (ofTrack P.CH_CTL cc)).extractLsb' 0 3 = v.extractLsb' 0 3)) ∧
  -- a configuration that cannot be used refuses the enable with CFGERR
  (∀ (m : Master) (cc : Fin 48) (v : Word), v.getLsbD 0 = true → ∀ (acc : Accessor) (s : State), arriving m (ofTrack P.CH_CTL cc) v s = some acc →
    taken acc (ofTrack P.CH_CTL cc) s → (s.writeRefusal acc (ofTrack P.CH_CTL cc) v = 0 ∨ s.writeRefusal acc (ofTrack P.CH_CTL cc) v = 2) → enabled s cc = false →
    ¬ (codeGood s cc ∧ tapsGood s cc) →
    ∃ t, exec (.trsChannelEnable m cc v) s = .next t ∧ answered m (ofTrack P.CH_CTL cc) 2 s t ∧ bit t (ofTrack P.CH_STATUS cc) 3 = true ∧ enabled t cc = false ∧
      Untouched (queueOf m) [P.SYS_PERR, P.SYS_PERRCNT, ofTrack P.CH_STATUS cc] s t) ∧
  -- TRS_CHANNEL_DISABLE: the channel stops and drops its integration
  (∀ (m : Master) (cc : Fin 48) (v : Word), v.getLsbD 0 = false →
    Accepts (.trsChannelDisable m cc v) m (ofTrack P.CH_CTL cc) v [.trs] [ofTrack P.CH_CTL cc] (fun _ s => s.trsRuns = true ∧ enabled s cc = true)
      (fun _ s t => enabled t cc = false ∧ (t.trs.ch[cc]).acc = Vector.replicate 10 0 ∧ (t.trs.ch[cc]).epochs = 0 ∧ ∀ d : Fin 48, d ≠ cc → t.trs.ch[d] = s.trs.ch[d])) ∧
  -- while the clock is stopped the shell latches the request and shows its EN, and it acts when the clock restarts (R50, R76)
  (∀ (m : Master) (cc : Fin 48) (v : Word), ∀ c ∈ [Instr.trsChannelEnable m cc v, .trsChannelDisable m cc v],
    v.getLsbD 0 = decide (c = .trsChannelEnable m cc v) →
    Accepts c m (ofTrack P.CH_CTL cc) v [.trs] [ofTrack P.CH_CTL cc] (fun _ s => s.trsRuns = false)
      (fun _ s t => enabled t cc = v.getLsbD 0 ∧ t.trs = { s.trs with late := s.trs.late ++ [.enable cc (enabled s cc) (v.getLsbD 0)] })) ∧
  -- TRS_CHSTART: CHSTARTLO with the latched CHSTARTHI starts every marked channel at rest; the others stay
  (∀ (m : Master) (v : Word), Accepts (.trsChstart m v) m P.TRS_CHSTARTLO v [.trs] (every 0x1000 1 0xC00) (fun _ s => s.trsRuns = true)
    (fun _ s t => ∀ cc : Fin 48,
      let marked := if cc.val < 36 then v.getLsbD cc.val else s.trs.chHi.getLsbD (cc.val - 36)
      (marked = true ∧ enabled s cc = false → (codeGood s cc ∧ tapsGood s cc → atEnable cc t) ∧
        (¬ (codeGood s cc ∧ tapsGood s cc) → enabled t cc = false ∧ bit t (ofTrack P.CH_STATUS cc) 3 = true)) ∧
      (¬ (marked = true ∧ enabled s cc = false) → t.trs.ch[cc] = s.trs.ch[cc] ∧ ∀ k < 64, t.par (0x1000 + 64 * cc.val + k) = s.par (0x1000 + 64 * cc.val + k)))) ∧
  -- CARRADJ and CODEADJ: latched for the next sample, behind those that wait for it too, ADJPEND; while the clock is stopped in the shell
  (∀ (m : Master) (cc : Fin 48) (v : Word), Accepts (.carradj m cc v) m (ofTrack P.CH_CARRADJ cc) v [.trs] [ofTrack P.CH_STATUS cc] (fun _ _ => True)
    (fun _ s t => bit t (ofTrack P.CH_STATUS cc) 6 = true ∧
      (s.trsRuns = true → t.trs.ch[cc] = { s.trs.ch[cc] with carrAdj := s.trs.ch[cc].carrAdj ++ [v] } ∧ ∀ d : Fin 48, d ≠ cc → t.trs.ch[d] = s.trs.ch[d]) ∧
      (s.trsRuns = false → t.trs = { s.trs with late := s.trs.late ++ [.adjust cc true v] }))) ∧
  (∀ (m : Master) (cc : Fin 48) (v : Word), Accepts (.codeadj m cc v) m (ofTrack P.CH_CODEADJ cc) v [.trs] [ofTrack P.CH_STATUS cc] (fun _ _ => True)
    (fun _ s t => bit t (ofTrack P.CH_STATUS cc) 6 = true ∧
      (s.trsRuns = true → t.trs.ch[cc] = { s.trs.ch[cc] with codeAdj := s.trs.ch[cc].codeAdj ++ [v] } ∧ ∀ d : Fin 48, d ≠ cc → t.trs.ch[d] = s.trs.ch[d]) ∧
      (s.trsRuns = false → t.trs = { s.trs with late := s.trs.late ++ [.adjust cc false v] }))) ∧
  -- CODENOW_READ captures the code phase, the carrier phase and its cycles after the samples that came before it
  (∀ (m : Master) (cc : Fin 48) (xs : List Smp), Reads (.codenowRead m { ch := cc, xs := xs }) m (ofTrack P.CH_CODENOW cc) [] [ofTrack P.CH_CODENOW cc, ofTrack P.CH_CARRNOW cc, ofTrack P.CH_CYCNOW cc, P.SYNTH_L1CLIP]
    (fun _ s => xs = [] ∨ s.trsRuns = false)
    (fun s t => t.par (ofTrack P.CH_CODENOW cc) = (s.trs.ch[cc]).code.extractLsb' 9 36 ∧ t.par (ofTrack P.CH_CARRNOW cc) = ((s.trs.ch[cc]).carr.extractLsb' 0 32).setWidth 36 ∧
      t.par (ofTrack P.CH_CYCNOW cc) = (s.trs.ch[cc]).carr.extractLsb' 32 36))

/-- The level index 0-7 of an I or Q value at a shift (R428): floor(x / 2^S) clamped to -4..3, plus 4. -/
def levelIx (x : BitVec 8) (sh : BitVec 3) : Nat := (max (-4) (min 3 (x.toInt / (2 ^ sh.toNat : Nat))) + 4).toNat

/-- The shift of an input at a sample, and its value, 0 where it is blanked. -/
def shiftIn (s : State) (i : Fin 2) : BitVec 3 := if bit s (P.TRS_QCFG + i.val) 3 then s.trs.shift[i] else (s.par (P.TRS_QCFG + i.val)).extractLsb' 0 3
def heard (s : State) (x : Smp) (i : Fin 2) : BitVec 8 × BitVec 8 :=
  if s.inputBlank i.val then (0, 0) else if i.val = 0 then (x.i0, x.q0) else (x.i1, x.q1)

/-- The input of a channel: CTL.INP. -/
def channelInput (s : State) (cc : Fin 48) : Fin 2 := if bit s (ofTrack P.CH_CTL cc) 1 then 1 else 0

/-- The level counts of input `i` with the sample `x` counted. -/
def counted (s : State) (x : Smp) (i : Fin 2) (v : Fin 8) : Nat :=
  (s.trs.counts[8 * i.val + v.val]).toNat + (if levelIx (heard s x i).1 (shiftIn s i) = v.val then 1 else 0) + if levelIx (heard s x i).2 (shiftIn s i) = v.val then 1 else 0

/-- The shift after a block (R428). -/
def shiftNext (sh : BitVec 3) (sevens : Nat) : BitVec 3 := if 3250 < sevens ∧ sh.toNat < 5 then sh + 1 else if sevens < 208 ∧ 0 < sh.toNat then sh - 1 else sh

/-- The channel whose code a pass uses is one, and its code can be used. -/
def passCode (s : State) : Prop := ∃ cc : Fin 48, (s.par P.TRS_SCFG).extractLsb' 0 6 = BitVec.ofNat 6 cc.val ∧ codeGood s cc

/-! ### One sample of an enabled channel (R429-R438) -/

/-- CODELEN of a channel, in units of 2^-32 chip. -/
def codeLength (s : State) (cc : Fin 48) : Nat := ((s.par (ofTrack P.CH_CODECFG cc)).extractLsb' 2 13).toNat * 2 ^ 32

/-- The stages of a generator of `n` stages after `i` chips, stage 1 in bit 0 (R430). -/
def stagesAfter (n taps init : Nat) : Nat → Nat
  | 0 => init % 2 ^ n
  | i + 1 =>
    let w := stagesAfter n taps init i
    let f := ((List.range n).filter (fun j => w.testBit j && taps.testBit j)).length % 2
    (2 * w + f) % 2 ^ n

/-- The output of a generator at chip `i`, from its GkCFG and GkINIT. -/
def generatorOut (cfg init : Word) (i : Nat) : Bool :=
  let n := (cfg.extractLsb' 0 4).toNat
  (stagesAfter n (cfg.extractLsb' 4 13).toNat (init.extractLsb' 0 13).toNat i).testBit (n - 1)

/-- The chip at index `i`: from code memory in MODE 1, else G1, and G2 where USE is 1 (R430, R431). -/
def chipOf (s : State) (cc : Fin 48) (i : Nat) : Bool :=
  let cfg := s.par (ofTrack P.CH_CODECFG cc)
  let g2 := s.par (ofTrack P.CH_G2CFG cc)
  if cfg.getLsbD 0 then (SMap.getD s.trs.codeMem (128 * (cfg.extractLsb' 15 5).toNat + i / 32) 0).getLsbD (i % 32)
  else generatorOut (s.par (ofTrack P.CH_G1CFG cc)) (s.par (ofTrack P.CH_G1INIT cc)) i ^^
    (g2.getLsbD 17 && generatorOut g2 (s.par (ofTrack P.CH_G2INIT cc)) i)

/-- The amplitude at a code phase in units of 2^-32 chip: chip 0 is +1, and BOC turns the second half of a chip (R429, R432). -/
def amplitude (s : State) (cc : Fin 48) (p : Nat) : Int :=
  let half := bit s (ofTrack P.CH_CODECFG cc) 1 && decide (2 ^ 31 ≤ p % 2 ^ 32)
  if chipOf s cc (p / 2 ^ 32) = half then 1 else -1

/-- The secondary sign at position `p` (R432). -/
def secondary (s : State) (cc : Fin 48) (p : BitVec 5) : Int :=
  let l := ((s.par (ofTrack P.CH_SECCFG cc)).extractLsb' 0 6).toNat
  if l ≠ 0 ∧ bit s (ofTrack P.CH_SECPAT cc) (p.toNat % l) = true then -1 else 1

/-- The I and Q levels of an input at a sample, odd from −7 to 7, and 0 where it is blanked (R427, R428). -/
def levels (s : State) (x : Smp) (i : Fin 2) : Int × Int :=
  if s.inputBlank i.val then (0, 0) else (2 * levelIx (heard s x i).1 (shiftIn s i) - 7, 2 * levelIx (heard s x i).2 (shiftIn s i) - 7)

/-- Table TRS-1: COS[m], and SIN[m] is COS[m − 4]. -/
def cosAt (m : Nat) : Int := [6, 5, 3, 1, -1, -3, -5, -6, -6, -5, -3, -1, 1, 3, 5, 6].getD (m % 16) 0

/-- A sample mixed with a carrier phase (R433). -/
def wiped (x : Int × Int) (phi : BitVec 32) : Int × Int :=
  let m := (phi.extractLsb' 28 4).toNat
  (x.1 * cosAt m + x.2 * cosAt (m + 12), x.2 * cosAt m - x.1 * cosAt (m + 12))

/-- An accumulator of `n` bits holds its end value (R436, R438). -/
def held (n : Nat) (v : Int) : Int := max (-(2 ^ (n - 1))) (min (2 ^ (n - 1) - 1) v)

/-- CARRFREQ and CODEFREQ as a sample uses them: CARRRATE is due with the 26,000th since enable (R435). -/
def carrFreqAt (s : State) (cc : Fin 48) : BitVec 32 :=
  let f := (s.par (ofTrack P.CH_CARRFREQ cc)).extractLsb' 0 32
  if (s.trs.ch[cc]).age = 26000 then f + ((s.par (ofTrack P.CH_CARRRATE cc)).extractLsb' 0 24).signExtend 32 else f
def codeFreqAt (s : State) (cc : Fin 48) : BitVec 32 :=
  let f := (s.par (ofTrack P.CH_CARRFREQ cc)).extractLsb' 0 32
  let aid := ((s.par (ofTrack P.CH_AIDRATIO cc)).extractLsb' 0 32).toNat
  (s.par (ofTrack P.CH_CODEFREQ cc)).extractLsb' 0 32 + BitVec.ofInt 32 ((((carrFreqAt s cc).toInt - f.toInt) * (aid : Int)).tdiv (2 ^ 32))

/-- CYC:φ and the code phase with the adjustments that wait for this sample applied: CARRADJ in cycles × 2^-32, CODEADJ in chips × 2^-23 modulo CODELEN (R435). -/
def carrierAt (s : State) (cc : Fin 48) : BitVec 68 := (s.trs.ch[cc]).carr + ((s.trs.ch[cc]).carrAdj.map (fun a => a.signExtend 68)).sum
def phaseAt (s : State) (cc : Fin 48) : Nat :=
  (((s.trs.ch[cc]).code.toNat + 512 * ((s.trs.ch[cc]).codeAdj.map BitVec.toInt).sum : Int) % (codeLength s cc : Int)).toNat

/-- The offsets of VE, E, P, L, VL from the prompt phase, in units of 2^-32 chip (R436). -/
def tapOffset (s : State) (cc : Fin 48) (j : Fin 5) : Int :=
  let d : Int := ((s.par (ofTrack P.CH_TAPSP cc)).extractLsb' 0 6).toNat * 2 ^ 27
  let d2 : Int := ((s.par (ofTrack P.CH_TAPSP cc)).extractLsb' 6 7).toNat * 2 ^ 27
  [d2, d, 0, -d, -d2].getD j.val 0

/-- Tap `j` of a channel as a C18 word, its accumulators divided by 2^DSHIFT toward 0 and clamped (R438), and whether the clamp took effect. -/
def tapWord (h : TrsCh) (j : Fin 5) : Word :=
  let one := fun (a : BitVec 28) => BitVec.ofInt 18 (held 18 (a.toInt.tdiv (2 ^ (h.intcfg.extractLsb' 8 4).toNat)))
  one (h.acc[2 * j.val]) ++ one (h.acc[2 * j.val + 1])
def tapClamps (h : TrsCh) : Prop :=
  ∃ k : Fin 10, held 18 ((h.acc[k]).toInt.tdiv (2 ^ (h.intcfg.extractLsb' 8 4).toNat)) ≠ (h.acc[k]).toInt.tdiv (2 ^ (h.intcfg.extractLsb' 8 4).toNat)

/-- What one sample does to an enabled channel whose code phase lies below CODELEN (R433-R438): the adjustments that wait for it apply, the sample is mixed with φ and
added to the taps, and then the carrier NCO and CYC advance by CARRFREQ and the code phase by CODEFREQ. Where the chip index wraps an epoch ends. -/
def sampled (cc : Fin 48) (x : Smp) (s t : State) : Prop :=
  let h := s.trs.ch[cc]
  let k := t.trs.ch[cc]
  let p := phaseAt s cc
  let next := p + (codeFreqAt s cc).toNat
  let z := wiped (levels s x (channelInput s cc)) ((carrierAt s cc).extractLsb' 0 32)
  let epochs := if h.ended then 0 else h.epochs
  k.carrAdj = [] ∧ k.codeAdj = [] ∧ bit t (ofTrack P.CH_STATUS cc) 6 = false ∧
    k.adj = ((!h.ended && h.adj) || !h.carrAdj.isEmpty || !h.codeAdj.isEmpty ||
      (decide (h.age = 26000) && decide ((s.par (ofTrack P.CH_CARRRATE cc)).extractLsb' 0 24 ≠ 0))) ∧
    k.blank = ((!h.ended && h.blank) || s.inputBlank (channelInput s cc).val) ∧
    k.carr = carrierAt s cc + (carrFreqAt s cc).signExtend 68 ∧ k.code.toNat = (if next < codeLength s cc then next else next - codeLength s cc) ∧
    (∀ j : Fin 5,
      let g := secondary s cc h.sec * amplitude s cc (((p : Int) + tapOffset s cc j) % (codeLength s cc : Int)).toNat
      (k.acc[2 * j.val]).toInt = held 28 ((if h.ended then 0 else (h.acc[2 * j.val]).toInt) + g * z.1) ∧
        (k.acc[2 * j.val + 1]).toInt = held 28 ((if h.ended then 0 else (h.acc[2 * j.val + 1]).toInt) + g * z.2)) ∧
    (next < codeLength s cc → t.par (ofTrack P.CH_EPOCHCNT cc) = s.par (ofTrack P.CH_EPOCHCNT cc) ∧ k.epochs = epochs ∧ k.sec = h.sec ∧ k.secNext = h.secNext ∧ k.ended = false) ∧
    (codeLength s cc ≤ next → t.par (ofTrack P.CH_EPOCHCNT cc) = s.par (ofTrack P.CH_EPOCHCNT cc) + 1 ∧ k.epochs = epochs + 1 ∧ k.secNext = none ∧
      (∀ q, h.secNext = some q → k.sec = q))

/-- The latch words of an enabled channel (R444, Tables TRS-2 and TRS-3): KIND 1, the epochs completed so far, the taps scaled and not cleared. -/
def latched (cc : Fin 48) (count : BitVec 24) (s t : State) : Prop :=
  let h := s.trs.ch[cc]
  let word := fun k => t.par (ofTrack P.CH_LATCH0 cc + k)
  (word 0).extractLsb' 0 6 = BitVec.ofNat 6 cc.val ∧ (word 0).getLsbD 6 = true ∧ (word 0).getLsbD 7 = h.lossNext ∧ ((word 0).getLsbD 8 = true ↔ h.sat = true ∨ tapClamps h) ∧
    (word 0).getLsbD 9 = h.blank ∧ (word 0).getLsbD 10 = h.adj ∧ (word 0).getLsbD 11 = h.qchg ∧ (word 0).extractLsb' 12 5 = h.secAt ∧ (word 0).extractLsb' 17 8 = h.epochs ∧
    (word 0).extractLsb' 25 11 = count.extractLsb' 0 11 ∧ (∀ j : Fin 5, word (1 + j.val) = tapWord h j) ∧ word 6 = s.par P.TRS_SAMPCNT ∧
    word 7 = h.code.extractLsb' 9 36 ∧ word 8 = (h.carr.extractLsb' 0 32).setWidth 36 ∧ word 9 = h.carr.extractLsb' 32 36

/-- The words that the dump FIFO holds (R441, R451). -/
def queuedWords (s : State) : Nat := (s.trs.fifo.map (fun e => match e with | .record _ => 10 | .result .. => 1)).sum

/-- The samples: what one does to every enabled channel (R433-R436), and the events that come about at one (R427, R428, R435-R439, R448). Each is said of a command
that carries one sample. -/
def samples : Prop :=
  -- a sample that CODENOW_READ brings: every enabled channel takes it, another stays as it is, and the read captures the phases after it (R452)
  (∀ (m : Master) (cc : Fin 48) (x : Smp), Reads (.codenowRead m { ch := cc, xs := [x] }) m (ofTrack P.CH_CODENOW cc) [.trs, .ipend, .lines] sampleIx (fun _ s => s.trsRuns = true)
    (fun s t => t.par P.TRS_SAMPCNT = s.par P.TRS_SAMPCNT + 1 ∧
      (∀ d : Fin 48, enabled s d = true → codeGood s d → (s.trs.ch[d]).code.toNat < codeLength s d → sampled d x s t) ∧ (∀ d : Fin 48, enabled s d = false → t.trs.ch[d] = s.trs.ch[d]) ∧
      t.par (ofTrack P.CH_CODENOW cc) = (t.trs.ch[cc]).code.extractLsb' 9 36 ∧ t.par (ofTrack P.CH_CARRNOW cc) = ((t.trs.ch[cc]).carr.extractLsb' 0 32).setWidth 36 ∧
      t.par (ofTrack P.CH_CYCNOW cc) = (t.trs.ch[cc]).carr.extractLsb' 32 36)) ∧
  -- CARRRATE_APPLY: every 26,000th sample since enable; AIDRATIO moves CODEFREQ with it
  (∀ (cc : Fin 48) (x : Smp), Happens (.carrrateApply cc [x]) [.trs, .ipend, .lines] sampleIx
    (fun s => s.trsRuns = true ∧ enabled s cc = true ∧ (s.trs.ch[cc]).age = 26000)
    (fun s t => let f := (s.par (ofTrack P.CH_CARRFREQ cc)).extractLsb' 0 32
      let r := ((s.par (ofTrack P.CH_CARRRATE cc)).extractLsb' 0 24).signExtend 32
      let aid := ((s.par (ofTrack P.CH_AIDRATIO cc)).extractLsb' 0 32).toNat
      t.par P.TRS_SAMPCNT = s.par P.TRS_SAMPCNT + 1 ∧ t.par (ofTrack P.CH_CARRFREQ cc) = (f + r).setWidth 36 ∧ (t.trs.ch[cc]).age = 1 ∧
      (aid = 0 → t.par (ofTrack P.CH_CODEFREQ cc) = s.par (ofTrack P.CH_CODEFREQ cc)) ∧
      (aid ≠ 0 → (t.par (ofTrack P.CH_CODEFREQ cc)).extractLsb' 0 32 =
        (s.par (ofTrack P.CH_CODEFREQ cc)).extractLsb' 0 32 + BitVec.ofInt 32 ((((f + r).toInt - f.toInt) * (aid : Int)).tdiv (2 ^ 32))))) ∧
  -- QUANT_BLOCK_END: QHIST, the shift of each input with AUTO, which applies from the next sample, and CNT8 for a shift that this sample changed
  (∀ x : Smp, Happens (.quantBlockEnd [x]) [.trs, .ipend, .lines] sampleIx
    (fun s => s.trsRuns = true ∧ s.trs.blockPos = 25999 ∧ ∀ k : Fin 16, (s.trs.counts[k]).toNat ≤ 52000)
    (fun s t => (∀ (i : Fin 2) (k : Fin 8), (t.par (P.TRS_QHIST + 8 * i.val + k.val)).toNat = counted s x i k) ∧ t.trs.blockPos = 0 ∧
      t.trs.counts = Vector.replicate 16 0 ∧
      (∀ i : Fin 2, (t.trs.shift[i]) = if bit s (P.TRS_QCFG + i.val) 3 then shiftNext (s.trs.shift[i]) (counted s x i 0 + counted s x i 7) else shiftIn s i) ∧
      t.par P.TRS_QSTAT = ((shiftIn s 1) ++ (shiftIn s 0)).setWidth 36 ∧
      t.par (P.TRS_CNT + 8) = s.par (P.TRS_CNT + 8) + BitVec.ofNat 36 (((List.finRange 2).filter (fun i => decide (shiftIn s i ≠ s.trs.used[i]))).length))) ∧
  -- TRS_DUMP: the integration's last sample; the record goes to the next history slot
  (∀ (cc : Fin 48) (x : Smp), Happens (.trsDump cc [x]) [.trs, .ipend, .lines] sampleIx
    (fun s => s.trsRuns = true ∧ enabled s cc = true ∧ (s.trs.ch[cc]).ended = false ∧ (s.trs.ch[cc]).codeAdj = [] ∧ (s.trs.ch[cc]).age ≠ 26000 ∧ (s.trs.ch[cc]).epochs + 1 = (s.trs.ch[cc]).intcfg.extractLsb' 0 8 ∧
      ((s.par (ofTrack P.CH_CODECFG cc)).extractLsb' 2 13).toNat * 2 ^ 32 ≤ (s.trs.ch[cc]).code.toNat + ((s.par (ofTrack P.CH_CODEFREQ cc)).extractLsb' 0 32).toNat)
    (fun s t => let slot := ((s.par (ofTrack P.CH_HISTIDX cc)).toNat + 1) % 3
      let rec' := fun k => t.par (ofTrack P.CH_HIST0 cc + 10 * slot + k)
      let dumps := (s.par (ofTrack P.CH_STATUS cc)).extractLsb' 12 24 + 1
      t.par (ofTrack P.CH_HISTIDX cc) = BitVec.ofNat 36 slot ∧ bit t (ofTrack P.CH_STATUS cc) 0 = true ∧ (t.par (ofTrack P.CH_STATUS cc)).extractLsb' 12 24 = dumps ∧
      t.trs.dumped.getLsbD cc.val = true ∧ t.par (P.TRS_CHLAST + cc.val) = s.par P.TRS_SAMPCNT + 1 ∧ t.par (ofTrack P.CH_EPOCHCNT cc) = s.par (ofTrack P.CH_EPOCHCNT cc) + 1 ∧
      (rec' 0).extractLsb' 25 11 = dumps.extractLsb' 0 11 ∧ (rec' 0).extractLsb' 17 8 = (s.trs.ch[cc]).intcfg.extractLsb' 0 8 ∧ (rec' 0).extractLsb' 12 5 = (s.trs.ch[cc]).sec ∧
      (rec' 0).getLsbD 6 = false ∧ (rec' 0).extractLsb' 0 6 = BitVec.ofNat 6 cc.val ∧ rec' 6 = s.par P.TRS_SAMPCNT + 1 ∧
      (∀ j : Fin 5, rec' (1 + j.val) = tapWord (t.trs.ch[cc]) j) ∧ (codeGood s cc → (s.trs.ch[cc]).code.toNat < codeLength s cc → sampled cc x s t) ∧
      -- with RING it enters the dump FIFO, or is dropped whole where there is no room (R439, R442)
      (bit s (ofTrack P.CH_CTL cc) 2 = true → queuedWords s + 480 ≤ 2048 → (s.par P.TRS_SSTATUS).extractLsb' 0 2 ≠ 1 →
        ∃ before after r, t.trs.fifo = s.trs.fifo ++ before ++ TrsItem.record r :: after ∧ ∀ k : Fin 10, r[k] = rec' k.val) ∧
      (bit s (ofTrack P.CH_CTL cc) 2 = true → 2038 < queuedWords s → (s.par P.TRS_SSTATUS).extractLsb' 0 2 ≠ 1 →
        t.trs.fifo = s.trs.fifo ∧ bit t (ofTrack P.CH_STATUS cc) 1 = true ∧ t.par (ofTrack P.CH_DROPCNT cc) = s.par (ofTrack P.CH_DROPCNT cc) + 1 ∧ (t.trs.ch[cc]).lossNext = true) ∧
      rec' 7 = (t.trs.ch[cc]).code.extractLsb' 9 36 ∧ rec' 8 = ((t.trs.ch[cc]).carr.extractLsb' 0 32).setWidth 36 ∧ rec' 9 = (t.trs.ch[cc]).carr.extractLsb' 32 36 ∧
      (rec' 0).getLsbD 11 = ((s.trs.ch[cc]).qchg ||
        (decide ((s.trs.ch[cc]).age ≠ 0) && decide (shiftIn s (channelInput s cc) ≠ s.trs.used[channelInput s cc]))) ∧
      (t.trs.ch[cc]).ended = true ∧ (t.trs.ch[cc]).epochs = (s.trs.ch[cc]).intcfg.extractLsb' 0 8)) ∧
  -- SEARCH_CAPTURE_DONE: the buffer is full and the pass begins; one that names a badly configured code is refused with CFGERR, and the capture stays valid
  (∀ x : Smp, Happens (.searchCaptureDone [x]) [.trs, .ipend, .lines] sampleIx
    (fun s => s.trsRuns = true ∧ (s.par P.TRS_SSTATUS).extractLsb' 0 2 = 1 ∧ s.trs.cap.length + 1 = s.trs.capEnd ∧ passCode s)
    (fun s t => (t.par P.TRS_SSTATUS).extractLsb' 0 2 = 2 ∧ t.trs.capValid = true ∧ t.trs.nextH = 0 ∧ t.trs.doneH = 0 ∧ t.trs.cap.length = s.trs.cap.length + 1 ∧
      t.par (P.TRS_CNT + 6) = s.par (P.TRS_CNT + 6) + 1)) ∧
  (∀ (x : Smp) (cc : Fin 48), Happens (.searchCaptureDone [x]) [.trs, .ipend, .lines] sampleIx
    (fun s => s.trsRuns = true ∧ (s.par P.TRS_SSTATUS).extractLsb' 0 2 = 1 ∧ s.trs.cap.length + 1 = s.trs.capEnd ∧
      (s.par P.TRS_SCFG).extractLsb' 0 6 = BitVec.ofNat 6 cc.val ∧ ¬ codeGood s cc)
    (fun s t => (t.par P.TRS_SSTATUS).extractLsb' 0 2 = 0 ∧ t.trs.capValid = true ∧ t.trs.cap.length = s.trs.cap.length + 1 ∧
      bit t (ofTrack P.CH_STATUS cc) 3 = true ∧ t.par (P.TRS_CNT + 6) = s.par (P.TRS_CNT + 6) + 1))

/-- Word `k` of the record at DUMPWP of the ring (R440). -/
def ringWord (s : State) (k : Nat) : Addr := (s.par P.TRS_DUMPBASE).extractLsb' 0 24 + BitVec.ofNat 24 (10 * (s.par P.TRS_DUMPWP).toNat + k)

/-- The writer may write a word (R443): in data SRAM, and allowed to domain 1. -/
def writerMay (s : State) (a : Addr) : Prop := a.toNat < 0x40000 ∧ s.regionFail { master := .host, dom := 1, prv := false } spData a .w = none
def writerAwake (s : State) (a : Addr) : Prop := s.archState (a.toNat / 65536) = 2

/-- The writer runs: the part is awake and the TRESTLE region has power. -/
def writerRuns (s : State) : Prop := s.awake = true ∧ bit s P.PWR_ISLAND 0 = true

/-- The dump ring is full (R440). -/
def ringIsFull (s : State) : Prop :=
  (s.par P.TRS_DUMPLEN).toNat < 2 ∨ ((s.par P.TRS_DUMPWP).toNat + 1) % (s.par P.TRS_DUMPLEN).toNat = (s.par P.TRS_DUMPRP).toNat

def headRecord (s : State) : Option (Vector Word 10) :=
  match s.trs.fifo with
  | .record r :: _ => some r
  | _ => none

/-- The dump writer, its ring and the code memory (R431, R440-R443). -/
def dumps : Prop :=
  -- DUMP_WRITE: nine words, then word 0, then DUMPWP
  Happens .dumpWrite [.trs, .mem, .bank, .resv, .ipend] (trsIx ++ every 0x500 1 256)
    (fun s => writerRuns s ∧ (headRecord s).isSome = true ∧ ¬ ringIsFull s ∧ bit s P.MEM_INJECT 0 = false ∧ (s.par P.TRS_DUMPWP).toNat < (s.par P.TRS_DUMPLEN).toNat ∧
      ∀ k < 10, writerMay s (ringWord s k) ∧ writerAwake s (ringWord s k))
    (fun s t => t.trs.fifo = s.trs.fifo.tail ∧ (t.par P.TRS_DUMPWP).toNat = ((s.par P.TRS_DUMPWP).toNat + 1) % (s.par P.TRS_DUMPLEN).toNat ∧
      t.par P.TRS_CNT = s.par P.TRS_CNT + 1 ∧ t.mem.tile = s.mem.tile ∧ t.mem.prog = s.mem.prog ∧ t.mem.dnvm = s.mem.dnvm ∧
      (∀ r, headRecord s = some r → ∀ k : Fin 10, t.sramCell ((ringWord s k.val).extractLsb' 0 18) = checkBits r[k] ++ r[k] ∧
        t.poisoned ((ringWord s k.val).extractLsb' 0 18) = false) ∧
      (∀ a : BitVec 18, (∀ k < 10, a ≠ (ringWord s k).extractLsb' 0 18) → t.sramCell a = s.sramCell a ∧ t.poisoned a = s.poisoned a)) ∧
  -- a full ring: the writer waits
  Happens .dumpWrite [.trs] [P.TRS_STATUS, P.TRS_CNT + 7] (fun s => writerRuns s ∧ (headRecord s).isSome = true ∧ ringIsFull s)
    (fun s t => bit t P.TRS_STATUS 0 = true ∧ t.trs.fifo = s.trs.fifo) ∧
  -- a refused word discards the record
  Happens .dumpWrite [.trs, .ipend] ([P.TRS_STATUS, P.TRS_CNT + 2, P.TRS_DWFAULT, P.TRS_FIFOLVL, P.TRS_FIFOMAX] ++ every 0x900 1 256)
    (fun s => writerRuns s ∧ (headRecord s).isSome = true ∧ ¬ ringIsFull s ∧ ∃ k, k < 10 ∧ ¬ writerMay s (ringWord s k))
    (fun s t => t.trs.fifo = s.trs.fifo.tail ∧ bit t P.TRS_STATUS 1 = true ∧ t.par P.TRS_DUMPWP = s.par P.TRS_DUMPWP ∧ t.par (P.TRS_CNT + 2) = s.par (P.TRS_CNT + 2) + 1 ∧
      bit t P.TRS_DWFAULT 35 = true ∧ (t.par P.TRS_DWFAULT).extractLsb' 24 3 = 1 ∧
      ∃ k, k < 10 ∧ (t.par P.TRS_DWFAULT).extractLsb' 0 24 = ringWord s k ∧ ¬ writerMay s (ringWord s k)) ∧
  -- an asleep arch keeps it waiting
  Happens .dumpWrite [.trs] [P.TRS_STATUS, P.MEM_STATUS]
    (fun s => writerRuns s ∧ (headRecord s).isSome = true ∧ ¬ ringIsFull s ∧ (∀ k < 10, writerMay s (ringWord s k)) ∧ ∃ k, k < 10 ∧ ¬ writerAwake s (ringWord s k))
    (fun s t => t.trs.fifo = s.trs.fifo ∧ bit t P.TRS_STATUS 2 = true ∧ bit t P.MEM_STATUS 3 = true) ∧
  -- without power in the TRESTLE region the records wait (R426)
  Happens .dumpWrite [] [] (fun s => bit s P.PWR_ISLAND 0 = false) (fun _ _ => True) ∧
  -- CMDATA_WRITE: 32 chips at CMADDR, which moves on; refused with CMERR where the block is in use
  (∀ (m : Master) (v : Word), Accepts (.cmdataWrite m v) m P.TRS_CMDATA v [.trs] [P.TRS_CMADDR] (fun _ s => s.trsRuns = true)
    (fun _ s t => let a := (s.par P.TRS_CMADDR).toNat % 4096
      (t.par P.TRS_CMADDR).toNat = (a + 1) % 4096 ∧ t.trs = { s.trs with codeMem := t.trs.codeMem } ∧
        ∀ k : Fin 4096, SMap.getD t.trs.codeMem k.val 0 = if k.val = a then v.extractLsb' 0 32 else SMap.getD s.trs.codeMem k.val 0)) ∧
  -- while the clock is stopped the word waits for it with its address, and CMADDR moves on at the latch (R50, R76)
  (∀ (m : Master) (v : Word), Accepts (.cmdataWrite m v) m P.TRS_CMDATA v [.trs] [P.TRS_CMADDR] (fun _ s => s.trsRuns = false)
    (fun _ s t => let a : BitVec 12 := (s.par P.TRS_CMADDR).extractLsb' 0 12
      t.par P.TRS_CMADDR = (a + 1).setWidth 36 ∧ t.trs = { s.trs with late := s.trs.late ++ [.code a (v.extractLsb' 0 32)] })) ∧
  (∀ (m : Master) (v : Word), ∀ (acc : Accessor) (s : State), arriving m P.TRS_CMDATA v s = some acc → taken acc P.TRS_CMDATA s → s.writeRefusal acc P.TRS_CMDATA v = 2 →
    ∃ t, exec (.cmdataWrite m v) s = .next t ∧ answered m P.TRS_CMDATA 2 s t ∧ bit t P.TRS_STATUS 4 = true ∧
      Untouched (queueOf m) [P.SYS_PERR, P.SYS_PERRCNT, P.TRS_STATUS] s t) ∧
  -- DUMPBASE_WRITE: the pointers return to 0
  (∀ (m : Master) (len : Bool) (v : Word), Accepts (.dumpbaseWrite m len v) m (if len then P.TRS_DUMPLEN else P.TRS_DUMPBASE) v []
    [if len then P.TRS_DUMPLEN else P.TRS_DUMPBASE, P.TRS_DUMPWP, P.TRS_DUMPRP] (fun _ _ => True)
    (fun _ _ t => (t.par (if len then P.TRS_DUMPLEN else P.TRS_DUMPBASE)).toNat = v.toNat % (if len then 2 ^ 13 else 2 ^ 24) ∧ t.par P.TRS_DUMPWP = 0 ∧ t.par P.TRS_DUMPRP = 0))

/-- SSTATUS bits 1:0: 0 idle, 1 capturing, 2 computing, 3 writing. -/
def search (s : State) : Nat := ((s.par P.TRS_SSTATUS).extractLsb' 0 2).toNat

/-- A result of hypothesis `h` for the word at `a` is at the head of the FIFO, to be added with `add`; `live`: of the pass under way. No more are formed now. -/
def resultHead (s : State) (h : BitVec 12) (a : Addr) (add : Bool) (v : Word) (live : Bool) : Prop :=
  writerRuns s ∧ s.trs.fifo.head? = some (.result h a add v live) ∧ (s.trsRuns = false ∨ s.trs.nextH = 4096) ∧ s.trs.abortAt = none ∧ bit s P.MEM_INJECT 0 = false

/-- The items of the FIFO when a new pass starts: a result of an earlier pass is written, and counts no more. -/
def stale : TrsItem → TrsItem
  | .result h a add v _ => .result h a add v false
  | r => r

/-- What dealing with a result leaves beside its word: it leaves the FIFO, counts in its pass, and its value enters the map. -/
def dealtWith (h : BitVec 12) (live : Bool) (w : Word) (s t : State) : Prop :=
  t.trs.fifo = s.trs.fifo.tail ∧ t.trs.doneH = (if live then s.trs.doneH + 1 else s.trs.doneH) ∧
    (live = true → SMap.find t.trs.vals h.toNat = some w) ∧ (live = false → t.trs.vals = s.trs.vals)

/-- P_h of hypothesis `h` with the code of channel `cc` (R449): the captured samples mixed with a carrier from 0, advancing by SCARR, times the code from
SSTART + h × STEP, advancing by SCODEF, summed without clamping. -/
def hypothesisPower (s : State) (cc : Fin 48) (h : Nat) : Nat :=
  let start := (s.par P.TRS_SSTART).toNat * 2 ^ 9 + h * 2 ^ (29 + ((s.par P.TRS_SCFG).extractLsb' 10 2).toNat)
  let term := fun (n : Nat) =>
    let x := (s.trs.cap.map (fun e => (e.1.toInt, e.2.toInt))).getD n (0, 0)
    let z := wiped x (BitVec.ofNat 32 (n * ((s.par P.TRS_SCARR).extractLsb' 0 32).toNat))
    let g := amplitude s cc ((start + n * ((s.par P.TRS_SCODEF).extractLsb' 0 32).toNat) % codeLength s cc)
    (g * z.1, g * z.2)
  let re := ((List.range s.trs.cap.length).map (fun n => (term n).1)).sum
  let im := ((List.range s.trs.cap.length).map (fun n => (term n).2)).sum
  min ((re * re + im * im).toNat / 2 ^ (s.par P.TRS_SPSHIFT).toNat) (2 ^ 36 - 1)

/-- The search engine (R430, R448-R451). -/
def searches : Prop :=
  (∀ (m : Master) (v : Word), v.extractLsb' 0 2 = 1 → Accepts (.searchCapture m v) m P.TRS_SCMD v [.trs] [P.TRS_SSTATUS]
    (fun _ s => s.trsRuns = true ∧ search s = 0)
    (fun _ s t => search t = 1 ∧ t.trs = { s.trs with cap := [], capValid := false, capEnd := (((s.par P.TRS_SCFG).extractLsb' 7 2).toNat + 1) * 26000, capInp := bit s P.TRS_SCFG 6 })) ∧
  (∀ (m : Master) (v : Word), v.extractLsb' 0 2 = 2 → Accepts (.searchPass m v) m P.TRS_SCMD v [.trs] [P.TRS_SSTATUS]
    (fun _ s => s.trsRuns = true ∧ search s = 0 ∧ s.trs.capValid = true ∧ passCode s)
    (fun _ s t => search t = 2 ∧ t.trs = { s.trs with fifo := s.trs.fifo.map stale, nextH := 0, doneH := 0, abortAt := none, vals := [] })) ∧
  -- a command while a pass runs, or of 2 with no valid capture, sets CMDREJ
  (∀ (m : Master) (v : Word), v.extractLsb' 0 2 = 1 → Accepts (.searchCapture m v) m P.TRS_SCMD v [] [P.TRS_SSTATUS] (fun _ s => s.trsRuns = true ∧ search s ≠ 0)
    (fun _ s t => bit t P.TRS_SSTATUS 3 = true ∧ search t = search s)) ∧
  (∀ (m : Master) (v : Word), v.extractLsb' 0 2 = 2 → Accepts (.searchPass m v) m P.TRS_SCMD v [] [P.TRS_SSTATUS]
    (fun _ s => s.trsRuns = true ∧ (search s ≠ 0 ∨ s.trs.capValid = false))
    (fun _ s t => bit t P.TRS_SSTATUS 3 = true ∧ search t = search s)) ∧
  -- a pass that names a badly configured code: CFGERR of its channel
  (∀ (m : Master) (v : Word), v.extractLsb' 0 2 = 2 → ∀ cc : Fin 48, Accepts (.searchPass m v) m P.TRS_SCMD v [] [ofTrack P.CH_STATUS cc]
    (fun _ s => s.trsRuns = true ∧ search s = 0 ∧ s.trs.capValid = true ∧ (s.par P.TRS_SCFG).extractLsb' 0 6 = BitVec.ofNat 6 cc.val ∧ ¬ codeGood s cc)
    (fun _ _ t => bit t (ofTrack P.CH_STATUS cc) 3 = true)) ∧
  -- SEARCH_ABORT: at the next group of 256 hypotheses, at once where every result before it is dealt with
  (∀ (m : Master) (v : Word), v.extractLsb' 0 2 = 3 → Accepts (.searchAbort m v) m P.TRS_SCMD v [.trs] [P.TRS_SSTATUS]
    (fun _ s => s.trsRuns = true ∧ s.trs.nextH.toNat ≤ 4096)
    (fun _ s t => let group : BitVec 13 := BitVec.ofNat 13 (256 * ((s.trs.nextH.toNat + 255) / 256))
      (search s < 2 → search t = 0 ∧ t.trs = s.trs) ∧
      (2 ≤ search s → s.trs.doneH = group → search t = 0 ∧ t.trs = { s.trs with abortAt := none }) ∧
      (2 ≤ search s → s.trs.doneH ≠ group → search t = search s ∧ t.trs = { s.trs with abortAt := some group }))) ∧
  -- while the clock is stopped the shell latches a command (R50, R76)
  (∀ (m : Master) (v : Word), ∀ r ∈ [(Instr.searchCapture m v, 1), (.searchPass m v, 2), (.searchAbort m v, 3)], (v.extractLsb' 0 2).toNat = r.2 →
    Accepts r.1 m P.TRS_SCMD v [.trs] [] (fun _ s => s.trsRuns = false)
      (fun _ s t => t.trs = { s.trs with late := s.trs.late ++ [.search (v.extractLsb' 0 2) (s.par P.TRS_SCFG)] })) ∧
  -- SEARCH_RESULT_WRITE forms the next result, P_h for the word SRESBASE + h, and writes it where none waits before it (R449-R451)
  (∀ cc : Fin 48, Happens .searchResultWrite [.trs, .mem, .bank, .resv] (trsIx ++ every 0x500 1 256)
    (fun s => writerRuns s ∧ s.trsRuns = true ∧ search s = 2 ∧ s.trs.fifo = [] ∧ s.trs.nextH.toNat < 4096 ∧ s.trs.abortAt = none ∧ bit s P.TRS_SCFG 9 = false ∧
      (s.par P.TRS_SCFG).extractLsb' 0 6 = BitVec.ofNat 6 cc.val ∧ codeGood s cc ∧ bit s P.MEM_INJECT 0 = false ∧
      (let a := (s.par P.TRS_SRESBASE).extractLsb' 0 24 + s.trs.nextH.setWidth 24; writerMay s a ∧ writerAwake s a))
    (fun s t => let a : Addr := (s.par P.TRS_SRESBASE).extractLsb' 0 24 + s.trs.nextH.setWidth 24
      let v : Word := BitVec.ofNat 36 (hypothesisPower s cc s.trs.nextH.toNat)
      search t = 3 ∧ t.trs.fifo = [] ∧ t.trs.nextH = s.trs.nextH + 1 ∧ t.trs.doneH = s.trs.doneH + 1 ∧ SMap.find t.trs.vals s.trs.nextH.toNat = some v ∧
        t.sramCell (a.extractLsb' 0 18) = checkBits v ++ v ∧ OneWord (a.extractLsb' 0 18) s t)) ∧
  -- the oldest result is written, or with ACCUM added at the bank; one of an earlier pass is written and does not count
  (∀ (h : BitVec 12) (a : Addr) (v : Word) (live : Bool), Happens .searchResultWrite [.trs, .mem, .bank, .resv] (trsIx ++ every 0x500 1 256)
    (fun s => resultHead s h a false v live ∧ writerMay s a ∧ writerAwake s a)
    (fun s t => dealtWith h live v s t ∧ t.sramCell (a.extractLsb' 0 18) = checkBits v ++ v ∧ OneWord (a.extractLsb' 0 18) s t)) ∧
  (∀ (h : BitVec 12) (a : Addr) (v old : Word) (live : Bool), Happens .searchResultWrite [.trs, .mem, .bank, .resv, .ipend] (trsIx ++ every 0x500 1 256)
    (fun s => resultHead s h a true v live ∧ writerMay s a ∧ s.regionFail { master := .host, dom := 1, prv := false } spData a .rw = none ∧ writerAwake s a ∧
      s.poisoned (a.extractLsb' 0 18) = false ∧ readable (s.sramCell (a.extractLsb' 0 18)) = some old)
    (fun s t => dealtWith h live (old + v) s t ∧ t.sramCell (a.extractLsb' 0 18) = checkBits (old + v) ++ (old + v) ∧ OneWord (a.extractLsb' 0 18) s t)) ∧
  -- a word the writer may not write is left out: DWFAULT with kind 1, CNT2, and the hypothesis has no value
  (∀ (h : BitVec 12) (a : Addr) (v : Word) (live : Bool), Happens .searchResultWrite [.trs, .ipend] (trsIx ++ every 0x900 1 256)
    (fun s => resultHead s h a false v live ∧ ¬ writerMay s a)
    (fun s t => t.trs.fifo = s.trs.fifo.tail ∧ t.trs.doneH = (if live then s.trs.doneH + 1 else s.trs.doneH) ∧ t.trs.vals = s.trs.vals ∧
      bit t P.TRS_DWFAULT 35 = true ∧ (t.par P.TRS_DWFAULT).extractLsb' 24 3 = 1 ∧ (t.par P.TRS_DWFAULT).extractLsb' 0 24 = a ∧
      bit t P.TRS_STATUS 1 = true ∧ t.par (P.TRS_CNT + 2) = s.par (P.TRS_CNT + 2) + 1)) ∧
  -- SEARCH_PASS_DONE: PASSDONE, TRSSRCH, request line 9, the largest value with its hypothesis and the mean
  Happens .searchPassDone [.ipend, .lines] trsIx
    (fun s => s.awake = true ∧ s.trsRuns = true ∧ search s = 3 ∧ s.trs.doneH = 4096 ∧ s.trs.abortAt = none ∧ s.trs.vals ≠ [] ∧ (∀ e ∈ s.trs.vals, e.1 < 4096))
    (fun s t => search t = 0 ∧ bit t P.TRS_SSTATUS 2 = true ∧ t.par P.TRS_SPASSCNT = s.par P.TRS_SPASSCNT + 1 ∧ t.lines.getLsbD 9 = true ∧
      (bit s P.TRS_IRQEN 2 = true → t.umber.ipend.getLsbD 18 = true) ∧
      (∀ e ∈ s.trs.vals, e.2.toNat ≤ (t.par P.TRS_SPEAK).toNat) ∧
      (∃ e, s.trs.vals.find? (fun e => decide (e.2 = t.par P.TRS_SPEAK)) = some e ∧ ((t.par P.TRS_SPEAKIDX).extractLsb' 0 12).toNat = e.1 ∧ e.2 = t.par P.TRS_SPEAK) ∧
      (t.par P.TRS_SMEAN).toNat = (s.trs.vals.map (fun e => e.2.toNat)).sum / s.trs.vals.length)

end Sys2Proof.Claims
end

