-- ==== Sys2Proof/Certificates/Slice0/PowerClaims.lean ====
section
/-!
DEFINITION. Sys2Proof/Certificates/Slice0/PowerClaims.lean: the statements about parameter writes, clocks, islands, modes and resets (01, 02, 20, 21).
-/

namespace Sys2Proof.Claims

open Sys2Proof.Machine

/-! ### Parameter writes (PARAM_WRITE, PARAM_WRITE_ACK) -/

/-- Any write that its shell declines leaves the parameter and everything else as they were, but for SYS.PERR, PERRCNT and the status that a block defines for it (R624). -/
def refusedWrites : Prop :=
  ∀ (m : Master) (i : BitVec 13) (v : Word),
    Declines (.paramWrite m i v) m i.toNat v
      ([P.TIME_STATUS, P.CRYPT_STATUS, P.CRYPT_CNT + 7, P.FACE_STATUS, P.TRS_STATUS] ++ every P.CH_STATUS 64 48)

/-- The parameters that are plain storage: a write stores the fields that are RW and nothing else happens (R10, R622). Named here by block. -/
def plainStore (i : Nat) : Prop :=
  i = P.PWR_MODE ∨ i = P.PWR_WAKEEN ∨ i = P.PWR_RETCFG ∨ i = P.TIME_INC ∨ i = P.TIME_LOADS ∨ i = P.TIME_LOADF ∨ i = P.TIME_PINCOMP ∨
  i = P.MEM_CETHR ∨ i = P.MEM_INJADDR ∨ i = P.MEM_SCRUBCFG ∨ i = P.DOM_PMSEL ∨ i = P.DOM_LKSEL ∨ (P.MPU_BASE ≤ i ∧ i < P.MPU_BASE + 0x300)

def plainWrites : Prop :=
  ∀ (m : Master) (i : BitVec 13) (v : Word), plainStore i.toNat → ∀ sh, sheetOf i.toNat = some sh →
    Accepts (.paramWrite m i v) m i.toNat v [] [i.toNat] (fun _ _ => True)
      (fun _ s t => ∀ k < 36, bit t i.toNat k = if sh.rw.getLsbD k then v.getLsbD k else bit s i.toNat k)

/-- What a write of index `i` asked of TIME or the Pier still waits for the next edge of a clock that runs (R50, R51): a STEP, a LOAD, INV or an arming for TCLK, a SEC or
TICK, an alarm, SWCFG or a PWRON acknowledgement for the crystal. -/
def effectWaits (i : Nat) (s : State) : Prop :=
  (s.refRuns = true ∧
    ((i = P.TIME_STEP ∧ s.time.steps ≠ []) ∨ (i = P.TIME_CTL ∧ ∃ l, s.time.load = some l ∧ l.taken = false) ∨
     (i = P.TIME_PINCTL ∧ s.time.pinInv ≠ (s.par P.TIME_PINCTL).extractLsb' 0 4) ∨
     ∃ n : Fin 8, i = P.STRK_CTL + 16 * n.val ∧ ∃ e ∈ s.time.armPend, e.1.toNat = n.val)) ∨
  (s.crystalRuns = true ∧
    ((i = P.PIER_SEC ∧ s.pier.secPend ≠ none) ∨ ((i = P.PIER_TICK_LO ∨ i = P.PIER_TICK_HI) ∧ s.pier.tickPend ≠ []) ∨
     (∃ n : Fin 2, (∃ k < 3, i = P.PIER_ALM0_LO + 3 * n.val + k) ∧ s.pier.alarms[n] ≠
       { value := (s.par (P.PIER_ALM0_HI + 3 * n.val)).extractLsb' 0 12 ++ s.par (P.PIER_ALM0_LO + 3 * n.val),
         mask := (s.par (P.PIER_ALM0CTL + 3 * n.val)).extractLsb' 0 4, en := bit s (P.PIER_ALM0CTL + 3 * n.val) 4 }) ∨
     (i = P.PIER_SWCFG ∧ s.pier.swcfg ≠ (s.par P.PIER_SWCFG).extractLsb' 0 5) ∨ (i = P.PIER_PWRSTAT ∧ s.pier.ackPend = true)))

/-- PARAM_WRITE_ACK: the acknowledgement of a latched entry frees it, in order for its island; a refusal sets BSTAT.REFUSED with the index (R263, R624), except for a
store of the extension space (R198). That of an accepted write comes once its effect has landed, and until then nothing happens (R51). -/
def acknowledgements : Prop :=
  (∀ k : Fin 8, Happens (.paramWriteAck k) [] []
    (fun s => ∃ w, s.umber.pwq[k.val]? = some w ∧ w.latched = some 0 ∧ ∃ i, w.tgt.index = some i ∧ effectWaits i s) (fun _ _ => True)) ∧
  ∀ k : Fin 8, Happens (.paramWriteAck k) [.pwq, .umber, .mgmt] []
    (fun s => ∃ w, s.umber.pwq[k.val]? = some w ∧ w.latched ≠ none ∧ (∀ e ∈ s.umber.pwq.take k.val, e.tgt.shell ≠ w.tgt.shell) ∧
      (w.latched = some 0 → ∀ i, w.tgt.index = some i → ¬ effectWaits i s))
    (fun s t => t.umber.pwq = s.umber.pwq.eraseIdx k.val ∧ umberRest { t.umber with bstat := s.umber.bstat } = umberRest s.umber ∧
      { t.mgmt with job := s.mgmt.job, jobBad := s.mgmt.jobBad } = s.mgmt ∧
      ∀ w, s.umber.pwq[k.val]? = some w →
        (w.latched = some 0 ∨ w.quiet = true → t.umber.bstat = s.umber.bstat) ∧
        (w.latched ≠ some 0 → w.quiet = false → t.umber.bstat.getLsbD 1 = true ∧ ∀ i ∈ (match w.tgt with | .par i => [i] | _ => []), t.umber.bstat.extractLsb' 8 13 = i))

/-! ### Clocks -/

/-- REF_PLL_LOCK makes the REF group run. -/
def refLocks (s : State) : Prop := s.awake = true ∧ bit s P.PWR_CLKCTL 0 = true ∧ bit s P.PWR_STATUS 3 = true ∧ bit s P.PWR_STATUS 4 = false

/-- The FIFOs after the words and flushes that waited, in their order (R51, R368): a word enters the transmit FIFO where fewer than 256 wait. -/
def fifosAfter : List RadioLate → List Word × List Word → List Word × List Word
  | [], f => f
  | .push v :: rs, f => fifosAfter rs (if f.1.length < 256 then (f.1 ++ [v], f.2) else f)
  | .flush tx rx :: rs, f => fifosAfter rs (if tx then [] else f.1, if rx then [] else f.2)
  | .cmd _ _ :: rs, f => fifosAfter rs f

/-- CTL.EN of a channel after the requests that waited: the last of them decides (R51, R447). -/
def enabledAfter (cc : Fin 48) (rs : List TrsReq) (e : Bool) : Bool :=
  rs.foldl (fun e r => match r with | .enable d _ on => if d = cc then on else e | _ => e) e

/-- A word of code memory after the words that waited: the last one for its address (R51, R431). -/
def codeWordAfter (k : Nat) (rs : List TrsReq) (w : BitVec 32) : BitVec 32 :=
  rs.foldl (fun w r => match r with | .code a v => if a.toNat = k then v else w | _ => w) w

/-- The requests latched while the REF group's clock was stopped act when it restarts, in their order (R50, R51, R76). -/
def requestsAct : Prop :=
  -- the radio: words and flushes of the FIFOs
  Runs .refPllLock (fun s => refLocks s ∧ s.radio.lockWait = none ∧ ∀ r ∈ s.radio.late, ∀ c k, r ≠ .cmd c k)
    (fun s t => (t.radio.txFifo, t.radio.rxFifo) = fifosAfter s.radio.late (s.radio.txFifo, s.radio.rxFifo) ∧ t.radio.late = [] ∧ code t = code s) ∧
  -- a command, behind words and flushes: as with a running clock, where CHSW in STANDBY takes RADIO.CHAN as it stood at the latch
  (∀ (c : BitVec 4) (k : BitVec 6), 1 ≤ c.toNat → c.toNat ≤ 10 → Runs .refPllLock
    (fun s => refLocks s ∧ s.radio.lockWait = none ∧ s.radio.late.getLast? = some (.cmd c k) ∧ ∀ r ∈ s.radio.late.dropLast, ∀ c k, r ≠ .cmd c k)
    (fun s t => t.radio.late = [] ∧
      (accepted c.toNat (s.parBit P.PWR_STATUS 4 true) = none → bit t P.RADIO_STATUS 0 = true ∧ code t = code s) ∧
      (∀ r, accepted c.toNat (s.parBit P.PWR_STATUS 4 true) = some r → code t = r.1 ∧ t.radio.trans.isSome = r.2 ∧ (c = 7 → code s = 2 → t.radio.chan = k)))) ∧
  -- two commands: the first acts first, and the second finds the state it left
  (∀ k l : BitVec 6, Runs .refPllLock (fun s => refLocks s ∧ s.radio.lockWait = none ∧ code s = 2 ∧ bit s P.RADIO_STATE 6 = false ∧ s.radio.late = [.cmd 3 k, .cmd 4 l])
    (fun _ t => code t = 4 ∧ bit t P.RADIO_STATUS 0 = true)) ∧
  (∀ k l : BitVec 6, Runs .refPllLock (fun s => refLocks s ∧ s.radio.lockWait = none ∧ code s = 2 ∧ bit s P.RADIO_STATE 6 = false ∧ s.radio.late = [.cmd 4 k, .cmd 3 l])
    (fun _ t => code t = 6 ∧ bit t P.RADIO_STATUS 0 = true)) ∧
  -- Trestle: words of code memory, whether REF was lost or has never run
  Runs .refPllLock (fun s => refLocks s)
    (fun s t => t.trs.late = [] ∧ t.par P.TRS_SAMPCNT = 0 ∧ ∀ k : Fin 4096, SMap.getD t.trs.codeMem k.val 0 = codeWordAfter k.val s.trs.late (SMap.getD s.trs.codeMem k.val 0)) ∧
  -- enables and adjustments; a channel that starts is as at its enabling sample
  Runs .refPllLock (fun s => refLocks s ∧ s.trs.refLost = false ∧ ∀ r ∈ s.trs.late, ∀ a b, r ≠ .start a b)
    (fun s t => (∀ cc : Fin 48, enabled t cc = enabledAfter cc s.trs.late (enabled s cc)) ∧
      (∀ cc : Fin 48, s.trs.late = [.enable cc false true] → atEnable cc t) ∧
      ((∀ r ∈ s.trs.late, ∀ cc was on, r ≠ .enable cc was on) → ∀ cc : Fin 48,
        (t.trs.ch[cc]).carrAdj = (s.trs.ch[cc]).carrAdj ++ s.trs.late.filterMap (fun r => match r with | .adjust d true v => if d = cc then some v else none | _ => none) ∧
        (t.trs.ch[cc]).codeAdj = (s.trs.ch[cc]).codeAdj ++ s.trs.late.filterMap (fun r => match r with | .adjust d false v => if d = cc then some v else none | _ => none))) ∧
  -- after a loss every channel is disabled too with REFLOST (R458); which of the two comes first the spec does not say, and the model leaves it free (log 40)
  Runs .refPllLock (fun s => refLocks s ∧ s.trs.refLost = true ∧ ∀ r ∈ s.trs.late, ∀ a b, r ≠ .start a b)
    (fun s t => t.trs.refLost = false ∧ bit t P.TRS_STATUS 3 = true ∧
      ((∀ cc : Fin 48, enabled t cc = false) ∨ (∀ cc : Fin 48, enabled t cc = enabledAfter cc s.trs.late false)) ∧
      (s.trs.late = [] → ∀ cc : Fin 48, enabled t cc = false) ∧ ∀ cc : Fin 48, bit t (ofTrack P.CH_STATUS cc) 5 = true)

def clocks : Prop :=
  -- REF_SOURCE_READY (R52): REFRDY
  Happens .refSourceReady [] [P.SYNTH_REFAMP, P.PWR_STATUS]
    (fun s => s.awake = true ∧ bit s P.PWR_CLKCTL 0 = true ∧ bit s P.PWR_STATUS 3 = false ∧ s.pwr.exiting = false ∧ s.lifeState ≠ 3)
    (fun s t => bit t P.PWR_STATUS 3 = true ∧ ∀ k < 36, k ≠ 3 → bit t P.PWR_STATUS k = bit s P.PWR_STATUS k) ∧
  -- REF_PLL_LOCK (R46, R83): REFLOCK, and store time starts from 0
  Happens .refPllLock [.time, .radio, .trs, .wake, .ipend] (P.PWR_STATUS :: P.WAKE_STATUS :: P.WAKE_LEVEL :: (List.range 0x200).map (0x0B00 + ·) ++ every 0x0F00 1 0xD00)
    (fun s => refLocks s ∧ s.radio.late = [])
    (fun _ t => bit t P.PWR_STATUS 4 = true ∧ t.time.acc = 0 ∧ t.time.tclk = 0 ∧ t.refRuns = true) ∧
  -- and what was latched while the clock was stopped acts
  requestsAct ∧
  -- CORE_PLL_LOCK (R55): the relock ends
  Happens .corePllLock [.pwr] [P.PWR_STATUS]
    (fun s => s.awake = true ∧ s.pwr.relock = true ∧ (bit s P.PWR_CLKCTL 2 = true ∨ bit s P.PWR_STATUS 3 = true))
    (fun s t => bit t P.PWR_STATUS 5 = true ∧ t.pwr = { s.pwr with relock := false }) ∧
  -- DVFS_POINT_WRITE (R58, R59): the target, BUSY until the ramp ends; a lower point switches the divisor at once
  (∀ (m : Master) (v : Word), Accepts (.dvfsPointWrite m v) m P.PWR_DVFS v [.pwr] [P.PWR_DVFS]
    (fun _ s => v.extractLsb' 0 3 ≠ (s.par P.PWR_DVFS).extractLsb' 0 3 ∨ bit s P.PWR_DVFS 3 = true)
    (fun _ s t => t.par P.PWR_DVFS = BitVec.ofNat 36 (v.toNat % 8 + 8) ∧
      t.pwr = { s.pwr with point := if (v.extractLsb' 0 3).toNat < s.pwr.point.toNat then v.extractLsb' 0 3 else s.pwr.point })) ∧
  -- DVFS_RAMP_END (R58): BUSY clears and the divisor is that of the target
  Happens .dvfsRampEnd [.pwr] [P.PWR_DVFS]
    (fun s => s.awake = true ∧ bit s P.PWR_DVFS 3 = true)
    (fun s t => bit t P.PWR_DVFS 3 = false ∧ (t.par P.PWR_DVFS).extractLsb' 0 3 = (s.par P.PWR_DVFS).extractLsb' 0 3 ∧
      t.pwr = { s.pwr with point := (s.par P.PWR_DVFS).extractLsb' 0 3 })

/-- REF_LOSS (R77, R83, R86): REFRDY and REFLOCK clear, REFFAIL sets with source PWR, VALID and LOADPEND clear, every armed strike unit disarms with ABORTED, and with
CORESRC = 0 the core PLL locks again from the RC. A STEP or ARM = 1 latched and not yet taken waits for the restart (R50, R76), and a synthesiser G that had locked has
lost its lock (R359). -/
def refLosses : Prop :=
  Runs .refLoss (fun s => s.awake = true ∧ s.refRuns = true)
    (fun s t => bit t P.PWR_STATUS 3 = false ∧ bit t P.PWR_STATUS 4 = false ∧ bit t P.PWR_STATUS 7 = true ∧
      t.umber.ipend.getLsbD 24 = true ∧ bit t P.TIME_STATUS 0 = false ∧ bit t P.TIME_STATUS 3 = false ∧ t.time.load = none ∧ t.time.steps = s.time.steps ∧ t.time.armPend = s.time.armPend ∧
      (s.pwr.package = .ab → bit s P.PWR_ISLAND 2 = true → bit s P.SYNTH_GSTAT 0 = true → bit t P.SYNTH_GSTAT 7 = true ∧ t.pwr.gLost = true) ∧
      (∀ n : Fin 8, t.armed n = false) ∧
      (∀ n : Fin 8, s.armed n = true → bit t (P.STRK_STATUS + 16 * n.val) 1 = true) ∧
      (bit s P.PWR_CLKCTL 2 = false → t.pwr.relock = true ∧ bit t P.PWR_STATUS 5 = false) ∧
      t.mem = s.mem ∧ umberRest t.umber = umberRest s.umber ∧ t.pier = s.pier ∧ t.life = s.life ∧ t.host = s.host)

/-! ### Islands (Table ISL-18) -/

/-- The writes of PWR.ISLAND by row, with the bit and the value that spell each (Table ISL-18): L1 is bit 2, RADIO 1, TRESTLE 0, CIPHER 3. -/
def islandRows (m : Master) (v : Word) : List (Instr × Nat × Bool) :=
  [(.trestlePowerOn m v, 0, true), (.trestlePowerOff m v, 0, false), (.radioPowerOn m v, 1, true), (.radioPowerOff m v, 1, false),
   (.l1Enable m v, 2, true), (.l1Disable m v, 2, false), (.cipherPowerOn m v, 3, true), (.cipherPowerOff m v, 3, false)]

/-- A write of PWR.ISLAND: the bits are kept, and a region without its bit is off (R370, R379, R426, R505, R72). -/
def islands : Prop :=
  ∀ (m : Master) (v : Word), ∀ r ∈ islandRows m v, v.getLsbD r.2.1 = r.2.2 →
    Takes r.1 m P.PWR_ISLAND v (fun _ _ => True)
      (fun _ s t => t.par P.PWR_ISLAND = v &&& 0xF ∧ answered m P.PWR_ISLAND 0 s t ∧
        (bit s P.PWR_ISLAND 1 = true → v.getLsbD 1 = false → t.radioPowered = false ∨ (t.radioFault = true ∧ t.radio.down = true)) ∧
        (bit s P.PWR_ISLAND 0 = true → v.getLsbD 0 = false → ∀ n : Fin 48, t.chEnabled n = false) ∧
        (bit s P.PWR_ISLAND 3 = true → v.getLsbD 3 = false → t.cipherOn = false ∧ t.crypt.op = none) ∧
        (bit s P.PWR_ISLAND 2 ≠ v.getLsbD 2 → bit t P.PWR_STATUS 6 = false ∧ bit t P.SYNTH_GSTAT 0 = false ∧ t.pwr.gLost = false) ∧
        t.mem = s.mem ∧ t.pier = s.pier ∧ t.time = s.time ∧ (s.life.chalWait = false → t.life = s.life) ∧ t.masks = s.masks ∧ t.pod = s.pod ∧ t.gpio = s.gpio)

/-- L1_READY (R61) and SYNTH_G_LOCK_LOSS (R359). -/
def l1Path : Prop :=
  Happens .l1Ready [] [P.PWR_STATUS, P.SYNTH_GSTAT, P.SYNTH_GCAL]
    (fun s => s.awake = true ∧ s.pwr.package = .ab ∧ bit s P.PWR_ISLAND 2 = true ∧ s.refRuns = true ∧ s.pwr.gLost = false ∧ bit s P.PWR_STATUS 6 = false)
    (fun _ t => bit t P.PWR_STATUS 6 = true ∧ bit t P.SYNTH_GSTAT 0 = true) ∧
  Happens .synthGLockLoss [.pwr] [P.PWR_STATUS, P.SYNTH_GSTAT]
    (fun s => s.pwr.package = .ab ∧ bit s P.PWR_ISLAND 2 = true ∧ bit s P.SYNTH_GSTAT 0 = true)
    (fun s t => bit t P.SYNTH_GSTAT 7 = true ∧ bit t P.SYNTH_GSTAT 0 = false ∧ bit t P.PWR_STATUS 6 = false ∧ t.pwr = { s.pwr with gLost := true })

/-! ### Modes -/

/-- Wake source `k` of Table ISL-8 is pending, enabled in PWR.WAKEEN and valid for the mode: ALM0, ALM1, WAKEM, GPIO, HOST, IRQ. -/
def wakes (mode k : Nat) (s : State) : Bool :=
  bit s P.PWR_WAKEEN k && decide (k < if mode = 0 then 2 else if mode = 3 then 6 else 5) &&
    (match k with
     | 0 => bit s P.PIER_STATUS 7
     | 1 => bit s P.PIER_STATUS 8
     | 2 => bit s P.WAKE_STATUS 0
     | 3 => s.pwr.gpioWake
     | 4 => s.pwr.hostWake
     | 5 => decide (s.umber.ipend &&& s.umber.ien ≠ 0)
     | _ => false)

/-- Such a source ends the mode: while the crystal has failed, the Pier alarms alone end modes 1 and 2 (R424). -/
def ends (mode k : Nat) (s : State) : Bool := wakes mode k s && (s.crystalRuns || decide (k < 2) || decide (mode = 0) || decide (mode = 3))

/-- PWR.WAKESRC names the sources pending at acceptance (R64); that those not enabled or not valid are left out is the model's choice (log 61). -/
def wakeSrc (mode : Nat) (s t : State) : Prop := ∀ k < 36, bit t P.PWR_WAKESRC k = ends mode k s

def wakeAccepts : Prop :=
  -- mode 3: Umber's clock runs again, and Umber goes on after STOP, with the interrupt that ended the mode taken first; the watchdog restarts (R556)
  Happens .wakeAccept [.pwr, .umber, .mgmt] [P.PWR_WAKESRC]
    (fun s => s.pwr.mode = .halt ∧ s.pwr.exiting = false ∧ ∃ k < 6, ends 3 k s = true)
    (fun s t => t.pwr.mode = .active ∧ wakeSrc 3 s t ∧ (s.umber.run = .gated → t.umber = { s.umber with run := .running, wakeIrq := s.irqNext.isSome }) ∧
      (s.umber.run ≠ .gated → t.umber = s.umber) ∧
      t.mgmt = if bit s P.MGMT_WDCFG 0 then { s.mgmt with wdStage := 0, wdLeft := s.wdTicks 0 } else s.mgmt) ∧
  -- mode 2: the exit path runs, the 26 MHz source with REFWAKE; a listening window closes
  Happens .wakeAccept [.pwr, .wake] [P.PWR_WAKESRC, P.WAKE_LEVEL]
    (fun s => s.pwr.mode = .retain ∧ s.pwr.exiting = false ∧ ∃ k < 6, ends 2 k s = true)
    (fun s t => t.pwr.mode = .retain ∧ t.pwr.exiting = true ∧ t.pwr.refOn = bit s P.PWR_RETCFG 5 ∧ wakeSrc 2 s t ∧
      (s.collecting = false → t.wake.window = none ∧ t.wakeListening = false)) ∧
  -- mode 1: the warm-wake path runs
  Runs .wakeAccept (fun s => s.pwr.mode = .doze ∧ s.pwr.exiting = false ∧ ∃ k < 6, ends 1 k s = true)
    (fun s t => t.pwr.mode = .doze ∧ t.pwr.exiting = true ∧ wakeSrc 1 s t ∧ t.mem = s.mem ∧ t.pier = s.pier ∧
      t.umber.run = .inReset ∧ t.umber.vbase = (s.umber.vbase.extractLsb' 0 24).setWidth 36) ∧
  -- mode 0: a system reset of code 10
  Runs .wakeAccept (fun s => s.pwr.mode = .pier ∧ s.pwr.vddOk = true ∧ s.pwr.exiting = false ∧ ∃ k < 6, ends 0 k s = true)
    (fun s t => t.pwr.mode = .reset ∧ t.pwr.code = 10 ∧ wakeSrc 0 s t ∧ t.pier = s.pier ∧ t.life.fuses = s.life.fuses)

/-! ### STOP -/

/-- PWR.MODE.TARGET. -/
def stopTarget (s : State) : Nat := ((s.par P.PWR_MODE).extractLsb' 0 2).toNat

/-- A source of Table ISL-8 that ends the mode is enabled in PWR.WAKEEN. -/
def wakeable (mode : Nat) (s : State) : Prop := ∃ k < (if mode = 3 then 6 else 5), bit s P.PWR_WAKEEN k = true

/-- The cause of Table ISL-17 with which an entry is abandoned, 0 where every check that applies to the target passes, in the order of R62. -/
def abandonCause (s : State) (cause : Nat) : Prop :=
  let target := stopTarget s
  let dma := target < 3 ∧ ∃ ch : Fin 16, s.dmaState ch ≠ 0
  let radio := target < 3 ∧ 2 < code s
  let none := target ≠ 0 ∧ ¬ wakeable target s
  let pending := ∃ k < 6, wakes target k s = true
  (dma ∧ cause = 2) ∨ (¬ dma ∧ radio ∧ cause = 3) ∨ (¬ dma ∧ ¬ radio ∧ none ∧ cause = 4) ∨ (¬ dma ∧ ¬ radio ∧ ¬ none ∧ pending ∧ cause = 1) ∨
    (¬ dma ∧ ¬ radio ∧ ¬ none ∧ ¬ pending ∧ cause = 0)

/-- STOP at PRV = 1 with the store buffer and the parameter queue empty, no ramp, no transition of an arch in progress or due, Sepia's NVM write controller idle and no fuse
being blown. -/
def stopReady (cc : Cond) (s : State) : Prop :=
  s.issues ∧ s.umber.slots = none ∧ condTrue cc s = true ∧ flag s 20 = true ∧ s.umber.sb = [] ∧ s.umber.pwq = [] ∧ bit s P.PWR_DVFS 3 = false ∧ s.nvmIdle = true ∧ s.fuseBusy = false ∧
    ∀ k < 5, s.archState k = 0 ∨ (s.archState k = 2 ∧ s.archWant k = 0) ∨ s.archState k = 4

/-- STOP (R62, R73, R74). -/
def stops : Prop :=
  -- abandoned: ABORT and CAUSE, source PWR, the reservation cleared, and Umber goes on at the next instruction
  (∀ (cc : Cond) (s : State) (cause : Nat), stopReady cc s → abandonCause s cause → cause ≠ 0 →
    ∃ t, exec (.stop cc) s = .next t ∧ bit t P.PWR_STATUS 8 = true ∧ ((t.par P.PWR_STATUS).extractLsb' 9 3).toNat = cause ∧
      (∀ k < 8, bit t P.PWR_STATUS k = bit s P.PWR_STATUS k) ∧ t.umber.ipend.getLsbD 24 = true ∧ t.umber.pc = s.umber.pc + 1 ∧ t.umber.slots = none ∧
      t.umber.resv = none ∧ RegsKept [.ctl 12] s t ∧ CellsKept s t ∧
      t.pwr = { s.pwr with gpioWake := false, hostWake := false } ∧ t.dma = s.dma ∧ t.radio = s.radio) ∧
  -- mode 3: Umber's clock is gated after STOP, and everything else goes on
  (∀ (cc : Cond) (s : State), stopReady cc s → stopTarget s = 3 → abandonCause s 0 →
    ∃ t, exec (.stop cc) s = .next t ∧ t.pwr = { s.pwr with mode := .halt, gpioWake := false, hostWake := false } ∧ t.umber.run = .gated ∧
      t.umber.pc = s.umber.pc + 1 ∧ t.umber.slots = none ∧ RegsKept [] s { t with umber := { t.umber with run := s.umber.run } } ∧ CellsKept s t ∧
      t.dma = s.dma ∧ t.radio = s.radio ∧ t.time = s.time) ∧
  -- modes 0-2: the part enters its mode; the REF group and DMA stop, every NVM word stays, and mode 2 keeps what PWR.RETCFG names
  (∀ (cc : Cond) (s : State), stopReady cc s → stopTarget s < 3 → abandonCause s 0 →
    ∃ t, exec (.stop cc) s = .next t ∧ t.pwr.mode = (if stopTarget s = 0 then .pier else if stopTarget s = 1 then .doze else .retain) ∧
      bit t P.PWR_STATUS 3 = false ∧ bit t P.PWR_STATUS 4 = false ∧ bit t P.TIME_STATUS 0 = false ∧ (∀ n : Fin 8, t.armed n = false) ∧
      (∀ a, t.progCell a = s.progCell a) ∧ (∀ a, t.dnvmCell a = s.dnvmCell a) ∧ t.pier = s.pier ∧
      (∀ a, t.sramCell a = if stopTarget s = 2 ∧ bit s P.PWR_RETCFG (a.toNat / 65536) = true then s.sramCell a else 0) ∧
      (∀ a, t.tileCell a = if stopTarget s = 2 ∧ bit s P.PWR_RETCFG 4 = true then s.tileCell a else 0))

/-- What every entry to vector 0 or 1 gives Umber (R162): its registers at 0, SR at its reset value, VBASE as Sepia set it. -/
def freshAt (vbase pc : Addr) (run : UmberRun) (t : State) : Prop :=
  t.umber = { UmberSt.init with vbase := vbase.setWidth 36, pc := pc, run := run }

/-- RETAIN_EXIT (R64, R66): Umber at the RETAIN vector with its registers initialised and the memories intact, DVFS point 1, CORESRC 1. -/
def retainExits : Prop :=
  Runs .retainExit (fun s => s.pwr.mode = .retain ∧ s.pwr.exiting = true)
    (fun s t => t.pwr.mode = .active ∧ t.pwr.exiting = false ∧ t.pwr.point = 1 ∧ t.par P.PWR_DVFS = 1 ∧ bit t P.PWR_CLKCTL 2 = true ∧
      freshAt (s.umber.vbase.extractLsb' 0 24) (s.umber.vbase.extractLsb' 0 24 + 4) (if s.umber.run = .inReset then .inReset else .running) t ∧
      CellsKept s t ∧ t.pier = { s.pier with evUncopied := 0 })

/-- COLD_BOOT (R642, R554) and WARM_WAKE (R643): awake, RSTCAUSE, every arch and the tile READY, Umber in reset or at vector 0 of a slot with the regions of Table DMA-2. -/
def booted (code : Nat) (t : State) : Prop :=
  t.pwr.mode = .active ∧ t.pwr.exiting = false ∧ (t.par P.MGMT_RSTCAUSE).toNat % 32 = code ∧ (∀ k < 5, t.archState k = 2) ∧
    (t.umber.run = .inReset ∨
      ∃ base : Addr, (base = 0 ∨ base = 0x018000) ∧ t.umber.pc = base ∧ t.umber.vbase = base.setWidth 36 ∧ t.umber.sr = 0x000110000 ∧
        (t.umber.run = .running ∨ t.umber.run = .halted))

/-- A boot writes no data NVM but the owner configuration, which holds the boot state (R550, R554). -/
def nvmOutsideCfg (s t : State) : Prop := ∀ a : BitVec 15, a.toNat < 0x5000 ∨ 0x5100 ≤ a.toNat → t.dnvmCell a = s.dnvmCell a

def boots : Prop :=
  (∀ r : Readings, Runs (.coldBoot r)
    (fun s => s.pwr.mode = .reset ∧ s.pwr.vddOk = true ∧ s.pwr.pierOn = true ∧ s.pwr.rstLow = false ∧ (lifeStateWord s.life.fuses.copies).extractLsb' 16 2 ≠ 3 ∧ s.pwr.exiting = false ∧ s.umber.run = .inReset)
    (fun s t => booted s.pwr.code.toNat t ∧ nvmOutsideCfg s t ∧ t.mem.prog = s.mem.prog ∧ t.pwr.vddLost = false)) ∧
  (∀ r : Readings, Runs (.warmWake r) (fun s => s.pwr.mode = .doze ∧ s.pwr.exiting = true ∧ (lifeStateWord s.life.fuses.copies).extractLsb' 16 2 ≠ 3 ∧ s.umber.run = .inReset)
    (fun s t => booted 9 t ∧ nvmOutsideCfg s t ∧ t.mem.prog = s.mem.prog))

/-! ### Supplies and resets -/

def supplies : Prop :=
  -- PIER_POWER_ON (R69, R12, R136): the higher supply above 1.45 V starts the Pier at its P: values, LOCK and ONVBK by the thresholds of 1.70 V in threshold mode
  (∀ sup : Supplies, Happens (.pierPowerOn sup.vdd sup.vbk sup.band) [.pwr, .pier] (every 0x0200 1 256 ++ every 0x0110 1 16)
    (fun s => s.pwr.pierOn = false ∧ (1520 < sup.vdd.toNat ∨ 1520 < sup.vbk.toNat))
    (fun s t => t.pwr = { s.pwr with pierOn := true, code := 1 } ∧ (1865 < sup.vdd.toNat → bit t P.PIER_STATUS 3 = false) ∧
      (sup.vdd.toNat < 1835 → bit t P.PIER_STATUS 3 = true) ∧ (1815 < sup.vdd.toNat → bit t P.PIER_STATUS 4 = false) ∧
      (sup.vdd.toNat < 1785 → bit t P.PIER_STATUS 4 = true) ∧ bit t P.PIER_STATUS 5 = decide (sup.vbk.toNat < 1600) ∧
      t.pier.tick = 0 ∧ t.pier.swcfg = 1 ∧ t.pier.sup = sup ∧ (∀ i, shellOf i = .pier → i ≠ P.PIER_STATUS → t.par i = resetOf i))) ∧
  (∀ sup : Supplies, Happens (.pierPowerOn sup.vdd sup.vbk sup.band) [.pier] [] (fun s => s.pwr.pierOn = false ∧ sup.vdd.toNat < 1380 ∧ sup.vbk.toNat < 1380)
    (fun s t => t.pwr.pierOn = false ∧ t.pier = { s.pier with sup := sup })) ∧
  -- VDD_POWER_ON (R68, Table BOO-1); where the level known of VDD lies below the release point, VDD now stands there, no lower than before
  (∀ b : Bool, Happens (.vddPowerOn b) [.pwr] [] (fun s => s.pwr.vddOk = false ∧ s.pwr.pierOn = true ∧ 1770 ≤ s.pier.sup.vdd.toNat)
    (fun s t => t.pwr = { s.pwr with vddOk := true, mode := .reset, code := if s.pwr.code = 1 then 1 else if b then 3 else 2 })) ∧
  (∀ b : Bool, Runs (.vddPowerOn b)
    (fun s => s.pwr.vddOk = false ∧ s.pwr.pierOn = true ∧ s.pier.sup.vdd.toNat < 1770 ∧ 1470 < s.pier.sup.vbk.toNat)
    (fun s t => t.pwr = { s.pwr with vddOk := true, mode := .reset, code := if s.pwr.code = 1 then 1 else if b then 3 else 2 } ∧
      1670 ≤ t.pier.sup.vdd.toNat ∧ s.pier.sup.vdd.toNat ≤ t.pier.sup.vdd.toNat ∧ t.pier.sup.vdd.toNat ≤ 1770 ∧ t.pier.sup.vbk = s.pier.sup.vbk)) ∧
  -- VDD_BROWNOUT (R68, R70): no VDD island runs; the Pier goes on
  Runs .vddBrownout (fun s => s.pwr.vddOk = true ∧ s.pier.sup.vdd.toNat ≤ 1720) (fun s t => t.pwr.vddOk = false ∧ t.pwr.mode = .vddOff ∧ t.pwr.code = 3 ∧ t.pier = s.pier ∧
    t.mem.sram = [] ∧ t.mem.tile = [] ∧ t.umber.run = .inReset ∧ t.umber.sb = [] ∧ t.umber.pwq = [] ∧ t.masks = [] ∧
    (∀ i, shellOf i = .pier → t.par i = s.par i)) ∧
  -- where the level known of VDD lies above the trip point, VDD has fallen there, and on the way lockout has tripped (R136, R137)
  Runs .vddBrownout (fun s => s.pwr.vddOk = true ∧ s.pwr.pierOn = true ∧ 1720 < s.pier.sup.vdd.toNat ∧ 1470 < s.pier.sup.vbk.toNat)
    (fun s t => t.pwr.vddOk = false ∧ t.pwr.pierOn = true ∧ t.pwr.mode = .vddOff ∧ t.pwr.code = 3 ∧ 1620 ≤ t.pier.sup.vdd.toNat ∧ t.pier.sup.vdd.toNat ≤ 1720 ∧
      t.pier.sup.vbk = s.pier.sup.vbk ∧ t.pier.tick = s.pier.tick ∧ (s.pier.swcfg.getLsbD 0 = true ∨ 1675 < s.pier.sup.vbk.toNat → bit t P.PIER_STATUS 3 = true) ∧
      t.mem.sram = [] ∧ t.mem.tile = [] ∧ t.umber.run = .inReset ∧ t.umber.sb = [] ∧ t.umber.pwq = [] ∧ t.masks = []) ∧
  -- PIER_BROWNOUT (R69, R152): the supply in use has fallen below the level of its detector, and the Pier with every VDD island is off
  Runs .pierBrownout (fun s => s.pwr.pierOn = true) (fun s t => t.pwr.pierOn = false ∧ t.pwr.vddOk = false ∧
    (bit s P.PIER_STATUS 4 = false → 1470 < s.pier.sup.vdd.toNat → 1330 ≤ t.pier.sup.vdd.toNat ∧ t.pier.sup.vdd.toNat ≤ 1470) ∧
    (bit s P.PIER_STATUS 4 = true → 1470 < s.pier.sup.vbk.toNat → 1330 ≤ t.pier.sup.vbk.toNat ∧ t.pier.sup.vbk.toNat ≤ 1470))

/-- RST_N and TESTEN (R651, R677): the first of them to act resets every VDD island, with the Pier running on; the last to go lets the cold boot start. -/
def resetPinsAct : Prop :=
  (∀ c ∈ [Instr.rstNReset true, Instr.testenHigh true], Runs c (fun s => s.pwr.rstLow = false ∧ s.pwr.vddOk = true ∧ s.fuseBusy = false)
    (fun s t => t.pwr.rstLow = true ∧ t.pwr.mode = .reset ∧ t.pwr.code = 4 ∧ t.umber.run = .inReset ∧ t.pier = s.pier ∧
      (∀ i, shellOf i = .pier → t.par i = s.par i))) ∧
  Happens (.rstNReset false) [.pwr] [] (fun s => s.pwr.testen = false) (fun s t => t.pwr = { s.pwr with rstPin := false, testen := false, rstLow := false }) ∧
  Happens (.testenHigh false) [.pwr] [] (fun s => s.pwr.rstPin = false) (fun s t => t.pwr = { s.pwr with rstPin := false, testen := false, rstLow := false }) ∧
  Happens (.rstNReset true) [.pwr] [] (fun s => s.pwr.rstLow = true) (fun s t => t.pwr = { s.pwr with rstPin := true })

def softResets : Prop :=
  -- SOFTWARE_RESET (R630, R638): a system reset of code 5, 6 from the host; held while the fuses are busy (R521)
  (∀ (m : Master) (v : Word), v.getLsbD 3 = true → Takes (.softwareReset m v) m P.DBG_CTL v (fun _ _ => True) (fun _ s t => t.pier = s.pier ∧
      (s.fuseBusy = false → t.pwr.mode = .reset ∧ t.pwr.code = (if m = .host then 6 else 5) ∧ t.umber.run = .inReset ∧ t.pwr.vddLost = s.pwr.vddLost) ∧
      (s.fuseBusy = true → t.life.heldReset = some (if m = .host then 6 else 5) ∧ t.pwr = s.pwr))) ∧
  -- UMBER_RESET_REQUEST: code 18 is requested
  (∀ (m : Master) (v : Word), v.getLsbD 4 = true → v.getLsbD 3 = false → Accepts (.umberResetRequest m v) m P.DBG_CTL v [.pwr] [P.DBG_CTL] (fun _ _ => True)
    (fun _ s t => t.pwr = { s.pwr with umberRst := some 18 } ∧ bit t P.DBG_CTL 1 = v.getLsbD 1 ∧ bit t P.DBG_CTL 2 = v.getLsbD 2)) ∧
  -- UMBER_RESET (R640): lock bits, bit RAM, reservation and buffers empty, every DMA channel at reset, RSTCAUSE
  (∀ code : BitVec 5, Runs .umberReset (fun s => s.pwr.umberRst = some code ∧ s.awake = true ∧ s.lifeState ≠ 3 ∧ s.fuseBusy = false ∧ bit s P.CRYPT_KREFUSE 1 = false)
    (fun s t => t.pwr.umberRst = none ∧ t.pwr.mode = .active ∧ (t.par P.MGMT_RSTCAUSE) = code.setWidth 36 ∧ t.umber.locks = [] ∧
      t.umber.bitRam = 0 ∧ t.umber.resv = none ∧ t.umber.sb = [] ∧ t.umber.sr = 0x000110000 ∧ (∀ k < 256, t.par (P.DMA_CTL + k) = resetOf (P.DMA_CTL + k)) ∧
      (∀ o, t.crypt.op = some o → o.owner = 0) ∧ t.par P.DOM_REGLOCK = s.par P.DOM_REGLOCK ∧ t.pier = s.pier)) ∧
  -- with domain 1 revoked it is a system reset of code 8 (R641)
  Runs .umberReset (fun s => s.pwr.umberRst ≠ none ∧ s.awake = true ∧ s.lifeState ≠ 3 ∧ s.fuseBusy = false ∧ bit s P.CRYPT_KREFUSE 1 = true)
    (fun s t => t.pwr.umberRst = none ∧ t.pwr.mode = .reset ∧ t.pwr.code = 8 ∧ t.pier = s.pier) ∧
  -- while the fuses are busy it stays requested (R521)
  Happens .umberReset [.pwr] [] (fun s => s.pwr.umberRst ≠ none ∧ s.awake = true ∧ s.lifeState ≠ 3 ∧ s.fuseBusy = true ∧ bit s P.CRYPT_KREFUSE 1 = false) (fun s t => t.pwr = s.pwr) ∧
  -- in END OF LIFE Umber is never started: the request ends without effect (R515)
  Happens .umberReset [.pwr] [] (fun s => s.pwr.umberRst ≠ none ∧ s.awake = true ∧ s.lifeState = 3) (fun s t => t.pwr = { s.pwr with umberRst := none })

end Sys2Proof.Claims
end

