-- ==== Sys2Proof/Certificates/Slice0/LifeClaims.lean ====
section
/-!
DEFINITION. Sys2Proof/Certificates/Slice0/LifeClaims.lean: the statements about the life cycle, debug authorisation and debug (16; 18 R583).
-/

namespace Sys2Proof.Claims

open Sys2Proof.Machine

/-- What TSTAT and the debug-gate record take (Table LIF-7). -/
def gateIx : List Nat := [P.LIFE_TSTAT, P.MGMT_LOGDROP, P.LIFE_DBGSTAT, P.LIFE_FAILCNT, P.LIFE_GRANTSEC, P.LIFE_CERTSTAT] ++ every P.LIFE_HIST 1 8

def busy (s : State) : Bool := bit s P.LIFE_TSTAT 0
def result (s : State) : Nat := ((s.par P.LIFE_TSTAT).extractLsb' 5 3).toNat

/-- The three copies. -/
def copies (s : State) : Vector (BitVec 16) 3 := s.life.fuses.copies

/-- A transition of the fuses runs toward a target of which every code bit of the copies is a part, and nothing waits for its end. -/
def turning (s : State) (target : BitVec 16) : Prop :=
  s.life.fuseOp = some (.transition target) ∧ s.life.heldReset = none ∧ ∀ k : Fin 3, (copies s)[k] &&& ~~~target = 0

/-- The copies and RESULT as a transition ends. -/
def turned (t : State) (a b c : BitVec 16) (r : Nat) : Prop :=
  t.life.fuses.copies = #v[a, b, c] ∧ result t = r ∧ busy t = false ∧ t.life.fuseOp = none ∧ (t.par P.LIFE_TSTAT).extractLsb' 3 2 ≠ 0

/-- The hash that owner-hash programming under way blows. -/
def hashOf (s : State) : Option (Vector (BitVec 32) 8) :=
  match s.life.fuseOp with
  | some (.ownerHash h) => some h
  | _ => none

/-- The fuse operations (R519-R522, Table LIF-4). `v` bit 0 says that VDD stands at 2.4 V or more at step 1, bit k before COPYk; `stuck` names the bits that do not blow. -/
def transitions : Prop :=
  (∀ (m : Master) (v : Word), Accepts (.transitionRequest m v) m P.LIFE_TRANS v [.life] [P.LIFE_TSTAT] (fun _ _ => True)
    (fun _ s t => busy t = true ∧ bit t P.LIFE_TSTAT 2 = false ∧ bit t P.LIFE_TSTAT 1 = decide (v.extractLsb' 0 16 = 0xFFFF) ∧ result t = result s ∧
      t.life = { s.life with fuseOp := some (.transition (v.extractLsb' 0 16)) })) ∧
  (∀ (m : Master) (v : Word), Declines (.transitionRequest m v) m P.LIFE_TRANS v []) ∧
  -- TRANSITION_DONE by the rows of Table LIF-4; for END OF LIFE a system reset follows a transition that completes
  (∀ target : BitVec 16, target ≠ 0xFFFF → Happens (.transitionDone 15 0) [.life, .log] gateIx (fun s => turning s target) (fun _ t => turned t target target target 1)) ∧
  (∀ (v : BitVec 4) (stuck : BitVec 48) (target : BitVec 16), v.getLsbD 0 = false ∨ v.getLsbD 1 = false →
    Happens (.transitionDone v stuck) [.life, .log] gateIx (fun s => turning s target) (fun s t => turned t (copies s)[0] (copies s)[1] (copies s)[2] 2)) ∧
  (∀ target : BitVec 16, Happens (.transitionDone 3 0) [.life, .log] gateIx (fun s => turning s target) (fun s t => turned t target (copies s)[1] (copies s)[2] 2)) ∧
  (∀ target : BitVec 16, Happens (.transitionDone 7 0) [.life, .log] gateIx (fun s => turning s target) (fun s t => turned t target target (copies s)[2] 2)) ∧
  (∀ (v : BitVec 4) (stuck : BitVec 48) (target : BitVec 16), v.getLsbD 0 = true → v.getLsbD 1 = true → Happens (.transitionDone v stuck) [.life, .log] gateIx
    (fun s => turning s target ∧ stuck.extractLsb' 0 16 &&& target &&& ~~~(copies s)[0] ≠ 0)
    (fun s t => turned t (target &&& ~~~(stuck.extractLsb' 0 16 &&& ~~~(copies s)[0])) (copies s)[1] (copies s)[2] 3)) ∧
  (∀ (stuck : BitVec 48) (target : BitVec 16), stuck.extractLsb' 0 16 = 0 → target ≠ 0xFFFF → Happens (.transitionDone 15 stuck) [.life, .log] gateIx
    (fun s => turning s target ∧ (stuck.extractLsb' 16 16 &&& target &&& ~~~(copies s)[1] ≠ 0 ∨ stuck.extractLsb' 32 16 &&& target &&& ~~~(copies s)[2] ≠ 0))
    (fun s t => turned t target (target &&& ~~~(stuck.extractLsb' 16 16 &&& ~~~(copies s)[1])) (target &&& ~~~(stuck.extractLsb' 32 16 &&& ~~~(copies s)[2])) 4)) ∧
  Runs (.transitionDone 15 0) (fun s => turning s 0xFFFF ∧ s.pwr.vddOk = true ∧ s.pwr.mode = .active)
    (fun s t => t.life.fuses.copies = #v[0xFFFF, 0xFFFF, 0xFFFF] ∧ t.life.fuseOp = none ∧ t.pwr.mode = .reset ∧ t.pwr.code = 7 ∧ t.pier = s.pier ∧ t.umber.run = .inReset) ∧
  -- a reset that waited takes place at the end (R521)
  (∀ (code : BitVec 5) (target : BitVec 16), target ≠ 0xFFFF → Runs (.transitionDone 15 0)
    (fun s => s.life.fuseOp = some (.transition target) ∧ s.life.heldReset = some code ∧ s.pwr.vddOk = true ∧ s.pwr.mode = .active)
    (fun s t => t.pwr.mode = .reset ∧ t.pwr.code = code ∧ t.life.heldReset = none ∧ t.pier = s.pier)) ∧
  -- OWNER_HASH_PROGRAM and its end
  (∀ (m : Master) (v : Word), v = 0xA55A → Accepts (.ownerHashProgram m v) m P.LIFE_OWNCMD v [.life] [P.LIFE_TSTAT] (fun _ _ => True)
    (fun _ s t => busy t = true ∧ bit t P.LIFE_TSTAT 2 = true ∧ (t.par P.LIFE_TSTAT).extractLsb' 3 2 = 0 ∧
      ∃ h, hashOf t = some h ∧ t.life = { s.life with fuseOp := t.life.fuseOp } ∧ ∀ i : Fin 8, h[i] = (s.par (P.LIFE_OWNSET + i.val)).extractLsb' 0 32)) ∧
  (∀ (m : Master) (v : Word), v = 0xA55A → Declines (.ownerHashProgram m v) m P.LIFE_OWNCMD v []) ∧
  (∀ stuck : BitVec 256, Happens (.ownerHashDone stuck) [.life, .log] gateIx (fun s => s.life.heldReset = none ∧ (hashOf s).isSome = true)
    (fun s t => t.life.fuseOp = none ∧ busy t = false ∧ t.life.fuses.copies = s.life.fuses.copies ∧ ∃ h, hashOf s = some h ∧
      (∀ i : Fin 8, t.life.fuses.ownHash[i] = s.life.fuses.ownHash[i] ||| (h[i] &&& ~~~(stuck.extractLsb' (32 * i.val) 32))) ∧
      (result t = if t.life.fuses.ownHash = h then 1 else 3)))

/-- LIFE.DBGSTAT (Table LIF-10). -/
def rights (s : State) : BitVec 8 := (s.par P.LIFE_DBGSTAT).extractLsb' 0 8
def lastRes (s : State) : Nat := ((s.par P.LIFE_DBGSTAT).extractLsb' 16 3).toNat

/-- A refusal recorded in LASTRES, with a debug-gate event; nothing else of the state changes. -/
def refusedWith (code : Nat) (s t : State) : Prop :=
  lastRes t = code ∧ (t.par P.LIFE_DBGSTAT).extractLsb' 0 16 = (s.par P.LIFE_DBGSTAT).extractLsb' 0 16 ∧ t.life.histCnt = s.life.histCnt + 1 ∧
    (t.par (P.LIFE_HIST + s.life.histCnt.toNat)).extractLsb' 0 3 = 2

/-- The challenge record's own words (R525): nonce, unit ID, scope, state and format. -/
def challengeOf (s t : State) : Prop :=
  (∀ k < 4, t.par (P.LIFE_CHAL + k) = ((s.rng.fifo.getD k 0).extractLsb' 0 32).setWidth 36) ∧
    t.par (P.LIFE_CHAL + 4) = (s.life.fuses.uid.extractLsb' 0 32).setWidth 36 ∧ t.par (P.LIFE_CHAL + 5) = (s.life.fuses.uid.extractLsb' 32 32).setWidth 36 ∧
    t.par (P.LIFE_CHAL + 6) = s.par P.LIFE_DBGSCOPE ∧ t.par (P.LIFE_CHAL + 7) = ((s.par P.LIFE_STATE).extractLsb' 0 16).setWidth 36 + 0x10000

/-- Words of the response under check, from `b` on, as a 32-byte integer; and SHA-256 of the challenge record under check. -/
def respInt (s : State) (b : Nat) : Nat := beNat (wordsToBytes ((s.life.chkResp.toList.drop b).take 8))
def signedBy (key : Vector (BitVec 32) 8 × Vector (BitVec 32) 8) (s : State) : Prop :=
  let qx := beNat (wordsToBytes key.1.toList)
  let qy := beNat (wordsToBytes key.2.toList)
  onCurve qx qy = true ∧ ecdsaVerify (beNat (sha256 (wordsToBytes s.life.chkChal.toList))) qx qy (respInt s 0) (respInt s 8) = true

/-- The cipher unit is free for Sepia's verification (R526), and what that leaves in it: an operation of owner 0 with OP 10 and its CODE (R492, R496). -/
def verifierFree (s : State) : Prop := s.cipherOn = true ∧ s.crypt.op = none ∧ s.crypt.outFifo.length ≤ 16
def verifyIx : List Nat := [P.CRYPT_STATUS, P.CRYPT_LASTOP, P.CRYPT_OPCNT, P.CRYPT_CYCLES] ++ every P.CRYPT_CNT 1 8
def verified (ok : Bool) (s t : State) : Prop :=
  t.crypt.op = none ∧ t.par P.CRYPT_OPCNT = s.par P.CRYPT_OPCNT + 1 ∧ (t.par P.CRYPT_LASTOP).extractLsb' 0 5 = 10 ∧ (t.par P.CRYPT_LASTOP).extractLsb' 9 4 = 0 ∧
    bit t P.CRYPT_STATUS 0 = false ∧ bit t P.CRYPT_STATUS 1 = true ∧ ((t.par P.CRYPT_STATUS).extractLsb' 2 5 = 0 ↔ ok = true) ∧ t.crypt.kt = s.crypt.kt ∧ t.crypt.keys = s.crypt.keys ∧
    (bit s P.CRYPT_IRQEN 0 = true → t.umber.ipend.getLsbD 19 = true)

/-- Sepia may read the words of a nonce: the generator is READY and powered, and nobody waits for a word. -/
def mayRead4 (s : State) : Prop :=
  bit s P.RNG_STATUS 1 = false ∧ bit s P.RNG_STATUS 0 = true ∧ s.cipherOn = true ∧ s.rng.waiters = [] ∧ s.rng.sepiaGot = [] ∧ s.pod.identRead = false ∧
    s.life.chalWait = false

/-- The rights that a certificate grants in this state: its RIGHTS where it is valid (R529). -/
def grantOf (s : State) (i : Nat) : BitVec 8 := if (s.checkCert i).1 = 1 then ((s.certWord i 1).getD 0).extractLsb' 0 8 else 0

/-- Debug authorisation in PRODUCTION (R525-R531, R537). -/
def authorisation : Prop :=
  -- DBG_CHALLENGE
  (∀ (m : Master) (v : Word), v.extractLsb' 0 3 = 1 → Accepts (.dbgChallenge m v) m P.LIFE_DBGCMD v [.rng, .life] ([P.LIFE_DBGSTAT, P.RNG_STATUS, P.RNG_WORDCNT] ++ every P.LIFE_CHAL 1 8)
    (fun _ s => s.lifeState = 2 ∧ mayRead4 s ∧ (s.par P.LIFE_FAILCNT).toNat < 8 ∧ 4 ≤ s.rng.fifo.length)
    (fun _ s t => challengeOf s t ∧ bit t P.LIFE_DBGSTAT 12 = true ∧ rights t = rights s ∧ t.rng = { s.rng with fifo := s.rng.fifo.drop 4 } ∧ t.life = s.life)) ∧
  -- with no word there it waits in its turn (R503)
  (∀ (m : Master) (v : Word), v.extractLsb' 0 3 = 1 → Accepts (.dbgChallenge m v) m P.LIFE_DBGCMD v [.rng, .life] []
    (fun _ s => s.lifeState = 2 ∧ mayRead4 s ∧ (s.par P.LIFE_FAILCNT).toNat < 8 ∧ s.rng.fifo = [])
    (fun _ s t => t.life = { s.life with chalWait := true } ∧ t.rng = { s.rng with waiters := [(.sepia, .waiting)] })) ∧
  (∀ (m : Master) (v : Word), v.extractLsb' 0 3 = 1 → ∀ code ∈ [4, 5, 6], Accepts (.dbgChallenge m v) m P.LIFE_DBGCMD v [.rng, .life, .log] gateIx
    (fun _ s => if code = 4 then s.lifeState ≠ 2 else s.lifeState = 2 ∧
      (if code = 5 then bit s P.RNG_STATUS 1 = true ∨ bit s P.RNG_STATUS 0 = false else bit s P.RNG_STATUS 1 = false ∧ bit s P.RNG_STATUS 0 = true ∧ 8 ≤ (s.par P.LIFE_FAILCNT).toNat))
    (fun _ s t => refusedWith code s t ∧ t.life.fuses = s.life.fuses ∧ t.life.grants = s.life.grants)) ∧
  -- DBG_CHECK_RESPONSE consumes the challenge; without one it fails with code 3
  (∀ (m : Master) (v : Word), v.extractLsb' 0 3 = 2 → Accepts (.dbgCheckResponse m v) m P.LIFE_DBGCMD v [.life] [P.LIFE_DBGSTAT]
    (fun _ s => bit s P.LIFE_DBGSTAT 12 = true)
    (fun _ s t => bit t P.LIFE_DBGSTAT 12 = false ∧ rights t = rights s ∧ t.life = { s.life with respChk := true, chkChal := t.life.chkChal, chkResp := t.life.chkResp } ∧
      (∀ k : Fin 8, t.life.chkChal[k] = (s.par (P.LIFE_CHAL + k.val)).extractLsb' 0 32) ∧
      ∀ k : Fin 16, t.life.chkResp[k] = (s.par (P.LIFE_RESP + k.val)).extractLsb' 0 32)) ∧
  (∀ (m : Master) (v : Word), v.extractLsb' 0 3 = 2 → Accepts (.dbgCheckResponse m v) m P.LIFE_DBGCMD v [.life, .log] gateIx (fun _ s => bit s P.LIFE_DBGSTAT 12 = false)
    (fun _ s t => refusedWith 3 s t ∧ (t.par P.LIFE_FAILCNT).toNat % 16 = min ((s.par P.LIFE_FAILCNT).toNat % 16 + 1) 15)) ∧
  -- RESPONSE_CHECK_DONE: the cipher unit verifies, and a valid signature grants every right
  Happens .responseCheckDone [.life, .log, .crypt, .ipend] (verifyIx ++ gateIx)
    (fun s => s.vddRuns = true ∧ s.lifeState = 2 ∧ s.life.respChk = true ∧ verifierFree s ∧ signedBy Config.vendorDebugKey s)
    (fun s t => verified true s t ∧ rights t = 0xFF ∧ bit t P.LIFE_DBGSTAT 9 = true ∧ lastRes t = 1 ∧ t.par P.LIFE_GRANTSEC = (s.pier.sepiaMirror.extractLsb' 15 33).setWidth 36 ∧
      t.life.respChk = false ∧ t.life.fuses = s.life.fuses) ∧
  Happens .responseCheckDone [.life, .log, .crypt, .ipend] (verifyIx ++ gateIx)
    (fun s => s.vddRuns = true ∧ s.life.respChk = true ∧ verifierFree s ∧ ¬ signedBy Config.vendorDebugKey s)
    (fun s t => verified false s t ∧ refusedWith 2 s t ∧ (t.par P.LIFE_FAILCNT).toNat % 16 = min ((s.par P.LIFE_FAILCNT).toNat % 16 + 1) 15 ∧ t.life.respChk = false) ∧
  -- without power or with an operation under way the unit is awaited, which is the model's choice (log 103)
  Happens .responseCheckDone [] [] (fun s => s.cipherOn = false ∨ s.crypt.op ≠ none) (fun _ _ => True) ∧
  -- DBG_DROP_RIGHTS: no right of a grant or certificate stays, and a halt that no right holds ends (R538)
  (∀ (m : Master) (v : Word), v.extractLsb' 0 3 = 3 → Accepts (.dbgDropRights m v) m P.LIFE_DBGCMD v [.life, .log, .umber] (P.DBG_STAT :: gateIx) (fun _ s => s.lifeState = 2)
    (fun _ s t => rights t = 0 ∧ bit t P.LIFE_DBGSTAT 9 = false ∧ bit t P.LIFE_DBGSTAT 10 = false ∧ (∀ i : Fin 8, t.life.grants[i] = none) ∧
      t.umber.run = (if s.umber.run = .halted then .running else s.umber.run) ∧ t.umber.pc = s.umber.pc ∧ t.umber.d = s.umber.d ∧ t.umber.sr = s.umber.sr)) ∧
  (∀ (m : Master) (v : Word), v.extractLsb' 0 3 = 4 → Accepts (.dbgCheckCerts m v) m P.LIFE_DBGCMD v [.life] [] (fun _ _ => True)
    (fun _ s t => t.life = { s.life with certChk := true })) ∧
  -- CERT_CHECK_DONE: CERTSTAT, and the OR of the RIGHTS of the valid certificates
  Happens .certCheckDone [.life, .log, .umber] ([P.DBG_STAT, P.MEM_NVMCECNT, P.MEM_NVMSTAT, P.MEM_NVMERR, P.DOM_VIOL, P.DOM_VIOLCNT] ++ gateIx)
    (fun s => s.vddRuns = true ∧ s.lifeState = 2 ∧ s.life.certChk = true ∧ bit s P.LIFE_DBGSTAT 9 = false)
    (fun s t => (∀ i < 8, (t.par P.LIFE_CERTSTAT).extractLsb' (4 * i) 4 = (s.checkCert i).1) ∧ rights t = (List.range 8).foldl (fun r i => r ||| grantOf s i) 0 ∧
      bit t P.LIFE_DBGSTAT 10 = decide (rights t ≠ 0) ∧ t.life.certChk = false ∧ t.life.fuses = s.life.fuses) ∧
  (∀ s : State, ∀ i < 8, (∀ w, s.certWord i 0 = some w → w.extractLsb' 0 16 ≠ 0x0C01 → (s.checkCert i).1 = 0) ∧
    ((s.checkCert i).1 = 1 → (s.certWord i 0).isSome = true ∧ s.ownerRoot = true ∧
      sha256 (wordsToBytes ((List.range 16).map (fun k => (s.certWord i (8 + k)).getD 0))) = wordsToBytes s.life.fuses.ownHash.toList)) ∧
  -- CERT_WINDOW_CHECK: past NOTAFTER, or under OSF, the rights of a time-bound certificate end
  Happens .certWindowCheck [.life, .log, .umber] (P.DBG_STAT :: gateIx) (fun s => s.vddRuns = true)
    (fun s t => ∀ i : Fin 8, t.life.grants[i] =
      match s.life.grants[i] with
      | some g => if g.timeBound = true ∧ (bit s P.PIER_STATUS 0 = true ∨ g.notAfter.toNat < (s.pier.sepiaMirror.extractLsb' 15 33).toNat) then none else some g
      | none => none)

/-- A debug operation of Table HST-7 in the open transaction. -/
def debugOpen (op : BitVec 5) (s : State) : Prop :=
  ∃ x, s.host.txn = some x ∧ x.type = 3 ∧ x.wr = decide (op ≠ 8) ∧ x.addr = op ∧ x.dead = false ∧ x.spent = false
def debugSpent (t : State) : Prop := ∃ x, t.host.txn = some x ∧ x.spent = true

/-- An error recorded in H.ERR (R574). -/
def hostErred (code : BitVec 4) (s t : State) : Prop :=
  if s.host.regs[1] = 0 then t.host.regs[1] = code.setWidth 8 ∧ (t.host.regs[2]).getLsbD 1 = true
  else (t.host.regs[1]).extractLsb' 0 7 = (s.host.regs[1]).extractLsb' 0 7 ∧ (t.host.regs[1]).getLsbD 7 = true

/-- Bits of LIFE.DBGSTAT: the rights HALT, REGS and BRK. -/
def mayHalt (s : State) : Prop := s.lifeState ≠ 3 ∧ bit s P.LIFE_DBGSTAT 0 = true
def mayRegs (s : State) : Prop := s.lifeState ≠ 3 ∧ bit s P.LIFE_DBGSTAT 1 = true ∧ s.umber.run = .halted

/-- Umber has halted (R532): HALTED in both records, the cause, HALTPC, the store buffer drained, and H.IRQ.HALT. -/
def haltedNow (cause num : Nat) (s t : State) : Prop :=
  t.umber.run = .halted ∧ t.umber.pc = s.umber.pc ∧ t.umber.sb = [] ∧ t.umber.d = s.umber.d ∧ t.umber.p = s.umber.p ∧ t.umber.ac = s.umber.ac ∧ t.umber.sr = s.umber.sr ∧
    bit t P.LIFE_DBGSTAT 11 = true ∧ bit t P.DBG_STAT 0 = true ∧ ((t.par P.DBG_STAT).extractLsb' 1 3).toNat = cause ∧ ((t.par P.DBG_STAT).extractLsb' 4 2).toNat = num ∧
    t.par P.DBG_HALTPC = s.umber.pc.setWidth 36 ∧ t.par P.DBG_HALTCNT = s.par P.DBG_HALTCNT + 1 ∧ (t.host.regs[2]).getLsbD 4 = true

/-- A hit of a watchpoint that waits at a halt is recorded, whatever the cause of the halt (R533). -/
def hitRecorded (s t : State) : Prop := ∀ (n : BitVec 1) (a : Addr) (w : Bool), s.umber.wpHit = some (n, a, w) →
  t.par P.DBG_WPADDR = a.setWidth 36 + (if w then 2 ^ 24 else 0) ∧ t.par (P.DBG_WPHIT + n.toNat) = s.par (P.DBG_WPHIT + n.toNat) + 1

/-- What a halt may change: the store buffer drains as it does by itself. -/
def haltParts : List Part := [.umber, .sb, .mem, .resv, .ipend, .log, .host]
def haltIx : List Nat := [P.LIFE_DBGSTAT, P.DBG_STAT, P.DBG_HALTPC, P.DBG_HALTCNT, P.DBG_STEPCNT, P.DBG_WPADDR, P.MGMT_LOGDROP] ++ every P.DBG_BPHIT 1 6 ++ every 0x0500 1 256

/-- Debug operations and halts (R516, R532, R533, R540, R583). -/
def debugging : Prop :=
  -- DEBUG_HALT, and UMBER_HALTED at the next acceptance boundary
  Happens .debugHalt [.host, .umber] [] (fun s => debugOpen 1 s ∧ mayHalt s ∧ s.umber.run ≠ .halted)
    (fun s t => debugSpent t ∧ t.umber = { s.umber with haltReq := some (0, 0) }) ∧
  (∀ (c : BitVec 3) (n : BitVec 2), Happens .umberHalted haltParts haltIx
    (fun s => s.umber.haltReq = some (c, n) ∧ s.umber.run = .running ∧ s.pwr.mode = .active ∧ s.umber.slots = none ∧ s.umber.rpt = none ∧ s.umber.holds = false ∧ s.umber.ieFence = false)
    (fun s t => haltedNow c.toNat n.toNat s t ∧ hitRecorded s t)) ∧
  -- DEBUG_RESUME, DEBUG_STEP
  Happens .debugResume [.host, .umber] [P.DBG_STAT, P.LIFE_DBGSTAT] (fun s => debugOpen 2 s ∧ mayHalt s ∧ s.umber.run = .halted)
    (fun s t => debugSpent t ∧ t.umber = { s.umber with run := .running, haltReq := none, bpPass := true, stepping := false } ∧ bit t P.DBG_STAT 0 = false ∧
      bit t P.LIFE_DBGSTAT 11 = false) ∧
  Happens .debugStep [.host, .umber] [P.DBG_STAT, P.LIFE_DBGSTAT, P.DBG_STEPCNT] (fun s => debugOpen 3 s ∧ mayHalt s ∧ s.umber.run = .halted)
    (fun s t => debugSpent t ∧ t.umber = { s.umber with run := .running, haltReq := none, bpPass := true, stepping := true } ∧ bit t P.DBG_STAT 0 = false ∧
      t.par P.DBG_STEPCNT = s.par P.DBG_STEPCNT + 1) ∧
  Happens .dbgirq [.host, .ipend] [] (fun s => debugOpen 4 s ∧ mayHalt s) (fun s t => debugSpent t ∧ t.umber = { s.umber with ipend := t.umber.ipend } ∧
    ∀ k < 36, t.umber.ipend.getLsbD k = (s.umber.ipend.getLsbD k || k == 29)) ∧
  -- DEBUG_START: in BLANK, before Umber has started
  (∀ slot : BitVec 1, Runs (.debugStart slot) (fun s => debugOpen 5 s ∧ s.lifeState = 0 ∧ s.umber.run = .inReset)
    (fun _ t => debugSpent t ∧ freshAt (if slot = 0 then 0 else 0x018000) (if slot = 0 then 0 else 0x018000) .running { t with umber := { t.umber with haltReq := none } } ∧
      bit t P.MGMT_BOOTSTAT 6 = decide (slot = 1))) ∧
  -- REGRD: WAIT, token 0xA5 and the value, five bytes from the lowest
  (∀ (sel : BitVec 8) (r : RegSel), regSel sel = some r → Happens (.regrd sel) [.host] [] (fun s => debugOpen 8 s ∧ mayRegs s)
    (fun s t => debugSpent t ∧ t.host.sent = s.host.sent ++ 0x00 :: 0xA5 :: (List.range 5).map (fun k => (s.regValue r).extractLsb' (8 * k) 8))) ∧
  -- REGWR: the register alone
  (∀ (sel : BitVec 8) (v : Word), Happens (.regwr sel v) [.host, .umber] [] (fun s => debugOpen 9 s ∧ mayRegs s ∧ bit s P.PIER_STATUS 3 = false)
    (fun s t => debugSpent t ∧
      (∀ r : Fin 16, sel = BitVec.ofNat 8 r.val → (t.umber.d)[r] = v ∧ ∀ q : Fin 16, q ≠ r → (t.umber.d)[q] = (s.umber.d)[q]) ∧
      (∀ r : Fin 16, sel = BitVec.ofNat 8 (0x10 + r.val) → (t.umber.p)[r] = v.extractLsb' 0 24 ∧ ∀ q : Fin 16, q ≠ r → (t.umber.p)[q] = (s.umber.p)[q]) ∧
      (∀ r : Fin 8, sel = BitVec.ofNat 8 (0x20 + r.val) → (t.umber.n)[r] = v.extractLsb' 0 24) ∧ (∀ r : Fin 8, sel = BitVec.ofNat 8 (0x28 + r.val) → (t.umber.l)[r] = v.extractLsb' 0 24) ∧
      (sel = 0x7F → t.umber.pc = v.extractLsb' 0 24) ∧ (0x10 ≤ sel.toNat → t.umber.d = s.umber.d) ∧ (sel.toNat < 0x10 ∨ 0x20 ≤ sel.toNat → t.umber.p = s.umber.p) ∧
      (sel.toNat < 0x40 → t.umber.sr = s.umber.sr ∧ t.umber.pc = s.umber.pc ∧ t.umber.run = .halted))) ∧
  -- without its right, or with Umber running for a register, RIGHTS; in END OF LIFE REFUSED; an invalid selector BADCMD
  (∀ op : BitVec 5, ∀ c ∈ [(Instr.debugHalt, (1 : BitVec 5)), (Instr.debugResume, 2), (Instr.debugStep, 3), (Instr.dbgirq, 4)], op = c.2 →
    Happens c.1 [.host] [] (fun s => debugOpen op s ∧ ¬ mayHalt s) (fun s t => debugSpent t ∧ hostErred (if s.lifeState = 3 then 1 else 10) s t)) ∧
  (∀ (sel : BitVec 8) (v : Word), Happens (.regwr sel v) [.host] [] (fun s => debugOpen 9 s ∧ ¬ mayRegs s)
    (fun s t => debugSpent t ∧ hostErred (if s.lifeState = 3 then 1 else 10) s t)) ∧
  (∀ sel : BitVec 8, regSel sel = none → Happens (.regrd sel) [.host] [] (fun s => debugOpen 8 s ∧ mayRegs s) (fun s t => debugSpent t ∧ hostErred 11 s t ∧ t.host.sent = s.host.sent ++ [0x00, 0xEB])) ∧
  (∀ sel : BitVec 8, Happens (.regrd sel) [.host] [] (fun s => debugOpen 8 s ∧ ¬ mayRegs s)
    (fun s t => debugSpent t ∧ hostErred (if s.lifeState = 3 then 1 else 10) s t ∧ t.host.sent = s.host.sent ++ [0x00, if s.lifeState = 3 then 0xE1 else 0xEA])) ∧
  -- BREAKPOINT_HIT: the lowest enabled breakpoint at the next instruction
  (∀ n : Fin 4, Happens .breakpointHit haltParts haltIx
    (fun s => s.umber.run = .running ∧ s.pwr.mode = .active ∧ s.umber.slots = none ∧ s.umber.rpt = none ∧ s.umber.holds = false ∧ s.umber.ieFence = false ∧ s.umber.bpPass = false ∧
      bit s P.LIFE_DBGSTAT 2 = true ∧ s.par (P.DBG_BP + n.val) = (1 : Word) <<< 24 ||| s.umber.pc.setWidth 36 ∧ ∀ j < n.val, bit s (P.DBG_BP + j) 24 = false)
    (fun s t => haltedNow 2 n.val s t ∧ t.par (P.DBG_BPHIT + n.val) = s.par (P.DBG_BPHIT + n.val) + 1)) ∧
  -- WATCHPOINT_HIT: at the first boundary after the access
  (∀ (n : BitVec 1) (a : Addr) (w : Bool), Happens .watchpointHit haltParts haltIx
    (fun s => s.umber.run = .running ∧ s.pwr.mode = .active ∧ s.umber.slots = none ∧ s.umber.rpt = none ∧ s.umber.holds = false ∧ s.umber.ieFence = false ∧ s.umber.wpHit = some (n, a, w))
    (fun s t => haltedNow 3 n.toNat s t ∧ hitRecorded s t))

end Sys2Proof.Claims
end

