-- ==== Sys2Proof/Certificates/Slice0/HostClaims.lean ====
section
/-!
DEFINITION. Sys2Proof/Certificates/Slice0/HostClaims.lean: the statements about the host port (18).
-/

namespace Sys2Proof.Claims

open Sys2Proof.Machine

/-- The open transaction. -/
def current (s : State) : HostTxn := s.host.txn.getD { wr := false, type := 0, addr := 0, dead := true, spent := true }

/-- A transaction of this kind is open and still serves. -/
abbrev serving (type : BitVec 2) (wr : Bool) (s : State) : Prop :=
  s.host.txn.isSome = true ∧ (current s).type = type ∧ (current s).wr = wr ∧ (current s).dead = false ∧ (current s).spent = false

def locked (s : State) : Bool := bit s P.PIER_STATUS 3
def keepsRegs (rs : List (Fin 32)) (s t : State) : Prop := ∀ r : Fin 32, r ∉ rs → t.host.regs[r] = s.host.regs[r]

/-- H.STATUS (Table HST-5). -/
def statusOf (s : State) : Byte :=
  (BitVec.ofBoolListLE [(s.host.regs[0]).getLsbD 0, decide (s.host.regs[2] &&& s.host.regs[3] ≠ 0), decide (s.host.wq ≠ []), decide (4 ≤ s.host.wq.length), locked s,
    decide (s.umber.run = .halted), decide (s.host.regs[1] ≠ 0), (s.host.regs[0]).getLsbD 7]).setWidth 8

/-- What a direct register reads as (Table HST-3). -/
def directOf (s : State) (r : Fin 32) : Byte :=
  if r = 0 then statusOf s else if r = 0x17 then BitVec.ofNat 8 s.host.wq.length else s.host.regs[r]

/-- The registers of the error record, and the record of an error of the access at `a` (R574). -/
def errRegs : List (Fin 32) := [1, 2, 0x1A, 0x1B, 0x1C]
def erredAt (code : BitVec 4) (a : Addr) (s t : State) : Prop :=
  if s.host.regs[1] = 0 then
    t.host.regs[1] = code.setWidth 8 ∧ t.host.regs[2] = s.host.regs[2] ||| 2 ∧ t.host.regs[0x1C] ++ t.host.regs[0x1B] ++ t.host.regs[0x1A] = a
  else t.host.regs[1] = s.host.regs[1] ||| 0x80 ∧ ∀ r ∈ errRegs, r ≠ 1 → t.host.regs[r] = s.host.regs[r]
def notErred (s t : State) : Prop := ∀ r ∈ errRegs, t.host.regs[r] = s.host.regs[r]

def tgtAddr : HostTgt → Addr
  | .par i => 0x400000 + i.setWidth 24
  | .mem a _ => a

def indexOf : HostTgt → Option (BitVec 13)
  | .par i => some i
  | .mem _ _ => none

/-- H.PIDX, H.MADDR and the latches of a parameter and of a word. -/
def pidx (s : State) : BitVec 13 := (s.host.regs[6]).extractLsb' 0 5 ++ s.host.regs[5]
def maddr (s : State) : Addr := s.host.regs[0x0E] ++ s.host.regs[0x0D] ++ s.host.regs[0x0C]
def latchPar (top : Byte) (s : State) : Word := top.extractLsb' 0 4 ++ s.host.regs[0x0A] ++ s.host.regs[0x09] ++ s.host.regs[0x08] ++ s.host.regs[0x07]
def latchMem (top : Byte) (s : State) : Word := top.extractLsb' 0 4 ++ s.host.regs[0x13] ++ s.host.regs[0x12] ++ s.host.regs[0x11] ++ s.host.regs[0x10]

/-- A write commits (R577, R581, R585). -/
def commits (tgt : HostTgt) (v : Word) (s t : State) : Prop :=
  if locked s then erredAt 2 (tgtAddr tgt) s t ∧ t.host.wq = s.host.wq ∧ t.par P.HOST_WRCNT = s.par P.HOST_WRCNT
  else if 4 ≤ s.host.wq.length then erredAt 8 (tgtAddr tgt) s t ∧ t.host.wq = s.host.wq ∧ t.par P.HOST_WRCNT = s.par P.HOST_WRCNT
  else notErred s t ∧ t.host.wq = s.host.wq ++ [⟨tgt, v, none, []⟩] ∧ t.par P.HOST_WRCNT = s.par P.HOST_WRCNT + 1

/-- The target of a memory write. -/
def memTarget (s : State) : HostTgt := .mem (maddr s) ((s.host.regs[0x0F]).extractLsb' 0 4)

/-- Transactions: the command byte, the end and the timeout (R570, R571, R586, R587, R591). -/
def wrongCommand (cmd : BitVec 8) : Prop :=
  ((cmd.extractLsb' 5 2 = 1 ∨ cmd.extractLsb' 5 2 = 2) ∧ cmd.extractLsb' 1 4 ≠ 0) ∨
    (cmd.extractLsb' 5 2 = 3 ∧ (cmd.extractLsb' 0 5).toNat ∉ (if cmd.getLsbD 7 then [1, 2, 3, 4, 5, 9] else [8]))

/-- Bytes in which HDO shows WAIT while a read of the transaction is in flight: as many as the host clocks out in that time (R576). -/
def waited (n : Nat) (s : State) : Prop := s.host.readLive = false → n = 0

/-- A transaction in which the host's bytes are ignored (R571, R586, R587). -/
def ignored (s : State) : Prop := s.host.txn.isSome = true ∧ (current s).dead = true

/-- What `n` bytes more put on HDO in it. -/
def zeros (n : Nat) (s t : State) : Prop := t.host = { s.host with sent := s.host.sent ++ List.replicate n 0 }

def hostTransactions : Prop :=
  (∀ cmd : BitVec 8, Happens (.hostTransactionStart cmd) [.host] []
    (fun s => s.host.txn = none ∧ s.pwr.mode = .active ∧ s.umber.hold ≠ .stop ∧ (s.host.regs[0]).getLsbD 7 = true ∧ ¬ wrongCommand cmd)
    (fun s t => t.host = { s.host with txn := some ⟨cmd.getLsbD 7, cmd.extractLsb' 5 2, cmd.extractLsb' 0 5, false, false⟩, sent := [statusOf s], readLive := false })) ∧
  (∀ cmd : BitVec 8, Happens (.hostTransactionStart cmd) [.host] []
    (fun s => s.host.txn = none ∧ s.pwr.mode = .active ∧ s.umber.hold ≠ .stop ∧ (s.host.regs[0]).getLsbD 7 = true ∧ wrongCommand cmd)
    (fun s t => (current t).dead = true ∧ t.host.sent = [statusOf s] ∧ hostErred 11 s t ∧ keepsRegs errRegs s t)) ∧
  -- with RDY 0 the status is there, and the rest is ignored
  (∀ cmd : BitVec 8, Happens (.hostTransactionStart cmd) [.host] []
    (fun s => s.host.txn = none ∧ s.vddRuns = true ∧ s.pwr.mode ≠ .doze ∧ s.pwr.mode ≠ .retain ∧ s.pwr.mode ≠ .halt ∧ s.umber.hold ≠ .stop ∧ (s.host.regs[0]).getLsbD 7 = false)
    (fun s t => (current t).dead = true ∧ t.host.sent = [statusOf s] ∧ t.host.regs = s.host.regs)) ∧
  -- a byte of an ignored transaction is 0x00
  Happens .directRead [.host] [] ignored (fun s t => zeros 1 s t) ∧ (∀ b : Byte, Happens (.directWrite b) [.host] [] ignored (fun s t => zeros 1 s t)) ∧
  Happens .hostParamRead [.host] [] ignored (fun s t => zeros 1 s t) ∧ Happens .hostMemRead [.host] [] ignored (fun s t => zeros 1 s t) ∧
  (∀ v : Word, Happens (.hostParamWrite v) [.host] [] ignored (fun s t => zeros 5 s t) ∧ Happens (.hostMemWrite v) [.host] [] ignored (fun s t => zeros 5 s t)) ∧
  -- while a STOP waits the edge is noted as a wake event too (R62, R73)
  (∀ cmd : BitVec 8, Runs (.hostTransactionStart cmd) (fun s => s.host.txn = none ∧ s.pwr.mode = .active ∧ s.umber.hold = .stop)
    (fun s t => t.pwr = { s.pwr with hostWake := true } ∧ t.host.txn.isSome = true)) ∧
  -- in modes 1 and 2 the edge is a wake event and is not served
  (∀ cmd : BitVec 8, Happens (.hostTransactionStart cmd) [.pwr, .host] [] (fun s => s.host.txn = none ∧ (s.pwr.mode = .doze ∨ s.pwr.mode = .retain) ∧ s.pwr.exiting = false)
    (fun s t => t.pwr = { s.pwr with hostWake := true } ∧ (current t).dead = true ∧ t.host.sent = [0] ∧ t.host.regs = s.host.regs)) ∧
  (∀ cmd : BitVec 8, Happens (.hostTransactionStart cmd) [.pwr, .host] [] (fun s => s.host.txn = none ∧ s.pwr.mode = .halt ∧ bit s P.PWR_WAKEEN 4 = true)
    (fun s t => t.pwr = { s.pwr with hostWake := true } ∧ (current t).dead = true ∧ t.host.sent = [0] ∧ t.host.regs = s.host.regs)) ∧
  Happens .hostTransactionEnd [.host] [] (fun _ => True)
    (fun s t => ∃ n, waited n s ∧ t.host = { s.host with txn := none, readLive := false, sent := s.host.sent ++ List.replicate n 0 }) ∧
  -- what a withdrawn memory read has lost of its bank is counted
  Happens .hostTimeout [.host, .bank] [] (fun s => s.vddRuns = true ∧ s.host.txn.isSome = true ∧ (current s).dead = false)
    (fun s t => (∃ n, waited n s ∧ t.host = { s.host with txn := some { current s with dead := true, spent := true }, regs := t.host.regs, readLive := false, read := t.host.read, sent := s.host.sent ++ List.replicate n 0 }) ∧
      ((∀ a m, s.host.read ≠ some (.mem a m)) → t.bank = s.bank) ∧
      hostErred 9 s t ∧ keepsRegs (0x1E :: errRegs) s t ∧ t.host.regs[0x1E].toNat = min (s.host.regs[0x1E].toNat + 1) 255 ∧ (t.host.regs[2]).getLsbD 6 = true ∧
      t.host.read = s.host.read.filter (fun r => match r with | .par _ => true | .mem _ _ => false))

/-- The bits of a direct register that a write stores (Table HST-3). -/
def writable (r : Fin 32) : Byte :=
  if r = 3 then 0x7F else if r = 4 then 1 else if r = 6 then 0x1F else if r = 0x0F then 0x0F else if 0x16 ≤ r.val ∧ r.val ≤ 0x1D then 0 else 0xFF

/-- The register after a byte is written: W1C for H.STATUS bit 0, H.ERR and H.IRQ. -/
def written (r : Fin 32) (b : Byte) (s : State) : Byte :=
  if r = 0 then s.host.regs[r] &&& ~~~(b &&& 1)
  else if r = 1 ∨ r = 2 then s.host.regs[r] &&& ~~~b
  else (s.host.regs[r] &&& ~~~writable r) ||| (b &&& writable r)

/-- A byte of a direct write has gone by: the live status on HDO and the next address. -/
def directStep (s t : State) : Prop := t.host.sent = s.host.sent ++ [statusOf s] ∧ t.host.txn = some { current s with addr := (current s).addr + 1 }

/-- A direct write at a register, no lockout in effect. -/
abbrev writesDirect (p : Fin 32 → Bool) (s : State) : Prop := serving 0 true s ∧ locked s = false ∧ p (Fin.ofNat 32 (current s).addr.toNat) = true

/-- A doorbell byte arrives (R589): HOST.DOORIN, bit 0xAC0, line 10 and the source HOST. -/
def rings (b : Byte) (s t : State) : Prop :=
  t.host.bell = true ∧ t.host.doorLine = true ∧ (t.par P.HOST_DOORIN).extractLsb' 0 8 = b ∧
    (t.par P.HOST_DOORIN).extractLsb' 8 8 = (s.par P.HOST_DOORIN).extractLsb' 8 8 + 1 ∧ bit t P.HOST_DOORIN 35 = true ∧
    ∀ k < 36, t.umber.ipend.getLsbD k = (s.umber.ipend.getLsbD k || k == 21)

/-- A write of the queue that has not reached CORE, behind which a doorbell byte waits (R48). -/
def unarrived (w : HostWrite) : Prop := w.latched = none ∧ ∀ i, w.tgt = .par i → shellOf i.toNat = .core

/-- The doorbell (R589). -/
def rung (b : Byte) (s t : State) : Prop := directStep s t ∧ t.host.regs = s.host.regs.set 0x15 b ∧ rings b s t

/-- The byte waits behind entry `k` of the queue. -/
def behind (k : Nat) (b : Byte) (s t : State) : Prop :=
  directStep s t ∧ t.host.regs = s.host.regs.set 0x15 b ∧ t.host.bell = s.host.bell ∧ t.host.wq = s.host.wq.modify k (fun w => { w with after := w.after ++ [b] })

/-- Direct registers and doorbells (R573, R585, R589). -/
def directs : Prop :=
  Happens .directRead [.host] [] (fun s => serving 0 false s)
    (fun s t => t.host = { s.host with txn := some { current s with addr := (current s).addr + 1 }, sent := s.host.sent ++ [directOf s (Fin.ofNat 32 (current s).addr.toNat)] }) ∧
  (∀ b : Byte, Happens (.directWrite b) [.host] [] (fun s => writesDirect (fun r => r ∉ [0x0B, 0x14, 0x15]) s)
    (fun s t => directStep s t ∧ t.host = { s.host with regs := t.host.regs, txn := t.host.txn, sent := t.host.sent } ∧
      ∀ r : Fin 32, t.host.regs[r] = if r.val = (current s).addr.toNat then written r b s else s.host.regs[r])) ∧
  (∀ b : Byte, Happens (.directWrite b) [.host, .wq] [P.HOST_WRCNT] (fun s => writesDirect (fun r => r == 0x0B) s)
    (fun s t => directStep s t ∧ t.host.regs[0x0B] = (b &&& 0x0F) ||| (s.host.regs[0x0B] &&& 0xF0) ∧ keepsRegs (0x0B :: errRegs) s t ∧ commits (.par (pidx s)) (latchPar b s) s t)) ∧
  (∀ b : Byte, Happens (.directWrite b) [.host, .wq] [P.HOST_WRCNT] (fun s => writesDirect (fun r => r == 0x14) s)
    (fun s t => directStep s t ∧ t.host.regs[0x14] = (b &&& 0x0F) ||| (s.host.regs[0x14] &&& 0xF0) ∧ keepsRegs (0x14 :: errRegs) s t ∧ commits (memTarget s) (latchMem b s) s t)) ∧
  (∀ b : Byte, ∀ c ∈ [Instr.directWrite b, Instr.doorbell b],
    Happens c [.host, .ipend] [P.HOST_DOORIN] (fun s => writesDirect (fun r => r == 0x15) s ∧ ∀ w ∈ s.host.wq, ¬ unarrived w) (fun s t => rung b s t) ∧
    ∀ (k : Nat) (w : HostWrite), unarrived w → Happens c [.host, .wq] []
      (fun s => writesDirect (fun r => r == 0x15) s ∧ s.host.wq[k]? = some w ∧ ∀ v ∈ s.host.wq.drop (k + 1), ¬ unarrived v) (fun s t => behind k b s t)) ∧
  -- under lockout a write is discarded with LOCK
  (∀ b : Byte, ∀ r ∈ [(Instr.directWrite b, true), (Instr.doorbell b, false)], Happens r.1 [.host] []
    (fun s => serving 0 true s ∧ locked s = true ∧ (r.2 = true ∨ (current s).addr = 0x15))
    (fun s t => directStep s t ∧ hostErred 2 s t ∧ keepsRegs errRegs s t ∧ t.host.bell = s.host.bell)) ∧
  (∀ m : Master, Reads (.doorinRead m) m P.HOST_DOORIN [.host] [P.HOST_DOORIN] (fun _ _ => True)
    (fun s t => (t.par P.HOST_DOORIN).extractLsb' 0 16 = 0 ∧ bit t P.HOST_DOORIN 35 = false ∧ t.host = { s.host with bell := false, doorLine := false })) ∧
  (∀ (m : Master) (v : Word), Accepts (.dooroutWrite m v) m P.HOST_DOOROUT v [.host] [] (fun _ _ => True)
    (fun _ s t => t.host.regs[0x16] = v.extractLsb' 0 8 ∧ t.host.regs[2] = s.host.regs[2] ||| 1 ∧ keepsRegs [2, 0x16] s t ∧ t.host.txn = s.host.txn ∧ t.host.sent = s.host.sent))

/-- The addresses after a parameter or word of a transaction: with INC = 1 one further. -/
def stepPast (type : BitVec 2) (s t : State) : Prop :=
  if (current s).addr.getLsbD 0 = true then
    (if type = 1 then pidx t = pidx s + 1 ∧ maddr t = maddr s else pidx t = pidx s ∧ maddr t = maddr s + 1)
  else pidx t = pidx s ∧ maddr t = maddr s
def addressRegs : List (Fin 32) := [5, 6, 0x0C, 0x0D, 0x0E]

/-- A write of the queue, committed before the read, holds it back: to the same island, memory being CORE's, or of memory for a read of memory (R578, R580). -/
def heldBack (x : HostTgt) (s : State) : Prop :=
  ∃ w ∈ s.host.wq.take s.host.readBehind, match x, w.tgt with
    | .par i, .par j => populated i.toNat = true ∧ shellOf i.toNat = shellOf j.toNat
    | .par i, .mem _ _ => populated i.toNat = true ∧ shellOf i.toNat = .core
    | .mem _ _, .mem _ _ => True
    | .mem _ _, .par _ => False

/-- The read in flight, where it goes, and that no earlier write of the queue holds it back (R578, R580). -/
abbrev reads (p : HostTgt → Prop) (s : State) : Prop := s.vddRuns = true ∧ ∃ x, s.host.read = some x ∧ p x ∧ ¬ heldBack x s

/-- The read's value or error on HDO, in the transaction that issued it, after the bytes of WAIT (R576). -/
def tells (code : BitVec 4) (w : Word) (s t : State) : Prop := ∃ n, waited n s ∧
  if s.host.readLive = true ∧ s.host.txn.isSome = true ∧ (current s).dead = false then
    t.host.sent = s.host.sent ++ List.replicate n 0 ++ (if code = 0 then 0xA5 :: (List.range 5).map (fun k => w.extractLsb' (8 * k) 8) else [0xE0 ||| code.setWidth 8]) ∧
      t.host.txn = some { current s with spent := !(current s).addr.getLsbD 0 || code != 0 }
  else t.host.sent = s.host.sent ++ List.replicate n 0 ∧ t.host.txn = s.host.txn

/-- A read completes: into the latch, H.PSTAT for a parameter, and to HDO; an error is recorded. -/
def completes (par : Bool) (code : BitVec 4) (w : Word) (s t : State) : Prop :=
  t.host.read = none ∧ t.host.readLive = false ∧ tells code w s t ∧
    (if par then t.host.regs[0x1D] = code ++ (1 : BitVec 4) ∧ (t.host.regs[0x0B] ++ t.host.regs[0x0A] ++ t.host.regs[9] ++ t.host.regs[8] ++ t.host.regs[7]) = w.setWidth 40
      else (t.host.regs[0x14] ++ t.host.regs[0x13] ++ t.host.regs[0x12] ++ t.host.regs[0x11] ++ t.host.regs[0x10]) = w.setWidth 40) ∧
    (if code = 0 then notErred s t else ∃ x, s.host.read = some x ∧ erredAt code (tgtAddr x) s t) ∧
    t.host.wq = s.host.wq ∧ t.host.regs[3] = s.host.regs[3] ∧ t.host.regs[4] = s.host.regs[4]

/-- The value that a parameter reads as for the host at its shell. -/
def parValue (i : Nat) (s : State) : Option Word :=
  match (readPar s.hostAcc i s).1 with
  | .val w => some w
  | _ => none

/-- The region check of the window, which a right in effect (LIFE.DBGSTAT) takes the place of (R582, Table HST-6). -/
def windowMay (right : Nat) (need : Need) (a : Addr) (s : State) : Prop :=
  s.lifeState ≠ 3 ∧ (bit s P.LIFE_DBGSTAT right = true ∨ s.regionFail { master := .host, dom := 1, prv := false } spData a need = none)

/-- The code and word of a memory read that the window may make (Tables HST-4, HST-7b). -/
def windowRead (a : Addr) (s : State) : BitVec 4 × Word :=
  match place a with
  | .sram b =>
    if s.archState (b.toNat / 65536) ≠ 2 then (6, 0) else if s.poisoned b then (5, 0) else match readable (s.sramCell b) with | some w => (0, w) | none => (5, 0)
  | .tile b =>
    if s.umber.run = .halted ∧ bit s P.LIFE_DBGSTAT 3 = true then
      if s.archState 4 ≠ 2 then (6, 0) else match readable (s.tileCell b) with | some w => (0, w) | none => (5, 0)
    else (4, 0)
  | .dnvm b => match readable (s.dnvmCell b) with | some w => (0, w) | none => (5, 0)
  | .prog b => match readable (s.progCell b) with | some w => (0, w) | none => (5, 0)
  | _ => (4, 0)

/-- The entry at the head of the write queue goes, and a read that waited behind it waits behind one fewer (R577). -/
def headGone (s t : State) : Prop := t.host.wq = s.host.wq.tail ∧ t.host.readBehind = s.host.readBehind - 1

/-- The blocks a memory access of the host may change. -/
def memIx : List Nat := P.MGMT_LOGDROP :: every 0x500 1 256

/-- An answer with code `c` comes back at once, or for an accepted write of a parameter once nothing of it waits (R51). -/
def comesBack (w : HostWrite) (c : BitVec 4) (s : State) : Prop := c = 0 → ∀ i, indexOf w.tgt = some i → ¬ effectWaits i.toNat s

/-- The parameter window (R575-R578). -/
def parWindow : Prop :=
  Happens .hostParamRead [.host] [] (fun s => serving 1 false s ∧ s.host.read = none)
    (fun s t => t.host = { s.host with read := some (.par (pidx s)), readBehind := s.host.wq.length, readLive := true, sent := s.host.sent ++ [0], regs := s.host.regs.set 0x1D 2 }) ∧
  Happens .hostParamRead [] [] (fun s => serving 1 false s ∧ s.host.read ≠ none) (fun s t => t.host = s.host) ∧
  (∀ v : Word, Happens (.hostParamWrite v) [.host, .wq] [P.HOST_WRCNT] (fun s => serving 1 true s)
    (fun s t => t.host.sent = s.host.sent ++ List.replicate 5 (statusOf s) ∧ t.host.txn = s.host.txn ∧ commits (.par (pidx s)) v s t ∧ stepPast 1 s t ∧
      keepsRegs (addressRegs ++ errRegs) s t)) ∧
  -- a read that its shell serves is made once, into the latch
  (∀ i : BitVec 13, Runs .hostReadComplete
    (fun s => reads (fun x => x = .par i) s ∧ populated i.toNat = true ∧ s.hostDenied i.toNat false = false ∧ (parValue i.toNat s).isSome = true)
    (fun s t => (∀ w, parValue i.toNat s = some w → completes true 0 w s t) ∧ Untouched [.host] [] (readPar s.hostAcc i.toNat s).2 t)) ∧
  -- an unpopulated index reads 0 and sets NOPARAM
  (∀ i : BitVec 13, Happens .hostReadComplete [.host] [] (fun s => reads (fun x => x = .par i) s ∧ s.lifeState ≠ 3 ∧ populated i.toNat = false)
    (fun s t => completes true 0 0 s t ∧ (t.host.regs[0]).getLsbD 0 = true)) ∧
  -- one that an earlier write holds back stays
  (∀ x : HostTgt, Happens .hostReadComplete [] [] (fun s => s.host.read = some x ∧ heldBack x s) (fun s t => t.host = s.host)) ∧
  -- a denied one ends with DENIED, and in END OF LIFE an unpopulated one with REFUSED
  (∀ i : BitVec 13, Happens .hostReadComplete [.host] [P.SYS_PERR, P.SYS_PERRCNT]
    (fun s => reads (fun x => x = .par i) s ∧ s.lifeState ≠ 3 ∧ populated i.toNat = true ∧ s.denied s.hostAcc i.toNat false = true) (fun s t => completes true 3 0 s t)) ∧
  (∀ i : BitVec 13, Happens .hostReadComplete [.host] [] (fun s => reads (fun x => x = .par i) s ∧ s.lifeState = 3 ∧ s.hostBarred i.toNat = true) (fun s t => completes true 1 0 s t)) ∧
  -- an entry that its shell has taken is freed, once its effect has landed (R51), and a refusal reported
  (∀ c : BitVec 4, Happens .hostWriteAck [.host, .wq, .mgmt] [] (fun s => s.vddRuns = true ∧ ∃ w, s.host.wq.head? = some w ∧ w.latched = some c ∧ w.after = [] ∧ comesBack w c s)
    (fun s t => headGone s t ∧ (if c = 0 then notErred s t else ∃ w, s.host.wq.head? = some w ∧ erredAt c (tgtAddr w.tgt) s t) ∧ keepsRegs errRegs s t ∧
      t.mgmt = { s.mgmt with job := t.mgmt.job, jobBad := t.mgmt.jobBad })) ∧
  -- the doorbell bytes behind it arrive with it
  (∀ (i : BitVec 13) (v : Word) (c : BitVec 4) (b : Byte), i.toNat ≠ P.SYS_ROLE → Happens .hostWriteAck [.host, .wq, .ipend] [P.HOST_DOORIN]
    (fun s => s.vddRuns = true ∧ s.host.wq.head? = some ⟨.par i, v, some c, [b]⟩ ∧ comesBack ⟨.par i, v, some c, [b]⟩ c s) (fun s t => headGone s t ∧ rings b s t)) ∧
  (∀ i : BitVec 13, Happens .hostWriteAck [.host, .wq] []
    (fun s => s.vddRuns = true ∧ s.lifeState ≠ 3 ∧ populated i.toNat = false ∧ ∃ w, s.host.wq.head? = some w ∧ w.latched = none ∧ w.tgt = .par i ∧ w.after = [])
    (fun s t => headGone s t ∧ notErred s t ∧ (t.host.regs[0]).getLsbD 0 = true)) ∧
  (∀ i : BitVec 13, i.toNat ≠ P.SYS_ROLE → Happens .hostWriteAck [.host, .wq] [P.SYS_PERR, P.SYS_PERRCNT]
    (fun s => s.vddRuns = true ∧ s.lifeState ≠ 3 ∧ populated i.toNat = true ∧ s.denied s.hostAcc i.toNat true = true ∧
      ∃ w, s.host.wq.head? = some w ∧ w.latched = none ∧ w.tgt = .par i ∧ w.after = [])
    (fun s t => headGone s t ∧ erredAt 3 (0x400000 + i.setWidth 24) s t)) ∧
  -- one whose effect has still to land stays (R51), and one that waits for its shell
  (∀ i : BitVec 13, Happens .hostWriteAck [] []
    (fun s => ∃ w, s.host.wq.head? = some w ∧ s.host.wq.tail = [] ∧ w.latched = some 0 ∧ w.tgt = .par i ∧ effectWaits i.toNat s) (fun s t => t.host = s.host)) ∧
  Happens .hostWriteAck [] []
    (fun s => ∃ w, s.host.wq.head? = some w ∧ s.host.wq.tail = [] ∧ w.latched = none ∧ ∃ i, indexOf w.tgt = some i ∧ s.hostBarred i.toNat = false ∧ populated i.toNat = true ∧
      s.hostDenied i.toNat true = false)
    (fun s t => t.host = s.host)

/-- The entry at the head of the queue is a write of memory. -/
abbrev memHead (s : State) (a : Addr) (lanes : BitVec 4) (v : Word) : Prop := s.host.wq.head? = some ⟨.mem a lanes, v, none, []⟩

/-- The memory window (R580-R582, R585). -/
def memWindow : Prop :=
  Happens .hostMemRead [.host] [] (fun s => serving 2 false s ∧ s.host.read = none)
    (fun s t => t.host = { s.host with read := some (.mem (maddr s) 0xF), readBehind := s.host.wq.length, readLive := true, sent := s.host.sent ++ [0] }) ∧
  (∀ v : Word, Happens (.hostMemWrite v) [.host, .wq] [P.HOST_WRCNT] (fun s => serving 2 true s)
    (fun s t => t.host.sent = s.host.sent ++ List.replicate 5 (statusOf s) ∧ t.host.txn = s.host.txn ∧ commits (memTarget s) v s t ∧ stepPast 2 s t ∧
      keepsRegs (addressRegs ++ errRegs) s t)) ∧
  (∀ a : Addr, Happens .hostReadComplete [.host, .mem, .bank, .ipend, .log] memIx
    (fun s => reads (fun x => x = .mem a 0xF) s ∧ windowMay 3 .r a s)
    (fun s t => completes false (windowRead a s).1 (windowRead a s).2 s t ∧ t.mem.sram = s.mem.sram ∧ t.mem.tile = s.mem.tile)) ∧
  (∀ a : Addr, Happens .hostReadComplete [.host] [P.DOM_VIOL, P.DOM_VIOLCNT]
    (fun s => reads (fun x => x = .mem a 0xF) s ∧ s.lifeState ≠ 3 ∧ ¬ windowMay 3 .r a s) (fun s t => completes false 3 0 s t)) ∧
  (∀ a : Addr, Happens .hostReadComplete [.host] [] (fun s => reads (fun x => x = .mem a 0xF) s ∧ s.lifeState = 3) (fun s t => completes false 1 0 s t)) ∧
  -- a write: a full word, part of one, none, and the ranges that take none
  (∀ (a : Addr) (v : Word), Happens .hostWriteAck [.host, .wq, .mem, .bank, .ipend, .log, .resv] memIx
    (fun s => s.vddRuns = true ∧ memHead s a 15 v ∧ windowMay 4 .w a s ∧ a.toNat < 0x40000 ∧ s.archState (a.toNat / 65536) = 2)
    (fun s t => headGone s t ∧ t.host.regs = s.host.regs ∧ t.sramCell (a.setWidth 18) = storedAs s (a.setWidth 18) v ∧ t.poisoned (a.setWidth 18) = false ∧ OneWord (a.setWidth 18) s t)) ∧
  (∀ (a : Addr) (v : Word) (lanes : BitVec 4), lanes ≠ 15 → lanes ≠ 0 → Happens .hostWriteAck [.host, .wq, .mem, .bank, .ipend, .log, .resv] memIx
    (fun s => s.vddRuns = true ∧ memHead s a lanes v ∧ windowMay 4 (storeNeed lanes) a s ∧ a.toNat < 0x40000 ∧ s.archState (a.toNat / 65536) = 2 ∧
      s.poisoned (a.setWidth 18) = false ∧ (readable (s.sramCell (a.setWidth 18))).isSome = true)
    (fun s t => headGone s t ∧ t.host.regs = s.host.regs ∧ OneWord (a.setWidth 18) s t ∧ ∀ old, readable (s.sramCell (a.setWidth 18)) = some old →
      t.sramCell (a.setWidth 18) = storedAs s (a.setWidth 18) (merged lanes old v))) ∧
  (∀ (a : Addr) (v : Word), Happens .hostWriteAck [.host, .wq] [] (fun s => s.vddRuns = true ∧ memHead s a 0 v ∧ s.lifeState ≠ 3)
    (fun s t => headGone s t ∧ t.host.regs = s.host.regs)) ∧
  (∀ (a : Addr) (v : Word), ∀ c ∈ [(1 : BitVec 4), 3, 4, 6], Happens .hostWriteAck [.host, .wq] [P.DOM_VIOL, P.DOM_VIOLCNT]
    (fun s => s.vddRuns = true ∧ memHead s a 15 v ∧ (if c = 1 then s.lifeState = 3
      else if c = 3 then s.lifeState ≠ 3 ∧ ¬ windowMay 4 .w a s
      else windowMay 4 .w a s ∧ (if c = 6 then a.toNat < 0x40000 ∧ s.archState (a.toNat / 65536) ≠ 2 else 0x200000 ≤ a.toNat)))
    (fun s t => headGone s t ∧ erredAt c a s t ∧ keepsRegs errRegs s t))

end Sys2Proof.Claims
end

