-- ==== Sys2Proof/Certificates/Slice0/MachineClaims.lean ====
section
/-!
DEFINITION. Sys2Proof/Certificates/Slice0/MachineClaims.lean: the statements about the machine as a whole: its step, its reset state, and what every step keeps.
-/

namespace Sys2Proof.Claims

open Sys2Proof.Machine

/-- A step takes the command at the front of the queue and makes its effect with the queue's rest. -/
def frontCommand : Prop :=
  ∀ (c : Instr) (rest : List Instr) (s : State), s.pending = c :: rest → step s = exec c { s with pending := rest }

/-- With no command waiting Umber runs its program: where it runs and takes neither an NMI nor an interrupt, a step is exec of the instruction that the word at the
program counter spells, once time has passed (R192, R198; log 3). Where Umber does not run, only time passes. An NMI comes first, and a fault of the next
instruction before an interrupt (R179). -/
def programRuns : Prop :=
  (∀ s : State, s.pending = [] → (idle s).umberRuns = true → (idle s).nmiTakes = false → (idle s).irqTakes = false →
    step s = exec (decodeUmber (idle s).progWord) (idle s)) ∧
  (∀ s : State, s.pending = [] → (idle s).umberRuns = false → step s = .next (idle s)) ∧
  (∀ s : State, s.pending = [] → (idle s).umberRuns = true → (idle s).nmiTakes = true → step s = exec .nmiEntry (idle s)) ∧
  (∀ s t : State, s.pending = [] → (idle s).nmiTakes = false → (idle s).irqTakes = true → exec (decodeUmber (idle s).progWord) (idle s) = .next t →
    step s = if t.leftStream = true then .next t else exec .interruptEntry (idle s))

/-- Words that 06 and 07 print, and what they spell (R199, R205, R214, R219): the all-zero and all-ones words, the canonical NOP, the worked CALLM and MACD, a
reserved major, and a nonzero field marked zero. -/
def wordsSpell : Prop :=
  decodeUmber 0x000000000#36 = .add 0 false 0 0 0 ∧ decodeUmber 0xFFFFFFFFF#36 = .extensionSpace 15 ∧ decodeUmber 0x0E8000000#36 = .nop 0 ∧
    decodeUmber 0x0C8C0F040#36 = .callm 0 0xC0F 0x040 ∧ decodeUmber 0x068025400#36 = .macd 0 false 0 1 1 1 1 0 false ∧
    (∀ w : BitVec 32, decodeUmber (0xF#4 ++ ((0x3E#6 ++ w.extractLsb' 0 26) : BitVec 32)) = .reservedOpcode 15) ∧ decodeUmber 0x000000001#36 = .reservedOpcode 0

/-- A word of any of these three forms spells its instruction with every field as Table UMI-1 places it: COND 35:32, MAJOR 31:26, then MINOR, S and the operands
of format R, format M and format I (R192). -/
def formatsSpell : Prop :=
  (∀ (c : Cond) (sat : BitVec 1) (d a b : BitVec 4),
    decodeUmber ((c ++ 0x00#6 ++ 0#4 ++ sat ++ d ++ a ++ b ++ 0#9 : BitVec 36)) = .add c (sat.getLsbD 0) d.toFin a.toFin b.toFin) ∧
  (∀ (c : Cond) (d p : BitVec 4) (am : BitVec 3) (ofs : BitVec 12),
    decodeUmber ((c ++ 0x10#6 ++ 1#3 ++ d ++ p ++ am ++ ofs : BitVec 36)) = .st c d.toFin p.toFin am ofs) ∧
  (∀ (c : Cond) (d : BitVec 4) (v : BitVec 18), decodeUmber ((c ++ 0x04#6 ++ d ++ 0#1 ++ 5#3 ++ v : BitVec 36)) = .ldi c d.toFin v) ∧
  (∀ (c : Cond) (mask disp : BitVec 12), decodeUmber ((c ++ 0x32#6 ++ 0#2 ++ mask ++ disp : BitVec 36)) = .callm c mask disp) ∧
  (∀ (c : Cond) (d : BitVec 24), decodeUmber ((c ++ 0x30#6 ++ 0#2 ++ d : BitVec 36)) = .br c d)

/-- Every command of the table has an effect in every state: no step stops. -/
def neverStops : Prop := ∀ s : State, ∃ t, step s = .next t

/-- The part after a Pier power-on with VDD present (R12, R69, R161, R324, R638): nothing waits, every parameter at its reset value, SR at its reset value and Umber held in
reset, every block mask 0x0003_0003 (R628), PIER.TICK and store time 0, no strike unit armed. -/
def resetState : Prop :=
  State.reset.pending = [] ∧ (∀ i, State.reset.par i = resetOf i) ∧ (∀ b, State.reset.blockMask b = 0x00030003#32) ∧
    State.reset.umber.sr = 0x000110000#36 ∧ State.reset.umber.run = .inReset ∧ State.reset.umber.locks = [] ∧ State.reset.umber.bitRam = 0 ∧
    State.reset.umber.resv = none ∧ State.reset.umber.sb = [] ∧ State.reset.umber.pwq = [] ∧
    State.reset.pier.tick = 0 ∧ State.reset.time.acc = 0 ∧ (∀ n : Fin 8, State.reset.armed n = false) ∧
    (∀ ch : Fin 16, State.reset.dmaState ch = 0) ∧ State.reset.pwr.mode = .reset ∧ State.reset.pwr.code = 1

/-! ### What every step keeps -/

/-- The buffers and FIFOs hold no more than the spec gives them: 4 store-buffer entries (R265), 8 addresses in the repeat cache (R229), 256 words in each radio FIFO
(R368), 16 words in each cipher FIFO (R495) and in the FIFO of random numbers (R500), 2,048 words in Trestle's dump FIFO (R441), 4 writes of the host port (R577), 8 words in the face FIFO (R609), 16 events and
32 log records of Sepia (R543, R559), 8 entries in the parameter write queue (R263), 4 quads in the prefetch buffer (R258). -/
structure Bounded (s : State) : Prop where
  sb : s.umber.sb.length ≤ 4
  pwq : s.umber.pwq.length ≤ 8
  prefetch : s.umber.prefetch.length ≤ 4
  rptCache : s.umber.rptCache.length ≤ 8
  tx : s.radio.txFifo.length ≤ 256
  rx : s.radio.rxFifo.length ≤ 256
  cipherIn : s.crypt.inFifo.length ≤ 16
  cipherOut : s.crypt.outFifo.length ≤ 16
  random : s.rng.fifo.length ≤ 16
  dumps : s.fifoWords ≤ 2048
  host : s.host.wq.length ≤ 4
  face : s.face.fifo.length ≤ 8
  events : s.mgmt.evFifo.length ≤ 16
  log : s.mgmt.logQ.length ≤ 32

/-- PRV = 1 only in domain 1, domain 0 is never current, and the reserved bits of SR read 0 (R14, R161, R172). -/
structure Supervised (s : State) : Prop where
  kernel : flag s 20 = true → s.umber.sr.extractLsb' 16 4 = 1#4
  notSepia : s.umber.sr.extractLsb' 16 4 ≠ 0#4
  reserved : ∀ k, (12 ≤ k ∧ k < 16) ∨ 29 ≤ k → flag s k = false

def keepsCanonical : Prop := ∀ s t : State, s.canonical → step s = .next t → t.canonical
def keepsBounds : Prop := ∀ s t : State, Bounded s → step s = .next t → Bounded t
def keepsSupervised : Prop := ∀ s t : State, Supervised s → step s = .next t → Supervised t

def resetKeeps : Prop := State.reset.canonical ∧ Bounded State.reset ∧ Supervised State.reset

/-- Only exception entry, NMI entry and RETI change DOM, PRV, EXL and NMIL, and the entry to vector 0 or 1 sets SR to its reset value (R161, R162, R172, R178, R180). -/
def privilegeChanges : Prop :=
  ∀ (c : Instr) (s t : State), exec c s = .next t →
    (∀ k ∈ [16, 17, 18, 19, 20, 25, 26], flag t k = flag s k) ∨
    (∃ cc, c = .reti cc) ∨
    (t.umber.sr.extractLsb' 16 4 = 1#4 ∧ flag t 20 = true ∧ flag t 21 = false ∧ (flag t 25 = true ∨ flag t 26 = true)) ∨
    t.umber.sr = 0x000110000#36

end Sys2Proof.Claims
end

