-- ==== Sys2Proof/Certificates/Slice0/MemoryClaims.lean ====
section
/-!
DEFINITION. Sys2Proof/Certificates/Slice0/MemoryClaims.lean: the statements about the store buffer's drain and the memories (08, 09).
-/

namespace Sys2Proof.Claims

open Sys2Proof.Machine

/-- A waiting store of the buffer's head. -/
def headIs (s : State) (full : Bool) : Prop := ∃ e, s.umber.sb.head? = some e ∧ (if full then e.mask = 15 else e.mask ≠ 15)

/-- STORE_BUFFER_DRAIN: the oldest entry writes its bank (R267, R304, R310, R311). -/
def drains : Prop :=
  -- a full word: new data with correct check bits, poison cleared, a reservation of that word lost
  Happens .storeBufferDrain [.sb, .mem, .resv] (P.MEM_INJECT :: P.MEM_ARCHSTAT :: every P.MEM_UMBACC 1 16) (fun s => s.vddRuns = true ∧ headIs s true)
    (fun s t => t.umber.sb = s.umber.sb.tail ∧ ∀ e, s.umber.sb.head? = some e →
      t.sramCell e.addr = storedAs s e.addr e.data ∧ t.poisoned e.addr = false ∧ OneWord e.addr s t ∧ t.umber.resv = resvAfter s e.addr) ∧
  -- part of a word: merged into the word read and corrected
  Happens .storeBufferDrain [.sb, .mem, .resv, .ipend] (every 0x500 1 256)
    (fun s => s.vddRuns = true ∧ headIs s false ∧ ∃ e, s.umber.sb.head? = some e ∧ s.poisoned e.addr = false ∧ (readable (s.sramCell e.addr)).isSome = true)
    (fun s t => t.umber.sb = s.umber.sb.tail ∧ ∀ e, s.umber.sb.head? = some e → ∀ old, readable (s.sramCell e.addr) = some old →
      t.sramCell e.addr = storedAs s e.addr (merged e.mask old e.data) ∧ OneWord e.addr s t ∧ t.umber.resv = resvAfter s e.addr) ∧
  -- part of a poisoned or uncorrectable word: discarded with PDROP, memory unchanged
  Happens .storeBufferDrain [.sb, .mem, .ipend, .log] (P.MGMT_LOGDROP :: every 0x500 1 256)
    (fun s => s.vddRuns = true ∧ headIs s false ∧ ∃ e, s.umber.sb.head? = some e ∧ (s.poisoned e.addr = true ∨ readable (s.sramCell e.addr) = none))
    (fun s t => t.umber.sb = s.umber.sb.tail ∧ bit t P.MEM_STATUS 2 = true ∧ t.umber.ipend.getLsbD 28 = true ∧ t.mem.sram = s.mem.sram ∧ t.mem.tile = s.mem.tile ∧
      ∀ e, s.umber.sb.head? = some e → t.poisoned e.addr = true)

/-- The scrubber and demand write-backs (R299, R301-R303). -/
def scrubs : Prop :=
  -- a due access that is not granted waits; another one due meanwhile is dropped with SCRUBLAG
  Happens (.scrubRead false) [.mem, .bank] [P.MEM_STATUS] (fun s => s.awake = true ∧ bit s P.MEM_SCRUBCFG 0 = true)
    (fun s t => t.mem = { s.mem with scrubPend := true } ∧ bit t P.MEM_STATUS 4 = (bit s P.MEM_STATUS 4 || s.mem.scrubPend)) ∧
  -- a granted one reads the word at SCRUBPOS: a readable word is left corrected, an uncorrectable one poisoned, and the position moves on
  (∀ a : BitVec 18, Happens (.scrubRead true) [.mem, .bank, .ipend, .log, .resv] (P.MGMT_LOGDROP :: every 0x500 1 256)
    (fun s => s.awake = true ∧ bit s P.MEM_SCRUBCFG 0 = true ∧ (s.par P.MEM_SCRUBPOS).extractLsb' 0 18 = a ∧ s.archState (a.toNat / 65536) = 2 ∧ s.poisoned a = false)
    (fun s t => t.par P.MEM_SCRUBPOS = (a + 1).setWidth 36 ∧ OneWord a s t ∧ t.mem.scrubPend = false ∧
      (∀ w, readable (s.sramCell a) = some w → t.sramCell a = checkBits w ++ w ∧ t.poisoned a = false ∧
        t.umber.resv = if s.sramCell a = checkBits w ++ w then s.umber.resv else resvAfter s a) ∧
      (readable (s.sramCell a) = none → t.sramCell a = s.sramCell a ∧ t.poisoned a = true ∧ t.umber.resv = s.umber.resv ∧ t.umber.ipend.getLsbD 28 = true))) ∧
  -- DEMAND_WRITEBACK: the oldest scheduled one whose array is ready; the others of its word are void
  Happens .demandWriteback [.mem, .ipend, .log, .resv] (P.MGMT_LOGDROP :: every 0x500 1 256)
    (fun s => s.awake = true ∧ ∃ b, s.mem.wbacks.head? = some b ∧ b.tile = false ∧ s.archState (b.addr.toNat / 65536) = 2 ∧ s.poisoned b.addr = false ∧ (readable (s.sramCell b.addr)).isSome = true)
    (fun s t => ∀ b, s.mem.wbacks.head? = some b →
      t.mem.wbacks = s.mem.wbacks.tail.filter (fun e => decide (e.tile = true) || decide (e.addr ≠ b.addr)) ∧ OneWord b.addr s t ∧ t.poisoned b.addr = s.poisoned b.addr ∧ t.umber.resv = resvAfter s b.addr ∧
      ∀ w, readable (s.sramCell b.addr) = some w → t.sramCell b.addr = checkBits w ++ w)

/-- What MEM.ARCHCTL asks of arch `k`, the tile at 4: 0 on, 1 sleep, 2 off (Table MEM-9). -/
def asks (v : Word) (k : Fin 5) : BitVec 2 := v.extractLsb' (2 * k.val) 2

/-- The state an arch takes as a write asks for another one (R294, R295): 0 OFF, 1 INIT, 2 READY, 3 ENTERING, 4 SLEEP, 5 EXITING. -/
def archAfter (s : State) (v : Word) (k : Fin 5) : BitVec 3 :=
  match (s.archState k.val).toNat, (asks v k).toNat with
  | 2, 0 => 2
  | 2, _ => if s.archQuiet k.val then 3 else 2
  | 4, 0 => 5
  | 4, 2 => 3
  | 0, 0 => 1
  | n, _ => BitVec.ofNat 3 n

/-- A reservation after the contents of an arch are lost or initialised: it is lost if its word lies there (R242, R287). -/
def resvOutside (s : State) (k : Fin 5) : Option (Addr × Dom) := s.umber.resv.filter (fun r => decide (r.1.toNat / 65536 ≠ k.val))

/-- The three rows that are writes of MEM.ARCHCTL, each spelt by a field with its code. -/
def archRows (m : Master) (v : Word) : List (Instr × BitVec 2) := [(.archRequestOn m v, 0), (.archRequestSleep m v, 1), (.archRequestOff m v, 2)]

def arches : Prop :=
  (∀ (m : Master) (v : Word), ∀ r ∈ archRows m v, (∃ k : Fin 5, asks v k = r.2) →
    Accepts r.1 m P.MEM_ARCHCTL v [.mem] [P.MEM_ARCHCTL, P.MEM_ARCHSTAT] (fun _ _ => True)
      (fun _ s t => (∀ k : Fin 5, t.archState k.val = archAfter s v k ∧ t.archWant k.val = asks v k) ∧ t.mem.sram = s.mem.sram ∧ t.mem.tile = s.mem.tile)) ∧
  -- ARCH_TRANSITION_DONE: EXITING ends in READY, ENTERING in SLEEP with the contents kept, or in OFF with contents and poison lost
  (∀ k : Fin 5, Happens (.archTransitionDone k) [] [P.MEM_ARCHSTAT] (fun s => s.awake = true ∧ s.archState k.val = 5 ∧ s.archWant k.val = 0)
    (fun _ t => t.archState k.val = 2)) ∧
  (∀ k : Fin 5, Happens (.archTransitionDone k) [] [P.MEM_ARCHSTAT]
    (fun s => s.awake = true ∧ s.archState k.val = 3 ∧ s.mem.toOff.getLsbD k.val = false ∧ s.archWant k.val = 1) (fun _ t => t.archState k.val = 4)) ∧
  (∀ k : Fin 5, Happens (.archTransitionDone k) [.mem, .resv] [P.MEM_ARCHSTAT]
    (fun s => s.awake = true ∧ s.archState k.val = 3 ∧ s.mem.toOff.getLsbD k.val = true ∧ s.archWant k.val = 2)
    (fun s t => t.archState k.val = 0 ∧ t.umber.resv = resvOutside s k ∧ (∀ a, t.sramCell a = if a.toNat / 65536 = k.val then 0 else s.sramCell a) ∧
      (∀ a, t.tileCell a = if k.val = 4 then 0 else s.tileCell a) ∧ (∀ a, t.poisoned a = (s.poisoned a && decide (a.toNat / 65536 ≠ k.val))))) ∧
  -- ARCH_INIT_DONE: every word 0 with correct check bits, and READY
  (∀ k : Fin 5, Happens (.archInitDone k) [.mem, .resv] [P.MEM_ARCHSTAT] (fun s => s.awake = true ∧ s.archState k.val = 1 ∧ s.archWant k.val = 0)
    (fun s t => t.archState k.val = 2 ∧ t.umber.resv = resvOutside s k ∧ (∀ a, t.sramCell a = if a.toNat / 65536 = k.val then 0 else s.sramCell a) ∧
      (∀ a, t.tileCell a = if k.val = 4 then 0 else s.tileCell a) ∧ (∀ a, t.poisoned a = (s.poisoned a && decide (a.toNat / 65536 ≠ k.val))))) ∧
  -- MEM_INJECT: armed once for INJADDR (R319)
  (∀ (m : Master) (v : Word), v.getLsbD 0 = true → Accepts (.memInject m v) m P.MEM_INJECT v [] [P.MEM_INJECT] (fun _ _ => True)
    (fun _ _ t => bit t P.MEM_INJECT 0 = true ∧ (t.par P.MEM_INJECT).extractLsb' 1 7 = v.extractLsb' 1 7))

/-- The parameters that a step of the NVM write queue may change. -/
def nvmIx : List Nat := [P.MGMT_NVMQSTAT, P.MEM_NVMSTAT, P.MEM_NVMERR, P.MGMT_CNT + 2, P.MGMT_CNT + 3, P.MGMT_LOGDROP] ++ every P.MGMT_NVMQ 1 8

/-- The request at the head of the write queue. -/
def nvmHead (s : State) (f : NvmReq → Prop) : Prop := ∃ r, s.mgmt.nvmQ.head? = some r ∧ f r

/-- Its next word is one of a data partition other than the program slots. -/
def dataWordDue (r : NvmReq) : Prop :=
  r.done.toNat < r.data.length ∧ r.done.toNat + 1 < 4096 ∧ 0x200000 ≤ (r.dest + r.done.setWidth 24).toNat ∧ (r.dest + r.done.setWidth 24).toNat < 0x208000 ∧
    2 < nvmPart r.dest

/-- Its next word is a later one of a program slot. -/
def programWordDue (r : NvmReq) : Prop :=
  r.done.toNat < r.data.length ∧ r.done ≠ 0 ∧ r.done.toNat + 1 < 4096 ∧ (nvmPart r.dest = 1 ∨ nvmPart r.dest = 2) ∧ (r.dest + r.done.setWidth 24).toNat < 0x330000

/-- The write queue of NVM (R307, R316, R548). -/
def nvmWrites : Prop :=
  -- a word of a data partition is written with correct check bits, and verified
  Happens (.nvmWordWrite 0) [.mem, .mgmt, .ipend] nvmIx
    (fun s => nothingAbove 5 s ∧ s.vddRuns = true ∧ nvmHead s (fun r => dataWordDue r ∧ SMap.getD s.mem.defects (r.dest + r.done.setWidth 24).toNat 0 = 0))
    (fun s t => ∀ r, s.mgmt.nvmQ.head? = some r → ∀ w, r.data[r.done.toNat]? = some w →
      SMap.getD t.mem.dnvm ((r.dest + r.done.setWidth 24).toNat - 0x200000) 0 = checkBits w ++ w ∧ t.mem.prog = s.mem.prog ∧ t.mem.sram = s.mem.sram ∧
      (∀ a, a ≠ (r.dest + r.done.setWidth 24).toNat - 0x200000 → SMap.getD t.mem.dnvm a 0 = SMap.getD s.mem.dnvm a 0) ∧
      (r.done.toNat + 1 = r.data.length → t.mgmt.nvmQ = s.mgmt.nvmQ.tail ∧ (t.par P.MGMT_NVMQSTAT).extractLsb' 20 8 = r.ticket ∧
        (t.par P.MGMT_NVMQSTAT).extractLsb' 28 3 = if r.bad then 6 else 0) ∧
      (r.done.toNat + 1 < r.data.length → t.mgmt.nvmQ = { r with done := r.done + 1 } :: s.mgmt.nvmQ.tail)) ∧
  -- a word that reads back wrong after the last attempt: WFAIL and NVMERR, and the request goes on toward result 6
  (∀ stuck : BitVec 43, stuck ≠ 0 → Happens (.nvmWordWrite stuck) [.mem, .mgmt, .ipend, .log] nvmIx
    (fun s => nothingAbove 5 s ∧ s.vddRuns = true ∧ nvmHead s (fun r => dataWordDue r ∧ SMap.getD s.mem.defects (r.dest + r.done.setWidth 24).toNat 0 = 0))
    (fun s t => bit t P.MEM_NVMSTAT 4 = true ∧ ∀ r, s.mgmt.nvmQ.head? = some r → ∀ w, r.data[r.done.toNat]? = some w →
      t.par P.MEM_NVMERR = (r.dest + r.done.setWidth 24).setWidth 36 ∧
      SMap.getD t.mem.dnvm ((r.dest + r.done.setWidth 24).toNat - 0x200000) 0 = (checkBits w ++ w) ^^^ stuck ∧
      (r.done.toNat + 1 = r.data.length → t.mgmt.nvmQ = s.mgmt.nvmQ.tail ∧ (t.par P.MGMT_NVMQSTAT).extractLsb' 28 3 = 6) ∧
      (r.done.toNat + 1 < r.data.length → t.mgmt.nvmQ = { r with done := r.done + 1, bad := true } :: s.mgmt.nvmQ.tail))) ∧
  -- a word of a program slot whose seal is gone is written the same
  Runs (.nvmWordWrite 0)
    (fun s => nothingAbove 5 s ∧ s.vddRuns = true ∧ nvmHead s (fun r => programWordDue r ∧ s.hasSeal (nvmSlot r.dest) = false ∧
      SMap.getD s.mem.defects (r.dest + r.done.setWidth 24).toNat 0 = 0))
    (fun s t => ∀ r, s.mgmt.nvmQ.head? = some r → ∀ w, r.data[r.done.toNat]? = some w →
      SMap.getD t.mem.prog ((r.dest + r.done.setWidth 24).toNat - 0x300000) 0 = checkBits w ++ w ∧ t.mem.dnvm = s.mem.dnvm ∧
      (∀ a, a ≠ (r.dest + r.done.setWidth 24).toNat - 0x300000 → SMap.getD t.mem.prog a 0 = SMap.getD s.mem.prog a 0) ∧
      (r.done.toNat + 1 = r.data.length → t.mgmt.nvmQ = s.mgmt.nvmQ.tail ∧ (t.par P.MGMT_NVMQSTAT).extractLsb' 28 3 = if r.bad then 6 else 0) ∧
      (r.done.toNat + 1 < r.data.length → t.mgmt.nvmQ = { r with done := r.done + 1 } :: s.mgmt.nvmQ.tail)) ∧
  -- NVM_WRITE_ABORT: the request ends with STALL and is logged, for a program slot too
  Runs .nvmWriteAbort (fun s => nothingAbove 5 s ∧ s.vddRuns = true ∧ nvmHead s (fun r => nvmPart r.dest = 1 ∨ nvmPart r.dest = 2))
    (fun s t => t.mgmt.nvmQ = s.mgmt.nvmQ.tail ∧ (t.par P.MGMT_NVMQSTAT).extractLsb' 28 3 = 5) ∧
  Happens .nvmWriteAbort [.mem, .mgmt, .log, .ipend] nvmIx
    (fun s => nothingAbove 5 s ∧ s.vddRuns = true ∧ nvmHead s (fun r => 2 < nvmPart r.dest))
    (fun s t => t.mgmt.nvmQ = s.mgmt.nvmQ.tail ∧ (t.par P.MGMT_NVMQSTAT).extractLsb' 28 3 = 5 ∧ t.mem.sram = s.mem.sram ∧ t.mem.tile = s.mem.tile ∧
      t.mem.poison = s.mem.poison ∧ (bit s P.MGMT_IRQEN 1 = true → t.umber.ipend.getLsbD 22 = true))

end Sys2Proof.Claims
end

