-- ==== Sys2Proof/Certificates/Slice0/MgmtClaims.lean ====
section
/-!
DEFINITION. Sys2Proof/Certificates/Slice0/MgmtClaims.lean: the statements about Sepia's services, watchdog, sensors, events and log (17).
-/

namespace Sys2Proof.Claims

open Sys2Proof.Machine

def mgIx : List Nat := every 0x1E00 1 256

/-- The service requested with a code, not yet worked, while Sepia runs (R544). -/
def asked (code : Nat) (s : State) : Option Service :=
  match s.mgmt.service with
  | some x => if x.code.toNat = code ∧ x.worked = false ∧ s.vddRuns = true then some x else none
  | none => none

/-- The service has done its work, with this status and REPLY1. -/
def replies (code status : Nat) (reply : Word) (s t : State) : Prop :=
  ∃ x, asked code s = some x ∧ t.mgmt.service = some { x with worked := true, status := BitVec.ofNat 8 status, reply1 := reply }

def req (s : State) (i : Nat) : Word := s.par (P.MGMT_SVCREQ + i)

/-- A word of a request's buffer as Sepia reads it for a domain (R322, R545): none where it is refused, poisoned or not held in an awake arch. -/
def bufWord (s : State) (d : Dom) (a : Addr) : Option Word :=
  if s.regionFail { master := .sepia, dom := d, prv := false } spData a .r = none ∧ a.toNat < 0x40000 ∧ s.archState (a.toNat / 65536) = 2 ∧
      s.poisoned (a.extractLsb' 0 18) = false then
    readable (s.sramCell (a.extractLsb' 0 18))
  else none

def buffer (s : State) (d : Dom) (a : Addr) (n : Nat) : List Word := (List.range n).map (fun j => (bufWord s d (a + BitVec.ofNat 24 j)).getD 0)
def bufferGood (s : State) (d : Dom) (a : Addr) (n : Nat) : Prop := ∀ j < n, (bufWord s d (a + BitVec.ofNat 24 j)).isSome = true

/-- The parts and parameters of memory that reading a buffer may change: corrections and their records. -/
def readParts : List Part := [.mem, .bank, .ipend]
def readIx : List Nat := every 0x0500 1 256 ++ every 0x0900 1 256

/-- The partition of an NVM destination (Table SEP-3): 1 program slot A, 2 slot B, 3 certificates, 4 application data. -/
def partition (a : Nat) : Nat :=
  if 0x300000 ≤ a ∧ a < 0x318000 then 1 else if 0x318000 ≤ a ∧ a < 0x330000 then 2 else if 0x200100 ≤ a ∧ a < 0x201000 then 3
  else if 0x206000 ≤ a ∧ a < 0x208000 then 4 else 0

/-- A requester may write `n` words from a destination (R546): in one partition that it may write, and not the slot Umber runs from. -/
def nvmMay (s : State) (d : Dom) (dest n : Nat) : Prop :=
  1 ≤ n ∧ n ≤ 4096 ∧ partition dest ≠ 0 ∧ partition (dest + n - 1) = partition dest ∧ (d = 1 ∨ (partition dest = 4 ∧ bit s P.MGMT_NVMWMASK d.toNat = true)) ∧
    (s.umber.run ≠ .inReset → partition dest ≠ s.mgmt.slot.toNat + 1)

/-- The bits of no cell of this range of NVM are stuck (R307). -/
def soundCells (lo hi : Nat) (s : State) : Prop := ∀ a, lo ≤ a → a < hi → SMap.getD s.mem.defects a 0 = 0

/-- Neither copy of the owner configuration has a stuck bit. -/
def soundConfig (s : State) : Prop := soundCells 0x205000 0x205100 s

/-- The owner configuration after a change (R550): every word as `f` leaves it, SEQ one up, in the other copy. -/
def cfgBecomes (f : Nat → Word → Word) (s t : State) : Prop :=
  (∀ i < 127, 1 ≤ i → t.cfgWords.getD i 0 = f i (s.cfgWords.getD i 0)) ∧ (t.cfgWords.getD 0 0).extractLsb' 16 20 = (s.cfgWords.getD 0 0).extractLsb' 16 20 + 1 ∧
    (t.par P.MGMT_CFGSEQ).extractLsb' 0 20 = (t.cfgWords.getD 0 0).extractLsb' 16 20 ∧ t.mem.prog = s.mem.prog

/-- A log record queued (R559), or counted in LOGDROP with 32 waiting. -/
def logged (type source : Nat) (w2 w3 : Word) (s t : State) : Prop :=
  if s.mgmt.logQ.length < 32 then
    ∃ r, t.mgmt.logQ.getLast? = some r ∧ t.mgmt.logQ = s.mgmt.logQ ++ [r] ∧ r.type.toNat = type ∧ r.source.toNat = source ∧ r.untrusted = bit s P.PIER_STATUS 0 ∧
      r.tick = s.pier.sepiaMirror ∧ r.w2 = w2 ∧ r.w3 = w3
  else t.mgmt.logQ = s.mgmt.logQ

/-- The services of Table SEP-2 (R544-R546, R548, R551, R555, R558, R560). -/
def services : Prop :=
  -- NVMWRITE: queued with a ticket
  Happens .nvmwrite (.mgmt :: readParts) (mgIx ++ readIx ++ [P.MEM_NVMSTAT])
    (fun s => nothingAbove 4 s ∧ ∃ x, asked 1 s = some x ∧ nvmMay s x.requester ((req s 1).extractLsb' 0 24).toNat (req s 2).toNat ∧ (x.host = true → bit s P.LIFE_DBGSTAT 6 = true) ∧
      s.mgmt.nvmQ.length < 8 ∧ bufferGood s x.requester ((req s 3).extractLsb' 0 24) (req s 2).toNat)
    (fun s t => replies 1 0 (s.mgmt.nextTicket.setWidth 36) s t ∧ t.mgmt.nextTicket = s.mgmt.nextTicket + 1 ∧ ∃ x, asked 1 s = some x ∧
      ∃ q, t.mgmt.nvmQ.getLast? = some q ∧ t.mgmt.nvmQ = s.mgmt.nvmQ ++ [q] ∧ q.ticket = s.mgmt.nextTicket ∧ q.dom = x.requester ∧ q.dest = (req s 1).extractLsb' 0 24 ∧
        q.data = buffer s x.requester ((req s 3).extractLsb' 0 24) (req s 2).toNat ∧ q.done = 0 ∧ q.bad = false) ∧
  Happens .nvmwrite [.mgmt] []
    (fun s => nothingAbove 4 s ∧ ∃ x, asked 1 s = some x ∧ (¬ nvmMay s x.requester ((req s 1).extractLsb' 0 24).toNat (req s 2).toNat ∨ (x.host = true ∧ bit s P.LIFE_DBGSTAT 6 = false)))
    (fun s t => replies 1 2 0 s t ∧ t.mgmt.nvmQ = s.mgmt.nvmQ) ∧
  Happens .nvmwrite [.mgmt] []
    (fun s => nothingAbove 4 s ∧ 8 ≤ s.mgmt.nvmQ.length ∧ ∃ x, asked 1 s = some x ∧ x.host = false ∧ nvmMay s x.requester ((req s 1).extractLsb' 0 24).toNat (req s 2).toNat)
    (fun s t => replies 1 5 0 s t ∧ t.mgmt.nvmQ = s.mgmt.nvmQ) ∧
  -- LOGAPPEND: the requester is SOURCE, and REPLY1 the record's index
  Happens .logappend [.mgmt, .log] [] (fun s => nothingAbove 4 s ∧ s.mgmt.logQ.length < 32 ∧ 0x800 ≤ (req s 1).toNat ∧ (req s 1).toNat ≤ 0xFFF ∧
      ∃ x, asked 2 s = some x ∧ bit s P.MGMT_LOGMASK x.requester.toNat = true)
    (fun s t => replies 2 0 (((s.par P.MGMT_LOGHEAD).extractLsb' 0 12 + BitVec.ofNat 12 s.mgmt.logQ.length).setWidth 36) s t ∧
      ∃ x, asked 2 s = some x ∧ logged (req s 1).toNat x.requester.toNat (req s 2) (req s 3) s t) ∧
  Happens .logappend [.mgmt] [] (fun s => nothingAbove 4 s ∧ ∃ x, asked 2 s = some x ∧ ((req s 1).toNat < 0x800 ∨ 0xFFF < (req s 1).toNat ∨ bit s P.MGMT_LOGMASK x.requester.toNat = false))
    (fun s t => replies 2 2 0 s t) ∧
  -- SENSE measures the sensors of a mask
  (∀ r : Readings, Happens (.sense r) [.mgmt, .log, .ipend] mgIx (fun s => nothingAbove 4 s ∧ (asked 3 s).isSome = true)
    (fun s t => replies 3 0 0 s t ∧ ∀ k < 5, t.par (P.MGMT_TEMP + k) = if (req s 1).getLsbD k then readingOf r k else s.par (P.MGMT_TEMP + k))) ∧
  -- PODTEST, refused with status 5 while the radio is in TXWARM or TX, or a pod transaction runs
  (∀ p : Word, Happens (.podtest p) [.mgmt] [P.MGMT_PODR, P.MGMT_CNT + 14]
    (fun s => nothingAbove 4 s ∧ (asked 4 s).isSome = true ∧ ((s.par P.RADIO_STATE).extractLsb' 0 4 ≠ 6 ∧ (s.par P.RADIO_STATE).extractLsb' 0 4 ≠ 7) ∧ bit s P.POD_STATUS 0 = false)
    (fun s t => replies 4 0 p s t ∧ t.par P.MGMT_PODR = p)) ∧
  (∀ p : Word, Happens (.podtest p) [.mgmt] []
    (fun s => nothingAbove 4 s ∧ (asked 4 s).isSome = true ∧ ((s.par P.RADIO_STATE).extractLsb' 0 4 = 6 ∨ (s.par P.RADIO_STATE).extractLsb' 0 4 = 7 ∨ bit s P.POD_STATUS 0 = true))
    (fun s t => replies 4 5 0 s t)) ∧
  -- XTALCHK: REPLY1 is the signed measurement; INVALID where the check cannot be made
  (∀ p : Word, Happens (.xtalchk p) [.mgmt] [P.MGMT_XTAL, P.MGMT_CNT + 15] (fun s => nothingAbove 4 s ∧ (asked 5 s).isSome = true)
    (fun s t => replies 5 0 (if bit s P.PWR_STATUS 3 = true ∧ bit s P.PIER_STATUS 2 = false then p else t.par P.MGMT_XTAL) s t ∧
      (if bit s P.PWR_STATUS 3 = true ∧ bit s P.PIER_STATUS 2 = false then (t.par P.MGMT_XTAL).extractLsb' 0 35 = p.extractLsb' 0 35 ∧ bit t P.MGMT_XTAL 35 = false
       else bit t P.MGMT_XTAL 35 = true))) ∧
  -- CONFIRM: the booted slot is ACTIVE, PENDING, TRIES and FALLBACK clear with PSLOT as it was, and the rollback fuses follow
  Happens .confirm [.mgmt, .log, .mem, .life] (mgIx ++ readIx) (fun s => nothingAbove 4 s ∧ sepiaFree s ∧ soundConfig s ∧ s.umber.run ≠ .inReset ∧ ∃ x, asked 7 s = some x ∧ x.requester = 1)
    (fun s t => replies 7 0 0 s t ∧ cfgBecomes (fun i w => if i = 2 then (w &&& ~~~(0x3B : Word)) ||| s.mgmt.slot.setWidth 36 else w) s t ∧
      t.life.fuses.rollback = (if s.life.fuses.rollback.toNat < (hdrRollback (s.header s.mgmt.slot)).toNat then hdrRollback (s.header s.mgmt.slot) else s.life.fuses.rollback) ∧
      t.life.fuses.copies = s.life.fuses.copies) ∧
  Happens .confirm [.mgmt] [] (fun s => nothingAbove 4 s ∧ ∃ x, asked 7 s = some x ∧ (x.requester ≠ 1 ∨ s.umber.run = .inReset)) (fun s t => replies 7 2 0 s t) ∧
  -- REGIONS replaces words 19-114
  Happens .regions (.mgmt :: .log :: readParts) (mgIx ++ readIx) (fun s => nothingAbove 4 s ∧ sepiaFree s ∧ soundConfig s ∧ ∃ x, asked 8 s = some x ∧ x.requester = 1 ∧ bufferGood s 1 ((req s 1).extractLsb' 0 24) 96)
    (fun s t => replies 8 0 0 s t ∧ cfgBecomes (fun i w => if 19 ≤ i ∧ i < 115 then (buffer s 1 ((req s 1).extractLsb' 0 24) 96).getD (i - 19) 0 else w) s t) ∧
  Happens .regions [.mgmt] [] (fun s => nothingAbove 4 s ∧ ∃ x, asked 8 s = some x ∧ x.requester ≠ 1) (fun s t => replies 8 2 0 s t) ∧
  -- SLOTINFO
  Happens .slotinfo [.mgmt, .log] (mgIx ++ readIx) (fun s => nothingAbove 4 s ∧ (asked 10 s).isSome = true)
    (fun s t => replies 10 0 0 s t ∧ ∀ k : BitVec 1, (∀ i < 3, t.par (P.MGMT_SVCDATA + 4 * k.toNat + i) = (hdr (s.header k) (1 + i)).setWidth 36) ∧
      bit t (P.MGMT_SVCDATA + 4 * k.toNat + 3) 0 = s.isSealed k) ∧
  -- SERVICE_DONE: status and tag, DONE, SEPIA; an unassigned code has status 1
  Happens .serviceDone [.mgmt, .ipend, .host] mgIx (fun s => s.vddRuns = true ∧ ∃ x, s.mgmt.service = some x ∧ (x.worked = true ∨ x.code = 0 ∨ 10 < x.code.toNat))
    (fun s t => t.mgmt.service = none ∧ bit t P.MGMT_SVCSTAT 0 = false ∧ bit t P.MGMT_SVCSTAT 1 = true ∧ (bit s P.MGMT_IRQEN 0 = true → t.umber.ipend.getLsbD 22 = true) ∧
      ∀ x, s.mgmt.service = some x → t.par P.MGMT_SVCREPLY = (x.tag ++ (if x.worked then x.status else 1)).setWidth 36 ∧ t.par (P.MGMT_SVCREPLY + 1) = x.reply1 ∧ t.mgmt.svcLock = s.mgmt.svcLock ∧
        (x.worked = true → x.code = 7 → t.par P.MGMT_RBCNT = s.life.fuses.rollback.setWidth 36) ∧
        (x.host = false → t.host = s.host) ∧ (x.host = true → (t.host.regs[2]).getLsbD 3 = true))

/-- The header of a slot that ARMUPDATE may seal, in TEST (R552, R553). -/
def bodyHash (s : State) (k : BitVec 1) : Prop :=
  ∃ bs, s.bodyBytes k (hdrLength (s.header k)) = some bs ∧ bytesToWords (sha256 bs) = (List.range 8).map (fun i => hdr (s.header k) (4 + i))

def slotArmable (s : State) (k : BitVec 1) : Prop :=
  hdrFormed (s.header k) = true ∧ ((s.par P.MGMT_RBCNT).toNat ≤ (hdrRollback (s.header k)).toNat) ∧ bodyHash s k ∧
    (s.lifeState = 1 ∨ ∃ root, s.imageRoot (s.header k) = some root ∧ sigsOk root (s.header k) = true)

/-- The slot of a request, and of the image Umber runs. -/
def reqSlot (s : State) : BitVec 1 := (req s 1).extractLsb' 0 1
def runsFrom (s : State) (k : BitVec 1) : Prop := s.umber.run ≠ .inReset ∧ s.mgmt.slot = k

/-- A queued request writes into program slot `k`. -/
def slotWritten (s : State) (k : BitVec 1) : Prop := ∃ r ∈ s.mgmt.nvmQ, nvmPart r.dest ≤ 2 ∧ nvmSlot r.dest = k

/-- The key slot of a KEYWRITE, and one that Sepia may write, asked for and not yet begun (R545). -/
def keySlot (s : State) : BitVec 4 := (req s 1).extractLsb' 0 4
def keyAsked (s : State) (x : Service) : Prop :=
  asked 9 s = some x ∧ x.wrap = none ∧ x.requester = 1 ∧ s.lifeState ≠ 3 ∧ (req s 1).toNat < 16 ∧ (s.slotHeader (keySlot s)).getLsbD 29 = false

/-- The cipher unit is free for Sepia: powered, no operation, its FIFOs empty. -/
def cipherFree (s : State) : Prop := s.cipherOn = true ∧ s.crypt.op = none ∧ s.crypt.inFifo = [] ∧ s.crypt.outFifo = []

/-- WRAP of a slot from KEY0-7, of owner 0, its header taken (R498). -/
def wrapping (slot : BitVec 4) (h : Word) (o : CryptOp) : Prop :=
  o.owner = 0 ∧ o.cmd = BitVec.ofNat 20 (14 + 2 ^ 5 * slot.toNat + 2 ^ 9) ∧ o.need = 0 ∧ o.got = [h.extractLsb' 0 32] ∧ o.outPend = []

/-- ARMUPDATE, KEYWRITE and SYS.ROLE (R498, R545, R551, R553). -/
def updates : Prop :=
  -- success: the seal, PENDING, PSLOT and TRIES 0 in one configuration update
  Happens .armupdate [.mgmt, .log, .mem] (mgIx ++ readIx) (fun s => nothingAbove 4 s ∧ sepiaFree s ∧ soundConfig s ∧ (asked 6 s).isSome = true ∧ ¬ runsFrom s (reqSlot s) ∧ slotArmable s (reqSlot s) ∧
      ¬ slotWritten s (reqSlot s))
    (fun s t => replies 6 0 0 s t ∧ t.isSealed (reqSlot s) = true ∧
      cfgBecomes (fun i w => if i = 2 then (w &&& ~~~(0x1E : Word)) ||| 2 ||| ((reqSlot s).setWidth 36 <<< 2)
        else if 3 + 8 * (reqSlot s).toNat ≤ i ∧ i < 11 + 8 * (reqSlot s).toNat then ((s.sealOf (s.header (reqSlot s))).getD (i - 3 - 8 * (reqSlot s).toNat) 0).setWidth 36 else w) s t) ∧
  -- while a request writes into the slot it may be found changed: status 6 with result 5 (R565)
  Runs .armupdate (fun s => nothingAbove 4 s ∧ sepiaFree s ∧ soundConfig s ∧ (asked 6 s).isSome = true ∧ ¬ runsFrom s (reqSlot s) ∧ slotArmable s (reqSlot s) ∧
      slotWritten s (reqSlot s))
    (fun s t => replies 6 0 0 s t ∨ replies 6 6 5 s t) ∧
  -- the booted slot: status 2; a malformed header, a ROLLBACK below RBCNT, a missing owner root: status 6 with the result of Table SEP-8, nothing written
  Happens .armupdate [.mgmt, .log] (mgIx ++ readIx) (fun s => nothingAbove 4 s ∧ (asked 6 s).isSome = true ∧ runsFrom s (reqSlot s)) (fun s t => replies 6 2 6 s t) ∧
  Happens .armupdate [.mgmt, .log] (mgIx ++ readIx) (fun s => nothingAbove 4 s ∧ (asked 6 s).isSome = true ∧ ¬ runsFrom s (reqSlot s) ∧ hdrFormed (s.header (reqSlot s)) = false) (fun s t => replies 6 6 1 s t) ∧
  Happens .armupdate [.mgmt, .log] (mgIx ++ readIx)
    (fun s => nothingAbove 4 s ∧ (asked 6 s).isSome = true ∧ ¬ runsFrom s (reqSlot s) ∧ hdrFormed (s.header (reqSlot s)) = true ∧ (hdrRollback (s.header (reqSlot s))).toNat < (s.par P.MGMT_RBCNT).toNat)
    (fun s t => replies 6 6 2 s t) ∧
  Happens .armupdate [.mgmt, .log] (mgIx ++ readIx)
    (fun s => nothingAbove 4 s ∧ (asked 6 s).isSome = true ∧ ¬ runsFrom s (reqSlot s) ∧ hdrFormed (s.header (reqSlot s)) = true ∧ (s.par P.MGMT_RBCNT).toNat ≤ (hdrRollback (s.header (reqSlot s))).toNat ∧
      s.lifeState ≠ 1 ∧ (hdr (s.header (reqSlot s)) 2).getLsbD 6 = true ∧ s.ownerRoot = false)
    (fun s t => replies 6 6 3 s t) ∧
  -- KEYWRITE of a key in a buffer: Sepia copies it into KEY0-7 and starts WRAP with the header, GEN one up
  Happens .keywrite [.mgmt, .mem, .bank, .crypt, .ipend, .log] (P.MGMT_LOGDROP :: readIx ++ every 0x1C00 1 256)
    (fun s => nothingAbove 4 s ∧ sepiaFree s ∧ cipherFree s ∧ req s 3 ≠ 0 ∧ ∃ x, keyAsked s x ∧ bufferGood s 1 ((req s 3).extractLsb' 0 24) 8)
    (fun s t => ∃ x h o, asked 9 s = some x ∧ t.mgmt.service = some { x with wrap := some h } ∧ h.extractLsb' 0 25 = (req s 2).extractLsb' 0 25 ∧
      h.extractLsb' 25 4 = (s.slotHeader (keySlot s)).extractLsb' 25 4 + 1 ∧ h.getLsbD 29 = (req s 2).getLsbD 29 ∧ t.crypt.op = some o ∧ wrapping (keySlot s) h o ∧
      (∀ i : Fin 8, o.key[i] = ((buffer s 1 ((req s 3).extractLsb' 0 24) 8).getD i.val 0).extractLsb' 0 32) ∧ (t.par P.CRYPT_KEYDOM).extractLsb' 0 5 = 0x10 ∧
      (∀ a : BitVec 15, t.dnvmCell a = s.dnvmCell a)) ∧
  -- and when WRAP has ended the header and the wrapped body stand in the slot
  Runs .keywrite
    (fun s => nothingAbove 4 s ∧ soundCells 0x200000 0x200100 s ∧ s.crypt.inFifo = [] ∧ s.crypt.outFifo = [] ∧
      ∃ x h o, asked 9 s = some x ∧ x.wrap = some h ∧ s.crypt.op = some o ∧ wrapping (keySlot s) h o)
    (fun s t => ∀ x h o, asked 9 s = some x → x.wrap = some h → s.crypt.op = some o →
      let key := wordsToBytes o.key.toList
      let body := s.wrapBody (keySlot s) (h.extractLsb' 0 32) (if h.extractLsb' 0 4 = 1 then key.take 16 ++ List.replicate 16 0 else key)
      replies 9 0 0 s t ∧ t.crypt.op = none ∧ t.crypt.outFifo = [] ∧ t.readDnvm (16 * (keySlot s).toNat) = some h ∧
        (∀ i < 15, t.readDnvm (16 * (keySlot s).toNat + 1 + i) = some ((body.getD i 0).setWidth 36)) ∧
        (∀ a : BitVec 15, (a.toNat < 16 * (keySlot s).toNat ∨ 16 * (keySlot s).toNat + 16 ≤ a.toNat) → t.dnvmCell a = s.dnvmCell a)) ∧
  -- a cipher unit that runs, holds output or has no power is a busy resource
  Happens .keywrite [.mgmt, .log] (P.MGMT_LOGDROP :: readIx)
    (fun s => nothingAbove 4 s ∧ sepiaFree s ∧ (s.crypt.op ≠ none ∨ s.crypt.outFifo ≠ [] ∨ s.cipherOn = false) ∧ ∃ x, keyAsked s x)
    (fun s t => replies 9 5 0 s t) ∧
  Happens .keywrite [.mgmt, .log] (P.MGMT_LOGDROP :: readIx) (fun s => nothingAbove 4 s ∧ ∃ x, asked 9 s = some x ∧ x.wrap = none ∧
      (x.requester ≠ 1 ∨ s.lifeState = 3 ∨ 16 ≤ (req s 1).toNat ∨ (sepiaFree s ∧ (s.slotHeader (keySlot s)).getLsbD 29 = true)))
    (fun s t => replies 9 2 0 s t) ∧
  -- a region of domain 0 that refuses Sepia the slot's header stops it with status 3, and the refusal is recorded with master 4 (R320, R323)
  Happens .keywrite [.mgmt, .log] (P.MGMT_LOGDROP :: readIx)
    (fun s => nothingAbove 4 s ∧ ¬ sepiaFree s ∧ (∃ x, asked 9 s = some x ∧ x.wrap = none ∧ x.requester = 1 ∧ s.lifeState ≠ 3 ∧ (req s 1).toNat < 16) ∧
      s.regionFail { master := .sepia, dom := 0, prv := true } spData (0x200000 + 16 * (keySlot s).setWidth 24) .r ≠ none ∧ bit s P.DOM_VIOL 35 = false)
    (fun s t => replies 9 3 0 s t ∧ bit t P.DOM_VIOL 35 = true ∧ (t.par P.DOM_VIOL).extractLsb' 0 24 = 0x200000 + 16 * (keySlot s).setWidth 24 ∧
      (t.par P.DOM_VIOL).extractLsb' 24 7 = 0x40) ∧
  -- ROLE_WRITE updates the owner configuration before it is acknowledged
  (∀ (m : Master) (v : Word), Accepts (.roleWrite m v) m P.SYS_ROLE v [.mem, .mgmt, .log] ([P.SYS_ROLE, P.MGMT_CFGSEQ, P.MGMT_LOGDROP] ++ readIx)
    (fun _ s => sepiaFree s ∧ soundConfig s)
    (fun _ s t => t.par P.SYS_ROLE = (v.extractLsb' 0 2).setWidth 36 ∧ cfgBecomes (fun i w => if i = 1 then (v.extractLsb' 0 2).setWidth 36 else w) s t))

/-- WDCFG.EN, and the ticks of a stage (R556). -/
def wdOn (s : State) : Bool := bit s P.MGMT_WDCFG 0
def wdTime (s : State) (stage : Nat) : Nat :=
  let f := fun lo n => ((s.par P.MGMT_WDCFG).extractLsb' lo n).toNat
  if stage = 0 then 32 * (16 * f 1 7) else if stage = 1 then 32 * f 8 8 else 32 * f 16 8

/-- An NMI condition (R180, R557). -/
def nmiRaised (s t : State) : Prop := if s.umber.sr.getLsbD 26 then t.umber.escalate = true ∧ t.umber.nmiPend = s.umber.nmiPend else t.umber.nmiPend = true ∧ t.umber.escalate = s.umber.escalate

/-- Sepia has reset Umber with a code (R640). -/
def resetDone (code : Nat) (s t : State) : Prop :=
  (t.par P.MGMT_RSTCAUSE).toNat = code ∧ t.pwr.mode = .active ∧ t.umber.locks = [] ∧ t.umber.bitRam = 0 ∧ t.umber.resv = none ∧ t.umber.sb = [] ∧ t.umber.sr = 0x000110000 ∧
    (∀ k < 256, t.par (P.DMA_CTL + k) = resetOf (P.DMA_CTL + k)) ∧ t.pier = s.pier

/-- The watchdog and the sensors, strike events and the log, in Sepia's order (R140, R542, R543, R556-R559). -/
def supervision : Prop :=
  -- WDKICK: the key returns to stage 0, any other value moves to stage 2 at once
  (∀ (m : Master) (v : Word), v = 0xC3A5 → Accepts (.wdkick m v) m P.MGMT_WDKICK v [.mgmt] [] (fun _ s => wdOn s = true ∧ s.mgmt.wdStage ≠ 3)
    (fun _ s t => t.mgmt = { s.mgmt with wdStage := 0, wdLeft := wdTime s 0 })) ∧
  (∀ (m : Master) (v : Word), v ≠ 0xC3A5 → Accepts (.wdkick m v) m P.MGMT_WDKICK v [.mgmt, .umber] [P.MGMT_CNT + 10] (fun _ s => wdOn s = true ∧ s.mgmt.wdStage ≠ 2)
    (fun _ s t => t.mgmt = { s.mgmt with wdStage := 2, wdLeft := wdTime s 2 } ∧ nmiRaised s t)) ∧
  (∀ (m : Master) (v : Word), Accepts (.wdkick m v) m P.MGMT_WDKICK v [] [] (fun _ s => wdOn s = false ∨ (s.mgmt.wdStage = 3 ∧ v = 0xC3A5)) (fun _ _ _ => True)) ∧
  -- the stages
  Happens .wdtStage1 [.mgmt, .ipend] [P.MGMT_CNT + 9] (fun s => s.awake = true ∧ wdOn s = true ∧ s.mgmt.wdStage = 0 ∧ s.mgmt.wdLeft = 0)
    (fun s t => t.mgmt = { s.mgmt with wdStage := 1, wdLeft := wdTime s 1 } ∧ t.umber.ipend.getLsbD 23 = true) ∧
  Happens .wdtStage2 [.mgmt, .umber] [P.MGMT_CNT + 10] (fun s => s.awake = true ∧ wdOn s = true ∧ s.mgmt.wdStage = 1 ∧ s.mgmt.wdLeft = 0)
    (fun s t => t.mgmt = { s.mgmt with wdStage := 2, wdLeft := wdTime s 2 } ∧ nmiRaised s t) ∧
  Runs .wdtStage3 (fun s => s.awake = true ∧ s.fuseBusy = false ∧ bit s P.CRYPT_KREFUSE 1 = false ∧ wdOn s = true ∧ s.mgmt.wdStage = 2 ∧ s.mgmt.wdLeft = 0) (fun s t => resetDone 16 s t) ∧
  Runs .nmiEscalation (fun s => s.awake = true ∧ s.fuseBusy = false ∧ bit s P.CRYPT_KREFUSE 1 = false ∧ s.umber.escalate = true) (fun s t => resetDone 17 s t ∧ t.umber.escalate = false) ∧
  -- SENSOR_SAMPLE: each result in its parameter; one beyond an enabled limit sets its alarm bit
  (∀ r : Readings, Happens (.sensorSample r) [.mgmt, .log, .ipend] mgIx (fun s => nothingAbove 6 s ∧ s.awake = true ∧ (s.par P.MGMT_SENSCFG).extractLsb' 6 12 ≠ 0)
    (fun s t => ∀ k < 5, (t.par (P.MGMT_TEMP + k) = if bit s P.MGMT_SENSCFG k then readingOf r k else s.par (P.MGMT_TEMP + k)) ∧
      ∀ j < 8, bit s P.MGMT_SENSCFG k = true → bit s (P.MGMT_SENSTHR + j) 4 = true → ((s.par (P.MGMT_SENSTHR + j)).extractLsb' 0 3).toNat = k →
        (let lim := ((s.par (P.MGMT_SENSTHR + j)).extractLsb' 8 28).toInt
         bit t P.MGMT_SENSSTAT j = (bit s P.MGMT_SENSSTAT j || (if bit s (P.MGMT_SENSTHR + j) 3 then decide (lim < (readingOf r k).toInt) else decide ((readingOf r k).toInt < lim)))))) ∧
  -- EVFIFO_READ pops one entry
  (∀ m : Master, Reads (.evfifoRead m) m P.MGMT_EVFIFO [.mgmt] [] (fun _ _ => True) (fun s t => t.mgmt = { s.mgmt with evFifo := s.mgmt.evFifo.tail })) ∧
  -- LOG_WRITE: the oldest record in the slot of LOGHEAD, which moves on
  Happens .logWrite [.mgmt, .log, .mem] mgIx (fun s => nothingAbove 3 s ∧ soundCells 0x201000 0x205000 s ∧ s.vddRuns = true ∧ s.pier.evUncopied = 0 ∧ s.mgmt.logQ ≠ [])
    (fun s t => let n := (s.par P.MGMT_LOGHEAD).toNat % 4096
      t.mgmt.logQ = s.mgmt.logQ.tail ∧ (t.par P.MGMT_LOGHEAD).toNat = (n + 1) % 4096 ∧ t.par P.MGMT_LOGCOUNT = s.par P.MGMT_LOGCOUNT + 1 ∧
      (∀ r, s.mgmt.logQ.head? = some r → t.readDnvm (0x1000 + 4 * n) = some (r.tick.extractLsb' 0 36) ∧
        (∃ w, t.readDnvm (0x1000 + 4 * n + 1) = some w ∧ w.extractLsb' 0 12 = r.tick.extractLsb' 36 12 ∧ w.extractLsb' 12 12 = r.type ∧ w.extractLsb' 24 11 = r.source ∧
          w.getLsbD 35 = r.untrusted) ∧
        t.readDnvm (0x1000 + 4 * n + 2) = some r.w2 ∧ t.readDnvm (0x1000 + 4 * n + 3) = some r.w3) ∧
      (∀ a : BitVec 15, (a.toNat < 0x1000 + 4 * n ∨ 0x1000 + 4 * n + 4 ≤ a.toNat) → t.dnvmCell a = s.dnvmCell a) ∧ t.mem.prog = s.mem.prog ∧ t.mem.sram = s.mem.sram) ∧
  -- Pier event records not yet copied are queued first, oldest first
  Happens .logWrite [.pier, .mgmt, .log, .mem] mgIx (fun s => nothingAbove 3 s ∧ soundCells 0x201000 0x205000 s ∧ s.vddRuns = true ∧ s.pier.evUncopied = 1 ∧ 1 ≤ s.mgmt.logQ.length ∧ s.mgmt.logQ.length < 32)
    (fun s t => t.pier = { s.pier with evUncopied := 0 } ∧ let e : Nat := ((s.par P.PIER_EVIDX).extractLsb' 0 3 - 1).toNat
      ∃ r, t.mgmt.logQ.getLast? = some r ∧ t.mgmt.logQ = s.mgmt.logQ.tail ++ [r] ∧ r.type = 5 ∧ r.source = 0x10 ∧ r.w2 = s.par (P.PIER_EV + 2 * e) ∧ r.w3 = s.par (P.PIER_EV + 2 * e + 1)) ∧
  -- work that ranks higher is done first (Table SEP-1): an escalation that waits resets Umber before a service, a log record or a queued word of NVM is dealt with
  (∀ c ∈ [Instr.slotinfo, .logappend, .logWrite, .nvmWordWrite 0], Runs c (fun s => s.awake = true ∧ s.fuseBusy = false ∧ bit s P.CRYPT_KREFUSE 1 = false ∧ wdOn s = false ∧ s.rev = none ∧
      s.umber.escalate = true)
    (fun _ t => t.umber.escalate = false ∧ (t.par P.MGMT_RSTCAUSE).toNat = 17)) ∧
  -- and a log record that waits is written before a service
  (∀ p : Word, Runs (.podtest p)
    (fun s => nothingAbove 3 s ∧ soundCells 0x201000 0x205000 s ∧ (asked 4 s).isSome = true ∧ s.pier.evUncopied = 0 ∧ s.mgmt.logQ.length = 1)
    (fun s t => t.mgmt.logQ = [] ∧ t.par P.MGMT_LOGCOUNT = s.par P.MGMT_LOGCOUNT + 1))

end Sys2Proof.Claims
end

