-- ==== Sys2Proof/Certificates/Slice0/PierClaims.lean ====
section
/-!
DEFINITION. Sys2Proof/Certificates/Slice0/PierClaims.lean: the statements about the Pier (04).
-/

namespace Sys2Proof.Claims

open Sys2Proof.Machine

/-- The shadow of a master that has one. -/
def shadowOf (m : Master) (s : State) : Shadow := if m = .sepia then s.pier.sepiaShadow else s.pier.umberShadow

/-- Reads of PIER.TICK (R123): TICK_LO freezes the shadow of Umber or Sepia at the mirror value, TICK_HI releases it; DMA and the host have no shadow. -/
def tickReads : Prop :=
  (∀ m : Master, Reads (.pierTickLoRead m) m P.PIER_TICK_LO [.pier] [] (fun _ _ => True)
    (fun s t => (m = .umber → t.pier = { s.pier with umberShadow := { frozen := true, value := s.pier.coreMirror, strobes := 0, stale := false } }) ∧
      (m = .sepia → t.pier = { s.pier with sepiaShadow := { frozen := true, value := s.pier.sepiaMirror, strobes := 0, stale := false } }) ∧
      (m.isDma = true → t.pier = s.pier))) ∧
  (∀ m : Master, Reads (.pierTickHiRead m) m P.PIER_TICK_HI [.pier] [] (fun _ _ => True)
    (fun s t => (m.isDma = true → t.pier = s.pier) ∧ (m = .umber ∨ m = .sepia → (shadowOf m t).frozen = false ∧ (shadowOf m t).stale = false) ∧
      t.pier.tick = s.pier.tick ∧ (m = .umber → t.pier.sepiaShadow = s.pier.sepiaShadow) ∧ (m = .sepia → t.pier.umberShadow = s.pier.umberShadow))) ∧
  -- after two strobes a frozen shadow releases itself, and the next TICK_HI read shows STALE
  (∀ m : Master, Happens (.shadowRelease m) [.pier] [] (fun s => (m = .umber ∨ m = .sepia) ∧ (shadowOf m s).frozen = true ∧ 2 ≤ (shadowOf m s).strobes.toNat)
    (fun s t => (shadowOf m t).frozen = false ∧ (shadowOf m t).stale = true ∧ t.pier.tick = s.pier.tick))

/-- PIER.TICK with a word written to TICK_HI (`true`) or TICK_LO (R126). -/
def tickWritten (t : Tick) (w : Bool × Word) : Tick := if w.1 then w.2.extractLsb' 0 12 ++ t.extractLsb' 0 36 else t.extractLsb' 36 12 ++ w.2

/-- The next value of PIER.TICK at a crystal edge without a correction: a PIER.SEC write that waits, with the TICK writes issued behind it (R51, R120, R125, R126). -/
def nextTick (s : State) : Tick :=
  s.pier.tickPend.foldl tickWritten <|
    match s.pier.secPend with
    | some v => v ++ (0 : BitVec 15)
    | none => if bit s P.PIER_CTL 0 then s.pier.tick else s.pier.tick + 1

/-- The trim correction of the next edge (R127): |T| is added at the last edge of each slot of 1,024, and a sum of 1,024 or more corrects by one tick. -/
def trimDue (s : State) : Bool :=
  decide (s.pier.winNext.toNat % 1024 = 1023) && decide (1024 ≤ s.pier.trimAcc.toNat + ((s.par P.PIER_TRIM).extractLsb' 20 10).toInt.natAbs)

/-- The next crystal edge is no window boundary and makes no correction. -/
def plainEdge (s : State) : Prop := s.crystalRuns = true ∧ trimDue s = false ∧ s.pier.winNext ≠ 0

/-- The threshold of Table PIE-3 under the settings `c`, in millivolts: above VBK by `cmp` in compare mode (bit 0 = 0), above VSW = 1.70 V + 50 mV × code by `thr` in
threshold mode. -/
def level (c : BitVec 5) (sup : Supplies) (cmp thr : Int) : Int :=
  if c.getLsbD 0 then 1700 + 50 * (c.extractLsb' 1 4).toNat + thr else sup.vbk.toNat + cmp

/-- VDD lies above the release point, the highest of the four thresholds, by more than its tolerance of 15 mV. -/
def wellAbove (c : BitVec 5) (sup : Supplies) : Prop := level c sup 110 150 + 15 < sup.vdd.toNat

/-- The Pier runs from VDD and lockout is released. -/
def onVdd (s : State) : Prop := bit s P.PIER_STATUS 3 = false ∧ bit s P.PIER_STATUS 4 = false

/-- Writes of the Pier's registers (R125, R126, R135, R142). -/
def pierWrites : Prop :=
  (∀ (m : Master) (v : Word), Accepts (.pierSecWrite m v) m P.PIER_SEC v [.pier] [] (fun _ _ => True)
    (fun _ s t => t.pier = { s.pier with secPend := some (v.extractLsb' 0 33), tickPend := [] })) ∧
  (∀ (m : Master) (v : Word), v.getLsbD 0 = true → Accepts (.pierHaltSet m v) m P.PIER_CTL v [] [P.PIER_CTL] (fun _ _ => True)
    (fun _ _ t => bit t P.PIER_CTL 0 = true)) ∧
  (∀ (m : Master) (v : Word), v.getLsbD 0 = false → Accepts (.pierHaltClear m v) m P.PIER_CTL v [] [P.PIER_CTL] (fun _ _ => True)
    (fun _ _ t => bit t P.PIER_CTL 0 = false)) ∧
  (∀ (m : Master) (v : Word), Accepts (.pierTickWrite m false v) m P.PIER_TICK_LO v [.pier] [] (fun _ s => s.pier.secPend = none)
    (fun _ s t => bit s P.PIER_CTL 0 = true ∧ t.pier = { s.pier with tick := s.pier.tick.extractLsb' 36 12 ++ v })) ∧
  (∀ (m : Master) (v : Word), Accepts (.pierTickWrite m true v) m P.PIER_TICK_HI v [.pier] [] (fun _ s => s.pier.secPend = none)
    (fun _ s t => bit s P.PIER_CTL 0 = true ∧ t.pier = { s.pier with tick := v.extractLsb' 0 12 ++ s.pier.tick.extractLsb' 0 36 })) ∧
  -- behind a PIER.SEC that waits it comes after it (R51)
  (∀ (m : Master) (hi : Bool) (v : Word), Accepts (.pierTickWrite m hi v) m (if hi then P.PIER_TICK_HI else P.PIER_TICK_LO) v [.pier] [] (fun _ s => s.pier.secPend ≠ none)
    (fun _ s t => bit s P.PIER_CTL 0 = true ∧ t.pier = { s.pier with tickPend := s.pier.tickPend ++ [(hi, v)] })) ∧
  (∀ (m : Master) (v : Word), v.getLsbD 0 = true → Accepts (.pwronAck m v) m P.PIER_PWRSTAT v [.pier] [] (fun _ _ => True)
    (fun _ s t => t.pier = { s.pier with ackPend := true })) ∧
  -- SWCFG_WRITE: the parameter takes the value; its settings come into force at the next crystal edge, and until then the comparators go by the old ones
  (∀ (m : Master) (v : Word) (sup : Supplies), Accepts (.swcfgWrite m v sup.vdd sup.vbk sup.band) m P.PIER_SWCFG v [.pier] [P.PIER_SWCFG, P.PIER_STATUS]
    (fun _ s => s.crystalRuns = false ∧ onVdd s ∧ wellAbove s.pier.swcfg sup)
    (fun _ s t => (∀ k < 36, bit t P.PIER_SWCFG k = if k < 5 then v.getLsbD k else bit s P.PIER_SWCFG k) ∧ t.pier.swcfg = s.pier.swcfg)) ∧
  (∀ (m : Master) (v : Word) (sup : Supplies), m = .umber ∨ m = .host → Takes (.swcfgWrite m v sup.vdd sup.vbk sup.band) m P.PIER_SWCFG v
    (fun _ s => plainEdge s ∧ onVdd s ∧ wellAbove s.pier.swcfg sup ∧ wellAbove (v.extractLsb' 0 5) sup)
    (fun _ s t => (∀ k < 36, bit t P.PIER_SWCFG k = if k < 5 then v.getLsbD k else bit s P.PIER_SWCFG k) ∧ t.pier.swcfg = v.extractLsb' 0 5 ∧ t.pier.tick = nextTick s)) ∧
  -- while lockout is in force every write of the PIER shell is refused, and the Pier keeps its value (R137)
  (∀ (acc : Accessor) (i : BitVec 13) (v : Word) (s : State), shellOf i.toNat = .pier → populated i.toNat = true → s.locked = true →
    s.writeRefusal acc i.toNat v = 4)

/-- What every crystal edge does beside the count (R122, R127, R142): the mirrors follow, a pending SEC write and acknowledgement apply, the window advances. -/
structure EdgeLeaves (s t : State) : Prop where
  mirrors : t.pier.coreMirror = t.pier.tick ∧ t.pier.sepiaMirror = t.pier.tick
  window : t.pier.winNext = s.pier.winNext + 1 ∧ t.par P.PIER_WINCNT = s.pier.winNext.setWidth 36
  pending : t.pier.secPend = none ∧ t.pier.tickPend = [] ∧ t.pier.ackPend = false
  memory : t.mem = s.mem ∧ t.masks = s.masks ∧ t.pwr = s.pwr ∧ t.life = s.life ∧ t.host = s.host ∧ t.crypt = s.crypt ∧ t.gpio = s.gpio

/-- Sepia holds no grant of a time-bound certificate, or does not run: its check of the windows finds nothing (R530). -/
def noneBound (s : State) : Prop := s.vddRuns = true → ∀ (i : Fin 8) (g : CertGrant), s.life.grants[i] = some g → g.timeBound = false

/-- The supply stays as it is under the settings that come into force at the next edge, and no grant is time-bound. -/
def steady (s : State) : Prop := onVdd s ∧ wellAbove ((s.par P.PIER_SWCFG).extractLsb' 0 5) s.pier.sup ∧ noneBound s

def pierEdges : Prop :=
  -- PIER_TICK_EDGE
  Runs .pierTickEdge (fun s => plainEdge s ∧ steady s)
    (fun s t => t.pier.tick = nextTick s ∧ t.pier.sup = s.pier.sup ∧ t.pier.swcfg = (s.par P.PIER_SWCFG).extractLsb' 0 5 ∧
      bit t P.PIER_STATUS 5 = bit s P.PIER_STATUS 5 ∧ EdgeLeaves s t) ∧
  -- while lockout is in force the edge counts the ticks that VDD stays above the release point; one below it starts the count again (R137)
  Runs .pierTickEdge
    (fun s => plainEdge s ∧ bit s P.PIER_STATUS 3 = true ∧ bit s P.PIER_STATUS 4 = false ∧ s.pier.above.toNat < 65 ∧
      wellAbove ((s.par P.PIER_SWCFG).extractLsb' 0 5) s.pier.sup)
    (fun s t => t.pier.above = s.pier.above + 1 ∧ bit t P.PIER_STATUS 3 = true ∧ t.pier.tick = nextTick s) ∧
  Runs .pierTickEdge
    (fun s => plainEdge s ∧ bit s P.PIER_STATUS 3 = true ∧ 1470 < s.pier.sup.vbk.toNat ∧
      s.pier.sup.vdd.toNat + 15 < level ((s.par P.PIER_SWCFG).extractLsb' 0 5) s.pier.sup 110 150)
    (fun s t => t.pier.above = 0 ∧ bit t P.PIER_STATUS 3 = true) ∧
  -- TRIM_WINDOW_BOUNDARY: the trim written takes effect and the accumulator starts from 0
  Runs .trimWindowBoundary (fun s => s.crystalRuns = true ∧ s.pier.winNext = 0 ∧ steady s)
    (fun s t => t.pier.tick = nextTick s ∧ t.pier.trimAcc = 0 ∧ (t.par P.PIER_TRIM).extractLsb' 20 10 = (s.par P.PIER_TRIM).extractLsb' 0 10 ∧ EdgeLeaves s t) ∧
  -- TRIM_CORRECTION: one tick more, or the tick swallowed
  Runs .trimCorrection (fun s => s.crystalRuns = true ∧ trimDue s = true ∧ s.pier.winNext ≠ 0 ∧ s.pier.secPend = none ∧ s.pier.tickPend = [] ∧ bit s P.PIER_CTL 0 = false ∧
    s.pier.trimAcc.toNat < 1024 ∧ steady s)
    (fun s t => t.pier.tick = (if ((s.par P.PIER_TRIM).extractLsb' 20 10).msb then s.pier.tick else s.pier.tick + 2) ∧
      t.pier.trimAcc.toNat + 1024 = s.pier.trimAcc.toNat + ((s.par P.PIER_TRIM).extractLsb' 20 10).toInt.natAbs ∧ EdgeLeaves s t) ∧
  -- ALARM_MATCH: every unmasked field of the alarm equals the new tick: ALMnF, source ALMn, PWRON with its cause where PWRCTL selects it
  (∀ n : Fin 2, Runs (.alarmMatch n)
    (fun s => plainEdge s ∧ steady s ∧ s.pier.secPend = none ∧ s.pier.tickPend = [] ∧ bit s P.PIER_CTL 0 = false ∧ s.pier.ackPend = false ∧
      (s.pier.alarms[n]).en = true ∧ (s.pier.alarms[n]).mask = 0 ∧ (s.pier.alarms[n]).value = s.pier.tick + 1)
    (fun s t => t.pier.tick = s.pier.tick + 1 ∧ bit t P.PIER_STATUS (7 + n.val) = true ∧ t.umber.ipend.getLsbD (8 + n.val) = true ∧
      (bit s P.PIER_PWRCTL (n.val + 1) = true → bit t P.PIER_PWRSTAT 0 = true ∧ bit t P.PIER_PWRSTAT (n.val + 1) = true) ∧ EdgeLeaves s t))

/-- A Pier event record of a type, stamped with PIER.TICK, at the slot of EVIDX, which advances (R140). -/
def recorded (type : Nat) (s t : State) : Prop :=
  let k := ((s.par P.PIER_EVIDX).extractLsb' 0 3).toNat
  t.par (P.PIER_EV + 2 * k) = s.pier.tick.extractLsb' 0 36 ∧
    t.par (P.PIER_EV + 2 * k + 1) = (s.pier.tick.extractLsb' 36 12).setWidth 36 + BitVec.ofNat 36 (type * 2 ^ 12) ∧
    (t.par P.PIER_EVIDX).extractLsb' 0 3 = (s.par P.PIER_EVIDX).extractLsb' 0 3 + 1

/-- The parameters that a Pier event may change. -/
def pierIx : List Nat := [P.PIER_STATUS, P.PIER_EVIDX, P.PIER_OSFCNT, P.PIER_LOCKCNT, P.PIER_PWRSTAT] ++ every P.PIER_EV 1 16

def pierEvents : Prop :=
  Happens .oscFail [.pier] pierIx (fun s => s.pwr.pierOn = true ∧ bit s P.PIER_STATUS 2 = false ∧ noneBound s)
    (fun s t => bit t P.PIER_STATUS 2 = true ∧ bit t P.PIER_STATUS 0 = true ∧ recorded 5 s t ∧ t.crystalRuns = false) ∧
  Happens .oscReturn [.pier] pierIx (fun s => s.pwr.pierOn = true ∧ bit s P.PIER_STATUS 2 = true ∧ noneBound s)
    (fun s t => bit t P.PIER_STATUS 2 = false ∧ bit t P.PIER_STATUS 0 = true ∧ recorded 6 s t ∧ t.crystalRuns = true ∧
      (bit s P.PIER_STATUS 3 = true → wellAbove s.pier.swcfg s.pier.sup → s.pier.above.toNat < 66 → s.pier.above.toNat ≤ t.pier.above.toNat)) ∧
  -- OSF set by a failure ends what a time-bound certificate grants at once (R530, R538)
  Runs .oscFail (fun s => s.pwr.pierOn = true ∧ s.vddRuns = true ∧ bit s P.PIER_STATUS 2 = false)
    (fun s t => ∀ (i : Fin 8) (g : CertGrant), s.life.grants[i] = some g → t.life.grants[i] = if g.timeBound then none else some g) ∧
  -- lockout trips as VDD falls below the trip point, 60 mV above VBK or 100 mV above VSW, before the supply moves 40 mV below VBK or at VSW (R136)
  Happens .lockoutTrip [.pier] (P.PIER_CTL :: pierIx)
    (fun s => s.pwr.pierOn = true ∧ onVdd s)
    (fun s t => bit t P.PIER_STATUS 3 = true ∧ bit t P.PIER_STATUS 4 = false ∧ level s.pier.swcfg s.pier.sup (-40) 0 ≤ t.pier.sup.vdd.toNat + 15 ∧ t.pier.sup.vdd.toNat ≤ level s.pier.swcfg s.pier.sup 60 100 + 15 ∧ t.pier.sup.vbk = s.pier.sup.vbk ∧ bit t P.PIER_CTL 0 = false ∧ (bit s P.PIER_CTL 0 = false → recorded 3 s t) ∧
      (bit s P.PIER_CTL 0 = true → bit t P.PIER_STATUS 9 = true) ∧ t.locked = true ∧ t.pier.above = 0) ∧
  Runs .lockoutTrip (fun s => s.pwr.pierOn = true ∧ bit s P.PIER_STATUS 3 = false)
    (fun s t => bit t P.PIER_STATUS 3 = true ∧ t.pier.sup.vbk = s.pier.sup.vbk ∧ level s.pier.swcfg s.pier.sup (-40) 0 ≤ t.pier.sup.vdd.toNat + 15 ∧
      t.pier.sup.vdd.toNat ≤ level s.pier.swcfg s.pier.sup 60 100 + 15) ∧
  -- between the trip point and the falling threshold lockout trips and the supply stays where it is
  (∀ sup : Supplies, Happens (.supplyToVbk sup) [.pier] (P.PIER_CTL :: pierIx)
    (fun s => s.pwr.pierOn = true ∧ onVdd s ∧ level s.pier.swcfg sup (-40) 0 + 15 < sup.vdd.toNat ∧ sup.vdd.toNat + 15 < level s.pier.swcfg sup 60 100)
    (fun _ t => bit t P.PIER_STATUS 3 = true ∧ bit t P.PIER_STATUS 4 = false ∧ t.pier.sup = sup)) ∧
  -- it releases at the 66th tick above the release point; under OSCFAIL the command stands for the end of that time
  Happens .lockoutRelease [.pier, .host] pierIx
    (fun s => s.pwr.pierOn = true ∧ bit s P.PIER_STATUS 2 = true ∧ bit s P.PIER_STATUS 3 = true ∧ bit s P.PIER_STATUS 4 = false ∧ wellAbove s.pier.swcfg s.pier.sup)
    (fun s t => bit t P.PIER_STATUS 3 = false ∧ recorded 4 s t ∧ t.pier.wasOnVbk = false ∧
      (s.pier.wasOnVbk = true → bit s P.PIER_PWRCTL 3 = true → bit t P.PIER_PWRSTAT 0 = true ∧ bit t P.PIER_PWRSTAT 3 = true) ∧
      (s.vddRuns = true ∨ s.pwr.mode = .retain → (t.hreg hIRQ).getLsbD 5 = true)) ∧
  Runs .lockoutRelease
    (fun s => plainEdge s ∧ bit s P.PIER_STATUS 3 = true ∧ bit s P.PIER_STATUS 4 = false ∧ 65 ≤ s.pier.above.toNat ∧ wellAbove s.pier.swcfg s.pier.sup ∧
      wellAbove ((s.par P.PIER_SWCFG).extractLsb' 0 5) s.pier.sup)
    (fun s t => bit t P.PIER_STATUS 3 = false ∧ t.pier.tick = nextTick s ∧ t.pier.wasOnVbk = false ∧ t.pier.above = 0) ∧
  -- the move to VBK, with lockout in force or tripping with it; a VBK below the brown-out level of the Pier browns it out at once (R136, R138)
  (∀ sup : Supplies, Happens (.supplyToVbk sup) [.pier] pierIx
    (fun s => s.pwr.pierOn = true ∧ bit s P.PIER_STATUS 4 = false ∧ bit s P.PIER_STATUS 3 = true ∧ sup.vdd.toNat + 15 < level s.pier.swcfg sup (-40) 0 ∧
      1470 < sup.vbk.toNat)
    (fun s t => bit t P.PIER_STATUS 4 = true ∧ bit t P.PIER_STATUS 5 = decide (sup.vbk.toNat < 1600) ∧ recorded 1 s t ∧ t.pier.wasOnVbk = true)) ∧
  (∀ sup : Supplies, Runs (.supplyToVbk sup)
    (fun s => s.pwr.pierOn = true ∧ bit s P.PIER_STATUS 4 = false ∧ bit s P.PIER_STATUS 3 = false ∧ sup.vdd.toNat + 15 < level s.pier.swcfg sup (-40) 0 ∧
      1470 < sup.vbk.toNat)
    (fun _ t => bit t P.PIER_STATUS 3 = true ∧ bit t P.PIER_STATUS 4 = true ∧ t.pwr.pierOn = true)) ∧
  (∀ sup : Supplies, Runs (.supplyToVbk sup)
    (fun s => s.pwr.pierOn = true ∧ bit s P.PIER_STATUS 4 = false ∧ sup.vdd.toNat + 15 < level s.pier.swcfg sup (-40) 0 ∧ sup.vbk.toNat < 1330)
    (fun _ t => t.pwr.pierOn = false)) ∧
  -- a level given with that row below the trip point trips lockout as well
  (∀ sup : Supplies, Happens (.supplyToVdd sup) [.pier] (P.PIER_CTL :: pierIx)
    (fun s => s.pwr.pierOn = true ∧ onVdd s ∧ level s.pier.swcfg sup (-40) 0 + 15 < sup.vdd.toNat ∧ sup.vdd.toNat + 15 < level s.pier.swcfg sup 60 100)
    (fun _ t => bit t P.PIER_STATUS 3 = true ∧ bit t P.PIER_STATUS 4 = false ∧ t.pier.sup = sup)) ∧
  (∀ sup : Supplies, Happens (.supplyToVdd sup) [.pier] pierIx
    (fun s => s.pwr.pierOn = true ∧ bit s P.PIER_STATUS 4 = true ∧ level s.pier.swcfg sup 40 100 + 15 < sup.vdd.toNat ∧
      (bit s P.PIER_STATUS 3 = true ∨ level s.pier.swcfg sup 60 100 + 15 < sup.vdd.toNat))
    (fun s t => bit t P.PIER_STATUS 4 = false ∧ bit t P.PIER_STATUS 5 = decide (sup.vbk.toNat < 1600) ∧ recorded 2 s t ∧ t.pier.wasOnVbk = s.pier.wasOnVbk))

end Sys2Proof.Claims
end

