-- ==== Sys2Proof/Certificates/Slice0/PodClaims.lean ====
section
/-!
DEFINITION. Sys2Proof/Certificates/Slice0/PodClaims.lean: the statements about the pod line, the charge meter, the face port and the general pins (19).
-/

namespace Sys2Proof.Claims

open Sys2Proof.Machine

/-! ### Pod line -/

/-- The transaction in progress. -/
def podNow (s : State) : PodTxn := s.pod.txn.getD { op := 0, addr := 0, count := 0, sepia := false, inc := 0, phase := .ended }
/-- It stands at a phase, and Sepia, which works on it, is not stopped (R606). -/
abbrev podAt (ph : PodPhase) (s : State) : Prop := s.awake = true ∧ s.pod.txn.isSome = true ∧ (podNow s).phase = ph

/-- The CRC-8 register over bits (R598). -/
def podCrcBits (bs : List Bool) : Byte := bs.foldl (fun r b => if (b != r.getLsbD 7) = true then (r <<< 1) ^^^ 0x07 else r <<< 1) 0

/-- The CRC of a frame as a byte: it is sent bit 7 first, a byte least significant bit first (R597, R598). -/
def crcOf (bs : List Byte) : Byte := (podCrcBits (bs.flatMap (fun b => (List.range 8).map b.getLsbD))).reverse

/-- Byte `k` of POD.BUF. -/
def podByte (s : State) (k : Nat) : Byte := (s.par (P.POD_BUF + k / 4)).extractLsb' (8 * (k % 4)) 8
def podBuf : List Nat := every P.POD_BUF 1 16

/-- The bytes of a command frame of Umber's or the host's (Table POD-2). -/
def podCommandBytes (op : Nat) (v : Word) (s : State) : List Byte :=
  match op with
  | 1 => [0xA2, v.extractLsb' 3 8, (v.extractLsb' 11 7).setWidth 8]
  | 2 => [0xA4, v.extractLsb' 3 8, (v.extractLsb' 11 7).setWidth 8] ++ (List.range (v.extractLsb' 11 7).toNat).filterMap (fun k => if k < 64 then some (podByte s k) else none)
  | 3 => 0xA8 :: (List.range 4).map (podByte s)
  | 4 => 0xB1 :: (List.range 16).map (podByte s)
  | _ => [0xA1]

/-- A transaction is sent: its frame and CRC on the line, with what waits behind it. -/
def podStarts (x : PodTxn) (bytes : List Byte) (wait : List (BitVec 32)) (s t : State) : Prop :=
  t.pod = { s.pod with txn := some x, frame := bytes ++ [crcOf bytes], meterWait := wait }

/-- The five commands, with their codes of POD.CMD. -/
def eachPod (m : Master) (v : Word) (f : Instr → Nat → Prop) : Prop :=
  f (.podRead m v) 1 ∧ f (.podWrite m v) 2 ∧ f (.podAddchg m v) 3 ∧ f (.podAuth m v) 4 ∧ f (.podPing m v) 5

/-- A transaction moves to a phase, and its status byte shows. -/
def podMoves (ph : PodPhase) (s t : State) : Prop := t.pod = { s.pod with txn := some { podNow s with phase := ph } }
def podShows (x : Byte) (s t : State) : Prop :=
  t.par P.POD_STATUS = (s.par P.POD_STATUS &&& ~~~(0xFF00 : Word)) ||| (x.setWidth 36 <<< 8)

/-- The bytes of an answer stand in POD.BUF, and the other bytes stay. -/
def podReturned (bs : List Byte) (s t : State) : Prop := ∀ k < 64, podByte t k = if (podNow s).sepia then podByte s k else (bs[k]?).getD (podByte s k)

/-- BUSY and SEPIA clear, DONE is 1, the source POD (25) comes under CFG.IRQ, and request line 5 (R601). -/
def podOver (s t : State) : Prop :=
  (∀ k < 16, t.lines.getLsbD k = (s.lines.getLsbD k || k == 5)) ∧ ∀ k < 36, t.umber.ipend.getLsbD k = (s.umber.ipend.getLsbD k || (k == 25 && bit s P.POD_CFG 0))

/-- The pod line (R598, R601). -/
def podLine : Prop :=
  (∀ (m : Master) (v : Word), eachPod m v (fun i op => (v.extractLsb' 0 3).toNat = op → Accepts i m P.POD_CMD v [.pod] [P.POD_STATUS] (fun _ s => bit s P.POD_STATUS 0 = false)
    (fun _ s t => podStarts ⟨BitVec.ofNat 3 op, v.extractLsb' 3 8, v.extractLsb' 11 7, false, 0, .sent⟩ (podCommandBytes op v s) s.pod.meterWait s t ∧ bit t P.POD_STATUS 0 = true ∧ bit t P.POD_STATUS 7 = false))) ∧
  (∀ (m : Master) (v : Word), eachPod m v (fun i op => (v.extractLsb' 0 3).toNat = op → Accepts i m P.POD_CMD v [] [P.POD_STATUS] (fun _ s => bit s P.POD_STATUS 0 = true)
    (fun _ s t => t.par P.POD_STATUS = s.par P.POD_STATUS ||| 0x20))) ∧
  (∀ (m : Master) (v : Word), eachPod m v (fun i op => (v.extractLsb' 0 3).toNat = op → Declines i m P.POD_CMD v [])) ∧
  -- in the modes that stop Sepia a transaction stands still (R606)
  (∀ f : Option (List Byte), ∀ c ∈ [Instr.podAnswer f, .podResultPoll, .podTimeout, .podTransactionDone], Happens c [] [] (fun s => s.awake = false) (fun _ _ => True)) ∧
  -- the pod's answer: none, with a bad CRC, the data of a READ, an acceptance, a completion, busy
  Happens (.podAnswer none) [.pod] [P.POD_STATUS] (fun s => podAt .sent s ∨ podAt .polled s) (fun s t => podMoves .ended s t ∧ t.par P.POD_STATUS = s.par P.POD_STATUS ||| 4) ∧
  (∀ (bs : List Byte) (x : Byte), bs ≠ [] → x ≠ crcOf bs → Happens (.podAnswer (some (bs ++ [x]))) [.pod] [P.POD_STATUS] (fun s => podAt .sent s ∨ podAt .polled s)
    (fun s t => podMoves .ended s t ∧ t.par P.POD_STATUS = s.par P.POD_STATUS ||| 8)) ∧
  (∀ bs : List Byte, bs ≠ [] → Happens (.podAnswer (some (bs ++ [crcOf bs]))) [.pod] podBuf
    (fun s => podAt .sent s ∧ (podNow s).op = 1 ∧ (podNow s).count.toNat = bs.length) (fun s t => podMoves .ended s t ∧ podReturned bs s t)) ∧
  Happens (.podAnswer (some [0x5A, crcOf [0x5A]])) [.pod] (P.POD_STATUS :: podBuf)
    (fun s => podAt .sent s ∧ ((podNow s).op = 2 ∨ (podNow s).op = 3 ∨ (podNow s).op = 4)) (fun s t => podMoves .accepted s t ∧ podShows 0x5A s t ∧ podReturned [0x5A] s t) ∧
  (∀ st : Byte, Happens (.podAnswer (some [st, crcOf [st]])) [.pod] (P.POD_STATUS :: podBuf)
    (fun s => podAt .sent s ∧ (podNow s).op ≠ 1 ∧ (st ≠ 0x5A ∨ (podNow s).op = 5)) (fun s t => podMoves .ended s t ∧ podShows st s t ∧ podReturned [st] s t)) ∧
  Happens .podResultPoll [.pod] [] (fun s => podAt .accepted s)
    (fun s t => t.pod = { s.pod with txn := some { podNow s with phase := .polled }, frame := [0xB2, crcOf [0xB2]] }) ∧
  (∀ (bs : List Byte) (st : Byte), Happens (.podAnswer (some (bs ++ [st, crcOf (bs ++ [st])]))) [.pod] (P.POD_STATUS :: podBuf) (fun s => podAt .polled s)
    (fun s t => podMoves (if st = 0x64 then .accepted else .ended) s t ∧ podShows st s t ∧ podReturned (bs ++ [st]) s t)) ∧
  Happens .podTimeout [.pod] [P.POD_STATUS] (fun s => podAt .accepted s ∨ podAt .polled s) (fun s t => podMoves .ended s t ∧ t.par P.POD_STATUS = s.par P.POD_STATUS ||| 0x10) ∧
  -- the end; the oldest waiting transaction of the charge meter follows
  Happens .podTransactionDone [.pod, .ipend, .lines] [P.POD_STATUS] (fun s => podAt .ended s ∧ s.pod.meterWait = [])
    (fun s t => t.pod = { s.pod with txn := none } ∧ t.par P.POD_STATUS = (s.par P.POD_STATUS ||| 2) &&& ~~~(0x81 : Word) ∧ podOver s t) ∧
  (∀ (inc : BitVec 32) (rest : List (BitVec 32)), Happens .podTransactionDone [.pod, .ipend, .lines] [P.POD_STATUS] (fun s => podAt .ended s ∧ s.pod.meterWait = inc :: rest)
    (fun s t => t.par P.POD_STATUS = s.par P.POD_STATUS ||| 0x83 ∧ podOver s t ∧
      podStarts ⟨3, 0, 0, true, inc, .sent⟩ (0xA8 :: (List.range 4).map (fun k => inc.extractLsb' (8 * k) 8)) rest s t))

/-! ### Charge meter -/

def chg (s : State) (k : Nat) : Word := s.par (P.PIER_CHG + k)
def chgIx : List Nat := every P.PIER_CHG 1 12

/-- LASTW as it stands, with the advance that lockout still holds back (R604, R605; log 51). -/
def lastW (s : State) : Word := chg s 1 + s.pod.owed

/-- The increment of an ADDCHG, floor((METER - LASTW) / 360,000) (R605). -/
def chargeDue (meter last : Word) : Nat := (meter.toNat - last.toNat) / 360000

/-- ADDCHG: LASTW advances, CHG2 takes PIER.SEC, and the transaction starts or waits for the pod line (R605). -/
def addsCharge (meter : Word) (free : Bool) (s t : State) : Prop :=
  ∃ n, n = chargeDue meter (lastW s) ∧ chg t 1 = lastW s + BitVec.ofNat 36 (360000 * n) ∧ t.pod.owed = 0 ∧ chg t 2 = (s.pier.sepiaMirror.extractLsb' 15 33).setWidth 36 ∧
    (if free then t.pod.txn = some ⟨3, 0, 0, true, BitVec.ofNat 32 n, .sent⟩ ∧ bit t P.POD_STATUS 0 = true ∧ bit t P.POD_STATUS 7 = true
      else t.pod.meterWait = BitVec.ofNat 32 n :: s.pod.meterWait)

/-- The words of a pod's identity and of its charge record (R607): serial and CHGUSED stored where the serial is a new one, NOAUTH set where it did not prove itself. -/
def identity (p : PodIdent) (t : State) : Prop :=
  chg t 3 = (p.serial.extractLsb' 0 32).setWidth 36 ∧ chg t 4 = (p.serial.extractLsb' 32 32).setWidth 36 ∧ (chg t 5).extractLsb' 0 32 = p.chgUsed

/-- Sepia may identify the pod of this boot, whether or not it has started Umber: the line is free, and nothing else waits for it or for a nonce. -/
def identifies (s : State) : Prop :=
  s.awake = true ∧ s.pod.identDue = true ∧ s.lifeState ≠ 3 ∧ bit s P.POD_STATUS 0 = false ∧ s.pod.meterWait = [] ∧ s.life.chalWait = false

/-- The nC of the modes 0-2 and of the input meter since the last fold, where each quotient is exact (R602). -/
def pulsesUsed (pulses : Word) (s : State) : Nat := (chg s 6 + pulses - chg s 7).toNat * ((s.par P.POD_QPULSE).extractLsb' 0 24).toNat
def modeUsed (s : State) (m : Nat) : Nat :=
  (s.par (P.PWR_RES + 2 * m) - chg s (9 + m)).toNat * ((s.par (P.PWR_MCAL + 9 * m + s.tempBand)).extractLsb' 0 24).toNat

/-- The charge meter, release notices and a pod's identification (R602, R604-R607, R616). -/
def chargeMeter : Prop :=
  (∀ pulses : Word, Happens (.chargeFold pulses) [.pod] chgIx
    (fun s => s.awake = true ∧ bit s P.PIER_STATUS 3 = false ∧ pulsesUsed pulses s % 1000 = 0 ∧ (∀ m < 3, modeUsed s m % 32768 = 0) ∧
      (s.pier.sepiaMirror.extractLsb' 15 33).toNat < (chg s 2).toNat + 604800)
    (fun s t => ∃ n, n = pulsesUsed pulses s / 1000 + modeUsed s 0 / 32768 + modeUsed s 1 / 32768 + modeUsed s 2 / 32768 + ((chg s 8).extractLsb' 0 10).toNat ∧
      chg t 0 = chg s 0 + BitVec.ofNat 36 (n / 1000) ∧ (chg t 8).toNat = n % 1000 ∧ chg t 6 = chg s 6 + pulses ∧ chg t 7 = chg t 6 ∧
      (∀ m < 3, chg t (9 + m) = s.par (P.PWR_RES + 2 * m)) ∧ chg t 1 = lastW s ∧ t.pod = { s.pod with owed := 0 } ∧ ∀ k ∈ [2, 3, 4, 5], chg t k = chg s k)) ∧
  -- a week past the last add
  (∀ pulses : Word, Happens (.chargeFold pulses) [.pod] (P.POD_STATUS :: chgIx)
    (fun s => s.awake = true ∧ bit s P.PIER_STATUS 3 = false ∧ bit s P.POD_STATUS 0 = false ∧ s.pod.meterWait = [] ∧
      (chg s 2).toNat + 604800 ≤ (s.pier.sepiaMirror.extractLsb' 15 33).toNat)
    (fun s t => addsCharge (chg t 0) true s t)) ∧
  -- under lockout the record stands
  (∀ pulses : Word, Happens (.chargeFold pulses) [] [P.PIER_CHG + 6] (fun s => s.awake = true ∧ bit s P.PIER_STATUS 3 = true) (fun s t => chg t 6 = chg s 6 + pulses)) ∧
  -- a release notice
  Happens .podReleaseNotice [.pod, .pwr] (P.POD_STATUS :: chgIx) (fun s => s.pwr.mode = .active ∧ s.umber.hold ≠ .stop ∧ s.pod.txn = none ∧ bit s P.POD_STATUS 0 = false ∧ bit s P.PIER_STATUS 3 = false)
    (fun s t => bit t P.POD_STATUS 6 = true ∧ addsCharge (chg s 0) true s t ∧ t.pwr = s.pwr ∧ ∀ k ∈ [0, 3, 4, 5, 6, 7, 8, 9, 10, 11], chg t k = chg s k) ∧
  Happens .podReleaseNotice [.pod, .pwr] (P.POD_STATUS :: chgIx)
    (fun s => s.pwr.mode = .active ∧ s.pod.txn.isSome = true ∧ (podNow s).phase ≠ .ended ∧ bit s P.POD_STATUS 0 = true ∧ bit s P.PIER_STATUS 3 = false)
    (fun s t => bit t P.POD_STATUS 4 = true ∧ bit t P.POD_STATUS 6 = true ∧ podAt .ended t ∧ addsCharge (chg s 0) false s t) ∧
  -- under lockout the count is sent, and LASTW owes its advance
  Happens .podReleaseNotice [.pod, .pwr] [P.POD_STATUS] (fun s => s.pwr.mode = .active ∧ s.umber.hold ≠ .stop ∧ s.pod.txn = none ∧ bit s P.POD_STATUS 0 = false ∧ bit s P.PIER_STATUS 3 = true)
    (fun s t => ∃ n, n = chargeDue (chg s 0) (lastW s) ∧ bit t P.POD_STATUS 6 = true ∧ t.pod.owed = s.pod.owed + BitVec.ofNat 36 (360000 * n) ∧
      t.pod.txn = some ⟨3, 0, 0, true, BitVec.ofNat 32 n, .sent⟩) ∧
  Happens .podReleaseNotice [.pod, .pwr] [] (fun s => (s.pwr.mode = .doze ∨ s.pwr.mode = .retain) ∧ s.crystalRuns = true)
    (fun s t => t.pod = { s.pod with notice := true } ∧ t.pwr = { s.pwr with gpioWake := true }) ∧
  -- while the crystal has failed no detector runs in modes 1 and 2 (R606)
  Happens .podReleaseNotice [] [] (fun s => (s.pwr.mode = .doze ∨ s.pwr.mode = .retain) ∧ s.crystalRuns = false) (fun _ _ => True) ∧
  -- identification after a reset: no pod, and a new serial
  Happens (.podIdentify none) [.pod, .ipend, .lines] [P.POD_STATUS] identifies
    (fun s t => t.pod = { s.pod with identDue := false, identRead := false, frame := [0xA2, 0x00, 0x28, crcOf [0xA2, 0x00, 0x28]] } ∧
      t.par P.POD_STATUS = (s.par P.POD_STATUS ||| 6) &&& ~~~(0x81 : Word) ∧ podOver s t) ∧
  -- with the generator in ALARM no nonce comes: the new pod is recorded and does not prove itself
  (∀ p : PodIdent, Happens (.podIdentify (some p)) [.pod, .ipend, .lines, .rng, .log] (P.POD_STATUS :: P.MGMT_LOGDROP :: chgIx)
    (fun s => identifies s ∧ bit s P.PIER_STATUS 3 = false ∧ bit s P.RNG_STATUS 1 = true ∧ (chg s 3).extractLsb' 0 32 ≠ p.serial.extractLsb' 0 32)
    (fun s t => t.pod.identDue = false ∧ podOver s t ∧ identity p t ∧ chg t 0 = 0 ∧ chg t 1 = 0 ∧ chg t 2 = 0 ∧
      bit t (P.PIER_CHG + 5) 32 = (bit s (P.PIER_CHG + 5) 32 || decide (chg s 0 ≠ lastW s)) ∧ bit t (P.PIER_CHG + 5) 33 = true)) ∧
  -- with four words there and the cipher unit free the AUTH follows, and its RESULT is the last frame
  (∀ p : PodIdent, Runs (.podIdentify (some p))
    (fun s => identifies s ∧ bit s P.PIER_STATUS 3 = false ∧ bit s P.RNG_STATUS 1 = false ∧ s.cipherOn = true ∧ 4 ≤ s.rng.fifo.length ∧ s.rng.waiters = [] ∧
      s.rng.sepiaGot = [] ∧ s.crypt.op = none ∧ s.crypt.outFifo = [] ∧ (chg s 3).extractLsb' 0 32 ≠ p.serial.extractLsb' 0 32)
    (fun _ t => t.pod.identDue = false ∧ t.pod.frame = [0xB2, crcOf [0xB2]] ∧ bit t P.POD_STATUS 1 = true ∧ identity p t))

/-! ### Face port and general pins -/

/-- Source FACE (26) under CTL.IRQ. -/
def faceRaises (s t : State) : Prop := ∀ k < 36, t.umber.ipend.getLsbD k = (s.umber.ipend.getLsbD k || (k == 26 && bit s P.FACE_CTL 12))
def refRuns (s : State) : Bool := bit s P.PWR_STATUS 3

/-- A transfer may start: idle, words waiting, FPWR asserted, and FBUSY idle or not waited for (R610). -/
def faceMay (fbusy : Bool) (s : State) : Prop :=
  s.awake = true ∧ s.face.active = false ∧ s.face.fifo ≠ [] ∧ bit s P.FACE_CTL 9 = true ∧ (bit s P.FACE_CTL 7 = false ∨ fbusy ≠ bit s P.FACE_CTL 8)

def facePort : Prop :=
  (∀ (m : Master) (v : Word), Accepts (.faceTxdWrite m v) m P.FACE_TXD v [.face] [] (fun _ s => s.face.fifo.length < 8) (fun _ s t => t.face = { s.face with fifo := s.face.fifo ++ [v] })) ∧
  (∀ (m : Master) (v : Word), Declines (.faceTxdWrite m v) m P.FACE_TXD v [P.FACE_STATUS]) ∧
  (∀ v : Word, Runs (.faceTxdWrite .sepia v) (fun s => s.awake = true ∧ s.writeRefusal sepiaAcc P.FACE_TXD v = 2) (fun s t => t.face = s.face ∧ bit t P.FACE_STATUS 7 = true)) ∧
  (∀ (m : Master) (v : Word), v.getLsbD 0 = true → v.getLsbD 1 = false → Accepts (.faceEnd m v) m P.FACE_CMD v [.face, .ipend] [P.FACE_STATUS]
    (fun _ s => s.face.active = true ∧ bit s P.FACE_CTL 6 = true)
    (fun _ s t => t.face = { s.face with active := false } ∧ t.par P.FACE_STATUS = s.par P.FACE_STATUS ||| 0x40 ∧ faceRaises s t)) ∧
  (∀ (m : Master) (v : Word), v.getLsbD 0 = true → v.getLsbD 1 = false → Accepts (.faceEnd m v) m P.FACE_CMD v [] [] (fun _ s => s.face.active = false ∨ bit s P.FACE_CTL 6 = false)
    (fun _ _ _ => True)) ∧
  (∀ (m : Master) (v : Word), v.getLsbD 0 = false → v.getLsbD 1 = true → Accepts (.faceFlush m v) m P.FACE_CMD v [.face] [] (fun _ _ => True)
    (fun _ s t => t.face = { s.face with fifo := [] })) ∧
  (∀ (m : Master) (v : Word), v.getLsbD 0 = true → Declines (.faceEnd m v) m P.FACE_CMD v []) ∧ (∀ (m : Master) (v : Word), v.getLsbD 1 = true → Declines (.faceFlush m v) m P.FACE_CMD v []) ∧
  (∀ b : Bool, Happens (.faceTransferStart b) [.face] [] (fun s => faceMay b s ∧ refRuns s = true) (fun s t => t.face = { s.face with fbusy := b, active := true, sent := [] })) ∧
  (∀ b : Bool, Happens (.faceTransferStart b) [.face] [P.FACE_STATUS] (fun s => faceMay b s ∧ refRuns s = false)
    (fun s t => t.face = { s.face with fbusy := b } ∧ t.par P.FACE_STATUS = s.par P.FACE_STATUS ||| 0x100)) ∧
  (∀ b : Bool, Happens (.faceTransferStart b) [.face] [] (fun s => ¬ faceMay b s) (fun s t => t.face = { s.face with fbusy := b })) ∧
  (∀ u b : Bool, Happens (.faceTransferEnd u b) [.face, .ipend] [P.FACE_STATUS] (fun s => refRuns s = true ∧ s.face.active = true ∧ s.face.fifo = [] ∧ bit s P.FACE_CTL 6 = false)
    (fun s t => t.face = { s.face with fbusy := b, active := false } ∧ t.par P.FACE_STATUS = s.par P.FACE_STATUS ||| (if u then 0x240 else 0x40) ∧ faceRaises s t)) ∧
  -- where REF stops in a transfer, by itself or by CLKCTL.REFEN, the transfer waits and NOREF sets; it does not end before REF is back (R608)
  Runs .refLoss (fun s => s.awake = true ∧ s.refRuns = true ∧ s.face.active = true) (fun s t => bit t P.FACE_STATUS 8 = true ∧ t.face = s.face) ∧
  (∀ (m : Master) (v : Word), v.getLsbD 0 = false → Takes (.paramWrite m (BitVec.ofNat 13 P.PWR_CLKCTL) v) m P.PWR_CLKCTL v
    (fun _ s => bit s P.PWR_CLKCTL 0 = true ∧ refRuns s = true ∧ s.face.active = true) (fun _ s t => bit t P.FACE_STATUS 8 = true ∧ refRuns t = false ∧ t.face = s.face)) ∧
  (∀ u b : Bool, Happens (.faceTransferEnd u b) [] [] (fun s => refRuns s = false) (fun _ _ => True)) ∧
  Happens .fbusyRelease [.face, .ipend, .lines] [] (fun s => s.awake = true)
    (fun s t => t.face = { s.face with fbusy := !bit s P.FACE_CTL 8 } ∧ (∀ k < 16, t.lines.getLsbD k = (s.lines.getLsbD k || k == 4)) ∧ faceRaises s t)

/-- An edge that a selection names: 1 rise, 2 fall, 3 both. -/
def selects (sel : Nat) (level : Bool) : Bool := sel = 3 || sel = (if level then 1 else 2)
def edgeSel (s : State) (g : Fin 8) (k : Nat) : Nat := ((s.par (P.GPIO_CFG + g.val)).extractLsb' k 2).toNat

/-- The level at a pin that no output drives: the one from outside, or where nothing outside drives it either that of its pull (R611). -/
def pinLevel (g : Fin 8) (s : State) : Bool :=
  if s.gpio.driven.getLsbD g.val = true ∨ edgeSel s g 2 = 0 ∨ edgeSel s g 2 = 3 then s.gpio.pins.getLsbD g.val else edgeSel s g 2 == 1

/-- The pin is there, no output drives it, and the level that arrives is a new one. -/
def arrives (g : Fin 8) (level : Bool) (s : State) : Prop :=
  (g.val < 4 ∨ s.pwr.package = .ab) ∧ bit s (P.GPIO_CFG + g.val) 0 = false ∧ pinLevel g s = !level

/-- The general pins (R611). -/
def generalPins : Prop :=
  (∀ (g : Fin 8) (b : Bool), Happens (.gpioEdge g b) [.gpio, .ipend, .lines] [P.GPIO_EDGE] (fun s => s.pwr.mode = .active ∧ s.umber.hold ≠ .stop ∧ arrives g b s)
    (fun s t => (∀ k < 8, t.gpio.pins.getLsbD k = if k = g.val then b else s.gpio.pins.getLsbD k) ∧
      (∀ k < 8, t.gpio.driven.getLsbD k = (s.gpio.driven.getLsbD k || k == g.val)) ∧
      (∀ k < 36, bit t P.GPIO_EDGE k = (bit s P.GPIO_EDGE k || (k == g.val && selects (edgeSel s g 4) b))) ∧
      (∀ k < 36, t.umber.ipend.getLsbD k = (s.umber.ipend.getLsbD k || (k == 27 && selects (edgeSel s g 4) b))) ∧
      (∀ k < 16, t.lines.getLsbD k = (s.lines.getLsbD k || (decide (g.val < 4) && k == 11 + g.val && selects (edgeSel s g 4) b))))) ∧
  (∀ (g : Fin 8) (b : Bool), Happens (.gpioEdge g b) [.gpio, .pwr] [P.GPIO_EDGE] (fun s => (s.pwr.mode = .doze ∨ s.pwr.mode = .retain) ∧ arrives g b s)
    (fun s t => (∀ k < 36, bit t P.GPIO_EDGE k = (bit s P.GPIO_EDGE k || (k == g.val && selects (edgeSel s g 4) b))) ∧
      t.pwr = { s.pwr with gpioWake := s.pwr.gpioWake || selects (edgeSel s g 6) b })) ∧
  -- while a STOP waits a wake edge is noted (R62, R73)
  (∀ (g : Fin 8) (b : Bool), Runs (.gpioEdge g b) (fun s => s.pwr.mode = .active ∧ s.umber.hold = .stop ∧ arrives g b s)
    (fun s t => t.pwr = { s.pwr with gpioWake := s.pwr.gpioWake || selects (edgeSel s g 6) b })) ∧
  (∀ (g : Fin 8) (b : Bool), Happens (.gpioEdge g b) [] [] (fun s => s.gpio.driven.getLsbD g.val = true ∧ s.gpio.pins.getLsbD g.val = b) (fun _ _ => True))

end Sys2Proof.Claims
end

