-- ==== Sys2Proof/Certificates/Slice0/TimeClaims.lean ====
section
/-!
DEFINITION. Sys2Proof/Certificates/Slice0/TimeClaims.lean: the statements about store time and strikes (03).
-/

namespace Sys2Proof.Claims

open Sys2Proof.Machine

/-- Two 32-bit parameters as one store time S32.F32. -/
def pair32 (s : State) (hi lo : Nat) : StoreTime := (s.par hi).extractLsb' 0 32 ++ (s.par lo).extractLsb' 0 32

/-- The accumulator with a store time in its upper 64 bits, bits 27:0 clear (R86). -/
def accWith (t : StoreTime) : BitVec 92 := t ++ (0 : BitVec 28)

/-- Parameter `p` of strike unit `n`. -/
def ofUnit (p : Nat) (n : Fin 8) : Nat := p + 16 * n.val

/-- Store time: the increment, steps, loads and the reads that capture it (R81, R84-R86, R88). -/
def storeTime : Prop :=
  -- TIME_INC_WRITE: an accepted INC is in force at once
  (∀ (m : Master) (v : Word), Accepts (.timeIncWrite m v) m P.TIME_INC v [] [P.TIME_INC] (fun _ _ => True) (fun _ _ t => t.par P.TIME_INC = v)) ∧
  -- TIME_STEP: with the REF group running and nothing else latched, the next edge adds INC and the step, logged in STEPLOG slot STEPCNT mod 16
  (∀ (m : Master) (v : Word), Takes (.timeStep m v) m P.TIME_STEP v (fun _ s => s.refRuns = true ∧ s.time.steps = [] ∧ s.time.load = none)
    (fun _ s t => t.time.acc = s.time.acc + (s.par P.TIME_INC).setWidth 92 + (v.signExtend 92 <<< 28) ∧ t.time.steps = [] ∧ bit t P.TIME_STATUS 2 = true ∧
      (t.par P.TIME_STATUS).extractLsb' 7 8 = (s.par P.TIME_STATUS).extractLsb' 7 8 + 1 ∧
      t.par (P.TIME_STEPLOG + ((s.par P.TIME_STATUS).extractLsb' 7 8).toNat % 16) = v)) ∧
  -- without the REF group the step stays latched
  (∀ (m : Master) (v : Word), Accepts (.timeStep m v) m P.TIME_STEP v [.time] [] (fun _ s => s.refRuns = false)
    (fun _ s t => t.time = { s.time with steps := s.time.steps ++ [v] })) ∧
  -- TIME_LOAD: LOADPEND sets, and replaces a pending load; it is of the values that stand then
  (∀ (m : Master) (v : Word), v.getLsbD 0 = true → Accepts (.timeLoad m v) m P.TIME_CTL v [.time] [P.TIME_CTL, P.TIME_STATUS] (fun _ _ => True)
    (fun _ s t => bit t P.TIME_STATUS 3 = true ∧ bit t P.TIME_CTL 1 = v.getLsbD 1 ∧
      t.time = { s.time with load := some { taken := false, examined := false, value := pair32 s P.TIME_LOADS P.TIME_LOADF,
                                            atTick := (s.par P.TIME_LOADT).extractLsb' 0 16, onTick := v.getLsbD 1 } })) ∧
  -- TIME_LOAD_APPLY, mode 0: the accumulator becomes LOADS:LOADF, LOADPEND clears, LOADDONE and VALID set
  (∀ l : PendLoad, l.taken = false → l.onTick = false → Runs .timeLoadApply
    (fun s => s.refRuns = true ∧ s.time.load = some l)
    (fun _ t => t.time.acc = accWith l.value ∧ t.time.load = none ∧ bit t P.TIME_STATUS 3 = false ∧ bit t P.TIME_STATUS 4 = true ∧ bit t P.TIME_STATUS 0 = true)) ∧
  -- mode 1 is taken at that edge and waits for its tick, or ends with LOADREF where OSF is 1 (R90)
  (∀ (l : PendLoad) (s : State), s.refRuns = true → s.time.load = some l → l.taken = false → l.onTick = true →
    let t := idle s
    if bit s P.PIER_STATUS 0 then t.time.load = none ∧ bit t P.TIME_STATUS 6 = true ∧ bit t P.TIME_STATUS 3 = false
    else t.time.load = some { l with taken := true }) ∧
  -- TIME_LOAD_APPLY, mode 1: at the crystal edge of its tick, with the lag of 2.5 INC added (R89)
  (∀ (v : StoreTime) (tick : Tick) (seen : Bool), Runs .timeLoadApply
    (fun s => s.refRuns = true ∧ s.crystalRuns = true ∧ bit s P.PIER_STATUS 0 = false ∧ s.pier.tick = tick ∧ s.pier.secPend = none ∧ s.pier.tickPend = [] ∧
      bit s P.PIER_CTL 0 = false ∧ s.pier.winNext.toNat % 1024 ≠ 1023 ∧
      (bit s P.PIER_STATUS 4 = true ∨ 1470 < s.pier.sup.vbk.toNat) ∧
      s.time.load = some { taken := true, examined := seen, value := v, atTick := (tick + 1).extractLsb' 0 16, onTick := true })
    (fun s t => t.time.acc = accWith v + BitVec.ofNat 92 (5 * (s.par P.TIME_INC).toNat / 2) ∧ t.time.load = none ∧ bit t P.TIME_STATUS 4 = true ∧
      bit t P.TIME_STATUS 0 = true)) ∧
  -- a first edge examined that finds the tick past abandons the load with LOADLATE; once an edge has been examined it waits for its tick (R89)
  (∀ (l : PendLoad) (s : State), s.time.load = some l → l.taken = true → l.onTick = true → bit s P.PIER_STATUS 0 = false → l.atTick ≠ s.pier.tick.extractLsb' 0 16 →
    let t := timeAtPierEdge (s.pier.tick.extractLsb' 0 16) s
    if l.examined = false ∧ 32768 < (l.atTick - s.pier.tick.extractLsb' 0 16).toNat then t.time.load = none ∧ bit t P.TIME_STATUS 5 = true ∧ bit t P.TIME_STATUS 3 = false
    else t.time.load = some { l with examined := true } ∧ t.time.acc = s.time.acc) ∧
  -- NOWF_READ: one capture of the accumulator and of TCLKCNT; with the REF group stopped the held values stand (R626)
  (∀ m : Master, Reads (.nowfRead m) m P.TIME_NOWF [] [] (fun _ s => s.refRuns = false) (fun _ _ => True)) ∧
  (∀ m : Master, Reads (.nowfRead m) m P.TIME_NOWF [] [P.TIME_NOWF, P.TIME_NOWS, P.TIME_NOWX, P.TIME_TCLKCNT] (fun _ s => s.refRuns = true)
    (fun s t => t.par P.TIME_NOWF = (s.time.acc.extractLsb' 28 32).setWidth 36 ∧ t.par P.TIME_NOWS = (s.time.acc.extractLsb' 60 32).setWidth 36 ∧
      t.par P.TIME_NOWX = (s.time.acc.extractLsb' 0 28).setWidth 36 ∧ t.par P.TIME_TCLKCNT = s.time.tclk)) ∧
  -- PIERCAP_READ freezes the capture, PIERCAPT_READ releases it, and two Pier ticks release it
  (∀ m : Master, Reads (.piercapRead m) m P.TIME_PIERCAP [.time] [] (fun _ _ => True)
    (fun s t => t.time = { s.time with capFrozen := true, capTicks := 0 })) ∧
  (∀ m : Master, Reads (.piercaptRead m) m P.TIME_PIERCAPT [.time] [] (fun _ _ => True)
    (fun s t => t.time = { s.time with capFrozen := false, capTicks := 0 })) ∧
  Happens .piercapRelease [.time] [] (fun s => s.time.capFrozen = true ∧ 2 ≤ s.time.capTicks.toNat)
    (fun s t => t.time = { s.time with capFrozen := false, capTicks := 0 })

/-- What a step does with no command waiting while Umber does not run is the passing of time, `idle`. Its TCLK edge, with no step or load latched, adds INC and counts
(R80); a unit that is not armed, or without VALID, fires nothing; the interrupt that leads the signals under way arrives (R48); an epoch latch takes the store
time of its edge (R97). -/
def tclkEdges : Prop :=
  (∀ s : State, s.pending = [] → s.umber.run ≠ .running → step s = .next (idle s)) ∧
  (∀ s : State, s.refRuns = true → s.time.steps = [] → s.time.load = none →
    let t := idle s
    t.time.acc = s.time.acc + (s.par P.TIME_INC).setWidth 92 ∧ t.time.tclk = s.time.tclk + 1 ∧ t.time.load = none ∧
      t.par P.TIME_INC = s.par P.TIME_INC ∧ t.mem = s.mem ∧ t.pier = s.pier ∧ t.pwr = s.pwr ∧
      (bit s P.TIME_STATUS 0 = false → s.time.signals = [] → t.umber = s.umber ∧
        ∀ n : Fin 8, t.time.strikes[n] = { s.time.strikes[n] with armedAt := none } ∨ (∃ e ∈ s.time.armPend, e.1 = BitVec.ofNat 3 n.val) ∨
          ∃ e ∈ s.time.chainPend, e.2 = BitVec.ofNat 3 n.val) ∧
      (∀ g, s.time.signals.head? = some g → g.dma = none → t.umber.ipend.getLsbD g.unit.toNat = true) ∧
      (∀ e ∈ s.time.epochs, e.edge = s.time.tclk + 1 → { e with time := some (t.time.acc.extractLsb' 28 64) } ∈ t.time.epochs))

/-- The conditions under which arming is refused with CFGERR (R99, Table TIM-7), with the REPEAT bit given. -/
def armable (s : State) (n : Fin 8) (rep : Bool) : Prop :=
  (s.par (ofUnit P.STRK_RACT n)).extractLsb' 0 2 ≠ 3 ∧ ((s.par (ofUnit P.STRK_RACT n)).extractLsb' 2 6).toNat < 40 ∧
    (rep = true → 64 * (s.par P.TIME_INC).toNat ≤ (pair32 s (ofUnit P.STRK_PSEC n) (ofUnit P.STRK_PFRAC n)).toNat * 2 ^ 28)

/-- Nothing of the unit can fire at the next edge: it is not armed, or VALID is 0 and stays so. -/
def still (s : State) (n : Fin 8) : Prop := s.armed n = false ∨ (bit s P.TIME_STATUS 0 = false ∧ s.time.load = none)

/-- Arming and disarming (R92, R99, R101). ARM = 1 gives an armed unit a new N too. -/
def arming : Prop :=
  (∀ (m : Master) (n : Fin 8) (v : Word), v.getLsbD 0 = true →
    Takes (.strkArm m n v) m (ofUnit P.STRK_CTL n) v
      (fun _ s => s.refRuns = true ∧ still s n ∧ s.time.armPend = [] ∧ s.time.chainPend = [] ∧ armable s n (v.getLsbD 1))
      (fun _ s t => t.armed n = true ∧
        t.time.strikes[n] = { armedAt := some (t.time.acc.extractLsb' 28 64), fired := 0, unlimited := decide (s.par (ofUnit P.STRK_COUNT n) = 0) } ∧
        pair32 t (ofUnit P.STRK_NSEC n) (ofUnit P.STRK_NFRAC n) =
          (if v.getLsbD 2 then t.time.acc.extractLsb' 28 64 else 0) + pair32 s (ofUnit P.STRK_TSEC n) (ofUnit P.STRK_TFRAC n))) ∧
  (∀ (m : Master) (n : Fin 8) (v : Word), v.getLsbD 0 = true →
    Takes (.strkArm m n v) m (ofUnit P.STRK_CTL n) v
      (fun _ s => s.refRuns = true ∧ s.armed n = false ∧ s.time.armPend = [] ∧ s.time.chainPend = [] ∧ ¬ armable s n (v.getLsbD 1))
      (fun _ _ t => t.armed n = false ∧ bit t (ofUnit P.STRK_STATUS n) 5 = true)) ∧
  (∀ (m : Master) (n : Fin 8) (v : Word), v.getLsbD 0 = false →
    Accepts (.strkDisarm m n v) m (ofUnit P.STRK_CTL n) v [.time] [ofUnit P.STRK_CTL n] (fun _ _ => True)
      (fun _ s t => t.armed n = false ∧ (∀ e ∈ t.time.armPend, e.1 ≠ BitVec.ofNat 3 n.val) ∧ t.time.strikes = s.time.strikes))

/-- The store time of the k-th TCLK edge from here, as software sees it (R80, R82). -/
def edgeTime (s : State) (k : Nat) : StoreTime := (s.time.acc + BitVec.ofNat 92 (k * (s.par P.TIME_INC).toNat)).extractLsb' 28 64

/-- F lies in the cycle that the next TCLK edge starts: not before its start, before its end, by the signed difference of store times (R82, R93). -/
def inCycle (s : State) (f : StoreTime) : Prop := (f - edgeTime s 1).msb = false ∧ (f - edgeTime s 2).msb = true

/-- What a strike does at its edge (R93, R94, R96-R98, R103, R372, R543). -/
def strikes : Prop :=
  -- STRIKE_FIRE: a unit whose one target is Umber's interrupt, in its cycle: the interrupt is under way, FIRED, the count, disarmed, not late
  (∀ n : Fin 8, Runs (.strikeFire n)
    (fun s => s.refRuns = true ∧ bit s P.TIME_STATUS 0 = true ∧ s.time.steps = [] ∧ s.time.load = none ∧ s.armed n = true ∧ bit s (ofUnit P.STRK_CTL n) 1 = false ∧
      (s.par (ofUnit P.STRK_TGT n)).extractLsb' 0 6 = 0x10#6 ∧ s.time.strikes[n].fired = 0 ∧ s.time.strikes[n].armedAt = none ∧
      inCycle s (pair32 s (ofUnit P.STRK_NSEC n) (ofUnit P.STRK_NFRAC n)) ∧ s.time.armPend = [] ∧ s.time.chainPend = [])
    (fun s t => (∃ g ∈ t.time.signals, g.unit = BitVec.ofNat 3 n.val ∧ g.sent = t.time.tclk ∧ g.dma = none) ∧ t.armed n = false ∧ bit t (ofUnit P.STRK_STATUS n) 0 = true ∧
      (t.par (ofUnit P.STRK_STATUS n)).extractLsb' 12 24 = (s.par (ofUnit P.STRK_STATUS n)).extractLsb' 12 24 + 1 ∧
      t.par (ofUnit P.STRK_LATE n) = s.par (ofUnit P.STRK_LATE n))) ∧
  -- STRIKE_PULSE_END: a pulse whose end comes due ends: its pin goes inactive
  Runs .strikePulseEnd
    (fun s => s.refRuns = true ∧ s.time.steps = [] ∧ s.time.load = none ∧ s.time.pulses.tail = [] ∧ bit s P.TIME_STATUS 0 = false ∧
      ∃ p, s.time.pulses.head? = some p ∧ (p.at'.extractLsb' 28 64 - edgeTime s 2).msb = true)
    (fun s t => t.time.pulses = [] ∧ t.time.acc = s.time.acc + (s.par P.TIME_INC).setWidth 92 ∧
      ∀ p, s.time.pulses.head? = some p → t.time.pins.getLsbD p.pin.toNat = false) ∧
  -- STRIKE_RADIO_ACTION: dropped with RMISS where the radio cannot take it (R96, R372)
  (∀ (n : Fin 8) (a : BitVec 9), Happens .strikeRadioAction [.time] [ofUnit P.STRK_STATUS n]
    (fun s => s.refRuns = true ∧ s.time.radioActs.head? = some (BitVec.ofNat 3 n.val, a) ∧ s.radioPowered = false)
    (fun s t => bit t (ofUnit P.STRK_STATUS n) 2 = true ∧ t.time = { s.time with radioActs := s.time.radioActs.tail })) ∧
  -- taken: a receive start in STANDBY with REFLOCK
  (∀ n : BitVec 3, Runs .strikeRadioAction
    (fun s => s.refRuns = true ∧ s.time.radioActs.head? = some (n, 1) ∧ s.radioState = 2 ∧ s.radio.trans = none ∧ s.radio.lockWait = none ∧ s.radioFault = false)
    (fun s t => t.time.radioActs = s.time.radioActs.tail ∧ t.radioState = 4)) ∧
  -- EPOCH_LATCH: EPOCHS and EPOCHF hold the store time of the freezing edge of the oldest latch, once that edge has come (R97)
  (∀ (phase : BitVec 2) (xs : List Smp) (v : StoreTime), Happens (.epochLatch { phase := phase, xs := xs }) [.time] [P.TIME_EPOCHS, P.TIME_EPOCHF, P.SYNTH_L1CLIP]
    (fun s => s.trsRuns = false ∧ s.time.epochs.head?.map (·.time) = some (some v))
    (fun s t => t.time = { s.time with epochs := s.time.epochs.tail } ∧ t.par P.TIME_EPOCHF = (v.extractLsb' 0 32).setWidth 36 ∧
      t.par P.TIME_EPOCHS = (v.extractLsb' 32 32).setWidth 36)) ∧
  (∀ (phase : BitVec 2) (xs : List Smp), Happens (.epochLatch { phase := phase, xs := xs }) [] [P.SYNTH_L1CLIP]
    (fun s => s.trsRuns = false ∧ s.time.epochs.head?.map (·.time) ≠ none ∧ (s.time.epochs.head?.map (·.time)).join = none) (fun _ _ => True)) ∧
  -- with Trestle running its latch takes place too: LATCHSTAT and LATCHSAMP, the latch words of every channel, 0 for one not enabled, tracking unchanged, and with
  -- LATCHRING the records of the channels with RING toward the ring (R444, R445)
  (∀ (phase : BitVec 2) (v : StoreTime), Happens (.epochLatch { phase := phase, xs := [] }) [.time, .trs, .ipend] ([P.TIME_EPOCHS, P.TIME_EPOCHF] ++ trsIx)
    (fun s => s.trsRuns = true ∧ s.time.epochs.head?.map (·.time) = some (some v))
    (fun s t => let count := (s.par P.TRS_LATCHSTAT).extractLsb' 12 24 + 1
      let rings := (List.finRange 48).filter (fun cc => enabled s cc && bit s (ofTrack P.CH_CTL cc) 2)
      t.time = { s.time with epochs := s.time.epochs.tail } ∧ t.par P.TIME_EPOCHF = (v.extractLsb' 0 32).setWidth 36 ∧ t.par P.TIME_EPOCHS = (v.extractLsb' 32 32).setWidth 36 ∧
      bit t P.TRS_LATCHSTAT 0 = true ∧ (t.par P.TRS_LATCHSTAT).extractLsb' 1 2 = phase ∧ (t.par P.TRS_LATCHSTAT).extractLsb' 12 24 = count ∧
      t.par P.TRS_LATCHSAMP = s.par P.TRS_SAMPCNT ∧ t.par (P.TRS_CNT + 4) = s.par (P.TRS_CNT + 4) + 1 ∧
      (∀ cc : Fin 48, if enabled s cc then latched cc count s t else ∀ k < 10, t.par (ofTrack P.CH_LATCH0 cc + k) = 0) ∧
      (∀ cc : Fin 48, { t.trs.ch[cc] with lossNext := (s.trs.ch[cc]).lossNext } = s.trs.ch[cc]) ∧
      (bit s P.TRS_CTL 0 = false → t.trs = s.trs) ∧
      (bit s P.TRS_CTL 0 = true → queuedWords s + 480 ≤ 2048 →
        t.trs.fifo = s.trs.fifo ++ rings.map (fun cc => TrsItem.record (Vector.ofFn (fun k : Fin 10 => t.par (ofTrack P.CH_LATCH0 cc + k.val))))))) ∧
  -- SEPIA_STRIKE_EVENT: an entry of the event FIFO with the event and the tick, or DROP counts (R543)
  (∀ r : Readings, Runs (.sepiaStrikeEvent r)
    (fun s => s.awake = true ∧ nothingAbove 2 s ∧ s.time.sepiaEvs ≠ [] ∧ bit s P.MGMT_EVCFG 16 = false ∧ bit s P.MGMT_EVCFG 17 = false)
    (fun s t => t.time = { s.time with sepiaEvs := s.time.sepiaEvs.tail } ∧ (bit s P.MGMT_IRQEN 2 = true → t.umber.ipend.getLsbD 22 = true) ∧
      (s.mgmt.evFifo.length < 16 → t.mgmt.evFifo.dropLast = s.mgmt.evFifo ∧ ∃ w, t.mgmt.evFifo.getLast? = some w ∧ w.getLsbD 35 = true ∧ s.time.sepiaEvs.head? = some (w.extractLsb' 0 8) ∧
        w.extractLsb' 8 27 = s.pier.sepiaMirror.extractLsb' 0 27) ∧
      (16 ≤ s.mgmt.evFifo.length → t.mgmt.evFifo = s.mgmt.evFifo)))

end Sys2Proof.Claims
end

