-- ==== Sys2Proof/Safety/DualRows.lean ====
section
/-!
DEFINITION. Sys2Proof/Safety/DualRows.lean: the dual-fetch instructions of Umber in the spec's terms (07 R219-R223, Tables UMD-2 and UMD-3).
-/

namespace Sys2Proof.Claims

open Sys2Proof.Machine

/-- A dual-fetch row: its condition, pointers and modes, the D register that takes X, whether it reads a coefficient, the accumulators written, and what they hold
from X, Y and C. -/
structure DualRow where
  cond : Cond
  px : Fin 8
  py : Fin 8
  amx : BitVec 2
  amy : BitVec 2
  dx : Fin 16
  c3 : Bool
  writes : List Loc
  holds : Word → Word → Word → State → State → Prop

/-- The product: X × Y, or C × (X + Y) exactly (R219). -/
def fetchedProduct (c3 : Bool) (x y k : Word) : Int := if c3 then k.toInt * (x.toInt + y.toInt) else x.toInt * y.toInt

/-- Py = P13 with C3, and for CMACD an odd pair or C3, are reserved (R219, R223). -/
def dualRows : Instr → Option DualRow
  | .macd cc sat acd px py amx amy dx c3 => if c3 = true ∧ py.val = 5 then none else some
      ⟨cc, px, py, amx, amy, dx, c3, [.ac acd, .flag 5, .flag 6],
        fun x y k s t => accResult sat acd ((s.rdAc acd .mac).toInt + fetchedProduct c3 x y k) s t⟩
  | .msud cc sat acd px py amx amy dx c3 => if c3 = true ∧ py.val = 5 then none else some
      ⟨cc, px, py, amx, amy, dx, c3, [.ac acd, .flag 5, .flag 6],
        fun x y k s t => accResult sat acd ((s.rdAc acd .mac).toInt - fetchedProduct c3 x y k) s t⟩
  | .mpyd cc acd px py amx amy dx c3 => if c3 = true ∧ py.val = 5 then none else some
      ⟨cc, px, py, amx, amy, dx, c3, [.ac acd, .flag 5, .flag 6], fun x y k s t => accResult false acd (fetchedProduct c3 x y k) s t⟩
  | .cmacd cc sat acd px py amx amy dx c3 => if c3 = true ∨ acd.val % 2 = 1 then none else some
      ⟨cc, px, py, amx, amy, dx, c3, [.ac acd, .ac (Fin.ofNat 4 (acd.val + 1)), .flag 5, .flag 6],
        fun x y _ s t => complexResult sat acd ((s.rdAc acd .mac).toInt + (re x * re y - im x * im y) * 2 ^ 36)
          ((s.rdAc (Fin.ofNat 4 (acd.val + 1)) .mac).toInt + (re x * im y + im x * re y) * 2 ^ 36) s t⟩
  | _ => none

def pxOf (px : Fin 8) : Fin 16 := Fin.ofNat 16 px.val
def pyOf (py : Fin 8) : Fin 16 := Fin.ofNat 16 (8 + py.val)

/-- Px after the instruction (Table UMD-3): unchanged, a step of +1, −1 or Nx under PMODE. -/
def pxAfter (px : Fin 8) (amx : BitVec 2) (s : State) : Option Addr :=
  if amx = 1 then some (afterStep s (pxOf px) false 1)
  else if amx = 2 then some (afterStep s (pxOf px) false (-1))
  else if amx = 3 then some (afterStep s (pxOf px) true (s.rdN px .addr).toInt)
  else none

/-- Py after the instruction, linear: unchanged, +1, −1 or +2. -/
def pyAfter (py : Fin 8) (amy : BitVec 2) (s : State) : Option Addr :=
  if amy = 1 then some (s.rdP (pyOf py) .addr + 1)
  else if amy = 2 then some (s.rdP (pyOf py) .addr - 1)
  else if amy = 3 then some (s.rdP (pyOf py) .addr + 2)
  else none

/-- The places that a dual fetch writes beside the accumulators. -/
def dualPlaces (r : DualRow) : List Loc :=
  r.writes ++ (if r.dx = 0 then [] else [.d r.dx]) ++ (if r.amx = 0 then [] else [.p (pxOf r.px)]) ++
    (if r.amy = 0 then [] else [.p (pyOf r.py)]) ++ (if r.c3 then [.p 13] else [])

/-- X and Y are read from data SRAM or the tile (R221). -/
def dualAddress (a : Addr) : Prop := a.toNat < 0x040000 ∨ (0x100000 ≤ a.toNat ∧ a.toNat < 0x101000)

end Sys2Proof.Claims
end

