-- ==== Sys2Proof/Safety/F36Rows.lean ====
section
/-!
DEFINITION. Sys2Proof/Safety/F36Rows.lean: the F36 instructions in the spec's terms: operands as signed rational numbers, infinities or NaN, results as exact
numbers truncated toward zero (05 R171, Table UMM-8; 07 R235-R239).
-/

namespace Sys2Proof.Claims

open Sys2Proof.Machine

/-- What an F36 word means (Table UMM-8): a finite number with the sign bit it carries, an infinity, or a NaN. -/
inductive Meaning where
  | num (x : ℚ) (neg : Bool)
  | inf (neg : Bool)
  | nan

def meaning (w : Word) : Meaning :=
  let e := (w.extractLsb' 27 8).toNat
  let f := (w.extractLsb' 0 27).toNat
  let sign : ℚ := if w.msb then -1 else 1
  if e = 255 then (if f = 0 then .inf w.msb else .nan)
  else if e = 0 then .num (sign * f * (2 : ℚ) ^ (-153 : Int)) w.msb
  else .num (sign * (1 + f * (2 : ℚ) ^ (-27 : Int)) * (2 : ℚ) ^ ((e : Int) - 127)) w.msb

def nanWord : Word := 0x7FC000000#36
def infWord (neg : Bool) : Word := if neg then 0xFF8000000#36 else 0x7F8000000#36
def zeroWord (neg : Bool) : Word := if neg then 0x800000000#36 else 0#36

/-- What an F36 operation yields: a word that needs no rounding, a word with DZ, the word an invalid operation returns, a nonzero exact number to be truncated,
or an integer with the mark of an inexact conversion. -/
inductive Yield where
  | plain (w : Word)
  | divZero (w : Word)
  | invalid (w : Word)
  | real (x : ℚ)
  | whole (q : Int) (inexact : Bool)

/-- The F36 word of largest magnitude not beyond `x`, with the sign of `x`: truncation toward zero (R236). -/
def truncated (x : ℚ) (r : Word) (y : ℚ) : Prop :=
  meaning r = .num y (decide (x < 0)) ∧ |y| ≤ |x| ∧ ∀ w y' b, meaning w = .num y' b → |y'| ≤ |x| → |y'| ≤ |y|

/-- SR bits 11:7 after an operation: the flags it raises ORed in, no flag cleared (R236). -/
def raised (inx unf ovf dz inv : Bool) (s t : State) : Prop :=
  flag t 7 = (flag s 7 || inx) ∧ flag t 8 = (flag s 8 || unf) ∧ flag t 9 = (flag s 9 || ovf) ∧ flag t 10 = (flag s 10 || dz) ∧
    flag t 11 = (flag s 11 || inv)

/-- The destination and the flags of an F36 result (R236, R237). -/
def yields (o : Yield) (rd : Fin 16) (s t : State) : Prop :=
  match o with
  | .plain w => t.umber.d[rd] = w ∧ raised false false false false false s t
  | .divZero w => t.umber.d[rd] = w ∧ raised false false false true false s t
  | .invalid w => t.umber.d[rd] = w ∧ raised false false false false true s t
  | .real x => ∃ y, truncated x t.umber.d[rd] y ∧
      raised (decide (y ≠ x)) (decide (|x| < (2 : ℚ) ^ (-126 : Int)) && decide (y ≠ x)) (decide ((2 : ℚ) ^ (128 : Int) ≤ |x|)) false false s t
  | .whole q inexact => t.umber.d[rd] = BitVec.ofInt 36 q ∧ raised inexact false false false false s t

/-- A finite exact result: truncated, or a zero of a given sign. -/
def finite (x : ℚ) (zeroNeg : Bool) : Yield := if x = 0 then .plain (zeroWord zeroNeg) else .real x

/-- The sum of two meanings (R236, R237): an exact zero is −0 only for −0 + −0; ∞ − ∞ is invalid. -/
def sumOf (a b : Meaning) : Yield :=
  match a, b with
  | .nan, _ => .plain nanWord
  | _, .nan => .plain nanWord
  | .inf m, .inf n => if m = n then .plain (infWord m) else .invalid nanWord
  | .inf m, .num _ _ => .plain (infWord m)
  | .num _ _, .inf n => .plain (infWord n)
  | .num x m, .num y n => finite (x + y) (decide (x = 0) && decide (y = 0) && m && n)

def opposite : Meaning → Meaning
  | .num x m => .num (-x) (!m)
  | .inf m => .inf (!m)
  | .nan => .nan

/-- The product of two meanings; none for 0 × ∞, which is invalid (R237). -/
def productOf (a b : Meaning) : Option Meaning :=
  match a, b with
  | .nan, _ => some .nan
  | _, .nan => some .nan
  | .inf m, .inf n => some (.inf (xor m n))
  | .inf m, .num y n => if y = 0 then none else some (.inf (xor m n))
  | .num x m, .inf n => if x = 0 then none else some (.inf (xor m n))
  | .num x m, .num y n => some (.num (x * y) (xor m n))

def plainMeaning : Meaning → Yield
  | .nan => .plain nanWord
  | .inf m => .plain (infWord m)
  | .num x m => finite x m

def mulOf (a b : Meaning) : Yield := match productOf a b with | none => .invalid nanWord | some p => plainMeaning p

/-- Dd ± Da × Db with one truncation. -/
def macOf (sub : Bool) (d a b : Meaning) : Yield :=
  match productOf a b with
  | none => .invalid nanWord
  | some p => sumOf d (if sub then opposite p else p)

def recipOf : Meaning → Yield
  | .nan => .plain nanWord
  | .inf m => .plain (zeroWord m)
  | .num x m => if x = 0 then .divZero (infWord m) else .real (1 / x)

/-- NORM.F: the number scaled by a power of two to 1 ≤ |v| < 2; a zero is returned as it is (log 21). -/
def normOf : Meaning → Yield
  | .nan => .plain nanWord
  | .inf m => .plain (infWord m)
  | .num x m => if x = 0 then .plain (zeroWord m) else .real (x * (2 : ℚ) ^ (-(Int.log 2 |x|)))

def expOf : Meaning → Yield
  | .nan => .invalid nanWord
  | .inf _ => .plain 0x7FFFFFFFF#36
  | .num x _ => if x = 0 then .divZero 0x800000000#36 else .plain (BitVec.ofInt 36 (Int.log 2 |x|))

/-- A number toward zero. -/
def toward0 (y : ℚ) : Int := if 0 ≤ y then ⌊y⌋ else ⌈y⌉

/-- A conversion to a word of the range lo-hi (R237): the nearest end, with INV, outside it; 0 with INV for a NaN. -/
def wordOf (lo hi : Int) (k : Int) : Meaning → Yield
  | .nan => .invalid 0
  | .inf m => .invalid (BitVec.ofInt 36 (if m then lo else hi))
  | .num x _ =>
    let y := x * (2 : ℚ) ^ k
    if toward0 y < lo then .invalid (BitVec.ofInt 36 lo)
    else if hi < toward0 y then .invalid (BitVec.ofInt 36 hi)
    else .whole (toward0 y) (decide ((toward0 y : ℚ) ≠ y))

/-- FABS and FNEG: the sign bit alone; a NaN gives the canonical NaN. -/
def signOf (neg : Bool) (w : Word) : Yield :=
  match meaning w with
  | .nan => .plain nanWord
  | _ => .plain (BitVec.cons neg (w.extractLsb' 0 35))

/-- An F36 row: its condition, destination and result. -/
structure FRow where
  cond : Cond
  rd : Fin 16
  out : State → Yield

def f36Rows : Instr → Option FRow
  | .fadd cc rd ra rb => some ⟨cc, rd, fun s => sumOf (meaning (s.rdD ra)) (meaning (s.rdD rb))⟩
  | .fsub cc rd ra rb => some ⟨cc, rd, fun s => sumOf (meaning (s.rdD ra)) (opposite (meaning (s.rdD rb)))⟩
  | .fmul cc rd ra rb => some ⟨cc, rd, fun s => mulOf (meaning (s.rdD ra)) (meaning (s.rdD rb))⟩
  | .fmac cc rd ra rb => some ⟨cc, rd, fun s => macOf false (meaning (s.rdD rd)) (meaning (s.rdD ra)) (meaning (s.rdD rb))⟩
  | .fmsu cc rd ra rb => some ⟨cc, rd, fun s => macOf true (meaning (s.rdD rd)) (meaning (s.rdD ra)) (meaning (s.rdD rb))⟩
  | .frcp cc rd ra => some ⟨cc, rd, fun s => recipOf (meaning (s.rdD ra))⟩
  | .fabs cc rd ra => some ⟨cc, rd, fun s => signOf false (s.rdD ra)⟩
  | .fneg cc rd ra => some ⟨cc, rd, fun s => signOf (!(s.rdD ra).msb) (s.rdD ra)⟩
  | .normF cc rd ra => some ⟨cc, rd, fun s => normOf (meaning (s.rdD ra))⟩
  | .expF cc rd ra => some ⟨cc, rd, fun s => expOf (meaning (s.rdD ra))⟩
  | .fcvtFi cc rd ra k => some ⟨cc, rd, fun s => finite ((s.rdD ra).toInt * (2 : ℚ) ^ k.toInt) false⟩
  | .fcvtFu cc rd ra k => some ⟨cc, rd, fun s => finite ((s.rdD ra).toNat * (2 : ℚ) ^ k.toInt) false⟩
  | .fcvtIf cc rd ra k => some ⟨cc, rd, fun s => wordOf (-2 ^ 35) (2 ^ 35 - 1) k.toInt (meaning (s.rdD ra))⟩
  | .fcvtUf cc rd ra k => some ⟨cc, rd, fun s => wordOf 0 (2 ^ 36 - 1) k.toInt (meaning (s.rdD ra))⟩
  | _ => none

def Yield.isInvalid : Yield → Bool
  | .invalid _ => true
  | _ => false

/-- SR.FTRAP as the instruction reads it. -/
def ftrap (s : State) : Bool := (s.rdCtl 0).getLsbD 27

/-- The places an F36 result writes. -/
def fPlaces (rd : Fin 16) : List Loc := [.d rd, .flag 7, .flag 8, .flag 9, .flag 10, .flag 11]

/-! ### FCMP (R239) -/

/-- The order of two meanings: none if either is a NaN; infinities lie beyond every number. -/
def order : Meaning → Meaning → Option Ordering
  | .nan, _ => none
  | _, .nan => none
  | .inf m, .inf n => some (if m = n then .eq else if m then .lt else .gt)
  | .inf m, .num _ _ => some (if m then .lt else .gt)
  | .num _ _, .inf n => some (if n then .gt else .lt)
  | .num x _, .num y _ => some (if x = y then .eq else if x < y then .lt else .gt)

def fcmpRow (cc : Cond) (ra rb : Fin 16) : Row :=
  { cond := cc, writes := [.flag 2, .flag 3, .flag 4, .flag 5],
    holds := fun s t =>
      let o := order (meaning (s.rdD ra)) (meaning (s.rdD rb))
      (z t = decide (o = some .eq)) ∧ (n t = decide (o = some .lt)) ∧ v t = false ∧ (c t = decide (o ≠ none)) }

def fcmpRows : Instr → Option Row
  | .fcmp cc ra rb => some (fcmpRow cc ra rb)
  | _ => none

end Sys2Proof.Claims
end

