-- ==== Sys2Proof/Safety/FlowRows.lean ====
section
/-!
DEFINITION. Sys2Proof/Safety/FlowRows.lean: bit operations, control flow and control registers of Umber in the spec's terms (05 R160-R169; 06 R203-R208; 07 R228,
R245).
-/

namespace Sys2Proof.Claims

open Sys2Proof.Machine

/-- What stays apart from the flow of the program. -/
structure Stays (ls : List Loc) (s t : State) : Prop where
  regs : RegsKept ls s t
  cells : CellsKept s t
  buffers : BuffersKept s t
  blocks : BlocksKept fetchKeeps s t

/-! ### Bits (Tables UMM-5 and UMI-10) -/

/-- SR.DOM and SR.PRV may access a bit: the regions govern 0x100-0xFFF (R173). -/
def bitPermitted (s : State) (b : BitVec 12) (need : Need) : Prop :=
  b.toNat < 0x100 ∨ s.regionFail s.umberAcc spBit (b.setWidth 24) need = none

/-- A bit read in one go: a flag, a lock bit, the bit RAM; the reserved range and an unallocated peripheral bit read 0 (R167, R168). A peripheral bit is read when
no queued write of Umber's for its island waits (R264). -/
def bitRead (s : State) (b : BitVec 12) : Option Bool :=
  if b.toNat < 12 then some (s.rdFlag (Fin.ofNat 12 b.toNat))
  else if b.toNat < 0x100 then some false
  else if b.toNat < 0x200 then some (s.lockOwner (b.extractLsb' 0 8)).isSome
  else if b.toNat < 0x800 then some (s.umber.bitRam.getLsbD (b.toNat - 0x200))
  else match bitHome b with
    | none => some false
    | some i => if s.umber.pwq.any (fun w => decide (w.tgt.shell = shellOf i)) then none else some (s.periBit b)

/-- `t` with the lock bits, the bit RAM and the parameter queue of `s`. -/
def bitsBack (s t : State) : State :=
  { t with umber := { t.umber with locks := s.umber.locks, bitRam := s.umber.bitRam, pwq := s.umber.pwq } }

/-- After bit `b` has been written `w`: that bit alone has changed, and nothing else. -/
structure BitWritten (b : BitVec 12) (w : Bool) (s t : State) : Prop where
  rest : OnlyRegs (if b.toNat < 12 then [.flag (Fin.ofNat 12 b.toNat)] else []) s (bitsBack s t)
  flag : b.toNat < 12 → flag t b.toNat = w
  locks : ∀ k : BitVec 8, (b ≠ 0x100 + k.setWidth 12 → t.lockOwner k = s.lockOwner k) ∧
    (b = 0x100 + k.setWidth 12 → t.lockOwner k = if w then some ((s.lockOwner k).getD (s.umber.sr.extractLsb' 16 4)) else none)
  ram : ∀ k < 1536, t.umber.bitRam.getLsbD k = if b.toNat = 0x200 + k then w else s.umber.bitRam.getLsbD k
  queue : t.umber.pwq = if 0x800 ≤ b.toNat ∧ (bitHome b).isSome then
      s.umber.pwq ++ [{ tgt := .bit b, val := if w then 1 else 0, dom := s.umber.sr.extractLsb' 16 4, prv := s.umber.sr.getLsbD 20, latched := none }]
    else s.umber.pwq

/-- A write of a peripheral bit finds room among the eight entries of the parameter queue (R263). -/
def bitRoom (s : State) (b : BitVec 12) : Prop := 0x800 ≤ b.toNat → (bitHome b).isSome → s.umber.pwq.length < 8

/-- No revocation of SR.DOM has come between the check of the instruction and its set of the lock bit (R185). -/
def lockFree (s : State) (b : BitVec 12) : Prop := 0x100 ≤ b.toNat → b.toNat < 0x200 → s.umber.inFlight = 0

/-- The bit may be cleared: a lock bit by its owner or at PRV = 1 (R169). -/
def mayClear (s : State) (b : BitVec 12) : Prop :=
  0x100 ≤ b.toNat → b.toNat < 0x200 → s.lockOwner (b.extractLsb' 0 8) = none ∨ s.lockOwner (b.extractLsb' 0 8) = some (s.umber.sr.extractLsb' 16 4) ∨
    s.umber.sr.getLsbD 20 = true

/-- An instruction that writes one bit: its condition, the bit and its new value. BTGL of a lock bit and a bit number above 35 are reserved (R169, R207). -/
structure BitRow where
  cond : Cond
  bit : BitVec 12
  value : State → Option Bool

def bitRows : Instr → Option BitRow
  | .bset cc b => some ⟨cc, b, fun _ => some true⟩
  | .bclr cc b => some ⟨cc, b, fun _ => some false⟩
  | .btgl cc b => if 0x100 ≤ b.toNat ∧ b.toNat < 0x200 then none else some ⟨cc, b, fun s => (bitRead s b).map (fun w => !w)⟩
  | .bmovToBit cc b rd k => if 36 ≤ k.toNat then none else some ⟨cc, b, fun s => some ((s.rdD rd).getLsbD k.toNat)⟩
  | _ => none

/-- An instruction that reads one bit into a predicate or a bit of Dd (Table UMI-10). -/
structure BitReadRow where
  cond : Cond
  bit : BitVec 12
  dest : Loc
  holds : Bool → State → State → Prop

def predRow (cc : Cond) (pb : Fin 2) (b : BitVec 12) (f : Bool → Bool → Bool) : BitReadRow :=
  ⟨cc, b, .flag (Fin.ofNat 12 pb.val), fun w s t => flag t pb.val = f (s.rdFlag (Fin.ofNat 12 pb.val)) w⟩

def bitReadRows : Instr → Option BitReadRow
  | .btst cc pb compl b => some (predRow cc pb b (fun _ w => w != compl))
  | .band cc pb compl b => some (predRow cc pb b (fun p w => p && (w != compl)))
  | .bor cc pb compl b => some (predRow cc pb b (fun p w => p || (w != compl)))
  | .bmovFromBit cc rd k b => if 36 ≤ k.toNat then none else some ⟨cc, b, .d rd, fun w s t =>
      ∀ i < 36, (t.umber.d[rd]).getLsbD i = if i = k.toNat then w else (s.rdD rd).getLsbD i⟩
  | _ => none

/-! ### Branches (Table UMI-11) -/

/-- After a branch: its first slot is next, and what follows slot 2 is held (R203). -/
structure Branched (ls : List Loc) (taken : Bool) (target : Addr) (s t : State) : Prop where
  pc : t.umber.pc = s.umber.pc + 1
  slots : t.umber.slots = some { slot := 1, taken := taken, target := target }
  stays : Stays ls s t

/-- A branch without a frame: condition, target as read before any write (R213), whether it links. -/
structure FlowRow where
  cond : Cond
  target : State → Addr
  link : Bool

def flowRows : Instr → Option FlowRow
  | .br cc disp => some ⟨cc, fun s => s.umber.pc + disp, false⟩
  | .call cc disp => some ⟨cc, fun s => s.umber.pc + disp, true⟩
  | .jmp cc pa => some ⟨cc, fun s => s.rdP pa .addr, false⟩
  | .jcall cc pa => some ⟨cc, fun s => s.rdP pa .addr, true⟩
  | _ => none

/-! ### Frames (R205, R206) -/

/-- The registers that a mask selects, by bit of MASK12: D4-D11, P10-P13. -/
def selected (mask : BitVec 12) : List (Fin 12) := (List.finRange 12).filter (fun i => mask.getLsbD i.val)

/-- Bits 0-7 name D4-D11, bits 8-11 P10-P13. -/
def frameLoc (i : Fin 12) : Loc := if i.val < 8 then .d (Fin.ofNat 16 (4 + i.val)) else .p (Fin.ofNat 16 (2 + i.val))

/-- What bit i saves. -/
def savedWord (s : State) (i : Fin 12) : Word :=
  if i.val < 8 then s.rdD (Fin.ofNat 16 (4 + i.val)) else (s.rdP (Fin.ofNat 16 (2 + i.val)) .data).setWidth 36

/-- The words of a frame downward from T − 1. -/
def frameOf (s : State) (mask : BitVec 12) : List Word :=
  [(s.umber.pc + 3).setWidth 36, s.rdSr] ++ (selected mask).map (savedWord s) ++
    [BitVec.ofNat 36 (mask.toNat + 2 ^ 12 * ((selected mask).length + 3))]

/-- The addresses T − 1, T − 2, … of `n` words. -/
def below (top : Addr) (n : Nat) : List Addr := (List.range n).map (fun j => top - BitVec.ofNat 24 (j + 1))

/-- Whole-word stores made one after the other from `s` to `t`, each in the state that the access of the one before it leaves (R205, R265). -/
def storedAll : List (Addr × Word) → State → State → Prop
  | [], s, t => CellsKept s t ∧ t.umber.sb = s.umber.sb ∧ t.umber.resv = s.umber.resv
  | e :: es, s, t => StoredAt e.1 15 e.2 s (stored e.1 e.2 s) ∧ storedAll es (stored e.1 e.2 s) t

/-- CALLM and CALLMR: condition, mask and target. -/
def frameRows : Instr → Option (Cond × BitVec 12 × (State → Addr))
  | .callm cc mask disp => some (cc, mask, fun s => s.umber.pc + disp.signExtend 24)
  | .callmr cc mask pt => some (cc, mask, fun s => s.rdP pt .addr)
  | _ => none

/-- A frame header as RETM accepts it (R206). -/
def goodHeader (h : Word) : Prop :=
  h.toNat < 2 ^ 20 ∧ (h.extractLsb' 12 8).toNat = (selected (h.extractLsb' 0 12)).length + 3

/-! ### Control registers (Table UMM-2) -/

/-- MVTC is permitted: SR, PMODE and BSTAT at any level, the others but VBASE at PRV = 1 (R160, R174). -/
def mayWrite (prv : Bool) (i : Fin 17) : Prop := i = 0 ∨ i = 1 ∨ i = 15 ∨ (prv = true ∧ i ≠ 16)

/-- MVFC is permitted: at user level only what Table UMM-2 marks "read". -/
def mayRead (prv : Bool) (i : Fin 17) : Prop := prv = true ∨ i ∈ [0, 1, 2, 12, 15, 16]

/-- The bits of a control register that a write can set, for all but SR, IPEND, BSTAT and VBASE (Tables UMM-2, UMM-3 and UMM-10, R159, R230): 16 mode bits, V and COUNT,
24 address bits, the fields of SR, the fields of a cause record, 32 sources. -/
def holds (i : Fin 17) (k : Nat) : Bool :=
  match i.val with
  | 1 => decide (k < 16)
  | 2 => decide (k < 13) || k == 35
  | 3 => decide (k < 24)
  | 4 => decide (k < 12) || (decide (16 ≤ k) && decide (k < 29))
  | 5 => decide (k < 6) || (decide (8 ≤ k) && decide (k < 24))
  | 6 => decide (k < 24)
  | 7 => decide (k < 24)
  | 8 => decide (k < 24)
  | 9 => decide (k < 12) || (decide (16 ≤ k) && decide (k < 29))
  | 10 => decide (k < 6) || (decide (8 ≤ k) && decide (k < 24))
  | _ => decide (k < 32)

end Sys2Proof.Claims
end

