-- ==== Sys2Proof/Safety/Exceptions.lean ====
section
/-!
DEFINITION. Sys2Proof/Safety/Exceptions.lean: exceptions of Umber in the spec's terms: which instruction raises what, and what entry and return do (05 R172-R184;
06 R197, R203).
-/

namespace Sys2Proof.Claims

open Sys2Proof.Machine

/-! ### Entry -/

/-- The cause word of Table UMM-10 outside a repeat. -/
def causeOf (vec : Nat) (dbl : Bool) (slots : Option SlotSt) (code : BitVec 8) (sub : BitVec 3) : Word :=
  let ds := match slots with | some k => k.slot.toNat | none => 0
  let bt := match slots with | some k => k.taken.toNat | none => 0
  BitVec.ofNat 36 (vec + 2 ^ 8 * dbl.toNat + 2 ^ 10 * ds + 2 ^ 12 * bt + 2 ^ 13 * code.toNat + 2 ^ 21 * sub.toNat)

/-- Vector v: the four words at VBASE + 4v (R176). -/
def vectorOf (s : State) (v : Nat) : Addr := s.umber.vbase.extractLsb' 0 24 + BitVec.ofNat 24 (4 * v)

/-- SR at the start of a handler (R178, R180): DOM 1, PRV 1, IE 0, no repeat, and the named bit set. -/
structure HandlerSr (bit : Nat) (level : Option (BitVec 3)) (s t : State) : Prop where
  dom : t.umber.sr.extractLsb' 16 4 = 1#4
  prv : flag t 20 = true
  ie : flag t 21 = false
  rpta : flag t 28 = false
  held : flag t bit = true
  ipl : ∀ l, level = some l → t.umber.sr.extractLsb' 22 3 = l
  rest : ∀ k, k ∉ [16, 17, 18, 19, 20, 21, 28, bit] → (level = none ∨ k ∉ [22, 23, 24]) → flag t k = flag s k

/-- The parameters that an entry may change beside those of the fetch and of an access: DOM.LASTFLT. -/
def excKeeps (i : Nat) : Prop := memKeeps i ∧ i ≠ P.DOM_LASTFLT

/-- What every entry leaves: registers but those at `ls`, memories, buffers and blocks; no slot, repeat or reservation is left (R175, R242). -/
structure EntryLeaves (ls : List Loc) (s t : State) : Prop where
  regs : RegsKept (.ctl 0 :: ls) s t
  cells : CellsKept s t
  sb : t.umber.sb = s.umber.sb
  pwq : t.umber.pwq = s.umber.pwq
  locks : t.umber.locks = s.umber.locks
  bitRam : t.umber.bitRam = s.umber.bitRam
  blocks : BlocksKept excKeeps s t
  slots : t.umber.slots = none
  rpt : t.umber.rpt = none
  resv : t.umber.resv = none

/-- The SR that is saved: SR before the entry, RPTA clear outside a repeat. -/
def savedSr (s : State) (w : Word) : Prop := ∀ k < 36, w.getLsbD k = (flag s k && k != 28)

/-- Exception entry (R178). -/
structure Entered (vec : Nat) (pc : Addr) (cause : Word) (ipl : Option (BitVec 3)) (eaddr etgt : Option Addr) (ls : List Loc) (s t : State) : Prop where
  epc : t.umber.epc = pc.setWidth 36
  esr : savedSr s t.umber.esr
  ecause : t.umber.ecause = cause
  eaddr : t.umber.eaddr = match eaddr with | some a => a.setWidth 36 | none => s.umber.eaddr
  etgt : t.umber.etgt = match etgt with | some a => a.setWidth 36 | none => s.umber.etgt
  sr : HandlerSr 25 ipl s t
  pc : t.umber.pc = vectorOf s vec
  leaves : EntryLeaves ([.ctl 3, .ctl 4, .ctl 5, .ctl 6, .ctl 7] ++ ls) s t

/-- NMI entry (R180). -/
structure EnteredNmi (pc : Addr) (cause : Word) (ls : List Loc) (s t : State) : Prop where
  nepc : t.umber.nepc = pc.setWidth 36
  nesr : savedSr s t.umber.nesr
  ncause : t.umber.ncause = cause
  sr : HandlerSr 26 none s t
  pc : t.umber.pc = vectorOf s 2
  leaves : EntryLeaves ([.ctl 8, .ctl 9, .ctl 10] ++ ls) s t

/-! ### What raises what -/

/-- What a fault leaves beside its entry: nothing; SYS.PERR's record of a denied parameter access (R624); the records of words found uncorrectable or corrected,
with the word of SRAM that becomes poisoned (R299, R302, R308). -/
inductive Records where
  | none
  | denied (i : BitVec 13) (write : Bool)
  | memory (found : Option (BitVec 18))
  deriving DecidableEq, Repr

/-- A fault or trap (Table UMM-9): vector, sub-cause, TRAP code, the address of a data fault, a bit of BSTAT that it sets, the index of a parameter that BSTAT
takes, and what it leaves beside its entry. -/
structure Raised where
  vec : Nat
  sub : BitVec 3 := 0
  code : BitVec 8 := 0
  eaddr : Option Addr := none
  bstat : Option Nat := none
  index : Option (BitVec 13) := none
  records : Records := .none
  deriving DecidableEq, Repr

/-- Control flow, which a delay slot may not hold (R203). -/
def isFlow (i : Instr) : Bool :=
  (flowRows i).isSome || (frameRows i).isSome ||
    match i with
    | .retm _ | .reti _ | .stop _ | .trap _ _ | .rpt _ _ => true
    | _ => false

/-- The reserved forms of the instruction rows (R197): they trap whatever the condition. -/
def reservedForm : Instr → Prop
  | .reservedOpcode _ => True
  | .exts _ _ _ b => 36 ≤ b.toNat
  | .extz _ _ _ b => 36 ≤ b.toNat
  | .mvda _ _ _ part => part = 3
  | .mvad _ _ part _ => part = 3
  | .cmac _ _ acd _ _ => acd.val % 2 = 1
  | .cmacj _ _ acd _ _ => acd.val % 2 = 1
  | .exta _ _ _ _ k => 45 ≤ k.toNat
  | .macd _ _ _ _ py _ _ _ c3 => c3 = true ∧ py.val = 5
  | .msud _ _ _ _ py _ _ _ c3 => c3 = true ∧ py.val = 5
  | .mpyd _ _ _ py _ _ _ c3 => c3 = true ∧ py.val = 5
  | .cmacd _ _ acd _ _ _ _ _ c3 => c3 = true ∨ acd.val % 2 = 1
  | .bmovToBit _ _ _ k => 36 ≤ k.toNat
  | .bmovFromBit _ _ k _ => 36 ≤ k.toNat
  | .ld _ _ pp am ofs => ¬ legal pp am ofs
  | .st _ _ pp am ofs => ¬ legal pp am ofs
  | .ldp _ _ pp am ofs => ¬ legal pp am ofs
  | .stp _ _ pp am ofs => ¬ legal pp am ofs
  | .ldo _ _ pp am ofs => ¬ legal pp am ofs
  | .sto _ _ pp am ofs => ¬ legal pp am ofs
  | .ldh _ _ _ pp am ofs => ¬ legal pp am ofs
  | .ldhu _ _ _ pp am ofs => ¬ legal pp am ofs
  | .sth _ _ _ pp am ofs => ¬ legal pp am ofs
  | .ldq _ _ _ pp am ofs => ¬ legal pp am ofs
  | .ldqu _ _ _ pp am ofs => ¬ legal pp am ofs
  | .stq _ _ _ pp am ofs => ¬ legal pp am ofs
  | .ldd _ rd pp am ofs => ¬ legal pp am ofs ∨ rd.val % 2 = 1
  | .std _ rd pp am ofs => ¬ legal pp am ofs ∨ rd.val % 2 = 1
  | .lr _ _ pp am ofs => ¬ (legal pp am ofs ∧ am.toNat < 2)
  | .sc _ _ pp am ofs => ¬ (legal pp am ofs ∧ am.toNat < 2)
  | .atadd _ _ pp am ofs => ¬ (legal pp am ofs ∧ am.toNat < 2)
  | .atswp _ _ pp am ofs => ¬ (legal pp am ofs ∧ am.toNat < 2)
  | _ => False

/-- The address lies in the parameter space or the radio FIFO, which take single whole words only (R166). -/
def paramOrFifo (a : Addr) : Prop := (0x400000 ≤ a.toNat ∧ a.toNat < 0x402000) ∨ (0x410000 ≤ a.toNat ∧ a.toNat < 0x410200)

/-- The region check refuses the address (R173, R322, R323). -/
def regionRaises (s : State) (space : BitVec 2) (need : Need) (a : Addr) (x : Raised) : Prop :=
  ∃ sub, s.regionFail s.umberAcc space a need = some sub ∧ x = { vec := 3, sub := sub, eaddr := some a }

/-- The address lies in no range of Table UMM-4 that takes the access, or in an arch or the tile that is not READY (R191, R297). -/
def busRaises (s : State) (need : Need) (a : Addr) (x : Raised) : Prop :=
  ((place a = .unmapped ∨ (0x200000 ≤ a.toNat ∧ a.toNat < 0x200100) ∨
      (need ≠ .r ∧ ((0x200000 ≤ a.toNat ∧ a.toNat < 0x208000) ∨ (0x300000 ≤ a.toNat ∧ a.toNat < 0x330000)))) ∧ x = { vec := 5, eaddr := some a }) ∨
  (((a.toNat < 0x040000 ∧ s.archState (a.toNat / 65536) ≠ 2) ∨ (0x100000 ≤ a.toNat ∧ a.toNat < 0x101000 ∧ s.archState 4 ≠ 2)) ∧
    x = { vec := 5, eaddr := some a, bstat := some 3 })

/-- A load finds its word poisoned or uncorrectable, and the store buffer does not hold all its lanes (R268, R299, R300, R302, R308, Table MEM-6). -/
def poisonRaises (s : State) (a : Addr) (x : Raised) : Prop :=
  match place a with
  | .sram b => s.archState (b.toNat / 65536) = 2 ∧ sramWord s b = none ∧
      x = { vec := 4, eaddr := some a, records := .memory (if s.poisoned b then none else some b) }
  | .tile b => s.archState 4 = 2 ∧ readable (s.tileCell b) = none ∧ x = { vec := 4, eaddr := some a, records := .memory none }
  | .dnvm b => readable (s.dnvmCell b) = none ∧ x = { vec := 4, eaddr := some a, records := .memory none }
  | .prog b => readable (s.progCell b) = none ∧ x = { vec := 4, eaddr := some a, records := .memory none }
  | _ => False

/-- A store of part of a word finds it poisoned, in the tile uncorrectable (R288, R289, Table MEM-6). -/
def laneRaises (s : State) (mask : BitVec 4) (a : Addr) (x : Raised) : Prop :=
  mask ≠ 15 ∧ x = { vec := 4, eaddr := some a } ∧
    ((a.toNat < 0x040000 ∧ s.archState (a.toNat / 65536) = 2 ∧ s.poisoned (a.extractLsb' 0 18) = true) ∨
      (0x100000 ≤ a.toNat ∧ a.toNat < 0x101000 ∧ s.archState 4 = 2 ∧ readable (s.tileCell (a.extractLsb' 0 12)) = none))

/-- The mask of its block denies the domain a populated parameter (SUB 3, BSTAT.DENIED with the index, R191, R324), or a store needs PRV = 1 (SUB 4, R326). -/
def denialRaises (s : State) (write : Bool) (a : Addr) (x : Raised) : Prop :=
  match place a with
  | .par i => populated i.toNat = true ∧
      ((s.maskDenies s.umberAcc i.toNat write = true ∧ x = { vec := 3, sub := 3, eaddr := some a, bstat := some 2, index := some i, records := .denied i write }) ∨
        (s.maskDenies s.umberAcc i.toNat write = false ∧ privDenies s.umberAcc i.toNat write = true ∧
          x = { vec := 3, sub := 4, eaddr := some a, records := .denied i write }))
  | _ => False

/-- A load of a word, or of a lane of it, in the order of R179. -/
def loadRaises (whole : Bool) (s : State) (a : Addr) (x : Raised) : Prop :=
  (whole = false ∧ paramOrFifo a ∧ x = { vec := 6, eaddr := some a }) ∨
  ((whole = true ∨ ¬ paramOrFifo a) ∧
    (regionRaises s spData .r a x ∨ (permits s .r a ∧ (busRaises s .r a x ∨ poisonRaises s a x ∨ denialRaises s false a x))))

/-- A store of lanes of a word. -/
def storeRaises (mask : BitVec 4) (s : State) (a : Addr) (x : Raised) : Prop :=
  (mask ≠ 15 ∧ paramOrFifo a ∧ x = { vec := 6, eaddr := some a }) ∨
  ((mask = 15 ∨ ¬ paramOrFifo a) ∧ (regionRaises s spData (storeNeeds mask) a x ∨
    (permits s (storeNeeds mask) a ∧ (busRaises s (storeNeeds mask) a x ∨ laneRaises s mask a x ∨ denialRaises s true a x))))

/-- LDD and STD: an odd address, or either word in the parameter space or the radio FIFO, faults (R166); then both words pass the region check, and each is
accessed. -/
def pairRaises (need : Need) (s : State) (a : Addr) (x : Raised) : Prop :=
  let bad := a.getLsbD 0 = true ∨ paramOrFifo a ∨ paramOrFifo (a + 1)
  (bad ∧ x = { vec := 6, eaddr := some a }) ∨
  (¬ bad ∧ (regionRaises s spData need a x ∨ (permits s need a ∧ (regionRaises s spData need (a + 1) x ∨ (permits s need (a + 1) ∧
    (busRaises s need a x ∨ (need = .r ∧ (poisonRaises s a x ∨ ((dataWord s a).isSome = true ∧ poisonRaises s (a + 1) x)))))))))

/-- LR, SC, ATADD and ATSWP: condition, permission and mode. -/
def atomAccesses : Instr → Option (Cond × Need × Fin 16 × BitVec 3 × BitVec 12)
  | .lr cc _ pp am ofs => some (cc, .r, pp, am, ofs)
  | .sc cc _ pp am ofs => some (cc, .w, pp, am, ofs)
  | i => (atomRows i).map (fun r => (r.cond, .rw, r.pp, r.am, r.ofs))

/-- The accesses to data space. An atomic reaches data SRAM only (R241), its arch READY; that it drains the store buffer and then finds a poisoned word is left out
here. -/
def memoryRaises (i : Instr) (s : State) (x : Raised) : Prop :=
  match i with
  | .ldd cc _ pp am ofs => condTrue cc s = true ∧ pairRaises .r s (address pp am ofs s) x
  | .std cc _ pp am ofs => condTrue cc s = true ∧ pairRaises .w s (address pp am ofs s) x
  | i => match loadRows i, storeRows i, atomAccesses i with
    | some r, _, _ => condTrue r.cond s = true ∧
        loadRaises (match i with | .ld .. => true | .ldp .. => true | .ldo .. => true | _ => false) s (address r.pp r.am r.ofs s) x
    | _, some r, _ => condTrue r.cond s = true ∧ storeRaises r.mask s (address r.pp r.am r.ofs s) x
    | _, _, some (cc, need, pp, am, ofs) =>
        let a := address pp am ofs s
        condTrue cc s = true ∧ (regionRaises s spData need a x ∨ (permits s need a ∧
          ((0x040000 ≤ a.toNat ∧ x = { vec := 5, eaddr := some a }) ∨ (a.toNat < 0x040000 ∧ busRaises s need a x))))
    | _, _, _ => False

/-- A bit operation: BTGL of a lock bit and TAS outside lock bits and RAM are reserved (R169, R197, R245); the region check refuses the bit; a lock bit is cleared
by neither its owner nor PRV = 1 (SUB 5, R169), or set after a revocation came first (SUB 1, R185). -/
def bitRaises (i : Instr) (s : State) (x : Raised) : Prop :=
  let refused (b : BitVec 12) (need : Need) : Prop := 0x100 ≤ b.toNat ∧ regionRaises s spBit need (b.setWidth 24) x
  let late (b : BitVec 12) : Prop := 0x100 ≤ b.toNat ∧ b.toNat < 0x200 ∧ s.umber.inFlight ≠ 0 ∧ x = { vec := 3, sub := 1, eaddr := some (b.setWidth 24) }
  match i, bitRows i, bitReadRows i with
  | .tas cc _ _ b, _, _ => condTrue cc s = true ∧ (((b.toNat < 0x100 ∨ 0x800 ≤ b.toNat) ∧ x = { vec := 7 }) ∨
      (b.toNat < 0x800 ∧ refused b .rw) ∨ (bitPermitted s b .rw ∧ late b))
  | _, some r, _ => condTrue r.cond s = true ∧ (refused r.bit .w ∨ (bitPermitted s r.bit .w ∧
      ((r.value s = some false ∧ ¬ mayClear s r.bit ∧ x = { vec := 3, sub := 5, eaddr := some (r.bit.setWidth 24) }) ∨
        (r.value s = some true ∧ late r.bit))))
  | _, _, some r => condTrue r.cond s = true ∧ refused r.bit .r
  | .btgl cc _, none, _ => condTrue cc s = true ∧ x = { vec := 7 }
  | _, _, _ => False

/-- TRAP, the privileged instructions at PRV = 0, the control registers a domain may not reach, and an F36 invalid operation with FTRAP = 1 (R160, R174, R208,
R238). -/
def otherRaises (i : Instr) (s : State) (x : Raised) : Prop :=
  match i with
  | .trap cc code => condTrue cc s = true ∧ x = { vec := 9, code := code }
  | .reti cc => condTrue cc s = true ∧ flag s 20 = false ∧ x = { vec := 3, sub := 4 }
  | .stop cc => condTrue cc s = true ∧ flag s 20 = false ∧ x = { vec := 3, sub := 4 }
  | .mvtc cc cidx _ => condTrue cc s = true ∧
      if h : cidx.toNat < 17 then ¬ mayWrite (flag s 20) ⟨cidx.toNat, h⟩ ∧ x = { vec := 3, sub := 4 } else x = { vec := 7 }
  | .mvfc cc _ cidx => condTrue cc s = true ∧
      if h : cidx.toNat < 17 then ¬ mayRead (flag s 20) ⟨cidx.toNat, h⟩ ∧ x = { vec := 3, sub := 4 } else x = { vec := 7 }
  | i => match f36Rows i with
    | some r => condTrue r.cond s = true ∧ (r.out s).isInvalid = true ∧ ftrap s = true ∧ x = { vec := 8 }
    | none => False

/-- The instruction at the program counter raises `x` (Table UMM-9, R174, R179, R197, R203, R208, R238). -/
def raises (i : Instr) (s : State) (x : Raised) : Prop :=
  let rsv : Prop := reservedForm i ∨ (isFlow i = true ∧ s.umber.slots.isSome = true)
  (rsv ∧ x = { vec := 7 }) ∨ (¬ rsv ∧ (otherRaises i s x ∨ bitRaises i s x ∨ memoryRaises i s x))

/-! ### What a fault leaves -/

/-- BSTAT after a fault. -/
def bstatAfter (s : State) (x : Raised) : Word :=
  let b := match x.bstat with
    | some k => s.umber.bstat ||| (1#36 <<< k)
    | none => s.umber.bstat
  match x.index with
  | some i => (b &&& ~~~(0x1FFF00#36)) ||| (i.setWidth 36 <<< 8)
  | none => b

/-- The records that a fault leaves hold what it names. -/
def Raised.recorded (x : Raised) (s t : State) : Prop :=
  match x.records with
  | .denied i write =>
    (t.par P.SYS_PERRCNT).toNat % 2 ^ 16 = min ((s.par P.SYS_PERRCNT).toNat % 2 ^ 16 + 1) (2 ^ 16 - 1) ∧
      ((s.par P.SYS_PERR).getLsbD 35 = true → t.par P.SYS_PERR = s.par P.SYS_PERR) ∧
      ((s.par P.SYS_PERR).getLsbD 35 = false → t.par P.SYS_PERR = BitVec.ofNat 36 (i.toNat + 2 ^ 13 + 2 ^ 19 + 2 ^ 20 * write.toNat + 2 ^ 35))
  | .memory (some b) => t.poisoned b = true ∧ t.umber.ipend.getLsbD 28 = true
  | _ => True

/-- `t` with its records as in `s`: SYS.PERR and PERRCNT; Sepia's log queue, MGMT.LOGDROP, interrupt source MEM and the mark of the word found poisoned. The
parameters of block MEM are those of any access to memory (`memKeeps`). -/
def Raised.undone (x : Raised) (s t : State) : State :=
  match x.records with
  | .none => t
  | .denied .. => (t.setPar P.SYS_PERR (s.par P.SYS_PERR)).setPar P.SYS_PERRCNT (s.par P.SYS_PERRCNT)
  | .memory found =>
    let u := t.setPar P.MGMT_LOGDROP (s.par P.MGMT_LOGDROP)
    let u := { u with mgmt := { u.mgmt with logQ := s.mgmt.logQ } }
    let u := u.setUmber { u.umber with ipend := putBit u.umber.ipend 28 (s.umber.ipend.getLsbD 28) }
    match found with
    | some b => putPoison b (s.poisoned b) u
    | none => u

/-- The address that goes to EPC: that of the instruction, for TRAP the next one (Table UMM-9). -/
def returnPoint (s : State) (x : Raised) : Addr := if x.vec = 9 then s.umber.pc + 1 else s.umber.pc

/-! ### Return (R172, R177, R178, R180) -/

/-- SR after RETI from a saved word, but for RPTA: existing bits only, DOM 0 becomes 1, PRV needs DOM 1; EXL clears on a return from an exception and NMIL on one
from an NMI. -/
structure Returned (saved : Word) (nmi : Bool) (t : State) : Prop where
  dom : t.umber.sr.extractLsb' 16 4 = if saved.extractLsb' 16 4 = 0#4 then 1#4 else saved.extractLsb' 16 4
  prv : flag t 20 = (saved.getLsbD 20 && (saved.extractLsb' 16 4 == 0#4 || saved.extractLsb' 16 4 == 1#4))
  exl : flag t 25 = (nmi && saved.getLsbD 25)
  nmil : flag t 26 = (!nmi && saved.getLsbD 26)
  rest : ∀ k, k < 12 ∨ (21 ≤ k ∧ k ≤ 24) ∨ k = 27 → flag t k = saved.getLsbD k
  zero : ∀ k, (12 ≤ k ∧ k < 16) ∨ 29 ≤ k → flag t k = false

/-- The slots that RETI resumes from the cause record and ETGT (R177). -/
def resumedSlots (cause etgt : Word) : Option SlotSt :=
  if cause.extractLsb' 10 2 = 1#2 ∨ cause.extractLsb' 10 2 = 2#2 then
    some { slot := cause.extractLsb' 10 2, taken := cause.getLsbD 12, target := etgt.extractLsb' 0 24 } else none

/-- The repeat that RETI resumes (R177, R230): with ESR.RPTA and RPTC.V, COUNT 1 to 4,096 iterations. -/
def resumedRepeat (saved rptc : Word) : Option (BitVec 13) :=
  if saved.getLsbD 28 = true ∧ rptc.getLsbD 35 = true ∧ 1 ≤ (rptc.extractLsb' 0 13).toNat ∧ (rptc.extractLsb' 0 13).toNat ≤ 4096
  then some (rptc.extractLsb' 0 13) else none

end Sys2Proof.Claims
end

