-- ==== Sys2Proof/Certificates/Slice0/UmberClaims.lean ====
section
/-!
DEFINITION. Sys2Proof/Certificates/Slice0/UmberClaims.lean: the statements about Umber's instructions, under the names that Obligations.lean gives them.
-/

namespace Sys2Proof.Claims

open Sys2Proof.Machine

/-! ### F36 -/

/-- Every F36 arithmetic row, where it does not trap: result, sticky flags, nothing else. -/
def f36Completes : Prop :=
  ∀ (i : Instr) (r : FRow) (s : State), f36Rows i = some r → s.issues → condTrue r.cond s = true → ¬ ((r.out s).isInvalid = true ∧ ftrap s = true) →
    ∃ t, exec i s = .next t ∧ yields (r.out s) r.rd s t ∧ OnlyRegs (fPlaces r.rd) s t

/-! ### False conditions -/

/-- The rows that a false condition leaves without effect: all that write registers, and those with no PM bit. -/
def plainCond : Instr → Option Cond
  | .lr cc _ pp am ofs => if legal pp am ofs ∧ am.toNat < 2 then some cc else none
  | .sc cc _ pp am ofs => if legal pp am ofs ∧ am.toNat < 2 then some cc else none
  | .atadd cc _ pp am ofs => if legal pp am ofs ∧ am.toNat < 2 then some cc else none
  | .atswp cc _ pp am ofs => if legal pp am ofs ∧ am.toNat < 2 then some cc else none
  | .tas cc _ _ _ => some cc
  | .nop cc => some cc
  | .sync cc => some cc
  | .mvtc cc _ _ => some cc
  | .mvfc cc _ _ => some cc
  | i => ((registerRows i).map (·.cond)).orElse fun _ => ((f36Rows i).map (·.cond)).orElse fun _ => ((fcmpRows i).map (·.cond)).orElse fun _ =>
    ((bitRows i).map (·.cond)).orElse fun _ => ((bitReadRows i).map (·.cond)).orElse fun _ => (dualRows i).map (·.cond)

/-- The system rows without slots: a false condition leaves them without effect too, outside a delay slot. -/
def flowCond : Instr → Option Cond
  | .rpt cc _ => some cc
  | .trap cc _ => some cc
  | .reti cc => some cc
  | .stop cc => some cc
  | _ => none

def falseCondition : Prop :=
  (∀ (i : Instr) (cc : Cond) (s : State), plainCond i = some cc → s.issues → condTrue cc s = false → ∃ t, exec i s = .next t ∧ OnlyRegs [] s t) ∧
  (∀ (i : Instr) (cc : Cond) (s : State), flowCond i = some cc → s.issues → s.umber.slots = none → condTrue cc s = false →
    ∃ t, exec i s = .next t ∧ OnlyRegs [] s t)

/-- A Format M load or store: its condition, pointer and mode. -/
def modeRows : Instr → Option (Cond × Fin 16 × BitVec 3 × BitVec 12)
  | .ldd cc rd pp am ofs => if rd.val % 2 = 1 then none else some (cc, pp, am, ofs)
  | .std cc rd pp am ofs => if rd.val % 2 = 1 then none else some (cc, pp, am, ofs)
  | i => ((loadRows i).map (fun r => (r.cond, r.pp, r.am, r.ofs))).orElse fun _ => (storeRows i).map (fun r => (r.cond, r.pp, r.am, r.ofs))

/-- With a false condition the pointer modification of a mode is made if PM = 1 and the mode makes one, and nothing else is done (R196, R201). -/
def pmFalse : Prop :=
  ∀ (i : Instr) (cc : Cond) (pp : Fin 16) (am : BitVec 3) (ofs : BitVec 12) (s : State), modeRows i = some (cc, pp, am, ofs) → legal pp am ofs → s.issues →
    condTrue cc s = false →
    ∃ t, exec i s = .next t ∧
      (ofs.getLsbD 11 = true → am ≠ 1 → pointerMoved pp am [] s t ∧ OnlyRegs (modePlaces pp am) s t) ∧
      (ofs.getLsbD 11 = false ∨ am = 1 → OnlyRegs [] s t)

/-! ### Memory -/

/-- Loads of one word: the destination, the pointer, nothing else but what a correction records. -/
def loadsComplete : Prop :=
  ∀ (i : Instr) (r : LoadRow) (s : State) (w : Word), loadRows i = some r → legal r.pp r.am r.ofs → s.issues → condTrue r.cond s = true →
    permits s .r (address r.pp r.am r.ofs s) → dataWord s (address r.pp r.am r.ofs s) = some w →
    ∃ t, exec i s = .next t ∧ t.umber.get r.dest = r.value w ∧ pointerMoved r.pp r.am [r.dest] s t ∧
      LoadLeaves (r.dest :: modePlaces r.pp r.am) s t

/-- LDD: the words at an even address and the next into Dd and D(d+1), the second read in the state after the access of the first; the records of corrections are
those of the two accesses in turn. -/
def lddCompletes : Prop :=
  ∀ (cc : Cond) (rd pp : Fin 16) (am : BitVec 3) (ofs : BitVec 12) (s : State) (lo hi : Word), rd.val % 2 = 0 → legal pp am ofs → s.issues →
    condTrue cc s = true → (address pp am ofs s).getLsbD 0 = false → permits s .r (address pp am ofs s) → permits s .r (address pp am ofs s + 1) →
    dataWord s (address pp am ofs s) = some lo → dataWord s (address pp am ofs s + 1) = some hi →
    let m := loaded (address pp am ofs s) s.fetched
    ∃ t, exec (.ldd cc rd pp am ofs) s = .next t ∧ t.umber.d[rd] = lo ∧ t.umber.d[Fin.ofNat 16 (rd.val + 1)] = hi ∧ pointerMoved pp am [] s t ∧
      dataWord m (address pp am ofs s + 1) = some hi ∧ (∀ i, i / 256 = 5 → t.par i = (loaded (address pp am ofs s + 1) m).par i) ∧
      LoadLeaves (.d rd :: .d (Fin.ofNat 16 (rd.val + 1)) :: modePlaces pp am) s t

/-- Stores of one word or of its lanes to data SRAM and the tile. -/
def storesComplete : Prop :=
  ∀ (i : Instr) (r : StoreRow) (s : State), storeRows i = some r → legal r.pp r.am r.ofs → s.issues → condTrue r.cond s = true →
    permits s (storeNeeds r.mask) (address r.pp r.am r.ofs s) → storable s (address r.pp r.am r.ofs s) r.mask →
    ∃ t, exec i s = .next t ∧ StoredAt (address r.pp r.am r.ofs s) r.mask (r.data s) s.fetched t ∧ pointerMoved r.pp r.am [] s t ∧
      StoreLeaves (modePlaces r.pp r.am) s t ∧ flowsOn s t

/-- STD: Dd at an even address, then, in the state after that store, D(d+1) at the next. -/
def stdCompletes : Prop :=
  ∀ (cc : Cond) (rd pp : Fin 16) (am : BitVec 3) (ofs : BitVec 12) (s : State), rd.val % 2 = 0 → legal pp am ofs → s.issues → condTrue cc s = true →
    (address pp am ofs s).getLsbD 0 = false → permits s .w (address pp am ofs s) → permits s .w (address pp am ofs s + 1) →
    storable s (address pp am ofs s) 15 → storable s (address pp am ofs s + 1) 15 →
    ∃ t, exec (.std cc rd pp am ofs) s = .next t ∧
      storedAll [(address pp am ofs s, s.rdD rd), (address pp am ofs s + 1, s.rdD (Fin.ofNat 16 (rd.val + 1)))] s.fetched t ∧
      pointerMoved pp am [] s t ∧ StoreLeaves (modePlaces pp am) s t ∧ flowsOn s t

/-- A store is what the next load sees: while the buffer has room, the word of data SRAM holds the stored lanes beside its own, and every other word of data SRAM,
the tile and NVM reads as before. -/
def storeThenLoad : Prop :=
  ∀ (i : Instr) (r : StoreRow) (s : State), storeRows i = some r → legal r.pp r.am r.ofs → s.issues → condTrue r.cond s = true →
    permits s (storeNeeds r.mask) (address r.pp r.am r.ofs s) → (address r.pp r.am r.ofs s).toNat < 0x040000 →
    storable s (address r.pp r.am r.ofs s) r.mask → s.umber.sb.length < 4 →
    ∃ t, exec i s = .next t ∧
      (r.mask = 15 → dataWord t (address r.pp r.am r.ofs s) = some (r.data s)) ∧
      (∀ w, dataWord s (address r.pp r.am r.ofs s) = some w → dataWord t (address r.pp r.am r.ofs s) = some (merged r.mask w (r.data s))) ∧
      (∀ a, a ≠ address r.pp r.am r.ofs s → dataWord t a = dataWord s a)

/-- Whole-word stores to the parameter space and the transmit FIFO enter the parameter queue (R263, R368); a store to an index with no parameter is not sent and sets
BSTAT.NOPARAM with the index (R625); a store to the receive FIFO enters the queue too, though the radio ignores it. -/
def queuedStores : Prop :=
  ∀ (i : Instr) (r : StoreRow) (s : State), storeRows i = some r → r.mask = 15 → legal r.pp r.am r.ofs → s.issues → condTrue r.cond s = true →
    permits s .w (address r.pp r.am r.ofs s) →
    let a := address r.pp r.am r.ofs s
    let entry (tgt : PTarget) : PWrite :=
      { tgt := tgt, val := r.data s, dom := s.umber.sr.extractLsb' 16 4, prv := s.umber.sr.getLsbD 20, latched := none }
    let back (t : State) : State := { t with umber := { t.umber with pwq := s.umber.pwq } }
    (0x400000 ≤ a.toNat → a.toNat < 0x402000 → populated (a.toNat - 0x400000) = true → s.maskDenies s.umberAcc (a.toNat - 0x400000) true = false →
      privDenies s.umberAcc (a.toNat - 0x400000) true = false → s.umber.pwq.length < 8 →
      ∃ t, exec i s = .next t ∧ t.umber.pwq = s.umber.pwq ++ [entry (.par (a.extractLsb' 0 13))] ∧ pointerMoved r.pp r.am [] s t ∧
        OnlyRegs (modePlaces r.pp r.am) s (back t)) ∧
    (0x410000 ≤ a.toNat → a.toNat < 0x410100 → s.umber.pwq.length < 8 →
      ∃ t, exec i s = .next t ∧ t.umber.pwq = s.umber.pwq ++ [entry .fifo] ∧ pointerMoved r.pp r.am [] s t ∧ OnlyRegs (modePlaces r.pp r.am) s (back t)) ∧
    (0x410100 ≤ a.toNat → a.toNat < 0x410200 → s.umber.pwq.length < 8 →
      ∃ t, exec i s = .next t ∧ t.umber.pwq = s.umber.pwq ++ [entry .fifoRx] ∧ pointerMoved r.pp r.am [] s t ∧ OnlyRegs (modePlaces r.pp r.am) s (back t)) ∧
    (0x400000 ≤ a.toNat → a.toNat < 0x402000 → populated (a.toNat - 0x400000) = false →
      ∃ t, exec i s = .next t ∧ t.umber.bstat.getLsbD 0 = true ∧ t.umber.bstat.extractLsb' 8 13 = a.extractLsb' 0 13 ∧
        (∀ k, k = 1 ∨ k = 2 ∨ k = 3 → t.umber.bstat.getLsbD k = s.umber.bstat.getLsbD k) ∧
        pointerMoved r.pp r.am [] s t ∧ OnlyRegs (.ctl 15 :: modePlaces r.pp r.am) s t)

/-- With eight writes waiting, a store for the queue holds: nothing changes but the time that passes (R263). It is one to the radio FIFO, or to a parameter that mask and
privilege permit. -/
def queueFull : Prop :=
  ∀ (i : Instr) (r : StoreRow) (s : State), storeRows i = some r → r.mask = 15 → legal r.pp r.am r.ofs → s.issues → condTrue r.cond s = true →
    let a := address r.pp r.am r.ofs s
    permits s .w a →
    ((0x410000 ≤ a.toNat ∧ a.toNat < 0x410200) ∨
      (0x400000 ≤ a.toNat ∧ a.toNat < 0x402000 ∧ populated (a.toNat - 0x400000) = true ∧ s.maskDenies s.umberAcc (a.toNat - 0x400000) true = false ∧
        privDenies s.umberAcc (a.toNat - 0x400000) true = false)) →
    8 ≤ s.umber.pwq.length → ∃ t, exec i s = .next t ∧ t.umber.pc = s.umber.pc ∧ t.umber.slots = s.umber.slots ∧
      t.umber.hold = .data a ∧ Stays [] s t

/-- LR, SC, ATADD and ATSWP at a readable word of data SRAM, the store buffer drained before them (R242-R244, R269). -/
def atomicsComplete : Prop :=
  (∀ (cc : Cond) (rd pp : Fin 16) (am : BitVec 3) (ofs : BitVec 12) (s : State) (w : Word),
    let a := address pp am ofs s
    let u := drainAll s.fetched
    legalAtomic am ofs → s.issues → condTrue cc s = true → permits s .r a → a.toNat < 0x040000 → s.archState (a.toNat / 65536) = 2 →
    u.poisoned (a.extractLsb' 0 18) = false → readable (u.sramCell (a.extractLsb' 0 18)) = some w → s.umber.sb.length ≤ 4 →
    ∃ t, exec (.lr cc rd pp am ofs) s = .next t ∧ t.umber.d[rd] = w ∧ t.umber.resv = some (a, s.umber.sr.extractLsb' 16 4) ∧ CellsKept u t ∧
      t.umber.sb = [] ∧ StoreLeaves [.d rd] s t ∧ flowsOn s t) ∧
  (∀ (cc : Cond) (rd pp : Fin 16) (am : BitVec 3) (ofs : BitVec 12) (s : State),
    let a := address pp am ofs s
    let u := drainAll s.fetched
    legalAtomic am ofs → s.issues → condTrue cc s = true → permits s .w a → a.toNat < 0x040000 → s.archState (a.toNat / 65536) = 2 →
    s.umber.sb.length ≤ 4 →
    ∃ t, exec (.sc cc rd pp am ofs) s = .next t ∧ t.umber.resv = none ∧ t.umber.sb = [] ∧ StoreLeaves [.flag 0] s t ∧ flowsOn s t ∧
      (s.umber.resv = some (a, s.umber.sr.extractLsb' 16 4) → flag t 0 = true ∧ OneWord (a.extractLsb' 0 18) u t ∧
        t.sramCell (a.extractLsb' 0 18) = storedAs u (a.extractLsb' 0 18) (s.rdD rd) ∧ t.poisoned (a.extractLsb' 0 18) = false) ∧
      (s.umber.resv ≠ some (a, s.umber.sr.extractLsb' 16 4) → flag t 0 = false ∧ CellsKept u t)) ∧
  (∀ (i : Instr) (r : AtomRow) (s : State) (old : Word), atomRows i = some r →
    let a := address r.pp r.am r.ofs s
    let u := drainAll s.fetched
    legalAtomic r.am r.ofs → s.issues → condTrue r.cond s = true → permits s .rw a → a.toNat < 0x040000 → s.archState (a.toNat / 65536) = 2 →
    u.poisoned (a.extractLsb' 0 18) = false → readable (u.sramCell (a.extractLsb' 0 18)) = some old → s.umber.sb.length ≤ 4 →
    ∃ t, exec i s = .next t ∧ t.umber.d[r.rd] = old ∧ t.sramCell (a.extractLsb' 0 18) = storedAs u (a.extractLsb' 0 18) (r.new (s.rdD r.rd) old) ∧
      t.poisoned (a.extractLsb' 0 18) = false ∧ OneWord (a.extractLsb' 0 18) u t ∧ t.umber.resv = resvAfter u (a.extractLsb' 0 18) ∧
      t.umber.sb = [] ∧ StoreLeaves [.d r.rd] s t ∧ flowsOn s t)

/-- The dual-fetch instructions. -/
def dualsComplete : Prop :=
  ∀ (i : Instr) (r : DualRow) (s : State) (x y k : Word), dualRows i = some r →
    let ax := s.rdP (pxOf r.px) .addr
    let ay := s.rdP (pyOf r.py) .addr
    let ac := s.rdP 13 .addr
    s.issues → condTrue r.cond s = true → dualAddress ax → dualAddress ay → permits s .r ax → permits s .r ay → dataWord s ax = some x → dataWord s ay = some y →
    (r.c3 = true → permits s .r (0x300000 + ac) ∧ ac.toNat < 0x030000 ∧ readable (s.progCell (ac.extractLsb' 0 18)) = some k) →
    ∃ t, exec i s = .next t ∧ r.holds x y k s t ∧ (r.dx ≠ 0 → t.umber.d[r.dx] = x) ∧
      (∀ a, pxAfter r.px r.amx s = some a → t.umber.p[pxOf r.px] = a) ∧ (∀ a, pyAfter r.py r.amy s = some a → t.umber.p[pyOf r.py] = a) ∧
      (r.c3 = true → t.umber.p[13] = ac + 1) ∧ LoadLeaves (dualPlaces r) s t

/-! ### Bits -/

def bitWrites : Prop :=
  ∀ (i : Instr) (r : BitRow) (s : State) (w : Bool), bitRows i = some r → s.issues → condTrue r.cond s = true → bitPermitted s r.bit .w →
    r.value s = some w → bitRoom s r.bit → (w = false → mayClear s r.bit) → (w = true → lockFree s r.bit) → ∃ t, exec i s = .next t ∧ BitWritten r.bit w s t

def bitReads : Prop :=
  (∀ (i : Instr) (r : BitReadRow) (s : State) (w : Bool), bitReadRows i = some r → s.issues → condTrue r.cond s = true → bitPermitted s r.bit .r →
    bitRead s r.bit = some w → ∃ t, exec i s = .next t ∧ r.holds w s t ∧ OnlyRegs [r.dest] s t) ∧
  (∀ (cc : Cond) (pb : Fin 2) (compl : Bool) (b : BitVec 12) (s : State) (w : Bool), s.issues → condTrue cc s = true → 0x100 ≤ b.toNat → b.toNat < 0x800 →
    bitPermitted s b .rw → bitRead s b = some w → lockFree s b →
    ∃ t, exec (.tas cc pb compl b) s = .next t ∧ flag t pb.val = (w != compl) ∧
      BitWritten b true s { t with umber := { t.umber with sr := s.umber.sr } } ∧ OnlyRegs [.flag (Fin.ofNat 12 pb.val)] s (bitsBack s t))

/-! ### Flow -/

def branches : Prop :=
  ∀ (i : Instr) (r : FlowRow) (s : State), flowRows i = some r → s.issues → s.umber.slots = none →
    ∃ t, exec i s = .next t ∧
      (condTrue r.cond s = true → Branched (if r.link then [.p 14] else []) true (r.target s) s t ∧ (r.link = true → t.umber.p[14] = s.umber.pc + 3)) ∧
      (condTrue r.cond s = false → Branched [] false (r.target s) s t)

/-- CALLM and CALLMR into data SRAM or the tile: the frame below P15, P15 at its header, the target after two slots. No arch of the frame is asked to leave READY,
which a drain that makes room for a word could let it do (R267, R295). -/
def framesPush : Prop :=
  ∀ (i : Instr) (cc : Cond) (mask : BitVec 12) (target : State → Addr) (s : State), frameRows i = some (cc, mask, target) →
    let top := s.rdP 15 .addr
    let ws := frameOf s mask
    let places := below top ws.length
    s.issues → s.umber.slots = none → condTrue cc s = true → (∀ a ∈ places, permits s .w a ∧ storable s a 15 ∧ (a.toNat < 0x040000 → s.archWant (a.toNat / 65536) = 0)) →
    ∃ t, exec i s = .next t ∧ t.umber.p[15] = top - BitVec.ofNat 24 ws.length ∧ storedAll (places.zip ws) s.fetched t ∧
      t.umber.pc = s.umber.pc + 1 ∧ t.umber.slots = some { slot := 1, taken := true, target := target s } ∧ StoreLeaves [.p 15] s t

/-- RETM from readable memory with a good header: the selected registers, SR bits 5:0, P15 and the return address; SV, the sticky flags and SR bits 35:12 stay. -/
def framePops : Prop :=
  ∀ (cc : Cond) (s : State) (h : Word) (f : Nat → Word),
    let base := s.rdP 15 .addr
    let mask := h.extractLsb' 0 12
    let regs := selected mask
    let size := regs.length + 3
    s.issues → s.umber.slots = none → condTrue cc s = true → goodHeader h →
    (∀ j < size, permits s .r (base + BitVec.ofNat 24 j)) → dataWord s base = some h →
    (∀ j, 1 ≤ j → j < size → dataWord s (base + BitVec.ofNat 24 j) = some (f j)) →
    ∃ t, exec (.retm cc) s = .next t ∧
      (∀ k (i : Fin 12), regs[k]? = some i → t.umber.get (frameLoc i) = if i.val < 8 then (f (regs.length - k)).setWidth 80
        else ((f (regs.length - k)).extractLsb' 0 24).setWidth 80) ∧
      (∀ k < 6, flag t k = (f (size - 2)).getLsbD k) ∧
      t.umber.p[15] = base + BitVec.ofNat 24 size ∧
      t.umber.pc = s.umber.pc + 1 ∧ t.umber.slots = some { slot := 1, taken := true, target := (f (size - 1)).extractLsb' 0 24 } ∧
      RegsKept (.ctl 12 :: .p 15 :: regs.map frameLoc ++ [.flag 0, .flag 1, .flag 2, .flag 3, .flag 4, .flag 5]) s t ∧
      (∀ k, k ≠ 10 → k ≠ 28 → t.umber.ipend.getLsbD k = s.umber.ipend.getLsbD k) ∧ CellsKept s t ∧ BuffersKept s t ∧ BlocksKept memKeeps s t

/-- A false condition makes a branch untaken: no register and no memory, and its slots still follow (R203, R204). -/
def untaken : Prop :=
  (∀ (i : Instr) (cc : Cond) (mask : BitVec 12) (target : State → Addr) (s : State), frameRows i = some (cc, mask, target) → s.issues → s.umber.slots = none →
    condTrue cc s = false → ∃ t, exec i s = .next t ∧ Branched [] false (target s) s t) ∧
  (∀ (cc : Cond) (s : State), s.issues → s.umber.slots = none → condTrue cc s = false →
    ∃ t a, exec (.retm cc) s = .next t ∧ Branched [] false a s t)

/-- The count that an RPT holds: 1 to 4,096. -/
def repeats (s : State) : RptCount → BitVec 13
  | .imm w => if w = 0 then 4096 else w.setWidth 13
  | .reg ra => if (s.rdD ra).extractLsb' 0 12 = 0 then 4096 else ((s.rdD ra).extractLsb' 0 12).setWidth 13

/-- NOP, SYNC and RPT. -/
def systemRows : Prop :=
  (∀ (cc : Cond) (s : State), s.issues → ∃ t, exec (.nop cc) s = .next t ∧ OnlyRegs [] s t) ∧
  (∀ (cc : Cond) (s : State), s.issues → condTrue cc s = true → s.umber.pwq = [] → s.umber.sb.length ≤ 4 →
    ∃ t, exec (.sync cc) s = .next t ∧ t.umber.sb = [] ∧ CellsKept (drainAll s.fetched) t ∧ StoreLeaves [] s t ∧ flowsOn s t) ∧
  (∀ (cc : Cond) (s : State), s.issues → condTrue cc s = true → s.umber.pwq ≠ [] → s.umber.sb.length ≤ 4 →
    ∃ t, exec (.sync cc) s = .next t ∧ t.umber.sb = [] ∧ CellsKept (drainAll s.fetched) t ∧ StoreLeaves [] s t ∧ t.umber.pc = s.umber.pc ∧
      t.umber.slots = s.umber.slots ∧ t.umber.hold = .sync) ∧
  (∀ (cc : Cond) (k : RptCount) (s : State), s.issues → s.umber.slots = none → condTrue cc s = true →
    ∃ t, exec (.rpt cc k) s = .next t ∧ t.umber.rpt = some (repeats s k) ∧ OnlyRegs [] s t)

/-- A repeated ADDI executes the count of times, and then the next instruction is next and RPTA is 0 (R228); at the end of a repeat that RETI resumed RPTC is 0
too, and otherwise as before (R230). -/
def repeatedAddi : Prop :=
  ∀ (rd : Fin 16) (w : BitVec 18) (k : BitVec 13) (s : State), s.umberReady = true → s.begins → s.umber.rpt = some k → k ≠ 0 → s.umber.slots = none →
    (fetchCheck s.atIssue).1 = none →
    ∃ t, exec (.addi 0 false rd w) s = .next t ∧ t.umber.d[rd] = s.rdD rd + w.signExtend 36 * BitVec.ofNat 36 k.toNat ∧ t.umber.rpt = none ∧
      t.umber.pc = s.umber.pc + 1 ∧ t.umber.slots = none ∧ flag t 28 = false ∧ t.umber.rptc = (if s.umber.rptRet = true then 0 else s.umber.rptc) ∧
      RegsKept [.d rd, .flag 2, .flag 3, .flag 4, .flag 5, .ctl 2] { s with umber := { s.umber with sr := putBit s.umber.sr 28 false } } t ∧ CellsKept s t

/-- MVTC by register, and MVFC. -/
def controlWrites : Prop :=
  (∀ (cc : Cond) (i : Fin 17) (rd : Fin 16) (s : State), s.issues → condTrue cc s = true → mayWrite (flag s 20) i →
    ∃ t, exec (.mvtc cc (BitVec.ofNat 6 i.val) rd) s = .next t ∧
      (i ≠ 0 → i ≠ 12 → i ≠ 15 → ∀ k < 36, (t.umber.ctl i).getLsbD k = (Claims.holds i k && (s.rdD rd).getLsbD k)) ∧
      (i = 15 → t.umber.bstat = s.umber.bstat &&& ~~~(s.rdD rd)) ∧
      (i = 12 → ∀ k, (k < 30 → t.umber.ipend.getLsbD k = (s.umber.ipend.getLsbD k && !(s.rdD rd).getLsbD k || (k == 10 && t.umber.ipend.getLsbD 10))) ∧
        (k = 30 ∨ k = 31 → t.umber.ipend.getLsbD k = (s.umber.ipend.getLsbD k || (s.rdD rd).getLsbD k))) ∧
      (i = 0 → ∀ k < 36, flag t k = if k < 12 ∨ (flag s 20 = true ∧ (k = 27 ∨ (21 ≤ k ∧ k ≤ 24))) then (s.rdD rd).getLsbD k else flag s k) ∧
      OnlyRegs (if i = 0 then .ctl 0 :: (List.finRange 12).map Loc.flag else [.ctl i]) s t) ∧
  (∀ (cc : Cond) (i : Fin 17) (rd : Fin 16) (s : State), s.issues → condTrue cc s = true → mayRead (flag s 20) i →
    ∃ t, exec (.mvfc cc rd (BitVec.ofNat 6 i.val)) s = .next t ∧ t.umber.d[rd] = (if i = 0 then s.rdSr else s.rdCtl i) ∧ OnlyRegs [.d rd] s t)

/-! ### Exceptions -/

/-- Faults of the fetch come before everything else of an instruction (R164, R173, R179): outside program NVM a bus fault, without X a protection fault of sub-cause 2. -/
def fetchFaults : Prop :=
  ∀ (i : Instr) (r : Row) (s : State), registerRows i = some r → s.umberReady = true → s.umber.rpt = none → s.begins → flag s 25 = false →
    flag s 26 = false →
    (0x030000 ≤ s.umber.pc.toNat → ∃ t, exec i s = .next t ∧
      Entered 5 s.umber.pc (causeOf 5 false s.umber.slots 0 0) none none (s.umber.slots.map (·.target)) [] s t) ∧
    (s.umber.pc.toNat < 0x030000 → s.regionFail s.umberAcc spProg s.umber.pc .x ≠ none → ∃ t, exec i s = .next t ∧
      Entered 3 s.umber.pc (causeOf 3 false s.umber.slots 0 2) none (some s.umber.pc) (s.umber.slots.map (·.target)) [] s t) ∧
    (s.umber.pc.toNat < 0x030000 → s.regionFail s.umberAcc spProg s.umber.pc .x = none →
      (readable (s.progCell (s.umber.pc.extractLsb' 0 18))).isSome = true → (fetchCheck s.atIssue).1 = none)

/-- A fault with neither EXL nor NMIL set is taken (R175-R179). -/
def exceptionsEnter : Prop :=
  ∀ (i : Instr) (s : State) (x : Raised), s.issues → raises i s x → flag s 25 = false → flag s 26 = false →
    ∃ t, exec i s = .next t ∧
      Entered x.vec (returnPoint s x) (causeOf x.vec false s.umber.slots x.code x.sub) none x.eaddr (s.umber.slots.map (·.target)) [.ctl 15] s (x.undone s t) ∧
      t.umber.bstat = bstatAfter s x ∧ x.recorded s t

/-- A fault with EXL = 1 and NMIL = 0 is a double fault: vector 2, NCAUSE.DBL, and the record of the first exception stays (R181). -/
def doubleFaults : Prop :=
  ∀ (i : Instr) (s : State) (x : Raised), s.issues → raises i s x → flag s 25 = true → flag s 26 = false →
    ∃ t, exec i s = .next t ∧ EnteredNmi (returnPoint s x) (causeOf x.vec true s.umber.slots x.code x.sub) [.ctl 6, .ctl 7, .ctl 15] s (x.undone s t) ∧
      t.umber.epc = s.umber.epc ∧ t.umber.esr = s.umber.esr ∧ t.umber.ecause = s.umber.ecause ∧ t.umber.bstat = bstatAfter s x ∧ x.recorded s t

/-- A fault with NMIL = 1 is not taken: Sepia is signalled, and Umber goes nowhere (R181). -/
def nmilFaults : Prop :=
  ∀ (i : Instr) (s : State) (x : Raised), s.issues → raises i s x → flag s 26 = true →
    ∃ t, exec i s = .next t ∧ t.umber.escalate = true ∧ t.umber.pc = s.umber.pc ∧ t.umber.slots = s.umber.slots ∧
      t.umber.bstat = bstatAfter s x ∧ x.recorded s t ∧
      (let u := x.undone s t
       RegsKept [.ctl 15] s u ∧ CellsKept s u ∧ BuffersKept s u ∧ BlocksKept excKeeps s u)

/-- An interrupt is acceptable (R182, R183). -/
def acceptable (s : State) (k : Fin 32) : Prop :=
  s.umber.ipend.getLsbD k.val = true ∧ s.umber.ien.getLsbD k.val = true ∧ (s.umber.sr.extractLsb' 22 3).toNat < s.irqLevel k.val

/-- Umber stands at a boundary at which it may take an interrupt or NMI: it runs, no debug stop, no slot, no repeat, no instruction held, not just after an MVTC
that set IE. -/
def atBoundary (s : State) : Prop :=
  s.umberRuns = true ∧ s.umber.slots = none ∧ s.umber.rpt = none ∧ s.umber.holds = false ∧ s.umber.ieFence = false

/-- INTERRUPT_ENTRY and NMI_ENTRY complete: the entry is their own effect. An NMI comes before an interrupt (R179). -/
def interruptsEnter : Prop :=
  (∀ (k : Fin 32) (s : State), atBoundary s → flag s 21 = true → flag s 25 = false → (s.umber.nmiPend = false ∨ flag s 26 = true) → acceptable s k →
    (∀ j, acceptable s j → s.irqLevel j.val < s.irqLevel k.val ∨ (s.irqLevel j.val = s.irqLevel k.val ∧ k.val ≤ j.val)) →
    ∃ t, exec .interruptEntry s = .next t ∧ t.umber.ipend.getLsbD k.val = false ∧ (∀ j, j ≠ k.val → t.umber.ipend.getLsbD j = s.umber.ipend.getLsbD j) ∧
      t.umber.esr = s.umber.sr ∧ t.umber.epc = s.umber.pc.setWidth 36 ∧ t.umber.ecause = causeOf (16 + k.val) false none 0 0 ∧
      HandlerSr 25 (some (BitVec.ofNat 3 (s.irqLevel k.val))) s t ∧ t.umber.pc = vectorOf s (16 + k.val) ∧
      EntryLeaves [.ctl 3, .ctl 4, .ctl 5, .ctl 12] s t) ∧
  (∀ s : State, atBoundary s → s.umber.nmiPend = true → flag s 26 = false →
    ∃ t, exec .nmiEntry s = .next t ∧ t.umber.nepc = s.umber.pc.setWidth 36 ∧ t.umber.nesr = s.umber.sr ∧ t.umber.ncause = causeOf 2 false none 0 0 ∧
      HandlerSr 26 none s t ∧ t.umber.pc = vectorOf s 2 ∧ t.umber.nmiPend = false ∧ EntryLeaves [.ctl 8, .ctl 9, .ctl 10] s t)

/-- RETI at PRV = 1. -/
def returns : Prop :=
  ∀ (cc : Cond) (s : State), s.issues → s.umber.slots = none → condTrue cc s = true → flag s 20 = true →
    let nmi := flag s 26
    let saved := if nmi then s.rdCtl 9 else s.rdCtl 4
    let cause := if nmi then s.rdCtl 10 else s.rdCtl 5
    ∃ t, exec (.reti cc) s = .next t ∧ Returned saved nmi t ∧ t.umber.pc = (if nmi then s.rdCtl 8 else s.rdCtl 3).extractLsb' 0 24 ∧
      t.umber.slots = resumedSlots cause (s.rdCtl 7) ∧ t.umber.rpt = resumedRepeat saved (s.rdCtl 2) ∧ t.umber.resv = none ∧
      flag t 28 = (resumedRepeat saved (s.rdCtl 2)).isSome ∧ t.umber.rptRet = (resumedRepeat saved (s.rdCtl 2)).isSome ∧
      RegsKept [.ctl 0] s t ∧ CellsKept s t ∧ t.umber.sb = s.umber.sb ∧ t.umber.pwq = s.umber.pwq ∧ t.umber.locks = s.umber.locks ∧
      t.umber.bitRam = s.umber.bitRam ∧ BlocksKept fetchKeeps s t

/-- A write that an encoding of the extension space queues: to the radio FIFO, or to a parameter that is none of the protection unit's, where SR.DOM may store;
a refusal of it leaves BSTAT as it is (R198). -/
def extensionQueues (s : State) (e : PWrite) : Prop :=
  e.quiet = true ∧
    ((e.tgt = .fifo ∧ ∃ a : Addr, 0x410000 ≤ a.toNat ∧ a.toNat < 0x410100 ∧ permits s .w a) ∨
      (e.tgt = .fifoRx ∧ ∃ a : Addr, 0x410100 ≤ a.toNat ∧ a.toNat < 0x410200 ∧ permits s .w a) ∨
      ∃ i : BitVec 13, e.tgt = .par i ∧ permits s .w (0x400000 + i.setWidth 24) ∧ (i.toNat < 0x600 ∨ 0xA00 ≤ i.toNat))

/-- The memories after an encoding of the extension space: a word of the tile changes only where SR.DOM may store it, program and data NVM do not, and data SRAM
only by the drain that makes room in the store buffer for a word of SRAM that SR.DOM may store (R198, R267). -/
structure ExtensionCells (s t : State) : Prop where
  tile : ∀ a : BitVec 12, t.tileCell a ≠ s.tileCell a → permits s .w (0x100000 + a.setWidth 24)
  prog : ∀ a, t.progCell a = s.progCell a
  dnvm : ∀ a, t.dnvmCell a = s.dnvmCell a
  sram : (∀ a, t.sramCell a = s.sramCell a ∧ t.poisoned a = s.poisoned a) ∨
    ∀ a, t.sramCell a = (roomy s.fetched).sramCell a ∧ t.poisoned a = (roomy s.fetched).poisoned a
  sb : ∀ e ∈ t.umber.sb, e ∈ s.umber.sb ∨ permits s .w (e.addr.setWidth 24)

/-- EXTENSION_SPACE completes, whatever its condition, wherever it issues and the parameter queue has room for the write it may make (R198, R263): the next
instruction follows as after any other, no exception is entered and none waits. -/
def extensionCompletes : Prop :=
  ∀ (cc : Cond) (s : State), s.issues → s.umber.pwq.length < 8 →
    ∃ t, exec (.extensionSpace cc) s = .next t ∧ flowsOn s t ∧ t.umber.hold = .none ∧ t.umber.rpt = none ∧ t.umber.escalate = s.umber.escalate ∧
      t.umber.epc = s.umber.epc ∧ t.umber.nepc = s.umber.nepc

/-- It keeps what R198 keeps: SR with its flags, DOM, PRV, EXL and NMIL, IEN and every other control register (in IPEND a correction and a wake event may arrive meanwhile), lock
bits and bit RAM, the protection unit and every other block's parameters; what it stores in memory, or queues for the parameter space, SR.DOM may store there. -/
def extensionKeeps : Prop :=
  ∀ (cc : Cond) (s t : State), s.issues → s.umber.pwq.length < 8 → exec (.extensionSpace cc) s = .next t →
    t.umber.sr = s.umber.sr ∧ (∀ k : Fin 17, k ≠ 12 → t.umber.ctl k = s.umber.ctl k) ∧
      (∀ k, k ≠ 10 → k ≠ 28 → t.umber.ipend.getLsbD k = s.umber.ipend.getLsbD k) ∧ t.umber.bitRam = s.umber.bitRam ∧ t.umber.locks = s.umber.locks ∧
      ExtensionCells s t ∧ (∀ e ∈ t.umber.pwq, e ∈ s.umber.pwq ∨ extensionQueues s e) ∧
      BlocksKept drainKeeps s { t with mgmt := { t.mgmt with logQ := s.mgmt.logQ } }

end Sys2Proof.Claims
end

