-- ==== Sys2Proof/Certificates/Slice0/Obligations.lean ====
section
/-!
DEFINITION. Sys2Proof/Certificates/Slice0/Obligations.lean: the statements for the provers, each made of the propositions of the files beside this one.
-/

open Sys2Proof.Machine

/-- In every state whose queue is not empty, a step is exec of the front command on the state with the queue's rest. With no command waiting time passes and,
where Umber runs, an NMI, a fault of the next instruction, an interrupt or the instruction that the word at the program counter spells takes place, in this
order. The words that 06 prints spell what it says (0 is ADD D0,D0,D0 and all ones the extension space), and a word of ADD, ST, LDI, CALLM and BR spells it
with every field in its place. What a step does with an empty queue is the model's choice (log 3). (95_what_each_step_holds.md, R179,
R192, R198, R214) -/
def Obligations.StepTakesTheFrontCommand : Prop :=
  Sys2Proof.Claims.frontCommand ∧ Sys2Proof.Claims.programRuns ∧ Sys2Proof.Claims.wordsSpell ∧ Sys2Proof.Claims.formatsSpell

/-- In every state a step answers a next state: the spec gives every command of the table an effect or none, and no fault or refusal is ever raised.
(95_what_each_step_holds.md, R197, R624) -/
def Obligations.NoStepStops : Prop :=
  Sys2Proof.Claims.neverStops

/-- Every parameter holds its reset value and every block mask 0x0003_0003; SR is 0x0_0011_0000 and Umber is held in reset with buffers, lock bits and bit RAM
empty; Pier time and store time are 0, no strike is armed, every DMA channel is IDLE, and the reset in progress has code 1. The state is in canonical form,
within its bounds, and its SR is a legal one. Which supplies are present is the model's choice (log 5). (R12, R161, R628, R638) -/
def Obligations.ResetIsThePowerOnState : Prop :=
  Sys2Proof.Claims.resetState ∧ Sys2Proof.Claims.resetKeeps

/-- From every state in canonical form a step leads to a state in canonical form: addresses strictly rising, and no entry equal to what an unlisted address reads
as. (09_memory.md, 20_parameter_map.md) -/
def Obligations.StepsKeepTheCanonicalForm : Prop :=
  Sys2Proof.Claims.keepsCanonical

/-- From every state within its bounds a step leads to one: 4 store-buffer entries, 8 parameter writes of Umber, 4 quads in the prefetch buffer, 8 repeat-cache
entries, 256 words in each radio FIFO, 16 in each cipher FIFO and the FIFO of random numbers, 2,048 words of dumps, 4 host writes, 8 face words, 16 events and
32 log records of Sepia. (R229, R258, R263, R265, R368, R441, R495, R500, R543, R559, R577, R609) -/
def Obligations.StepsKeepTheBounds : Prop :=
  Sys2Proof.Claims.keepsBounds

/-- From every state in which SR.PRV = 1 only with SR.DOM = 1, SR.DOM is not 0 and the reserved bits of SR are 0, a step leads to such a state. (R14, R161, R172) -/
def Obligations.SupervisorOnlyInDomainOne : Prop :=
  Sys2Proof.Claims.keepsSupervised

/-- Whenever a command answers a next state, SR.DOM, PRV, EXL and NMIL are as before, or the command is RETI, or the next state stands at the start of a handler
(DOM 1, PRV 1, IE 0, EXL or NMIL 1), or SR is at its reset value. (R161, R162, R172, R178, R180) -/
def Obligations.PrivilegeChangesOnlyByEntryOrReturn : Prop :=
  Sys2Proof.Claims.privilegeChanges

/-- ADD, ADC, SUB, SBC, NEG, ABS, ADDI, MULQ, MIN, MAX, MINU, MAXU, MUL, MULH and MULHU complete wherever they issue with their condition true: the destination
holds the exact, wrapped or saturated result, the flags are those of Tables UMI-4 to UMI-6, the program counter goes on, and nothing else changes. That V is
set whenever the exact result does not fit is R193. (R193, R199, 06_umber_instruction_set.md) -/
def Obligations.SumsAndProductsComplete : Prop :=
  Sys2Proof.Claims.Completes Sys2Proof.Claims.sumRows ∧ Sys2Proof.Claims.Completes Sys2Proof.Claims.productRows

/-- AND, OR, XOR, ANDN, their immediate forms, TST, TSTI, CMP and CMPI complete wherever they issue with their condition true, with results bit by bit, the flags
of Table UMI-4, and nothing else changed. (R199, 06_umber_instruction_set.md) -/
def Obligations.LogicAndComparesComplete : Prop :=
  Sys2Proof.Claims.Completes Sys2Proof.Claims.logicRows ∧ Sys2Proof.Claims.Completes Sys2Proof.Claims.compareRows

/-- LSL, LSR, ASR, ROL and their immediate forms complete wherever they issue with their condition true, for every shift amount 0 to 63, with the bits shifted,
the carry the last bit out, saturation of LSL with S = 1, and nothing else changed. V of LSL is the model's reading (log 20). (R199,
06_umber_instruction_set.md) -/
def Obligations.ShiftsComplete : Prop :=
  Sys2Proof.Claims.Completes Sys2Proof.Claims.shiftRows

/-- CLZ, CLS, EXTS, EXTZ, SWAPH, LDI, LDIH, MOV, MVDP, MVPD, MVDN, MVND, MVPP, ADDP, SUBP, ADDPI, LDPI, LDPIH, LDNI, MVDA and MVAD complete wherever they issue
with their condition true, with their values and nothing else changed. (R156) -/
def Obligations.CountsAndMovesComplete : Prop :=
  Sys2Proof.Claims.Completes Sys2Proof.Claims.countRows ∧ Sys2Proof.Claims.Completes Sys2Proof.Claims.moveRows

/-- MAC, MSU, MPY, MPYN, CMAC, CMACJ, ACADD, ACSUB, ACMOV, ACNEG, ACCLR, ACASR, ACLSL, ACSET, EXTA, NORM and EXP complete wherever they issue with their condition
true, with exact results wrapped modulo 2^80 or held to the 72-bit range, V and SV as R218 says, and nothing else changed. (R216, R217, R218, R226, R227) -/
def Obligations.AccumulatorsComplete : Prop :=
  Sys2Proof.Claims.Completes Sys2Proof.Claims.macRows ∧ Sys2Proof.Claims.Completes Sys2Proof.Claims.complexRows ∧ Sys2Proof.Claims.Completes Sys2Proof.Claims.extractRows

/-- Every F36 instruction that does not trap completes with the exact result truncated toward zero (or the word the rules name for NaN, infinities, zeros,
division by zero and invalid operations), ORs its flags into SR bits 11:7, and changes nothing else; FCMP sets Z, N, V and C by the order of its operands. The
sign of an exact zero and NORM.F of a zero are readings of the model (log 21). (R235, R236, R237, R238, R239) -/
def Obligations.F36InstructionsComplete : Prop :=
  Sys2Proof.Claims.f36Completes ∧ Sys2Proof.Claims.Completes Sys2Proof.Claims.fcmpRows

/-- With its condition false an instruction completes and changes no register, flag or memory; a Format M load or store with PM = 1 and a mode that modifies its
pointer makes that modification alone, linear, modulo or with reverse carry as PMODE says. (R196) -/
def Obligations.FalseConditionsDoNothing : Prop :=
  Sys2Proof.Claims.falseCondition ∧ Sys2Proof.Claims.pmFalse ∧ Sys2Proof.Claims.untaken

/-- LD, LDP, LDO, LDH, LDHU, LDQ, LDQU and LDD complete in every addressing mode where the region check permits and the word is readable: the destination holds
the word or its lane as the instruction extends it, the pointer moves as the mode says (linearly, round its buffer in mode 1 of PMODE, with reverse carry in
mode 2), and nothing else changes but the records of corrections. LDD reads its second word in the state that the access of the first leaves. (R166, R173, R202,
R210, R268, R231, R232) -/
def Obligations.LoadsComplete : Prop :=
  Sys2Proof.Claims.loadsComplete ∧ Sys2Proof.Claims.lddCompletes

/-- ST, STP, STO, STH, STQ and STD complete in every addressing mode where the region check permits and the word can be stored: a store to data SRAM allocates
an entry of the store buffer with its lanes, one to the tile writes the word at once, every other word of memory reads as before, and the pointer moves as the
mode says (linearly, round its buffer in mode 1 of PMODE, with reverse carry in mode 2). STD stores its second word in the state that the store of the first
leaves. (R166, R202, R265, R266, R267, R289, R231, R232) -/
def Obligations.StoresComplete : Prop :=
  Sys2Proof.Claims.storesComplete ∧ Sys2Proof.Claims.stdCompletes

/-- While the store buffer has room, after a store to data SRAM Umber reads the stored lanes beside the word's own at that address, and reads every other word as
before. (R268, R265) -/
def Obligations.StoreThenLoadForwards : Prop :=
  Sys2Proof.Claims.storeThenLoad

/-- A whole-word store to a populated parameter or the transmit FIFO appends one entry with the domain and privilege of its issue, and so does a store to the
receive FIFO, which the radio then ignores; one to an unpopulated index sets BSTAT.NOPARAM with the index; with eight entries waiting a store of either kind
holds at its address, one to a parameter where mask and privilege permit it. (R263, R368, R625) -/
def Obligations.QueuedStores : Prop :=
  Sys2Proof.Claims.queuedStores ∧ Sys2Proof.Claims.queueFull

/-- LR loads the word and sets the reservation; SC stores exactly where the reservation stands, with P0 as its outcome, and always clears it; ATADD and ATSWP
return the old word and write the new one; the store buffer drains before each, and no other word changes. (R242, R243, R244, R269) -/
def Obligations.AtomicsComplete : Prop :=
  Sys2Proof.Claims.atomicsComplete

/-- The dual-fetch instructions complete where their words are readable: the accumulators hold the sums of Tables UMD-2 and UMD-3, Dx takes X, Px and Py move by
their modes (linearly, modulo or with reverse carry as PMODE says), P13 by one with a coefficient, and nothing else changes but the records of corrections.
(R219, R220, R221, R223, R231, R232) -/
def Obligations.DualFetchesComplete : Prop :=
  Sys2Proof.Claims.dualsComplete

/-- BSET, BCLR, BTGL, BMOV, BTST, BAND, BOR and TAS complete where the regions permit: the one bit changes, a lock bit takes its owner tag, a peripheral bit
enters the parameter queue, the predicate or bit read is the value held, and nothing else changes. (R167, R168, R169, R207, R245) -/
def Obligations.BitOperationsComplete : Prop :=
  Sys2Proof.Claims.bitWrites ∧ Sys2Proof.Claims.bitReads

/-- A branch is followed by its first slot with the target held; a call links P14 to the third address on; with a false condition the branch is untaken, and its
slots follow all the same. (R203, R204, R213) -/
def Obligations.BranchesHaveTwoSlots : Prop :=
  Sys2Proof.Claims.branches

/-- CALLM and CALLMR store the return address, SR, the selected registers and the header downward from P15 and move P15 to the header; RETM from a good header
restores the selected registers and SR bits 5:0, moves P15 past the frame and returns. (R158, R205, R206) -/
def Obligations.FramesPushAndPop : Prop :=
  Sys2Proof.Claims.framesPush ∧ Sys2Proof.Claims.framePops

/-- NOP does nothing; SYNC drains the store buffer and completes when no parameter write waits, and holds otherwise; RPT holds its count of 1 to 4,096; a
repeated ADDI adds its immediate that many times, and then the next instruction follows with RPTA 0, and RPTC 0 where RETI had resumed the repeat. (R51, R208,
R228, R230) -/
def Obligations.SystemInstructionsComplete : Prop :=
  Sys2Proof.Claims.systemRows ∧ Sys2Proof.Claims.repeatedAddi

/-- MVTC stores the bits that exist, clears with 1 in BSTAT and IPEND, raises SOFT0 and SOFT1, and leaves DOM, PRV, EXL and NMIL of SR; MVFC reads. That absent
bits of the other registers read 0 is the model's reading (log 22). (R160, R161, R174, R184) -/
def Obligations.ControlRegistersMove : Prop :=
  Sys2Proof.Claims.controlWrites

/-- A fetch outside program NVM or without X permission, and every fault and trap an instruction raises with EXL and NMIL clear, writes EPC, ESR, ECAUSE, EADDR
and ETGT, sets DOM 1, PRV 1, IE 0 and EXL, clears the reservation, stands at VBASE + 4v, and leaves registers and memories as they were but for the records of
its kind. Among them are TRAP, reserved forms, privilege, alignment (a lane of a parameter, an odd LDD or STD), the regions, the masks of parameter blocks (SUB
3, recorded in BSTAT and SYS.PERR), privileged parameters (SUB 4), lock bits (SUB 1 and 5, of BMOV too), bus faults and poisoned words. (R164, R173, R175, R176,
R177, R178, R179, R197, R208, R166, R169, R302) -/
def Obligations.FaultsEnterTheirVectors : Prop :=
  Sys2Proof.Claims.fetchFaults ∧ Sys2Proof.Claims.exceptionsEnter

/-- With EXL = 1 and NMIL = 0 a fault enters vector 2 with NCAUSE.DBL and the second fault's vector, and EPC, ESR and ECAUSE keep the first record; with NMIL = 1
the fault is not taken and Sepia is signalled. (R180, R181, R186) -/
def Obligations.DoubleFaultsAndFaultsUnderNmil : Prop :=
  Sys2Proof.Claims.doubleFaults ∧ Sys2Proof.Claims.nmilFaults

/-- INTERRUPT_ENTRY completes at a boundary with IE set and EXL clear: the acceptable source of highest level and lowest number is entered at vector 16 + s with
IPL its level and its IPEND bit cleared. NMI_ENTRY completes at a boundary with an NMI condition pending and NMIL clear: vector 2 is entered, before any
interrupt. An instruction held by the machine is no boundary. (R178, R179, R180, R182, R183, R280) -/
def Obligations.InterruptsEnter : Prop :=
  Sys2Proof.Claims.interruptsEnter

/-- RETI at PRV = 1 restores from NEPC and NESR while NMIL = 1 and from EPC and ESR otherwise, under the limits on DOM and PRV (that a saved DOM of 0, read as
1, keeps a saved PRV of 1 is the model's choice, log 99), resumes delay slots and a repeat from the records (RPTA is 1 while that repeat runs, and RPTC stands
until its end), clears EXL (from an exception) or NMIL (from an NMI) and the reservation, and changes nothing else. (R172, R177, R178, R180, R230, R242) -/
def Obligations.ReturnRestores : Prop :=
  Sys2Proof.Claims.returns

/-- EXTENSION_SPACE completes wherever it issues and the parameter queue has room, and the next instruction follows as after any other. It leaves SR with its
flags, every other control register but IPEND, the bit RAM and the lock bits as they were; a word of the tile changes only where SR.DOM may store it, program
and data NVM stay, and data SRAM changes only by the drain that makes room in the store buffer; what it puts there, or queues for the parameter space, SR.DOM
may store; no parameter of the protection unit and of any other block changes. (R198, R263, R267) -/
def Obligations.ExtensionSpaceKeeps : Prop :=
  Sys2Proof.Claims.extensionCompletes ∧ Sys2Proof.Claims.extensionKeeps

/-- A refused write leaves its parameter, records itself in SYS.PERR and PERRCNT, and is answered with its reason; a plain parameter stores its RW fields alone;
the acknowledgement of an accepted write comes once nothing of it waits for an edge of a clock that runs (how R51 is read is log 11); an acknowledgement frees
its entry in order, and a refusal sets BSTAT.REFUSED with the index, but for a store of the extension space. (R10, R50, R263, R622, R624, R198, R51) -/
def Obligations.ParameterWrites : Prop :=
  Sys2Proof.Claims.refusedWrites ∧ Sys2Proof.Claims.plainWrites ∧ Sys2Proof.Claims.acknowledgements

/-- REFRDY, REFLOCK and CORELOCK set as their clocks start, store time starts at 0 with REFLOCK, a DVFS write is BUSY until its ramp ends, and a loss of REF
stops store time, disarms every strike, takes the lock of synthesiser G and relocks the core PLL, while a step and an arming latched before wait for its return.
When REF locks, the requests that the radio's and Trestle's shells latched meanwhile act in their order; which of them and the disabling of channels by REFLOST
comes first the model leaves free (log 40). A write of PWR.ISLAND keeps its bits, and a region without its bit is off; L1RDY sets with the first valid sample.
That a loss of REF takes the lock of synthesiser G, and which requests of the radio are latched, are the model's choices (log 30). (R46, R52, R55, R58, R59,
R61, R72, R77, R83, R359, R76, R50) -/
def Obligations.ClocksAndIslands : Prop :=
  Sys2Proof.Claims.clocks ∧ Sys2Proof.Claims.refLosses ∧ Sys2Proof.Claims.islands ∧ Sys2Proof.Claims.l1Path

/-- STOP at PRV = 1 with nothing to wait for (queues, a ramp, arches, Sepia's NVM writes, fuses being blown) applies checks 2 to 5 of R62 in order: where one
fails it sets ABORT and CAUSE and Umber goes on; otherwise mode 3 gates Umber's clock, and modes 0 to 2 stop the REF group and DMA and keep NVM and what
PWR.RETCFG names. What an abandoned STOP consumes, and the edges it leaves pending, are the model's reading (log 61). (R62, R65, R73, R74) -/
def Obligations.StopEntersOrAbandons : Prop :=
  Sys2Proof.Claims.stops

/-- A pending, enabled source valid for the mode ends it (in modes 1 and 2 with the crystal failed, a Pier alarm alone): PWR.WAKESRC names the sources, and the
exit of Table ISL-7 follows; the interrupt that ends mode 3 is taken before the next instruction, and the watchdog starts again from stage 0; the RETAIN exit
starts Umber at vector 1 with its registers initialised and memories intact. That WAKESRC leaves out sources not enabled or not valid for the mode is the
model's choice (log 61). (R62, R63, R64, R66, R162, R424, R556) -/
def Obligations.ModesEndByWakeSources : Prop :=
  Sys2Proof.Claims.wakeAccepts ∧ Sys2Proof.Claims.retainExits

/-- A cold boot and a warm wake leave the part awake with every arch READY, RSTCAUSE, and Umber in reset or at vector 0 of a slot; a Pier power-on loads the P:
values, with LOCK, ONVBK and VBKLOW as the supplies stand to their thresholds; VDD losses and returns do what R68 to R70 say; where VDD is known above its
detector, it has fallen there, and lockout has tripped on the way. A boot writes no data NVM but the owner configuration. VBKLOW at a VBK of 1,600 mV and the
free levels at which VDD is released and lost, and the Pier's supply fails, are the model's choices (log 81), and so are the reset codes of these boots and
brownouts (log 63). (R12, R68, R69, R70, R136, R554, R642, R643) -/
def Obligations.BootsAndSupplies : Prop :=
  Sys2Proof.Claims.boots ∧ Sys2Proof.Claims.supplies

/-- RST_N and TESTEN reset every VDD island and hold it while low or high; a write of SYSRST is a system reset of code 5 or 6, held while the fuses are busy; an
Umber reset clears lock bits, bit RAM, buffers, DMA and its reservation, and with domain 1 revoked it is a system reset of code 8 instead; in END OF LIFE it
starts nothing. (R521, R630, R638, R640, R651, R677, R641, R515) -/
def Obligations.ResetsOfThePart : Prop :=
  Sys2Proof.Claims.resetPinsAct ∧ Sys2Proof.Claims.softResets

/-- Every TCLK edge adds INC; steps and loads apply at an edge and are recorded, a load with the values that stood at its write, a load is judged late at the
first Pier edge after its latch alone; the interrupt of a strike arrives after its crossing; the reads of NOWF, PIERCAP and PIERCAPT capture coherently, and
without the REF group NOWF reads the held values. That a step with no command waiting is a TCLK edge is the model's choice (log 3). (R48, R80, R81, R84, R85,
R86, R88, R89) -/
def Obligations.StoreTimeCounts : Prop :=
  Sys2Proof.Claims.storeTime ∧ Sys2Proof.Claims.tclkEdges

/-- Arming sets the unit's targets and time, of an armed unit too, or is refused with CFGERR; a target fires in the cycle that its time, as a signed difference
of store times, lies in; pulses end, radio actions are taken or dropped with RMISS, each epoch latch takes its own edge's store time, and with Trestle running
it fills the latch words of every enabled channel and leaves tracking as it was (R444, R445), and Sepia's event FIFO takes the event once nothing of higher
priority waits. (R82, R92, R93, R96, R97, R98, R99, R101, R103, R372, R542, R543) -/
def Obligations.StrikesFire : Prop :=
  Sys2Proof.Claims.arming ∧ Sys2Proof.Claims.strikes

/-- A read of TICK_LO freezes the reader's shadow and a read of TICK_HI releases it; writes of SEC, CTL, TICK, PWRSTAT and SWCFG take their values at their
edges, a TICK write behind a SEC that waits after it (the model's choice, log 96), and the comparators go by SWCFG from the first edge after the latch; under
lockout every write of the PIER shell is refused. (R123, R125, R126, R135, R137, R142) -/
def Obligations.PierRegisters : Prop :=
  Sys2Proof.Claims.tickReads ∧ Sys2Proof.Claims.pierWrites

/-- Every crystal edge counts with its correction, moves the mirrors and matches the alarms; lockout trips, the supply moves and lockout releases after 66 ticks
by the thresholds of Table PIE-3 beyond their tolerance, and VBKLOW follows VBK; oscillator failure, lockout and switchover set their flags and record
themselves with the tick, and a failure ends what a time-bound certificate grants. What a supply within a tolerance band does, and the level between the trip
point and the falling threshold to which it falls, are free (log 81). (R120, R122, R125, R127, R132, R136, R137, R138, R139, R140, R530, R538) -/
def Obligations.PierEdgesAndEvents : Prop :=
  Sys2Proof.Claims.pierEdges ∧ Sys2Proof.Claims.pierEvents

/-- A drain writes the oldest entry to its word with correct check bits or discards a part that cannot merge with PDROP; the scrubber and write-backs leave a
correctable word corrected and poison an uncorrectable one; no other word changes, and a write of the reserved word ends the reservation. (R267, R299, R301,
R302, R304, R310, R311, R242) -/
def Obligations.DrainsAndScrubs : Prop :=
  Sys2Proof.Claims.drains ∧ Sys2Proof.Claims.scrubs

/-- MEM.ARCHCTL moves each arch and the tile through its states, contents lost in OFF and zero after INIT; INJECT arms once; an NVM word, of data NVM or of a
program slot without its seal, is written with its check bits and verified, one that reads back wrong after the last attempt sets WFAIL and ends its request
with result 6, and an aborted write ends with STALL. (R294, R295, R296, R307, R316, R319, R548) -/
def Obligations.ArchesAndNvm : Prop :=
  Sys2Proof.Claims.arches ∧ Sys2Proof.Claims.nvmWrites

/-- A revocation disables the domain's regions, releases its locks and reservation, aborts its channels and no other, and its completion, once none of them is
still ABORTING, clears BUSY and logs what it released; LKVIEW takes or clears the selected lock bit. (R343, R344, R353) -/
def Obligations.RevocationReleases : Prop :=
  Sys2Proof.Claims.revocation

/-- A start of an idle channel with a good descriptor sets its state, a bad one is a fault of code 8, RESUME and ABORT act by state (that an ABORT in FAULT
leaves FADDR and REMAIN 0, and the end of a chain made while an abort was under way, are the model's reading, log 54), an abort ends once the reply of an access
under way has come, and strikes, request lines and chains start or pace the channels that name them; the signals of a strike keep their order. (R48, R98, R329,
R330, R334, R335, R336, R339, R340, R341) -/
def Obligations.DmaCommandsAndStarts : Prop :=
  Sys2Proof.Claims.dmaCommands ∧ Sys2Proof.Claims.dmaStarts

/-- An element reads its source word and writes its destination word and no other, counts, and moves on; an access of the parameter space is checked, sent, and
completed by its reply as it was checked, other channels being served meanwhile and replies in order for each crossing; a doubleword takes two accesses of a
phase; a region that does not permit an access stops the channel with code 1 and a record; a descriptor is read word by word and checked after the seventh, and
a parameter descriptor is taken from DESC0-6. (R327, R330, R331, R332, R337, R339, R341, R625, R47, R48) -/
def Obligations.DmaAccesses : Prop :=
  Sys2Proof.Claims.dmaAccesses

/-- Each command of Table RAD-4 is accepted in the states that take it, with the next state and transition, and rejected with CMDREJ elsewhere; while the radio
clock is stopped a command is latched (which requests are is the model's reading, log 30; their acting at the restart is said in ClocksAndIslands), and
SYNTH.XONOW stands; a receive timeout in the acknowledgement wait ends it with TXDONE (the model's choice, log 93); a warm-up whose loop does not lock leaves
its results and UNLOCK; antenna and gain are decided once in a window; transitions, timeouts, underruns and the fault sequence end as R370 to R379 say; a
sending takes LINK.CFG and LINK.SYNC as it starts (the model's choice, log 93). (R358, R361, R370, R373, R376, R377, R378, R379, R384, R388, R50, R76) -/
def Obligations.RadioCommandsAndEvents : Prop :=
  Sys2Proof.Claims.radioCommands ∧ Sys2Proof.Claims.radioEvents

/-- FIFO writes and reads keep order and mark overflow and underflow, and a write waits while the clock is stopped; a frame sent stands on air as Table LNK-1
forms it and is taken back whole with its record, a transmission that lacks a word leaves what its words gave (log 93), a CRC error stores nothing, a burst
sends the chips of its base sequence with their signs, and ends of frames, trains, bursts and waits leave their status. That an acknowledgement wait that ends
with WBEN = 1 gives no return is the model's choice (log 93). (R368, R394, R395, R396, R397, R401, R402, R404, R406, R466, R467, R468) -/
def Obligations.RadioDataAndFrames : Prop :=
  Sys2Proof.Claims.radioData ∧ Sys2Proof.Claims.storeLink

/-- A window opens for 40 crystal cycles or counts QUIET down; a collected word that matches an enabled group at any of 40 positions is a match with its report,
and any other is not; it interrupts at once in WAKELISTEN and where Umber has executed an instruction since the mode, and else waits for that instruction; LEVEL
is that of the last window, also one that ends in a collection; with the crystal failed nothing is collected in modes 1 and 2, and past WAKELISTEN or its window
no collection completes. (R411, R412, R413, R414, R415, R417, R424, R425, R364, R423) -/
def Obligations.WakeReceiver : Prop :=
  Sys2Proof.Claims.wakeReceiver

/-- Enabling, starting and adjusting a channel, carrier rates and quantiser blocks act as R427 to R437 say. Each sample, an operand of the command that brings
it (log 40), applies the adjustments that wait, adds the mixed sample times the code to every tap of each enabled channel, and advances the carrier NCO by
CARRFREQ and the code phase by CODEFREQ. The record of a dump holds the taps and phases after its last sample, enters the dump FIFO with RING, and is dropped
whole where there is no room. A change of the shift in use is counted, and marked with QCHG but for one just before the first sample (the model's reading, log
40). While the clock is stopped a request is latched; its acting at the restart is said in ClocksAndIslands. (R50, R76, R427, R428, R429, R432, R433, R434,
R435, R436, R437, R447) -/
def Obligations.TrestleChannelsAndSamples : Prop :=
  Sys2Proof.Claims.channels ∧ Sys2Proof.Claims.samples

/-- Dumps form records in FIFO order, the writer stores them in the ring while its region has power and records every refusal in DWFAULT, code memory and the
dump base take their writes (a word of code memory latched while the clock is stopped waits with its address, as log 40 reads it), and the power of each
hypothesis is the sum that R449 gives; the search engine captures the input and length it started with (the model's reading, log 40), passes, a pass without a
code ending as CFGERR once its capture is full, aborts at the next group of 256 and reports; results of an earlier pass are written and not counted. (R426,
R431, R438, R441, R443, R447, R448, R449, R450, R451, R50, R76) -/
def Obligations.TrestleDumpsAndSearch : Prop :=
  Sys2Proof.Claims.dumps ∧ Sys2Proof.Claims.searches

/-- A command of Table CRY-5 starts its operation or is refused with its code; a key from a slot counts and records the words of the slot that need it; input
and output words pass through the FIFOs in order. CODE 7 of a CLEAR by its owner (log 44), CODE 2 of WRAP with an owner and of KEY of another domain (log 43),
and an output formed at the fourth word (log 42) are the model's readings. (R308, R492, R493, R494, R495, R496, R497, R510) -/
def Obligations.CipherOperations : Prop :=
  Sys2Proof.Claims.ciphers ∧ Sys2Proof.Claims.cipherData

/-- An operation ends with its CODE, its keys and its output; the generator tests its source, conditions it, answers the reads that wait in their order, fills
its FIFO, tests on while it is full, and stops with ALARM. (R493, R496, R498, R500, R501, R502, R503) -/
def Obligations.CipherEndsAndRandomNumbers : Prop :=
  Sys2Proof.Claims.cipherEnds ∧ Sys2Proof.Claims.randomness

/-- Transition requests are checked and blow their copies, the owner hash is programmed once, and challenges, responses and certificates grant the rights in
effect; a response check goes by the challenge and response as they stood at its command, and its signature is verified by the cipher unit as an operation of
owner 0 (that Sepia waits for a busy or unpowered unit is the model's choice, log 103); reading the certificates counts and records the words that need it.
(R308, R513, R518, R519, R521, R525, R526, R527, R529, R530) -/
def Obligations.LifeCycleAndRights : Prop :=
  Sys2Proof.Claims.transitions ∧ Sys2Proof.Claims.authorisation

/-- Debug operations act with their right and state, REGRD and REGWR move registers of a halted Umber (one WAIT before the token, and the byte under the
selector not kept, are the model's choice, log 98), hits halt it with their cause, and a hit that waits is recorded at any halt. (R532, R533, R583) -/
def Obligations.DebugFunctions : Prop :=
  Sys2Proof.Claims.debugging

/-- Each service of Table SEP-2, with no work of higher priority waiting, is checked, done and answered with its result; updates are armed, confirmed and rolled
back, the copies of the owner configuration written word by word and verified; XTALCHK answers the signed measurement; KEYWRITE wraps a key by the cipher unit
and stores it in its slot, and ends with status 3 where a region of domain 0 refuses Sepia the slot's header (which reads of Sepia are checked is the model's
reading, log 83); ARMUPDATE may find a slot that a request writes changed. That free choice and the end statuses of KEYWRITE and WRAP (log 84), and SEQ 1 where
no copy of the owner configuration is valid (log 82), are the model's choices. (R307, R542, R544, R545, R546, R548, R550, R555, R557, R498, R565) -/
def Obligations.SepiaServices : Prop :=
  Sys2Proof.Claims.services ∧ Sys2Proof.Claims.updates

/-- Watchdog stages follow each other, a kick in the last being ignored, escalation resets Umber, sensors report their readings, log records are written in
order, and event FIFO reads pop; work of higher priority in Table SEP-1 is done before a service, a log record or a word of NVM. The key write in stage 3 (log
100) and that such work is done first (log 85) are the model's readings. (R542, R543, R557, R558, R559, R560, R556) -/
def Obligations.SepiaSupervision : Prop :=
  Sys2Proof.Claims.supervision

/-- A transaction starts, serves and ends by its command byte and mode, and its edge is a wake event where a STOP waits (the model's reading, log 61); one
opened with RDY 0 is ignored, and every byte of an ignored one is 0x00 (log 98); direct registers read and write as Table HST-3 says, and a doorbell rings once
the writes to CORE before it have arrived. (R62, R569, R570, R571, R573, R585, R587, R589, R48, R586) -/
def Obligations.HostDirectAndTransactions : Prop :=
  Sys2Proof.Claims.hostTransactions ∧ Sys2Proof.Claims.directs

/-- Reads and writes through the windows are issued, made once, answered after WAIT bytes and recorded, an accepted write of a parameter once its effect has
landed (log 11), a read behind the writes committed before it to its island or to memory; a region or a right decides each, and no other word changes. (R574,
R575, R576, R577, R578, R580, R581, R582) -/
def Obligations.HostWindows : Prop :=
  Sys2Proof.Claims.parWindow ∧ Sys2Proof.Claims.memWindow

/-- Pod transactions send, poll and check their frames and end with their status, and stand still while Sepia is stopped; identification and release notices
act, folds add to the charge meter, and under lockout the advance of LASTW is owed. What identification does (log 50) and that the advance is owed after the
transaction (log 98) are the model's choices. (R598, R601, R604, R605, R606, R607) -/
def Obligations.PodLineAndChargeMeter : Prop :=
  Sys2Proof.Claims.podLine ∧ Sys2Proof.Claims.chargeMeter

/-- Face words queue, transfer and end with their status, and a transfer waits with NOREF while REF is stopped; general pins record edges as their configuration
says (a pin that nothing drives takes its pull), and wake edges in modes 1 and 2 and while a STOP waits. That the end of a transfer says whether its image was
complete, and the level of a pin that has neither driver nor pull (log 52), and the edge that ends a STOP's wait (log 61), are the model's choices. (R62, R73,
R609, R610, R611, R617, R608) -/
def Obligations.FacePortAndPins : Prop :=
  Sys2Proof.Claims.facePort ∧ Sys2Proof.Claims.generalPins
end

