-- ==== Sys2Proof/Laws/Maps.lean ====
section
/-!
SUPPORT. Sys2Proof/Laws/Maps.lean: the laws of sparse maps: a read after a write to the same key gives the value written, a write leaves every other key
alone, and every write keeps the canonical form.
-/

namespace Sys2Proof.Machine.SMap

variable {α : Type}

theorem find_erase_same (m : SMap α) (k : Nat) : find (erase m k) k = none := by
  induction m with
  | nil => rfl
  | cons e m ih =>
    obtain ⟨a, v⟩ := e
    by_cases h : a = k
    · simp [erase, h, ih]
    · simp [erase, find, h, ih]

theorem find_erase_ne (m : SMap α) {k j : Nat} (hj : k ≠ j) : find (erase m k) j = find m j := by
  induction m with
  | nil => rfl
  | cons e m ih =>
    obtain ⟨a, v⟩ := e
    by_cases h : a = k
    · have hk : a ≠ j := by omega
      simp only [erase, h, if_true, find, ih]
      rw [if_neg hj]
    · by_cases hb : a = j
      · simp only [erase, if_neg h, find, if_pos hb]
      · simp only [erase, if_neg h, find, if_neg hb, ih]

theorem find_insert_same (m : SMap α) (k : Nat) (v : α) : find (insert m k v) k = some v := by
  induction m with
  | nil => simp [insert, find]
  | cons e m ih =>
    obtain ⟨a, w⟩ := e
    unfold insert
    split
    · simp [find]
    · split
      · simp [find]
      · rename_i h; simp [find, h, ih]

theorem find_insert_ne (m : SMap α) {k j : Nat} (v : α) (hj : k ≠ j) : find (insert m k v) j = find m j := by
  induction m with
  | nil => simp [insert, find, hj]
  | cons e m ih =>
    obtain ⟨a, w⟩ := e
    unfold insert
    split
    · simp [find, hj]
    · split
      · rename_i h; simp [find, hj, h]
      · by_cases hb : a = j <;> simp [find, hb, ih]

/-- A read after a write of the same key. -/
theorem getD_put_same [DecidableEq α] (m : SMap α) (k : Nat) (d v : α) : getD (put m k d v) k d = v := by
  unfold put getD
  split
  · rename_i h; simp [find_erase_same, h]
  · simp [find_insert_same]

/-- A read of a key that a write does not name. -/
theorem getD_put_ne [DecidableEq α] (m : SMap α) {k j : Nat} (d d' v : α) (h : k ≠ j) : getD (put m k d v) j d' = getD m j d' := by
  unfold put getD
  split
  · rw [find_erase_ne m h]
  · rw [find_insert_ne m v h]

theorem mem_erase {m : SMap α} {k : Nat} {e : Nat × α} (h : e ∈ erase m k) : e ∈ m := by
  induction m with
  | nil => simp [erase] at h
  | cons x m ih =>
    obtain ⟨a, v⟩ := x
    unfold erase at h
    split at h
    · exact List.mem_cons_of_mem _ (ih h)
    · rcases List.mem_cons.1 h with h | h
      · exact h ▸ List.mem_cons_self
      · exact List.mem_cons_of_mem _ (ih h)

theorem mem_insert {m : SMap α} {k : Nat} {v : α} {e : Nat × α} (h : e ∈ insert m k v) : e = (k, v) ∨ e ∈ m := by
  induction m with
  | nil => simp only [insert, List.mem_singleton] at h; exact Or.inl h
  | cons x m ih =>
    obtain ⟨a, w⟩ := x
    unfold insert at h
    split at h
    · rcases List.mem_cons.1 h with h | h
      · exact Or.inl h
      · exact Or.inr h
    · split at h
      · rcases List.mem_cons.1 h with h | h
        · exact Or.inl h
        · exact Or.inr (List.mem_cons_of_mem _ h)
      · rcases List.mem_cons.1 h with h | h
        · exact Or.inr (h ▸ List.mem_cons_self)
        · rcases ih h with h | h
          · exact Or.inl h
          · exact Or.inr (List.mem_cons_of_mem _ h)

/-- Keys strictly rising, entry by entry. -/
theorem sorted_cons {a : Nat} {v : α} {m : SMap α} :
    ((((a, v) :: m).map Prod.fst).Pairwise (· < ·)) ↔ (∀ e ∈ m, a < e.1) ∧ (m.map Prod.fst).Pairwise (· < ·) := by
  simp [List.pairwise_cons]

theorem sorted_erase {m : SMap α} (h : (m.map Prod.fst).Pairwise (· < ·)) (k : Nat) :
    ((erase m k).map Prod.fst).Pairwise (· < ·) := by
  induction m with
  | nil => exact List.Pairwise.nil
  | cons x m ih =>
    obtain ⟨a, v⟩ := x
    obtain ⟨h1, h2⟩ := sorted_cons.1 h
    unfold erase
    split
    · exact ih h2
    · exact sorted_cons.2 ⟨fun e he => h1 e (mem_erase he), ih h2⟩

theorem sorted_insert {m : SMap α} (h : (m.map Prod.fst).Pairwise (· < ·)) (k : Nat) (v : α) :
    ((insert m k v).map Prod.fst).Pairwise (· < ·) := by
  induction m with
  | nil => simp [insert]
  | cons x m ih =>
    obtain ⟨a, w⟩ := x
    obtain ⟨h1, h2⟩ := sorted_cons.1 h
    unfold insert
    split
    · rename_i hk
      refine sorted_cons.2 ⟨fun e he => ?_, h⟩
      rcases List.mem_cons.1 he with rfl | he
      · exact hk
      · exact lt_trans hk (h1 e he)
    · split
      · rename_i hk; exact sorted_cons.2 ⟨fun e he => hk ▸ h1 e he, h2⟩
      · refine sorted_cons.2 ⟨fun e he => ?_, ih h2⟩
        rcases mem_insert he with rfl | he
        · show a < k
          omega
        · exact h1 e he

/-- A write keeps the canonical form. -/
theorem wf_put [DecidableEq α] {m : SMap α} {d : Nat → α} (h : wf m d) (k : Nat) (v : α) : wf (put m k (d k) v) d := by
  unfold put
  split
  · exact ⟨sorted_erase h.1 k, fun e he => h.2 e (mem_erase he)⟩
  · rename_i hv
    refine ⟨sorted_insert h.1 k v, fun e he => ?_⟩
    rcases mem_insert he with rfl | he
    · exact hv
    · exact h.2 e he

/-- Dropping entries keeps the canonical form. -/
theorem wf_filter [DecidableEq α] {m : SMap α} {d : Nat → α} (h : wf m d) (p : Nat × α → Bool) : wf (m.filter p) d :=
  ⟨List.Pairwise.sublist ((List.filter_sublist (p := p)).map Prod.fst) h.1, fun e he => h.2 e (List.mem_filter.1 he).1⟩

theorem wf_nil [DecidableEq α] (d : Nat → α) : wf ([] : SMap α) d := ⟨List.Pairwise.nil, by simp⟩

end Sys2Proof.Machine.SMap
end

