-- ==== Sys2Proof/Laws/State.lean ====
section
/-!
SUPPORT. Sys2Proof/Laws/State.lean: what each named update of the state does to each of its fields, and the laws of parameters.
-/

namespace Sys2Proof.Machine

variable (s : State)

/-! `setUmber` -/
@[simp] theorem State.setUmber_pending (v : UmberSt) : (s.setUmber v).pending = s.pending := rfl
@[simp] theorem State.setUmber_params (v : UmberSt) : (s.setUmber v).params = s.params := rfl
@[simp] theorem State.setUmber_masks (v : UmberSt) : (s.setUmber v).masks = s.masks := rfl
@[simp] theorem State.setUmber_pwr (v : UmberSt) : (s.setUmber v).pwr = s.pwr := rfl
@[simp] theorem State.setUmber_umber (v : UmberSt) : (s.setUmber v).umber = v := rfl
@[simp] theorem State.setUmber_mem (v : UmberSt) : (s.setUmber v).mem = s.mem := rfl
@[simp] theorem State.setUmber_time (v : UmberSt) : (s.setUmber v).time = s.time := rfl
@[simp] theorem State.setUmber_pier (v : UmberSt) : (s.setUmber v).pier = s.pier := rfl
@[simp] theorem State.setUmber_mgmt (v : UmberSt) : (s.setUmber v).mgmt = s.mgmt := rfl
@[simp] theorem State.setUmber_dma (v : UmberSt) : (s.setUmber v).dma = s.dma := rfl
@[simp] theorem State.setUmber_dmaLast (v : UmberSt) : (s.setUmber v).dmaLast = s.dmaLast := rfl
@[simp] theorem State.setUmber_rev (v : UmberSt) : (s.setUmber v).rev = s.rev := rfl
@[simp] theorem State.setUmber_radio (v : UmberSt) : (s.setUmber v).radio = s.radio := rfl
@[simp] theorem State.setUmber_wake (v : UmberSt) : (s.setUmber v).wake = s.wake := rfl
@[simp] theorem State.setUmber_trs (v : UmberSt) : (s.setUmber v).trs = s.trs := rfl
@[simp] theorem State.setUmber_crypt (v : UmberSt) : (s.setUmber v).crypt = s.crypt := rfl
@[simp] theorem State.setUmber_rng (v : UmberSt) : (s.setUmber v).rng = s.rng := rfl
@[simp] theorem State.setUmber_life (v : UmberSt) : (s.setUmber v).life = s.life := rfl
@[simp] theorem State.setUmber_host (v : UmberSt) : (s.setUmber v).host = s.host := rfl
@[simp] theorem State.setUmber_pod (v : UmberSt) : (s.setUmber v).pod = s.pod := rfl
@[simp] theorem State.setUmber_face (v : UmberSt) : (s.setUmber v).face = s.face := rfl
@[simp] theorem State.setUmber_gpio (v : UmberSt) : (s.setUmber v).gpio = s.gpio := rfl
@[simp] theorem State.setUmber_lines (v : UmberSt) : (s.setUmber v).lines = s.lines := rfl
@[simp] theorem State.setUmber_bank (v : UmberSt) : (s.setUmber v).bank = s.bank := rfl
@[simp] theorem State.setUmber_freeCtr (v : UmberSt) : (s.setUmber v).freeCtr = s.freeCtr := rfl
@[simp] theorem State.setUmber_par (v : UmberSt) (i : Nat) : (s.setUmber v).par i = s.par i := rfl

/-! `setMem` -/
@[simp] theorem State.setMem_pending (v : MemSt) : (s.setMem v).pending = s.pending := rfl
@[simp] theorem State.setMem_params (v : MemSt) : (s.setMem v).params = s.params := rfl
@[simp] theorem State.setMem_masks (v : MemSt) : (s.setMem v).masks = s.masks := rfl
@[simp] theorem State.setMem_pwr (v : MemSt) : (s.setMem v).pwr = s.pwr := rfl
@[simp] theorem State.setMem_umber (v : MemSt) : (s.setMem v).umber = s.umber := rfl
@[simp] theorem State.setMem_mem (v : MemSt) : (s.setMem v).mem = v := rfl
@[simp] theorem State.setMem_time (v : MemSt) : (s.setMem v).time = s.time := rfl
@[simp] theorem State.setMem_pier (v : MemSt) : (s.setMem v).pier = s.pier := rfl
@[simp] theorem State.setMem_mgmt (v : MemSt) : (s.setMem v).mgmt = s.mgmt := rfl
@[simp] theorem State.setMem_dma (v : MemSt) : (s.setMem v).dma = s.dma := rfl
@[simp] theorem State.setMem_dmaLast (v : MemSt) : (s.setMem v).dmaLast = s.dmaLast := rfl
@[simp] theorem State.setMem_rev (v : MemSt) : (s.setMem v).rev = s.rev := rfl
@[simp] theorem State.setMem_radio (v : MemSt) : (s.setMem v).radio = s.radio := rfl
@[simp] theorem State.setMem_wake (v : MemSt) : (s.setMem v).wake = s.wake := rfl
@[simp] theorem State.setMem_trs (v : MemSt) : (s.setMem v).trs = s.trs := rfl
@[simp] theorem State.setMem_crypt (v : MemSt) : (s.setMem v).crypt = s.crypt := rfl
@[simp] theorem State.setMem_rng (v : MemSt) : (s.setMem v).rng = s.rng := rfl
@[simp] theorem State.setMem_life (v : MemSt) : (s.setMem v).life = s.life := rfl
@[simp] theorem State.setMem_host (v : MemSt) : (s.setMem v).host = s.host := rfl
@[simp] theorem State.setMem_pod (v : MemSt) : (s.setMem v).pod = s.pod := rfl
@[simp] theorem State.setMem_face (v : MemSt) : (s.setMem v).face = s.face := rfl
@[simp] theorem State.setMem_gpio (v : MemSt) : (s.setMem v).gpio = s.gpio := rfl
@[simp] theorem State.setMem_lines (v : MemSt) : (s.setMem v).lines = s.lines := rfl
@[simp] theorem State.setMem_bank (v : MemSt) : (s.setMem v).bank = s.bank := rfl
@[simp] theorem State.setMem_freeCtr (v : MemSt) : (s.setMem v).freeCtr = s.freeCtr := rfl
@[simp] theorem State.setMem_par (v : MemSt) (i : Nat) : (s.setMem v).par i = s.par i := rfl

/-! `setPwr` -/
@[simp] theorem State.setPwr_pending (v : PowerSt) : (s.setPwr v).pending = s.pending := rfl
@[simp] theorem State.setPwr_params (v : PowerSt) : (s.setPwr v).params = s.params := rfl
@[simp] theorem State.setPwr_masks (v : PowerSt) : (s.setPwr v).masks = s.masks := rfl
@[simp] theorem State.setPwr_pwr (v : PowerSt) : (s.setPwr v).pwr = v := rfl
@[simp] theorem State.setPwr_umber (v : PowerSt) : (s.setPwr v).umber = s.umber := rfl
@[simp] theorem State.setPwr_mem (v : PowerSt) : (s.setPwr v).mem = s.mem := rfl
@[simp] theorem State.setPwr_time (v : PowerSt) : (s.setPwr v).time = s.time := rfl
@[simp] theorem State.setPwr_pier (v : PowerSt) : (s.setPwr v).pier = s.pier := rfl
@[simp] theorem State.setPwr_mgmt (v : PowerSt) : (s.setPwr v).mgmt = s.mgmt := rfl
@[simp] theorem State.setPwr_dma (v : PowerSt) : (s.setPwr v).dma = s.dma := rfl
@[simp] theorem State.setPwr_dmaLast (v : PowerSt) : (s.setPwr v).dmaLast = s.dmaLast := rfl
@[simp] theorem State.setPwr_rev (v : PowerSt) : (s.setPwr v).rev = s.rev := rfl
@[simp] theorem State.setPwr_radio (v : PowerSt) : (s.setPwr v).radio = s.radio := rfl
@[simp] theorem State.setPwr_wake (v : PowerSt) : (s.setPwr v).wake = s.wake := rfl
@[simp] theorem State.setPwr_trs (v : PowerSt) : (s.setPwr v).trs = s.trs := rfl
@[simp] theorem State.setPwr_crypt (v : PowerSt) : (s.setPwr v).crypt = s.crypt := rfl
@[simp] theorem State.setPwr_rng (v : PowerSt) : (s.setPwr v).rng = s.rng := rfl
@[simp] theorem State.setPwr_life (v : PowerSt) : (s.setPwr v).life = s.life := rfl
@[simp] theorem State.setPwr_host (v : PowerSt) : (s.setPwr v).host = s.host := rfl
@[simp] theorem State.setPwr_pod (v : PowerSt) : (s.setPwr v).pod = s.pod := rfl
@[simp] theorem State.setPwr_face (v : PowerSt) : (s.setPwr v).face = s.face := rfl
@[simp] theorem State.setPwr_gpio (v : PowerSt) : (s.setPwr v).gpio = s.gpio := rfl
@[simp] theorem State.setPwr_lines (v : PowerSt) : (s.setPwr v).lines = s.lines := rfl
@[simp] theorem State.setPwr_bank (v : PowerSt) : (s.setPwr v).bank = s.bank := rfl
@[simp] theorem State.setPwr_freeCtr (v : PowerSt) : (s.setPwr v).freeCtr = s.freeCtr := rfl
@[simp] theorem State.setPwr_par (v : PowerSt) (i : Nat) : (s.setPwr v).par i = s.par i := rfl

/-! `setPier` -/
@[simp] theorem State.setPier_pending (v : PierSt) : (s.setPier v).pending = s.pending := rfl
@[simp] theorem State.setPier_params (v : PierSt) : (s.setPier v).params = s.params := rfl
@[simp] theorem State.setPier_masks (v : PierSt) : (s.setPier v).masks = s.masks := rfl
@[simp] theorem State.setPier_pwr (v : PierSt) : (s.setPier v).pwr = s.pwr := rfl
@[simp] theorem State.setPier_umber (v : PierSt) : (s.setPier v).umber = s.umber := rfl
@[simp] theorem State.setPier_mem (v : PierSt) : (s.setPier v).mem = s.mem := rfl
@[simp] theorem State.setPier_time (v : PierSt) : (s.setPier v).time = s.time := rfl
@[simp] theorem State.setPier_pier (v : PierSt) : (s.setPier v).pier = v := rfl
@[simp] theorem State.setPier_mgmt (v : PierSt) : (s.setPier v).mgmt = s.mgmt := rfl
@[simp] theorem State.setPier_dma (v : PierSt) : (s.setPier v).dma = s.dma := rfl
@[simp] theorem State.setPier_dmaLast (v : PierSt) : (s.setPier v).dmaLast = s.dmaLast := rfl
@[simp] theorem State.setPier_rev (v : PierSt) : (s.setPier v).rev = s.rev := rfl
@[simp] theorem State.setPier_radio (v : PierSt) : (s.setPier v).radio = s.radio := rfl
@[simp] theorem State.setPier_wake (v : PierSt) : (s.setPier v).wake = s.wake := rfl
@[simp] theorem State.setPier_trs (v : PierSt) : (s.setPier v).trs = s.trs := rfl
@[simp] theorem State.setPier_crypt (v : PierSt) : (s.setPier v).crypt = s.crypt := rfl
@[simp] theorem State.setPier_rng (v : PierSt) : (s.setPier v).rng = s.rng := rfl
@[simp] theorem State.setPier_life (v : PierSt) : (s.setPier v).life = s.life := rfl
@[simp] theorem State.setPier_host (v : PierSt) : (s.setPier v).host = s.host := rfl
@[simp] theorem State.setPier_pod (v : PierSt) : (s.setPier v).pod = s.pod := rfl
@[simp] theorem State.setPier_face (v : PierSt) : (s.setPier v).face = s.face := rfl
@[simp] theorem State.setPier_gpio (v : PierSt) : (s.setPier v).gpio = s.gpio := rfl
@[simp] theorem State.setPier_lines (v : PierSt) : (s.setPier v).lines = s.lines := rfl
@[simp] theorem State.setPier_bank (v : PierSt) : (s.setPier v).bank = s.bank := rfl
@[simp] theorem State.setPier_freeCtr (v : PierSt) : (s.setPier v).freeCtr = s.freeCtr := rfl
@[simp] theorem State.setPier_par (v : PierSt) (i : Nat) : (s.setPier v).par i = s.par i := rfl

/-! `setMgmt` -/
@[simp] theorem State.setMgmt_pending (v : MgmtSt) : (s.setMgmt v).pending = s.pending := rfl
@[simp] theorem State.setMgmt_params (v : MgmtSt) : (s.setMgmt v).params = s.params := rfl
@[simp] theorem State.setMgmt_masks (v : MgmtSt) : (s.setMgmt v).masks = s.masks := rfl
@[simp] theorem State.setMgmt_pwr (v : MgmtSt) : (s.setMgmt v).pwr = s.pwr := rfl
@[simp] theorem State.setMgmt_umber (v : MgmtSt) : (s.setMgmt v).umber = s.umber := rfl
@[simp] theorem State.setMgmt_mem (v : MgmtSt) : (s.setMgmt v).mem = s.mem := rfl
@[simp] theorem State.setMgmt_time (v : MgmtSt) : (s.setMgmt v).time = s.time := rfl
@[simp] theorem State.setMgmt_pier (v : MgmtSt) : (s.setMgmt v).pier = s.pier := rfl
@[simp] theorem State.setMgmt_mgmt (v : MgmtSt) : (s.setMgmt v).mgmt = v := rfl
@[simp] theorem State.setMgmt_dma (v : MgmtSt) : (s.setMgmt v).dma = s.dma := rfl
@[simp] theorem State.setMgmt_dmaLast (v : MgmtSt) : (s.setMgmt v).dmaLast = s.dmaLast := rfl
@[simp] theorem State.setMgmt_rev (v : MgmtSt) : (s.setMgmt v).rev = s.rev := rfl
@[simp] theorem State.setMgmt_radio (v : MgmtSt) : (s.setMgmt v).radio = s.radio := rfl
@[simp] theorem State.setMgmt_wake (v : MgmtSt) : (s.setMgmt v).wake = s.wake := rfl
@[simp] theorem State.setMgmt_trs (v : MgmtSt) : (s.setMgmt v).trs = s.trs := rfl
@[simp] theorem State.setMgmt_crypt (v : MgmtSt) : (s.setMgmt v).crypt = s.crypt := rfl
@[simp] theorem State.setMgmt_rng (v : MgmtSt) : (s.setMgmt v).rng = s.rng := rfl
@[simp] theorem State.setMgmt_life (v : MgmtSt) : (s.setMgmt v).life = s.life := rfl
@[simp] theorem State.setMgmt_host (v : MgmtSt) : (s.setMgmt v).host = s.host := rfl
@[simp] theorem State.setMgmt_pod (v : MgmtSt) : (s.setMgmt v).pod = s.pod := rfl
@[simp] theorem State.setMgmt_face (v : MgmtSt) : (s.setMgmt v).face = s.face := rfl
@[simp] theorem State.setMgmt_gpio (v : MgmtSt) : (s.setMgmt v).gpio = s.gpio := rfl
@[simp] theorem State.setMgmt_lines (v : MgmtSt) : (s.setMgmt v).lines = s.lines := rfl
@[simp] theorem State.setMgmt_bank (v : MgmtSt) : (s.setMgmt v).bank = s.bank := rfl
@[simp] theorem State.setMgmt_freeCtr (v : MgmtSt) : (s.setMgmt v).freeCtr = s.freeCtr := rfl
@[simp] theorem State.setMgmt_par (v : MgmtSt) (i : Nat) : (s.setMgmt v).par i = s.par i := rfl

/-! `setRadio` -/
@[simp] theorem State.setRadio_pending (v : RadioSt) : (s.setRadio v).pending = s.pending := rfl
@[simp] theorem State.setRadio_params (v : RadioSt) : (s.setRadio v).params = s.params := rfl
@[simp] theorem State.setRadio_masks (v : RadioSt) : (s.setRadio v).masks = s.masks := rfl
@[simp] theorem State.setRadio_pwr (v : RadioSt) : (s.setRadio v).pwr = s.pwr := rfl
@[simp] theorem State.setRadio_umber (v : RadioSt) : (s.setRadio v).umber = s.umber := rfl
@[simp] theorem State.setRadio_mem (v : RadioSt) : (s.setRadio v).mem = s.mem := rfl
@[simp] theorem State.setRadio_time (v : RadioSt) : (s.setRadio v).time = s.time := rfl
@[simp] theorem State.setRadio_pier (v : RadioSt) : (s.setRadio v).pier = s.pier := rfl
@[simp] theorem State.setRadio_mgmt (v : RadioSt) : (s.setRadio v).mgmt = s.mgmt := rfl
@[simp] theorem State.setRadio_dma (v : RadioSt) : (s.setRadio v).dma = s.dma := rfl
@[simp] theorem State.setRadio_dmaLast (v : RadioSt) : (s.setRadio v).dmaLast = s.dmaLast := rfl
@[simp] theorem State.setRadio_rev (v : RadioSt) : (s.setRadio v).rev = s.rev := rfl
@[simp] theorem State.setRadio_radio (v : RadioSt) : (s.setRadio v).radio = v := rfl
@[simp] theorem State.setRadio_wake (v : RadioSt) : (s.setRadio v).wake = s.wake := rfl
@[simp] theorem State.setRadio_trs (v : RadioSt) : (s.setRadio v).trs = s.trs := rfl
@[simp] theorem State.setRadio_crypt (v : RadioSt) : (s.setRadio v).crypt = s.crypt := rfl
@[simp] theorem State.setRadio_rng (v : RadioSt) : (s.setRadio v).rng = s.rng := rfl
@[simp] theorem State.setRadio_life (v : RadioSt) : (s.setRadio v).life = s.life := rfl
@[simp] theorem State.setRadio_host (v : RadioSt) : (s.setRadio v).host = s.host := rfl
@[simp] theorem State.setRadio_pod (v : RadioSt) : (s.setRadio v).pod = s.pod := rfl
@[simp] theorem State.setRadio_face (v : RadioSt) : (s.setRadio v).face = s.face := rfl
@[simp] theorem State.setRadio_gpio (v : RadioSt) : (s.setRadio v).gpio = s.gpio := rfl
@[simp] theorem State.setRadio_lines (v : RadioSt) : (s.setRadio v).lines = s.lines := rfl
@[simp] theorem State.setRadio_bank (v : RadioSt) : (s.setRadio v).bank = s.bank := rfl
@[simp] theorem State.setRadio_freeCtr (v : RadioSt) : (s.setRadio v).freeCtr = s.freeCtr := rfl
@[simp] theorem State.setRadio_par (v : RadioSt) (i : Nat) : (s.setRadio v).par i = s.par i := rfl

/-! `setWake` -/
@[simp] theorem State.setWake_pending (v : WakeSt) : (s.setWake v).pending = s.pending := rfl
@[simp] theorem State.setWake_params (v : WakeSt) : (s.setWake v).params = s.params := rfl
@[simp] theorem State.setWake_masks (v : WakeSt) : (s.setWake v).masks = s.masks := rfl
@[simp] theorem State.setWake_pwr (v : WakeSt) : (s.setWake v).pwr = s.pwr := rfl
@[simp] theorem State.setWake_umber (v : WakeSt) : (s.setWake v).umber = s.umber := rfl
@[simp] theorem State.setWake_mem (v : WakeSt) : (s.setWake v).mem = s.mem := rfl
@[simp] theorem State.setWake_time (v : WakeSt) : (s.setWake v).time = s.time := rfl
@[simp] theorem State.setWake_pier (v : WakeSt) : (s.setWake v).pier = s.pier := rfl
@[simp] theorem State.setWake_mgmt (v : WakeSt) : (s.setWake v).mgmt = s.mgmt := rfl
@[simp] theorem State.setWake_dma (v : WakeSt) : (s.setWake v).dma = s.dma := rfl
@[simp] theorem State.setWake_dmaLast (v : WakeSt) : (s.setWake v).dmaLast = s.dmaLast := rfl
@[simp] theorem State.setWake_rev (v : WakeSt) : (s.setWake v).rev = s.rev := rfl
@[simp] theorem State.setWake_radio (v : WakeSt) : (s.setWake v).radio = s.radio := rfl
@[simp] theorem State.setWake_wake (v : WakeSt) : (s.setWake v).wake = v := rfl
@[simp] theorem State.setWake_trs (v : WakeSt) : (s.setWake v).trs = s.trs := rfl
@[simp] theorem State.setWake_crypt (v : WakeSt) : (s.setWake v).crypt = s.crypt := rfl
@[simp] theorem State.setWake_rng (v : WakeSt) : (s.setWake v).rng = s.rng := rfl
@[simp] theorem State.setWake_life (v : WakeSt) : (s.setWake v).life = s.life := rfl
@[simp] theorem State.setWake_host (v : WakeSt) : (s.setWake v).host = s.host := rfl
@[simp] theorem State.setWake_pod (v : WakeSt) : (s.setWake v).pod = s.pod := rfl
@[simp] theorem State.setWake_face (v : WakeSt) : (s.setWake v).face = s.face := rfl
@[simp] theorem State.setWake_gpio (v : WakeSt) : (s.setWake v).gpio = s.gpio := rfl
@[simp] theorem State.setWake_lines (v : WakeSt) : (s.setWake v).lines = s.lines := rfl
@[simp] theorem State.setWake_bank (v : WakeSt) : (s.setWake v).bank = s.bank := rfl
@[simp] theorem State.setWake_freeCtr (v : WakeSt) : (s.setWake v).freeCtr = s.freeCtr := rfl
@[simp] theorem State.setWake_par (v : WakeSt) (i : Nat) : (s.setWake v).par i = s.par i := rfl

/-! `setTrs` -/
@[simp] theorem State.setTrs_pending (v : TrsSt) : (s.setTrs v).pending = s.pending := rfl
@[simp] theorem State.setTrs_params (v : TrsSt) : (s.setTrs v).params = s.params := rfl
@[simp] theorem State.setTrs_masks (v : TrsSt) : (s.setTrs v).masks = s.masks := rfl
@[simp] theorem State.setTrs_pwr (v : TrsSt) : (s.setTrs v).pwr = s.pwr := rfl
@[simp] theorem State.setTrs_umber (v : TrsSt) : (s.setTrs v).umber = s.umber := rfl
@[simp] theorem State.setTrs_mem (v : TrsSt) : (s.setTrs v).mem = s.mem := rfl
@[simp] theorem State.setTrs_time (v : TrsSt) : (s.setTrs v).time = s.time := rfl
@[simp] theorem State.setTrs_pier (v : TrsSt) : (s.setTrs v).pier = s.pier := rfl
@[simp] theorem State.setTrs_mgmt (v : TrsSt) : (s.setTrs v).mgmt = s.mgmt := rfl
@[simp] theorem State.setTrs_dma (v : TrsSt) : (s.setTrs v).dma = s.dma := rfl
@[simp] theorem State.setTrs_dmaLast (v : TrsSt) : (s.setTrs v).dmaLast = s.dmaLast := rfl
@[simp] theorem State.setTrs_rev (v : TrsSt) : (s.setTrs v).rev = s.rev := rfl
@[simp] theorem State.setTrs_radio (v : TrsSt) : (s.setTrs v).radio = s.radio := rfl
@[simp] theorem State.setTrs_wake (v : TrsSt) : (s.setTrs v).wake = s.wake := rfl
@[simp] theorem State.setTrs_trs (v : TrsSt) : (s.setTrs v).trs = v := rfl
@[simp] theorem State.setTrs_crypt (v : TrsSt) : (s.setTrs v).crypt = s.crypt := rfl
@[simp] theorem State.setTrs_rng (v : TrsSt) : (s.setTrs v).rng = s.rng := rfl
@[simp] theorem State.setTrs_life (v : TrsSt) : (s.setTrs v).life = s.life := rfl
@[simp] theorem State.setTrs_host (v : TrsSt) : (s.setTrs v).host = s.host := rfl
@[simp] theorem State.setTrs_pod (v : TrsSt) : (s.setTrs v).pod = s.pod := rfl
@[simp] theorem State.setTrs_face (v : TrsSt) : (s.setTrs v).face = s.face := rfl
@[simp] theorem State.setTrs_gpio (v : TrsSt) : (s.setTrs v).gpio = s.gpio := rfl
@[simp] theorem State.setTrs_lines (v : TrsSt) : (s.setTrs v).lines = s.lines := rfl
@[simp] theorem State.setTrs_bank (v : TrsSt) : (s.setTrs v).bank = s.bank := rfl
@[simp] theorem State.setTrs_freeCtr (v : TrsSt) : (s.setTrs v).freeCtr = s.freeCtr := rfl
@[simp] theorem State.setTrs_par (v : TrsSt) (i : Nat) : (s.setTrs v).par i = s.par i := rfl

/-! `setCrypt` -/
@[simp] theorem State.setCrypt_pending (v : CryptSt) : (s.setCrypt v).pending = s.pending := rfl
@[simp] theorem State.setCrypt_params (v : CryptSt) : (s.setCrypt v).params = s.params := rfl
@[simp] theorem State.setCrypt_masks (v : CryptSt) : (s.setCrypt v).masks = s.masks := rfl
@[simp] theorem State.setCrypt_pwr (v : CryptSt) : (s.setCrypt v).pwr = s.pwr := rfl
@[simp] theorem State.setCrypt_umber (v : CryptSt) : (s.setCrypt v).umber = s.umber := rfl
@[simp] theorem State.setCrypt_mem (v : CryptSt) : (s.setCrypt v).mem = s.mem := rfl
@[simp] theorem State.setCrypt_time (v : CryptSt) : (s.setCrypt v).time = s.time := rfl
@[simp] theorem State.setCrypt_pier (v : CryptSt) : (s.setCrypt v).pier = s.pier := rfl
@[simp] theorem State.setCrypt_mgmt (v : CryptSt) : (s.setCrypt v).mgmt = s.mgmt := rfl
@[simp] theorem State.setCrypt_dma (v : CryptSt) : (s.setCrypt v).dma = s.dma := rfl
@[simp] theorem State.setCrypt_dmaLast (v : CryptSt) : (s.setCrypt v).dmaLast = s.dmaLast := rfl
@[simp] theorem State.setCrypt_rev (v : CryptSt) : (s.setCrypt v).rev = s.rev := rfl
@[simp] theorem State.setCrypt_radio (v : CryptSt) : (s.setCrypt v).radio = s.radio := rfl
@[simp] theorem State.setCrypt_wake (v : CryptSt) : (s.setCrypt v).wake = s.wake := rfl
@[simp] theorem State.setCrypt_trs (v : CryptSt) : (s.setCrypt v).trs = s.trs := rfl
@[simp] theorem State.setCrypt_crypt (v : CryptSt) : (s.setCrypt v).crypt = v := rfl
@[simp] theorem State.setCrypt_rng (v : CryptSt) : (s.setCrypt v).rng = s.rng := rfl
@[simp] theorem State.setCrypt_life (v : CryptSt) : (s.setCrypt v).life = s.life := rfl
@[simp] theorem State.setCrypt_host (v : CryptSt) : (s.setCrypt v).host = s.host := rfl
@[simp] theorem State.setCrypt_pod (v : CryptSt) : (s.setCrypt v).pod = s.pod := rfl
@[simp] theorem State.setCrypt_face (v : CryptSt) : (s.setCrypt v).face = s.face := rfl
@[simp] theorem State.setCrypt_gpio (v : CryptSt) : (s.setCrypt v).gpio = s.gpio := rfl
@[simp] theorem State.setCrypt_lines (v : CryptSt) : (s.setCrypt v).lines = s.lines := rfl
@[simp] theorem State.setCrypt_bank (v : CryptSt) : (s.setCrypt v).bank = s.bank := rfl
@[simp] theorem State.setCrypt_freeCtr (v : CryptSt) : (s.setCrypt v).freeCtr = s.freeCtr := rfl
@[simp] theorem State.setCrypt_par (v : CryptSt) (i : Nat) : (s.setCrypt v).par i = s.par i := rfl

/-! `setRng` -/
@[simp] theorem State.setRng_pending (v : RngSt) : (s.setRng v).pending = s.pending := rfl
@[simp] theorem State.setRng_params (v : RngSt) : (s.setRng v).params = s.params := rfl
@[simp] theorem State.setRng_masks (v : RngSt) : (s.setRng v).masks = s.masks := rfl
@[simp] theorem State.setRng_pwr (v : RngSt) : (s.setRng v).pwr = s.pwr := rfl
@[simp] theorem State.setRng_umber (v : RngSt) : (s.setRng v).umber = s.umber := rfl
@[simp] theorem State.setRng_mem (v : RngSt) : (s.setRng v).mem = s.mem := rfl
@[simp] theorem State.setRng_time (v : RngSt) : (s.setRng v).time = s.time := rfl
@[simp] theorem State.setRng_pier (v : RngSt) : (s.setRng v).pier = s.pier := rfl
@[simp] theorem State.setRng_mgmt (v : RngSt) : (s.setRng v).mgmt = s.mgmt := rfl
@[simp] theorem State.setRng_dma (v : RngSt) : (s.setRng v).dma = s.dma := rfl
@[simp] theorem State.setRng_dmaLast (v : RngSt) : (s.setRng v).dmaLast = s.dmaLast := rfl
@[simp] theorem State.setRng_rev (v : RngSt) : (s.setRng v).rev = s.rev := rfl
@[simp] theorem State.setRng_radio (v : RngSt) : (s.setRng v).radio = s.radio := rfl
@[simp] theorem State.setRng_wake (v : RngSt) : (s.setRng v).wake = s.wake := rfl
@[simp] theorem State.setRng_trs (v : RngSt) : (s.setRng v).trs = s.trs := rfl
@[simp] theorem State.setRng_crypt (v : RngSt) : (s.setRng v).crypt = s.crypt := rfl
@[simp] theorem State.setRng_rng (v : RngSt) : (s.setRng v).rng = v := rfl
@[simp] theorem State.setRng_life (v : RngSt) : (s.setRng v).life = s.life := rfl
@[simp] theorem State.setRng_host (v : RngSt) : (s.setRng v).host = s.host := rfl
@[simp] theorem State.setRng_pod (v : RngSt) : (s.setRng v).pod = s.pod := rfl
@[simp] theorem State.setRng_face (v : RngSt) : (s.setRng v).face = s.face := rfl
@[simp] theorem State.setRng_gpio (v : RngSt) : (s.setRng v).gpio = s.gpio := rfl
@[simp] theorem State.setRng_lines (v : RngSt) : (s.setRng v).lines = s.lines := rfl
@[simp] theorem State.setRng_bank (v : RngSt) : (s.setRng v).bank = s.bank := rfl
@[simp] theorem State.setRng_freeCtr (v : RngSt) : (s.setRng v).freeCtr = s.freeCtr := rfl
@[simp] theorem State.setRng_par (v : RngSt) (i : Nat) : (s.setRng v).par i = s.par i := rfl

/-! `setLife` -/
@[simp] theorem State.setLife_pending (v : LifeSt) : (s.setLife v).pending = s.pending := rfl
@[simp] theorem State.setLife_params (v : LifeSt) : (s.setLife v).params = s.params := rfl
@[simp] theorem State.setLife_masks (v : LifeSt) : (s.setLife v).masks = s.masks := rfl
@[simp] theorem State.setLife_pwr (v : LifeSt) : (s.setLife v).pwr = s.pwr := rfl
@[simp] theorem State.setLife_umber (v : LifeSt) : (s.setLife v).umber = s.umber := rfl
@[simp] theorem State.setLife_mem (v : LifeSt) : (s.setLife v).mem = s.mem := rfl
@[simp] theorem State.setLife_time (v : LifeSt) : (s.setLife v).time = s.time := rfl
@[simp] theorem State.setLife_pier (v : LifeSt) : (s.setLife v).pier = s.pier := rfl
@[simp] theorem State.setLife_mgmt (v : LifeSt) : (s.setLife v).mgmt = s.mgmt := rfl
@[simp] theorem State.setLife_dma (v : LifeSt) : (s.setLife v).dma = s.dma := rfl
@[simp] theorem State.setLife_dmaLast (v : LifeSt) : (s.setLife v).dmaLast = s.dmaLast := rfl
@[simp] theorem State.setLife_rev (v : LifeSt) : (s.setLife v).rev = s.rev := rfl
@[simp] theorem State.setLife_radio (v : LifeSt) : (s.setLife v).radio = s.radio := rfl
@[simp] theorem State.setLife_wake (v : LifeSt) : (s.setLife v).wake = s.wake := rfl
@[simp] theorem State.setLife_trs (v : LifeSt) : (s.setLife v).trs = s.trs := rfl
@[simp] theorem State.setLife_crypt (v : LifeSt) : (s.setLife v).crypt = s.crypt := rfl
@[simp] theorem State.setLife_rng (v : LifeSt) : (s.setLife v).rng = s.rng := rfl
@[simp] theorem State.setLife_life (v : LifeSt) : (s.setLife v).life = v := rfl
@[simp] theorem State.setLife_host (v : LifeSt) : (s.setLife v).host = s.host := rfl
@[simp] theorem State.setLife_pod (v : LifeSt) : (s.setLife v).pod = s.pod := rfl
@[simp] theorem State.setLife_face (v : LifeSt) : (s.setLife v).face = s.face := rfl
@[simp] theorem State.setLife_gpio (v : LifeSt) : (s.setLife v).gpio = s.gpio := rfl
@[simp] theorem State.setLife_lines (v : LifeSt) : (s.setLife v).lines = s.lines := rfl
@[simp] theorem State.setLife_bank (v : LifeSt) : (s.setLife v).bank = s.bank := rfl
@[simp] theorem State.setLife_freeCtr (v : LifeSt) : (s.setLife v).freeCtr = s.freeCtr := rfl
@[simp] theorem State.setLife_par (v : LifeSt) (i : Nat) : (s.setLife v).par i = s.par i := rfl

/-! `setHost` -/
@[simp] theorem State.setHost_pending (v : HostSt) : (s.setHost v).pending = s.pending := rfl
@[simp] theorem State.setHost_params (v : HostSt) : (s.setHost v).params = s.params := rfl
@[simp] theorem State.setHost_masks (v : HostSt) : (s.setHost v).masks = s.masks := rfl
@[simp] theorem State.setHost_pwr (v : HostSt) : (s.setHost v).pwr = s.pwr := rfl
@[simp] theorem State.setHost_umber (v : HostSt) : (s.setHost v).umber = s.umber := rfl
@[simp] theorem State.setHost_mem (v : HostSt) : (s.setHost v).mem = s.mem := rfl
@[simp] theorem State.setHost_time (v : HostSt) : (s.setHost v).time = s.time := rfl
@[simp] theorem State.setHost_pier (v : HostSt) : (s.setHost v).pier = s.pier := rfl
@[simp] theorem State.setHost_mgmt (v : HostSt) : (s.setHost v).mgmt = s.mgmt := rfl
@[simp] theorem State.setHost_dma (v : HostSt) : (s.setHost v).dma = s.dma := rfl
@[simp] theorem State.setHost_dmaLast (v : HostSt) : (s.setHost v).dmaLast = s.dmaLast := rfl
@[simp] theorem State.setHost_rev (v : HostSt) : (s.setHost v).rev = s.rev := rfl
@[simp] theorem State.setHost_radio (v : HostSt) : (s.setHost v).radio = s.radio := rfl
@[simp] theorem State.setHost_wake (v : HostSt) : (s.setHost v).wake = s.wake := rfl
@[simp] theorem State.setHost_trs (v : HostSt) : (s.setHost v).trs = s.trs := rfl
@[simp] theorem State.setHost_crypt (v : HostSt) : (s.setHost v).crypt = s.crypt := rfl
@[simp] theorem State.setHost_rng (v : HostSt) : (s.setHost v).rng = s.rng := rfl
@[simp] theorem State.setHost_life (v : HostSt) : (s.setHost v).life = s.life := rfl
@[simp] theorem State.setHost_host (v : HostSt) : (s.setHost v).host = v := rfl
@[simp] theorem State.setHost_pod (v : HostSt) : (s.setHost v).pod = s.pod := rfl
@[simp] theorem State.setHost_face (v : HostSt) : (s.setHost v).face = s.face := rfl
@[simp] theorem State.setHost_gpio (v : HostSt) : (s.setHost v).gpio = s.gpio := rfl
@[simp] theorem State.setHost_lines (v : HostSt) : (s.setHost v).lines = s.lines := rfl
@[simp] theorem State.setHost_bank (v : HostSt) : (s.setHost v).bank = s.bank := rfl
@[simp] theorem State.setHost_freeCtr (v : HostSt) : (s.setHost v).freeCtr = s.freeCtr := rfl
@[simp] theorem State.setHost_par (v : HostSt) (i : Nat) : (s.setHost v).par i = s.par i := rfl

/-! `setPod` -/
@[simp] theorem State.setPod_pending (v : PodSt) : (s.setPod v).pending = s.pending := rfl
@[simp] theorem State.setPod_params (v : PodSt) : (s.setPod v).params = s.params := rfl
@[simp] theorem State.setPod_masks (v : PodSt) : (s.setPod v).masks = s.masks := rfl
@[simp] theorem State.setPod_pwr (v : PodSt) : (s.setPod v).pwr = s.pwr := rfl
@[simp] theorem State.setPod_umber (v : PodSt) : (s.setPod v).umber = s.umber := rfl
@[simp] theorem State.setPod_mem (v : PodSt) : (s.setPod v).mem = s.mem := rfl
@[simp] theorem State.setPod_time (v : PodSt) : (s.setPod v).time = s.time := rfl
@[simp] theorem State.setPod_pier (v : PodSt) : (s.setPod v).pier = s.pier := rfl
@[simp] theorem State.setPod_mgmt (v : PodSt) : (s.setPod v).mgmt = s.mgmt := rfl
@[simp] theorem State.setPod_dma (v : PodSt) : (s.setPod v).dma = s.dma := rfl
@[simp] theorem State.setPod_dmaLast (v : PodSt) : (s.setPod v).dmaLast = s.dmaLast := rfl
@[simp] theorem State.setPod_rev (v : PodSt) : (s.setPod v).rev = s.rev := rfl
@[simp] theorem State.setPod_radio (v : PodSt) : (s.setPod v).radio = s.radio := rfl
@[simp] theorem State.setPod_wake (v : PodSt) : (s.setPod v).wake = s.wake := rfl
@[simp] theorem State.setPod_trs (v : PodSt) : (s.setPod v).trs = s.trs := rfl
@[simp] theorem State.setPod_crypt (v : PodSt) : (s.setPod v).crypt = s.crypt := rfl
@[simp] theorem State.setPod_rng (v : PodSt) : (s.setPod v).rng = s.rng := rfl
@[simp] theorem State.setPod_life (v : PodSt) : (s.setPod v).life = s.life := rfl
@[simp] theorem State.setPod_host (v : PodSt) : (s.setPod v).host = s.host := rfl
@[simp] theorem State.setPod_pod (v : PodSt) : (s.setPod v).pod = v := rfl
@[simp] theorem State.setPod_face (v : PodSt) : (s.setPod v).face = s.face := rfl
@[simp] theorem State.setPod_gpio (v : PodSt) : (s.setPod v).gpio = s.gpio := rfl
@[simp] theorem State.setPod_lines (v : PodSt) : (s.setPod v).lines = s.lines := rfl
@[simp] theorem State.setPod_bank (v : PodSt) : (s.setPod v).bank = s.bank := rfl
@[simp] theorem State.setPod_freeCtr (v : PodSt) : (s.setPod v).freeCtr = s.freeCtr := rfl
@[simp] theorem State.setPod_par (v : PodSt) (i : Nat) : (s.setPod v).par i = s.par i := rfl

/-! `setFace` -/
@[simp] theorem State.setFace_pending (v : FaceSt) : (s.setFace v).pending = s.pending := rfl
@[simp] theorem State.setFace_params (v : FaceSt) : (s.setFace v).params = s.params := rfl
@[simp] theorem State.setFace_masks (v : FaceSt) : (s.setFace v).masks = s.masks := rfl
@[simp] theorem State.setFace_pwr (v : FaceSt) : (s.setFace v).pwr = s.pwr := rfl
@[simp] theorem State.setFace_umber (v : FaceSt) : (s.setFace v).umber = s.umber := rfl
@[simp] theorem State.setFace_mem (v : FaceSt) : (s.setFace v).mem = s.mem := rfl
@[simp] theorem State.setFace_time (v : FaceSt) : (s.setFace v).time = s.time := rfl
@[simp] theorem State.setFace_pier (v : FaceSt) : (s.setFace v).pier = s.pier := rfl
@[simp] theorem State.setFace_mgmt (v : FaceSt) : (s.setFace v).mgmt = s.mgmt := rfl
@[simp] theorem State.setFace_dma (v : FaceSt) : (s.setFace v).dma = s.dma := rfl
@[simp] theorem State.setFace_dmaLast (v : FaceSt) : (s.setFace v).dmaLast = s.dmaLast := rfl
@[simp] theorem State.setFace_rev (v : FaceSt) : (s.setFace v).rev = s.rev := rfl
@[simp] theorem State.setFace_radio (v : FaceSt) : (s.setFace v).radio = s.radio := rfl
@[simp] theorem State.setFace_wake (v : FaceSt) : (s.setFace v).wake = s.wake := rfl
@[simp] theorem State.setFace_trs (v : FaceSt) : (s.setFace v).trs = s.trs := rfl
@[simp] theorem State.setFace_crypt (v : FaceSt) : (s.setFace v).crypt = s.crypt := rfl
@[simp] theorem State.setFace_rng (v : FaceSt) : (s.setFace v).rng = s.rng := rfl
@[simp] theorem State.setFace_life (v : FaceSt) : (s.setFace v).life = s.life := rfl
@[simp] theorem State.setFace_host (v : FaceSt) : (s.setFace v).host = s.host := rfl
@[simp] theorem State.setFace_pod (v : FaceSt) : (s.setFace v).pod = s.pod := rfl
@[simp] theorem State.setFace_face (v : FaceSt) : (s.setFace v).face = v := rfl
@[simp] theorem State.setFace_gpio (v : FaceSt) : (s.setFace v).gpio = s.gpio := rfl
@[simp] theorem State.setFace_lines (v : FaceSt) : (s.setFace v).lines = s.lines := rfl
@[simp] theorem State.setFace_bank (v : FaceSt) : (s.setFace v).bank = s.bank := rfl
@[simp] theorem State.setFace_freeCtr (v : FaceSt) : (s.setFace v).freeCtr = s.freeCtr := rfl
@[simp] theorem State.setFace_par (v : FaceSt) (i : Nat) : (s.setFace v).par i = s.par i := rfl

/-! `setBank` -/
@[simp] theorem State.setBank_pending (v : BankSt) : (s.setBank v).pending = s.pending := rfl
@[simp] theorem State.setBank_params (v : BankSt) : (s.setBank v).params = s.params := rfl
@[simp] theorem State.setBank_masks (v : BankSt) : (s.setBank v).masks = s.masks := rfl
@[simp] theorem State.setBank_pwr (v : BankSt) : (s.setBank v).pwr = s.pwr := rfl
@[simp] theorem State.setBank_umber (v : BankSt) : (s.setBank v).umber = s.umber := rfl
@[simp] theorem State.setBank_mem (v : BankSt) : (s.setBank v).mem = s.mem := rfl
@[simp] theorem State.setBank_time (v : BankSt) : (s.setBank v).time = s.time := rfl
@[simp] theorem State.setBank_pier (v : BankSt) : (s.setBank v).pier = s.pier := rfl
@[simp] theorem State.setBank_mgmt (v : BankSt) : (s.setBank v).mgmt = s.mgmt := rfl
@[simp] theorem State.setBank_dma (v : BankSt) : (s.setBank v).dma = s.dma := rfl
@[simp] theorem State.setBank_dmaLast (v : BankSt) : (s.setBank v).dmaLast = s.dmaLast := rfl
@[simp] theorem State.setBank_rev (v : BankSt) : (s.setBank v).rev = s.rev := rfl
@[simp] theorem State.setBank_radio (v : BankSt) : (s.setBank v).radio = s.radio := rfl
@[simp] theorem State.setBank_wake (v : BankSt) : (s.setBank v).wake = s.wake := rfl
@[simp] theorem State.setBank_trs (v : BankSt) : (s.setBank v).trs = s.trs := rfl
@[simp] theorem State.setBank_crypt (v : BankSt) : (s.setBank v).crypt = s.crypt := rfl
@[simp] theorem State.setBank_rng (v : BankSt) : (s.setBank v).rng = s.rng := rfl
@[simp] theorem State.setBank_life (v : BankSt) : (s.setBank v).life = s.life := rfl
@[simp] theorem State.setBank_host (v : BankSt) : (s.setBank v).host = s.host := rfl
@[simp] theorem State.setBank_pod (v : BankSt) : (s.setBank v).pod = s.pod := rfl
@[simp] theorem State.setBank_face (v : BankSt) : (s.setBank v).face = s.face := rfl
@[simp] theorem State.setBank_gpio (v : BankSt) : (s.setBank v).gpio = s.gpio := rfl
@[simp] theorem State.setBank_lines (v : BankSt) : (s.setBank v).lines = s.lines := rfl
@[simp] theorem State.setBank_bank (v : BankSt) : (s.setBank v).bank = v := rfl
@[simp] theorem State.setBank_freeCtr (v : BankSt) : (s.setBank v).freeCtr = s.freeCtr := rfl
@[simp] theorem State.setBank_par (v : BankSt) (i : Nat) : (s.setBank v).par i = s.par i := rfl

/-! `setPar` -/
@[simp] theorem State.setPar_pending (i : Nat) (v : Word) : (s.setPar i v).pending = s.pending := rfl
@[simp] theorem State.setPar_masks (i : Nat) (v : Word) : (s.setPar i v).masks = s.masks := rfl
@[simp] theorem State.setPar_pwr (i : Nat) (v : Word) : (s.setPar i v).pwr = s.pwr := rfl
@[simp] theorem State.setPar_umber (i : Nat) (v : Word) : (s.setPar i v).umber = s.umber := rfl
@[simp] theorem State.setPar_mem (i : Nat) (v : Word) : (s.setPar i v).mem = s.mem := rfl
@[simp] theorem State.setPar_time (i : Nat) (v : Word) : (s.setPar i v).time = s.time := rfl
@[simp] theorem State.setPar_pier (i : Nat) (v : Word) : (s.setPar i v).pier = s.pier := rfl
@[simp] theorem State.setPar_mgmt (i : Nat) (v : Word) : (s.setPar i v).mgmt = s.mgmt := rfl
@[simp] theorem State.setPar_dma (i : Nat) (v : Word) : (s.setPar i v).dma = s.dma := rfl
@[simp] theorem State.setPar_dmaLast (i : Nat) (v : Word) : (s.setPar i v).dmaLast = s.dmaLast := rfl
@[simp] theorem State.setPar_rev (i : Nat) (v : Word) : (s.setPar i v).rev = s.rev := rfl
@[simp] theorem State.setPar_radio (i : Nat) (v : Word) : (s.setPar i v).radio = s.radio := rfl
@[simp] theorem State.setPar_wake (i : Nat) (v : Word) : (s.setPar i v).wake = s.wake := rfl
@[simp] theorem State.setPar_trs (i : Nat) (v : Word) : (s.setPar i v).trs = s.trs := rfl
@[simp] theorem State.setPar_crypt (i : Nat) (v : Word) : (s.setPar i v).crypt = s.crypt := rfl
@[simp] theorem State.setPar_rng (i : Nat) (v : Word) : (s.setPar i v).rng = s.rng := rfl
@[simp] theorem State.setPar_life (i : Nat) (v : Word) : (s.setPar i v).life = s.life := rfl
@[simp] theorem State.setPar_host (i : Nat) (v : Word) : (s.setPar i v).host = s.host := rfl
@[simp] theorem State.setPar_pod (i : Nat) (v : Word) : (s.setPar i v).pod = s.pod := rfl
@[simp] theorem State.setPar_face (i : Nat) (v : Word) : (s.setPar i v).face = s.face := rfl
@[simp] theorem State.setPar_gpio (i : Nat) (v : Word) : (s.setPar i v).gpio = s.gpio := rfl
@[simp] theorem State.setPar_lines (i : Nat) (v : Word) : (s.setPar i v).lines = s.lines := rfl
@[simp] theorem State.setPar_bank (i : Nat) (v : Word) : (s.setPar i v).bank = s.bank := rfl
@[simp] theorem State.setPar_freeCtr (i : Nat) (v : Word) : (s.setPar i v).freeCtr = s.freeCtr := rfl

/-- A parameter reads what was last held in it. -/
theorem State.par_setPar_same (i : Nat) (v : Word) : (s.setPar i v).par i = v :=
  SMap.getD_put_same s.params i (resetOf i) v

theorem State.par_setPar_ne {i j : Nat} (v : Word) (h : i ≠ j) : (s.setPar i v).par j = s.par j :=
  SMap.getD_put_ne s.params (resetOf i) (resetOf j) v h

/-- A write of one parameter leaves every other one. -/
@[simp] theorem State.par_setPar (i j : Nat) (v : Word) : (s.setPar i v).par j = if i = j then v else s.par j := by
  split
  · rename_i h; subst h; exact s.par_setPar_same i v
  · rename_i h; exact s.par_setPar_ne v h

/-! `parBit` -/
@[simp] theorem State.parBit_pending (i bit : Nat) (b : Bool) : (s.parBit i bit b).pending = s.pending := rfl
@[simp] theorem State.parBit_masks (i bit : Nat) (b : Bool) : (s.parBit i bit b).masks = s.masks := rfl
@[simp] theorem State.parBit_pwr (i bit : Nat) (b : Bool) : (s.parBit i bit b).pwr = s.pwr := rfl
@[simp] theorem State.parBit_umber (i bit : Nat) (b : Bool) : (s.parBit i bit b).umber = s.umber := rfl
@[simp] theorem State.parBit_mem (i bit : Nat) (b : Bool) : (s.parBit i bit b).mem = s.mem := rfl
@[simp] theorem State.parBit_time (i bit : Nat) (b : Bool) : (s.parBit i bit b).time = s.time := rfl
@[simp] theorem State.parBit_pier (i bit : Nat) (b : Bool) : (s.parBit i bit b).pier = s.pier := rfl
@[simp] theorem State.parBit_mgmt (i bit : Nat) (b : Bool) : (s.parBit i bit b).mgmt = s.mgmt := rfl
@[simp] theorem State.parBit_dma (i bit : Nat) (b : Bool) : (s.parBit i bit b).dma = s.dma := rfl
@[simp] theorem State.parBit_dmaLast (i bit : Nat) (b : Bool) : (s.parBit i bit b).dmaLast = s.dmaLast := rfl
@[simp] theorem State.parBit_rev (i bit : Nat) (b : Bool) : (s.parBit i bit b).rev = s.rev := rfl
@[simp] theorem State.parBit_radio (i bit : Nat) (b : Bool) : (s.parBit i bit b).radio = s.radio := rfl
@[simp] theorem State.parBit_wake (i bit : Nat) (b : Bool) : (s.parBit i bit b).wake = s.wake := rfl
@[simp] theorem State.parBit_trs (i bit : Nat) (b : Bool) : (s.parBit i bit b).trs = s.trs := rfl
@[simp] theorem State.parBit_crypt (i bit : Nat) (b : Bool) : (s.parBit i bit b).crypt = s.crypt := rfl
@[simp] theorem State.parBit_rng (i bit : Nat) (b : Bool) : (s.parBit i bit b).rng = s.rng := rfl
@[simp] theorem State.parBit_life (i bit : Nat) (b : Bool) : (s.parBit i bit b).life = s.life := rfl
@[simp] theorem State.parBit_host (i bit : Nat) (b : Bool) : (s.parBit i bit b).host = s.host := rfl
@[simp] theorem State.parBit_pod (i bit : Nat) (b : Bool) : (s.parBit i bit b).pod = s.pod := rfl
@[simp] theorem State.parBit_face (i bit : Nat) (b : Bool) : (s.parBit i bit b).face = s.face := rfl
@[simp] theorem State.parBit_gpio (i bit : Nat) (b : Bool) : (s.parBit i bit b).gpio = s.gpio := rfl
@[simp] theorem State.parBit_lines (i bit : Nat) (b : Bool) : (s.parBit i bit b).lines = s.lines := rfl
@[simp] theorem State.parBit_bank (i bit : Nat) (b : Bool) : (s.parBit i bit b).bank = s.bank := rfl
@[simp] theorem State.parBit_freeCtr (i bit : Nat) (b : Bool) : (s.parBit i bit b).freeCtr = s.freeCtr := rfl

/-! `orPar` -/
@[simp] theorem State.orPar_pending (i : Nat) (v : Word) : (s.orPar i v).pending = s.pending := rfl
@[simp] theorem State.orPar_masks (i : Nat) (v : Word) : (s.orPar i v).masks = s.masks := rfl
@[simp] theorem State.orPar_pwr (i : Nat) (v : Word) : (s.orPar i v).pwr = s.pwr := rfl
@[simp] theorem State.orPar_umber (i : Nat) (v : Word) : (s.orPar i v).umber = s.umber := rfl
@[simp] theorem State.orPar_mem (i : Nat) (v : Word) : (s.orPar i v).mem = s.mem := rfl
@[simp] theorem State.orPar_time (i : Nat) (v : Word) : (s.orPar i v).time = s.time := rfl
@[simp] theorem State.orPar_pier (i : Nat) (v : Word) : (s.orPar i v).pier = s.pier := rfl
@[simp] theorem State.orPar_mgmt (i : Nat) (v : Word) : (s.orPar i v).mgmt = s.mgmt := rfl
@[simp] theorem State.orPar_dma (i : Nat) (v : Word) : (s.orPar i v).dma = s.dma := rfl
@[simp] theorem State.orPar_dmaLast (i : Nat) (v : Word) : (s.orPar i v).dmaLast = s.dmaLast := rfl
@[simp] theorem State.orPar_rev (i : Nat) (v : Word) : (s.orPar i v).rev = s.rev := rfl
@[simp] theorem State.orPar_radio (i : Nat) (v : Word) : (s.orPar i v).radio = s.radio := rfl
@[simp] theorem State.orPar_wake (i : Nat) (v : Word) : (s.orPar i v).wake = s.wake := rfl
@[simp] theorem State.orPar_trs (i : Nat) (v : Word) : (s.orPar i v).trs = s.trs := rfl
@[simp] theorem State.orPar_crypt (i : Nat) (v : Word) : (s.orPar i v).crypt = s.crypt := rfl
@[simp] theorem State.orPar_rng (i : Nat) (v : Word) : (s.orPar i v).rng = s.rng := rfl
@[simp] theorem State.orPar_life (i : Nat) (v : Word) : (s.orPar i v).life = s.life := rfl
@[simp] theorem State.orPar_host (i : Nat) (v : Word) : (s.orPar i v).host = s.host := rfl
@[simp] theorem State.orPar_pod (i : Nat) (v : Word) : (s.orPar i v).pod = s.pod := rfl
@[simp] theorem State.orPar_face (i : Nat) (v : Word) : (s.orPar i v).face = s.face := rfl
@[simp] theorem State.orPar_gpio (i : Nat) (v : Word) : (s.orPar i v).gpio = s.gpio := rfl
@[simp] theorem State.orPar_lines (i : Nat) (v : Word) : (s.orPar i v).lines = s.lines := rfl
@[simp] theorem State.orPar_bank (i : Nat) (v : Word) : (s.orPar i v).bank = s.bank := rfl
@[simp] theorem State.orPar_freeCtr (i : Nat) (v : Word) : (s.orPar i v).freeCtr = s.freeCtr := rfl

@[simp] theorem State.par_parBit (i bit j : Nat) (b : Bool) :
    (s.parBit i bit b).par j = if i = j then putBit (s.par i) bit b else s.par j := s.par_setPar i j _

@[simp] theorem State.par_orPar (i j : Nat) (v : Word) :
    (s.orPar i v).par j = if i = j then s.par i ||| v else s.par j := s.par_setPar i j _

/-! `raiseIrq` and `drawn` -/
@[simp] theorem State.raiseIrq_pending (n : Nat) : (s.raiseIrq n).pending = s.pending := rfl
@[simp] theorem State.raiseIrq_params (n : Nat) : (s.raiseIrq n).params = s.params := rfl
@[simp] theorem State.raiseIrq_masks (n : Nat) : (s.raiseIrq n).masks = s.masks := rfl
@[simp] theorem State.raiseIrq_pwr (n : Nat) : (s.raiseIrq n).pwr = s.pwr := rfl
@[simp] theorem State.raiseIrq_mem (n : Nat) : (s.raiseIrq n).mem = s.mem := rfl
@[simp] theorem State.raiseIrq_time (n : Nat) : (s.raiseIrq n).time = s.time := rfl
@[simp] theorem State.raiseIrq_pier (n : Nat) : (s.raiseIrq n).pier = s.pier := rfl
@[simp] theorem State.raiseIrq_mgmt (n : Nat) : (s.raiseIrq n).mgmt = s.mgmt := rfl
@[simp] theorem State.raiseIrq_dma (n : Nat) : (s.raiseIrq n).dma = s.dma := rfl
@[simp] theorem State.raiseIrq_dmaLast (n : Nat) : (s.raiseIrq n).dmaLast = s.dmaLast := rfl
@[simp] theorem State.raiseIrq_rev (n : Nat) : (s.raiseIrq n).rev = s.rev := rfl
@[simp] theorem State.raiseIrq_radio (n : Nat) : (s.raiseIrq n).radio = s.radio := rfl
@[simp] theorem State.raiseIrq_wake (n : Nat) : (s.raiseIrq n).wake = s.wake := rfl
@[simp] theorem State.raiseIrq_trs (n : Nat) : (s.raiseIrq n).trs = s.trs := rfl
@[simp] theorem State.raiseIrq_crypt (n : Nat) : (s.raiseIrq n).crypt = s.crypt := rfl
@[simp] theorem State.raiseIrq_rng (n : Nat) : (s.raiseIrq n).rng = s.rng := rfl
@[simp] theorem State.raiseIrq_life (n : Nat) : (s.raiseIrq n).life = s.life := rfl
@[simp] theorem State.raiseIrq_host (n : Nat) : (s.raiseIrq n).host = s.host := rfl
@[simp] theorem State.raiseIrq_pod (n : Nat) : (s.raiseIrq n).pod = s.pod := rfl
@[simp] theorem State.raiseIrq_face (n : Nat) : (s.raiseIrq n).face = s.face := rfl
@[simp] theorem State.raiseIrq_gpio (n : Nat) : (s.raiseIrq n).gpio = s.gpio := rfl
@[simp] theorem State.raiseIrq_lines (n : Nat) : (s.raiseIrq n).lines = s.lines := rfl
@[simp] theorem State.raiseIrq_bank (n : Nat) : (s.raiseIrq n).bank = s.bank := rfl
@[simp] theorem State.raiseIrq_freeCtr (n : Nat) : (s.raiseIrq n).freeCtr = s.freeCtr := rfl
@[simp] theorem State.raiseIrq_par (n i : Nat) : (s.raiseIrq n).par i = s.par i := rfl
@[simp] theorem State.raiseIrq_umber (n : Nat) : (s.raiseIrq n).umber = { s.umber with ipend := putBit s.umber.ipend n true } := rfl
@[simp] theorem State.drawn_pending : s.drawn.pending = s.pending := rfl
@[simp] theorem State.drawn_params : s.drawn.params = s.params := rfl
@[simp] theorem State.drawn_masks : s.drawn.masks = s.masks := rfl
@[simp] theorem State.drawn_pwr : s.drawn.pwr = s.pwr := rfl
@[simp] theorem State.drawn_umber : s.drawn.umber = s.umber := rfl
@[simp] theorem State.drawn_mem : s.drawn.mem = s.mem := rfl
@[simp] theorem State.drawn_time : s.drawn.time = s.time := rfl
@[simp] theorem State.drawn_pier : s.drawn.pier = s.pier := rfl
@[simp] theorem State.drawn_mgmt : s.drawn.mgmt = s.mgmt := rfl
@[simp] theorem State.drawn_dma : s.drawn.dma = s.dma := rfl
@[simp] theorem State.drawn_dmaLast : s.drawn.dmaLast = s.dmaLast := rfl
@[simp] theorem State.drawn_rev : s.drawn.rev = s.rev := rfl
@[simp] theorem State.drawn_radio : s.drawn.radio = s.radio := rfl
@[simp] theorem State.drawn_wake : s.drawn.wake = s.wake := rfl
@[simp] theorem State.drawn_trs : s.drawn.trs = s.trs := rfl
@[simp] theorem State.drawn_crypt : s.drawn.crypt = s.crypt := rfl
@[simp] theorem State.drawn_rng : s.drawn.rng = s.rng := rfl
@[simp] theorem State.drawn_life : s.drawn.life = s.life := rfl
@[simp] theorem State.drawn_host : s.drawn.host = s.host := rfl
@[simp] theorem State.drawn_pod : s.drawn.pod = s.pod := rfl
@[simp] theorem State.drawn_face : s.drawn.face = s.face := rfl
@[simp] theorem State.drawn_gpio : s.drawn.gpio = s.gpio := rfl
@[simp] theorem State.drawn_lines : s.drawn.lines = s.lines := rfl
@[simp] theorem State.drawn_bank : s.drawn.bank = s.bank := rfl
@[simp] theorem State.drawn_par (i : Nat) : s.drawn.par i = s.par i := rfl

/-! `setDma` and `setCh` -/
@[simp] theorem State.setDma_pending (c : Fin 16) (d : DmaSt) : (s.setDma c d).pending = s.pending := rfl
@[simp] theorem State.setDma_params (c : Fin 16) (d : DmaSt) : (s.setDma c d).params = s.params := rfl
@[simp] theorem State.setDma_masks (c : Fin 16) (d : DmaSt) : (s.setDma c d).masks = s.masks := rfl
@[simp] theorem State.setDma_pwr (c : Fin 16) (d : DmaSt) : (s.setDma c d).pwr = s.pwr := rfl
@[simp] theorem State.setDma_umber (c : Fin 16) (d : DmaSt) : (s.setDma c d).umber = s.umber := rfl
@[simp] theorem State.setDma_mem (c : Fin 16) (d : DmaSt) : (s.setDma c d).mem = s.mem := rfl
@[simp] theorem State.setDma_time (c : Fin 16) (d : DmaSt) : (s.setDma c d).time = s.time := rfl
@[simp] theorem State.setDma_pier (c : Fin 16) (d : DmaSt) : (s.setDma c d).pier = s.pier := rfl
@[simp] theorem State.setDma_mgmt (c : Fin 16) (d : DmaSt) : (s.setDma c d).mgmt = s.mgmt := rfl
@[simp] theorem State.setDma_dmaLast (c : Fin 16) (d : DmaSt) : (s.setDma c d).dmaLast = s.dmaLast := rfl
@[simp] theorem State.setDma_rev (c : Fin 16) (d : DmaSt) : (s.setDma c d).rev = s.rev := rfl
@[simp] theorem State.setDma_radio (c : Fin 16) (d : DmaSt) : (s.setDma c d).radio = s.radio := rfl
@[simp] theorem State.setDma_wake (c : Fin 16) (d : DmaSt) : (s.setDma c d).wake = s.wake := rfl
@[simp] theorem State.setDma_trs (c : Fin 16) (d : DmaSt) : (s.setDma c d).trs = s.trs := rfl
@[simp] theorem State.setDma_crypt (c : Fin 16) (d : DmaSt) : (s.setDma c d).crypt = s.crypt := rfl
@[simp] theorem State.setDma_rng (c : Fin 16) (d : DmaSt) : (s.setDma c d).rng = s.rng := rfl
@[simp] theorem State.setDma_life (c : Fin 16) (d : DmaSt) : (s.setDma c d).life = s.life := rfl
@[simp] theorem State.setDma_host (c : Fin 16) (d : DmaSt) : (s.setDma c d).host = s.host := rfl
@[simp] theorem State.setDma_pod (c : Fin 16) (d : DmaSt) : (s.setDma c d).pod = s.pod := rfl
@[simp] theorem State.setDma_face (c : Fin 16) (d : DmaSt) : (s.setDma c d).face = s.face := rfl
@[simp] theorem State.setDma_gpio (c : Fin 16) (d : DmaSt) : (s.setDma c d).gpio = s.gpio := rfl
@[simp] theorem State.setDma_lines (c : Fin 16) (d : DmaSt) : (s.setDma c d).lines = s.lines := rfl
@[simp] theorem State.setDma_bank (c : Fin 16) (d : DmaSt) : (s.setDma c d).bank = s.bank := rfl
@[simp] theorem State.setDma_freeCtr (c : Fin 16) (d : DmaSt) : (s.setDma c d).freeCtr = s.freeCtr := rfl
@[simp] theorem State.setDma_par (c : Fin 16) (d : DmaSt) (i : Nat) : (s.setDma c d).par i = s.par i := rfl
@[simp] theorem State.setCh_pending (c : Fin 48) (h : TrsCh) : (s.setCh c h).pending = s.pending := rfl
@[simp] theorem State.setCh_params (c : Fin 48) (h : TrsCh) : (s.setCh c h).params = s.params := rfl
@[simp] theorem State.setCh_masks (c : Fin 48) (h : TrsCh) : (s.setCh c h).masks = s.masks := rfl
@[simp] theorem State.setCh_pwr (c : Fin 48) (h : TrsCh) : (s.setCh c h).pwr = s.pwr := rfl
@[simp] theorem State.setCh_umber (c : Fin 48) (h : TrsCh) : (s.setCh c h).umber = s.umber := rfl
@[simp] theorem State.setCh_mem (c : Fin 48) (h : TrsCh) : (s.setCh c h).mem = s.mem := rfl
@[simp] theorem State.setCh_time (c : Fin 48) (h : TrsCh) : (s.setCh c h).time = s.time := rfl
@[simp] theorem State.setCh_pier (c : Fin 48) (h : TrsCh) : (s.setCh c h).pier = s.pier := rfl
@[simp] theorem State.setCh_mgmt (c : Fin 48) (h : TrsCh) : (s.setCh c h).mgmt = s.mgmt := rfl
@[simp] theorem State.setCh_dma (c : Fin 48) (h : TrsCh) : (s.setCh c h).dma = s.dma := rfl
@[simp] theorem State.setCh_dmaLast (c : Fin 48) (h : TrsCh) : (s.setCh c h).dmaLast = s.dmaLast := rfl
@[simp] theorem State.setCh_rev (c : Fin 48) (h : TrsCh) : (s.setCh c h).rev = s.rev := rfl
@[simp] theorem State.setCh_radio (c : Fin 48) (h : TrsCh) : (s.setCh c h).radio = s.radio := rfl
@[simp] theorem State.setCh_wake (c : Fin 48) (h : TrsCh) : (s.setCh c h).wake = s.wake := rfl
@[simp] theorem State.setCh_crypt (c : Fin 48) (h : TrsCh) : (s.setCh c h).crypt = s.crypt := rfl
@[simp] theorem State.setCh_rng (c : Fin 48) (h : TrsCh) : (s.setCh c h).rng = s.rng := rfl
@[simp] theorem State.setCh_life (c : Fin 48) (h : TrsCh) : (s.setCh c h).life = s.life := rfl
@[simp] theorem State.setCh_host (c : Fin 48) (h : TrsCh) : (s.setCh c h).host = s.host := rfl
@[simp] theorem State.setCh_pod (c : Fin 48) (h : TrsCh) : (s.setCh c h).pod = s.pod := rfl
@[simp] theorem State.setCh_face (c : Fin 48) (h : TrsCh) : (s.setCh c h).face = s.face := rfl
@[simp] theorem State.setCh_gpio (c : Fin 48) (h : TrsCh) : (s.setCh c h).gpio = s.gpio := rfl
@[simp] theorem State.setCh_lines (c : Fin 48) (h : TrsCh) : (s.setCh c h).lines = s.lines := rfl
@[simp] theorem State.setCh_bank (c : Fin 48) (h : TrsCh) : (s.setCh c h).bank = s.bank := rfl
@[simp] theorem State.setCh_freeCtr (c : Fin 48) (h : TrsCh) : (s.setCh c h).freeCtr = s.freeCtr := rfl
@[simp] theorem State.setCh_par (c : Fin 48) (h : TrsCh) (i : Nat) : (s.setCh c h).par i = s.par i := rfl

/-! `pushLog` touches the log queue or its drop counter only. -/
@[simp] theorem State.pushLog_pending (ty src : Nat) (a b : Word) : (s.pushLog ty src a b).pending = s.pending := by
  unfold State.pushLog; split <;> rfl
@[simp] theorem State.pushLog_masks (ty src : Nat) (a b : Word) : (s.pushLog ty src a b).masks = s.masks := by
  unfold State.pushLog; split <;> rfl
@[simp] theorem State.pushLog_pwr (ty src : Nat) (a b : Word) : (s.pushLog ty src a b).pwr = s.pwr := by
  unfold State.pushLog; split <;> rfl
@[simp] theorem State.pushLog_umber (ty src : Nat) (a b : Word) : (s.pushLog ty src a b).umber = s.umber := by
  unfold State.pushLog; split <;> rfl
@[simp] theorem State.pushLog_mem (ty src : Nat) (a b : Word) : (s.pushLog ty src a b).mem = s.mem := by
  unfold State.pushLog; split <;> rfl
@[simp] theorem State.pushLog_time (ty src : Nat) (a b : Word) : (s.pushLog ty src a b).time = s.time := by
  unfold State.pushLog; split <;> rfl
@[simp] theorem State.pushLog_pier (ty src : Nat) (a b : Word) : (s.pushLog ty src a b).pier = s.pier := by
  unfold State.pushLog; split <;> rfl
@[simp] theorem State.pushLog_dma (ty src : Nat) (a b : Word) : (s.pushLog ty src a b).dma = s.dma := by
  unfold State.pushLog; split <;> rfl
@[simp] theorem State.pushLog_dmaLast (ty src : Nat) (a b : Word) : (s.pushLog ty src a b).dmaLast = s.dmaLast := by
  unfold State.pushLog; split <;> rfl
@[simp] theorem State.pushLog_rev (ty src : Nat) (a b : Word) : (s.pushLog ty src a b).rev = s.rev := by
  unfold State.pushLog; split <;> rfl
@[simp] theorem State.pushLog_radio (ty src : Nat) (a b : Word) : (s.pushLog ty src a b).radio = s.radio := by
  unfold State.pushLog; split <;> rfl
@[simp] theorem State.pushLog_wake (ty src : Nat) (a b : Word) : (s.pushLog ty src a b).wake = s.wake := by
  unfold State.pushLog; split <;> rfl
@[simp] theorem State.pushLog_trs (ty src : Nat) (a b : Word) : (s.pushLog ty src a b).trs = s.trs := by
  unfold State.pushLog; split <;> rfl
@[simp] theorem State.pushLog_crypt (ty src : Nat) (a b : Word) : (s.pushLog ty src a b).crypt = s.crypt := by
  unfold State.pushLog; split <;> rfl
@[simp] theorem State.pushLog_rng (ty src : Nat) (a b : Word) : (s.pushLog ty src a b).rng = s.rng := by
  unfold State.pushLog; split <;> rfl
@[simp] theorem State.pushLog_life (ty src : Nat) (a b : Word) : (s.pushLog ty src a b).life = s.life := by
  unfold State.pushLog; split <;> rfl
@[simp] theorem State.pushLog_host (ty src : Nat) (a b : Word) : (s.pushLog ty src a b).host = s.host := by
  unfold State.pushLog; split <;> rfl
@[simp] theorem State.pushLog_pod (ty src : Nat) (a b : Word) : (s.pushLog ty src a b).pod = s.pod := by
  unfold State.pushLog; split <;> rfl
@[simp] theorem State.pushLog_face (ty src : Nat) (a b : Word) : (s.pushLog ty src a b).face = s.face := by
  unfold State.pushLog; split <;> rfl
@[simp] theorem State.pushLog_gpio (ty src : Nat) (a b : Word) : (s.pushLog ty src a b).gpio = s.gpio := by
  unfold State.pushLog; split <;> rfl
@[simp] theorem State.pushLog_lines (ty src : Nat) (a b : Word) : (s.pushLog ty src a b).lines = s.lines := by
  unfold State.pushLog; split <;> rfl
@[simp] theorem State.pushLog_bank (ty src : Nat) (a b : Word) : (s.pushLog ty src a b).bank = s.bank := by
  unfold State.pushLog; split <;> rfl
@[simp] theorem State.pushLog_freeCtr (ty src : Nat) (a b : Word) : (s.pushLog ty src a b).freeCtr = s.freeCtr := by
  unfold State.pushLog; split <;> rfl

theorem State.par_pushLog (ty src : Nat) (a b : Word) {i : Nat} (h : i ≠ P.MGMT_LOGDROP) : (s.pushLog ty src a b).par i = s.par i := by
  unfold State.pushLog
  split
  · rfl
  · exact s.par_setPar_ne _ (fun e => h e.symm)

end Sys2Proof.Machine
end

