-- ==== Sys2Proof/Laws/Umber.lean ====
section
/-!
SUPPORT. Sys2Proof/Laws/Umber.lean: what issuing an instruction does around its own effect: places read and written, the fetch, the end of an instruction, and
the one lemma from which the statements about Umber's instructions follow.
-/

namespace Sys2Proof.Machine

open Sys2Proof.Claims

/-! ### Bits -/

theorem getLsbD_putBit {n : Nat} (w : BitVec n) (i : Nat) (b : Bool) (k : Nat) (hk : k < n) :
    (putBit w i b).getLsbD k = if k = i then b else w.getLsbD k := by
  unfold putBit putFld
  by_cases h : k = i
  · subst h
    simp [hk]
  · by_cases hlt : k < i
    · simp [h, hk, hlt]
    · have : k - i ≠ 0 := by omega
      simp [h, hk, hlt, this]

/-! ### Places -/

section
variable (u : UmberSt) (w : Word)

theorem UmberSt.setCtl_d (i : Fin 17) : (u.setCtl i w).d = u.d := by fin_cases i <;> rfl
theorem UmberSt.setCtl_p (i : Fin 17) : (u.setCtl i w).p = u.p := by fin_cases i <;> rfl
theorem UmberSt.setCtl_n (i : Fin 17) : (u.setCtl i w).n = u.n := by fin_cases i <;> rfl
theorem UmberSt.setCtl_l (i : Fin 17) : (u.setCtl i w).l = u.l := by fin_cases i <;> rfl
theorem UmberSt.setCtl_ac (i : Fin 17) : (u.setCtl i w).ac = u.ac := by fin_cases i <;> rfl
theorem UmberSt.setCtl_run (i : Fin 17) : (u.setCtl i w).run = u.run := by fin_cases i <;> rfl

theorem UmberSt.setCtl_ctl_ne {i k : Fin 17} (h : i ≠ k) : (u.setCtl i w).ctl k = u.ctl k := by
  fin_cases i <;> fin_cases k <;> first | rfl | exact absurd rfl h

theorem UmberSt.setCtl_ctl_same (i : Fin 17) : (u.setCtl i w).ctl i = w := by fin_cases i <;> rfl

theorem UmberSt.setCtl_sr {i : Fin 17} (h : i ≠ 0) : (u.setCtl i w).sr = u.sr := u.setCtl_ctl_ne w h
theorem UmberSt.setCtl_ipend {i : Fin 17} (h : i ≠ 12) : (u.setCtl i w).ipend = u.ipend := u.setCtl_ctl_ne w h

end

/-- What a list of writes at `ls` leaves in the registers, said of the register file alone. -/
structure UmberSt.Keeps (ls : List Loc) (u t : UmberSt) : Prop where
  d : ∀ r, .d r ∉ ls → t.d[r] = u.d[r]
  p : ∀ r, .p r ∉ ls → t.p[r] = u.p[r]
  n : ∀ r, .n r ∉ ls → t.n[r] = u.n[r]
  l : ∀ r, .l r ∉ ls → t.l[r] = u.l[r]
  ac : ∀ r, .ac r ∉ ls → t.ac[r] = u.ac[r]
  flags : .ctl 0 ∉ ls → ∀ i : Fin 12, .flag i ∉ ls → t.sr.getLsbD i.val = u.sr.getLsbD i.val
  status : .ctl 0 ∉ ls → ∀ k, 12 ≤ k → t.sr.getLsbD k = u.sr.getLsbD k
  ctl : ∀ k : Fin 17, k ≠ 0 → .ctl k ∉ ls → t.ctl k = u.ctl k
  run : t.run = u.run

theorem UmberSt.Keeps.refl (u : UmberSt) : UmberSt.Keeps [] u u := by constructor <;> intros <;> rfl

theorem UmberSt.Keeps.trans {ls ms : List Loc} {u v t : UmberSt} (a : UmberSt.Keeps ls u v) (b : UmberSt.Keeps ms v t) :
    UmberSt.Keeps (ls ++ ms) u t := by
  have left : ∀ l, l ∉ ls ++ ms → l ∉ ls := fun l h x => h (List.mem_append_left ms x)
  have right : ∀ l, l ∉ ls ++ ms → l ∉ ms := fun l h x => h (List.mem_append_right ls x)
  constructor
  case run => exact b.run.trans a.run
  case flags => exact fun h i hi => (b.flags (right _ h) i (right _ hi)).trans (a.flags (left _ h) i (left _ hi))
  case status => exact fun h k hk => (b.status (right _ h) k hk).trans (a.status (left _ h) k hk)
  case ctl => exact fun k h0 h => (b.ctl k h0 (right _ h)).trans (a.ctl k h0 (left _ h))
  all_goals
    intro r h
    first
      | exact (b.d r (right _ h)).trans (a.d r (left _ h))
      | exact (b.p r (right _ h)).trans (a.p r (left _ h))
      | exact (b.n r (right _ h)).trans (a.n r (left _ h))
      | exact (b.l r (right _ h)).trans (a.l r (left _ h))
      | exact (b.ac r (right _ h)).trans (a.ac r (left _ h))

theorem UmberSt.Keeps.mono {ls ms : List Loc} {u t : UmberSt} (a : UmberSt.Keeps ls u t) (h : ∀ l ∈ ls, l ∈ ms) : UmberSt.Keeps ms u t :=
  ⟨fun r hr => a.d r (fun x => hr (h _ x)), fun r hr => a.p r (fun x => hr (h _ x)), fun r hr => a.n r (fun x => hr (h _ x)),
   fun r hr => a.l r (fun x => hr (h _ x)), fun r hr => a.ac r (fun x => hr (h _ x)),
   fun h0 i hi => a.flags (fun x => h0 (h _ x)) i (fun x => hi (h _ x)), fun h0 => a.status (fun x => h0 (h _ x)),
   fun k hk hc => a.ctl k hk (fun x => hc (h _ x)), a.run⟩

/-- A write of one place leaves every other one. -/
theorem UmberSt.put_keeps (u : UmberSt) (l : Loc) (v : BitVec 80) : UmberSt.Keeps [l] u (u.put l v) := by
  cases l with
  | d r =>
    constructor
    case d =>
      intro k hk
      have hne : r.val ≠ k.val := fun h => hk (by simp [Fin.ext h])
      exact Vector.getElem_set_ne r.isLt k.isLt hne
    case ctl =>
      intro k _ _
      fin_cases k <;> rfl
    all_goals intros; rfl
  | p r =>
    constructor
    case p =>
      intro k hk
      have hne : r.val ≠ k.val := fun h => hk (by simp [Fin.ext h])
      exact Vector.getElem_set_ne r.isLt k.isLt hne
    case ctl =>
      intro k _ _
      fin_cases k <;> rfl
    all_goals intros; rfl
  | n r =>
    constructor
    case n =>
      intro k hk
      have hne : r.val ≠ k.val := fun h => hk (by simp [Fin.ext h])
      exact Vector.getElem_set_ne r.isLt k.isLt hne
    case ctl =>
      intro k _ _
      fin_cases k <;> rfl
    all_goals intros; rfl
  | l r =>
    constructor
    case l =>
      intro k hk
      have hne : r.val ≠ k.val := fun h => hk (by simp [Fin.ext h])
      exact Vector.getElem_set_ne r.isLt k.isLt hne
    case ctl =>
      intro k _ _
      fin_cases k <;> rfl
    all_goals intros; rfl
  | ac r =>
    constructor
    case ac =>
      intro k hk
      have hne : r.val ≠ k.val := fun h => hk (by simp [Fin.ext h])
      exact Vector.getElem_set_ne r.isLt k.isLt hne
    case ctl =>
      intro k _ _
      fin_cases k <;> rfl
    all_goals intros; rfl
  | flag i =>
    have hb : ∀ k, k ≠ i.val → (putBit u.sr i.val (v.getLsbD 0)).getLsbD k = u.sr.getLsbD k := by
      intro k hk
      by_cases h : k < 36
      · rw [getLsbD_putBit _ _ _ _ h, if_neg hk]
      · rw [BitVec.getLsbD_of_ge _ _ (by omega), BitVec.getLsbD_of_ge _ _ (by omega)]
    constructor
    case flags =>
      intro _ k hk
      exact hb k.val (fun h => hk (by simp [Fin.ext h]))
    case status =>
      intro _ k hk
      exact hb k (by have := i.isLt; omega)
    case ctl =>
      intro k hk _
      fin_cases k <;> first | rfl | exact absurd rfl hk
    all_goals intros; rfl
  | ctl i =>
    have hsr : Loc.ctl 0 ∉ [Loc.ctl i] → (u.setCtl i (v.setWidth 36)).sr = u.sr := fun h0 => u.setCtl_sr _ (fun h => h0 (by simp [h]))
    constructor
    case flags => exact fun h0 k _ => congrArg (fun w => w.getLsbD k.val) (hsr h0)
    case status => exact fun h0 k _ => congrArg (fun w => w.getLsbD k) (hsr h0)
    case ctl => exact fun k _ h => u.setCtl_ctl_ne _ (fun e => h (by simp [e]))
    all_goals intros; simp only [UmberSt.put, UmberSt.setCtl_d, UmberSt.setCtl_p, UmberSt.setCtl_n, UmberSt.setCtl_l, UmberSt.setCtl_ac, UmberSt.setCtl_run]

/-- The register file after the writes of an instruction, in order. -/
def UmberSt.puts (u : UmberSt) (ws : List Wr) : UmberSt := ws.foldl (fun u w => u.put w.1 w.2.2) u

theorem UmberSt.puts_keeps (ws : List Wr) : ∀ u : UmberSt, UmberSt.Keeps (ws.map (fun w => w.1)) u (u.puts ws) := by
  induction ws with
  | nil => exact fun u => UmberSt.Keeps.refl u
  | cons w ws ih => exact fun u => (UmberSt.put_keeps u w.1 w.2.2).trans (ih (u.put w.1 w.2.2))

/-- The value a place holds after a write of it. -/
def Loc.fit (l : Loc) (v : BitVec 80) : BitVec 80 :=
  match l with
  | .d _ => (v.setWidth 36).setWidth 80
  | .p _ => (v.setWidth 24).setWidth 80
  | .n _ => (v.setWidth 24).setWidth 80
  | .l _ => (v.setWidth 24).setWidth 80
  | .ac _ => v
  | .flag _ => (BitVec.ofBool (v.getLsbD 0)).setWidth 80
  | .ctl _ => (v.setWidth 36).setWidth 80

theorem UmberSt.get_put (u : UmberSt) (l : Loc) (v : BitVec 80) : (u.put l v).get l = l.fit v := by
  cases l with
  | flag i =>
    have := i.isLt
    simp [UmberSt.put, UmberSt.get, Loc.fit, getLsbD_putBit _ _ _ _ (show i.val < 36 by omega)]
  | ctl i => simp [UmberSt.put, UmberSt.get, Loc.fit, UmberSt.setCtl_ctl_same]
  | _ => simp [UmberSt.put, UmberSt.get, Loc.fit]

/-- A place outside the writes reads as before. SR as a whole is no such place: its flags are places of their own. -/
theorem UmberSt.get_keeps {ls : List Loc} {u t : UmberSt} (h : UmberSt.Keeps ls u t) {l : Loc} (hl : l ∉ ls) (h0 : .ctl 0 ∉ ls)
    (hs : l ≠ .ctl 0) : t.get l = u.get l := by
  cases l with
  | d r => simp only [UmberSt.get, h.d r hl]
  | p r => simp only [UmberSt.get, h.p r hl]
  | n r => simp only [UmberSt.get, h.n r hl]
  | l r => simp only [UmberSt.get, h.l r hl]
  | ac r => simp only [UmberSt.get, h.ac r hl]
  | flag i => simp only [UmberSt.get, h.flags h0 i hl]
  | ctl k => simp only [UmberSt.get, h.ctl k (fun e => hs (by rw [e])) hl]

/-- A place holds the value of its last write. -/
theorem UmberSt.get_puts (u : UmberSt) (ws ws' : List Wr) (w : Wr) (hl : w.1 ∉ ws'.map (fun w => w.1)) (h0 : .ctl 0 ∉ ws'.map (fun w => w.1))
    (hs : w.1 ≠ .ctl 0) : (u.puts (ws ++ w :: ws')).get w.1 = w.1.fit w.2.2 := by
  have e : u.puts (ws ++ w :: ws') = ((u.puts ws).put w.1 w.2.2).puts ws' := by
    simp only [UmberSt.puts, List.foldl_append, List.foldl_cons]
  rw [e, UmberSt.get_keeps (UmberSt.puts_keeps ws' _) hl h0 hs, UmberSt.get_put]

/-! ### The fetch -/

/-- A read of a readable NVM word changes the record of a correction at most (R308). -/
theorem nvmRead_readable {c : Cell} (h : cellBad c = false) (a : Addr) (s : State) :
    ∃ ps, (nvmRead c a s).2 = { s with params := ps } ∧ ∀ i, i ≠ P.MEM_NVMCECNT → i ≠ P.MEM_NVMSTAT → (nvmRead c a s).2.par i = s.par i := by
  unfold cellBad at h
  unfold nvmRead
  cases hc : eccRead c with
  | good w => exact ⟨s.params, rfl, fun _ _ _ => rfl⟩
  | corrected w y =>
    refine ⟨((s.setPar P.MEM_NVMCECNT (satAdd (s.par P.MEM_NVMCECNT) 1)).parBit P.MEM_NVMSTAT 1 true).params, rfl, fun i h1 h2 => ?_⟩
    simp [Ne.symm h1, Ne.symm h2]
  | bad y => simp [hc] at h

/-- Reads of readable words of program NVM, one after the other. -/
theorem readWords {q : BitVec 16} (ks : List (BitVec 2)) : ∀ s : State, (∀ k : BitVec 2, cellBad (s.progCell (q ++ k)) = false) →
    ∃ ps, ks.foldl (fun s k => (nvmRead (s.progCell (q ++ k)) (0x300000#24 + (q ++ k).setWidth 24) s).2) s = { s with params := ps } ∧
      ∀ i, i ≠ P.MEM_NVMCECNT → i ≠ P.MEM_NVMSTAT → ({ s with params := ps } : State).par i = s.par i := by
  induction ks with
  | nil => exact fun s _ => ⟨s.params, rfl, fun _ _ _ => rfl⟩
  | cons k ks ih =>
    intro s h
    obtain ⟨ps, e, hp⟩ := nvmRead_readable (h k) (0x300000#24 + (q ++ k).setWidth 24) s
    rw [List.foldl_cons]
    rw [e] at hp ⊢
    obtain ⟨ps', e', hp'⟩ := ih ({ s with params := ps } : State) h
    exact ⟨ps', e', fun i h1 h2 => (hp' i h1 h2).trans (hp i h1 h2)⟩

/-- `t` is `s` but for the prefetch buffer and the record of a corrected NVM word (R258, R308). -/
def Fetches (s t : State) : Prop :=
  ∃ ps pf, t = { s with params := ps, umber := { s.umber with prefetch := pf } } ∧ ∀ i, i ≠ P.MEM_NVMCECNT → i ≠ P.MEM_NVMSTAT → t.par i = s.par i

theorem Fetches.refl (s : State) : Fetches s s := ⟨s.params, s.umber.prefetch, rfl, fun _ _ _ => rfl⟩

theorem Fetches.trans {s t r : State} (a : Fetches s t) (b : Fetches t r) : Fetches s r := by
  obtain ⟨_, _, rfl, h⟩ := a
  obtain ⟨ps, pf, rfl, h'⟩ := b
  exact ⟨ps, pf, rfl, fun i h1 h2 => (h' i h1 h2).trans (h i h1 h2)⟩

theorem Fetches.mem {s t : State} (a : Fetches s t) : t.mem = s.mem := by
  obtain ⟨_, _, rfl, _⟩ := a
  rfl

/-- A quad of readable words is read. -/
theorem readQuad_fetches {q : BitVec 16} {s : State} (h : ∀ j : BitVec 2, cellBad (s.progCell (q ++ j)) = false) : Fetches s (readQuad q s) := by
  obtain ⟨ps, e, hp⟩ := readWords [0#2, 1#2, 2#2, 3#2] s h
  unfold readQuad
  simp only
  rw [e]
  exact ⟨ps, _, rfl, hp⟩

/-- Reading on over quads of readable words. -/
theorem readOn_fetches {q : BitVec 16} (ks : List (BitVec 16)) : ∀ s : State,
    (∀ k ∈ ks, q.toNat + k.toNat < 0xC000 → ∀ j : BitVec 2, cellBad (s.progCell (q + k ++ j)) = false) →
    Fetches s (ks.foldl (fun s k =>
      if decide (q.toNat + k.toNat < 0xC000) && !s.umber.prefetch.contains (q + k) then readQuad (q + k) s else s) s) := by
  induction ks with
  | nil => exact fun s _ => Fetches.refl s
  | cons k ks ih =>
    intro s h
    rw [List.foldl_cons]
    have one : Fetches s (if decide (q.toNat + k.toNat < 0xC000) && !s.umber.prefetch.contains (q + k) then readQuad (q + k) s else s) := by
      split
      · rename_i hc
        exact readQuad_fetches (h k (by simp) (of_decide_eq_true (Bool.and_eq_true_iff.mp hc).1))
      · exact Fetches.refl s
    refine one.trans (ih _ fun k' hk' hin j => ?_)
    have := h k' (List.mem_cons_of_mem _ hk') hin j
    rwa [State.progCell, one.mem, ← State.progCell]

/-- Nothing is read where the prefetch buffer holds every quad asked for. -/
theorem readOn_held {q : BitVec 16} (s : State) (ks : List (BitVec 16))
    (h : ∀ k ∈ ks, q.toNat + k.toNat < 0xC000 → s.umber.prefetch.contains (q + k) = true) :
    ks.foldl (fun s k => if decide (q.toNat + k.toNat < 0xC000) && !s.umber.prefetch.contains (q + k) then readQuad (q + k) s else s) s = s := by
  induction ks with
  | nil => rfl
  | cons k ks ih =>
    rw [List.foldl_cons]
    have : (decide (q.toNat + k.toNat < 0xC000) && !s.umber.prefetch.contains (q + k)) = false := by
      by_cases hin : q.toNat + k.toNat < 0xC000
      · simp only [h k (by simp) hin, Bool.not_true, Bool.and_false]
      · simp only [hin, decide_false, Bool.false_and]
    rw [this]
    exact ih fun k' hk' => h k' (List.mem_cons_of_mem _ hk')

/-- The quads read ahead of the program counter's own. -/
theorem aheadOf {s : State} {k : BitVec 16} (hk : k ∈ [1#16, 2#16, 3#16]) :
    ∃ i : Fin 4, k.toNat = i.val ∧ (fld s.umber.pc 2 16 : BitVec 16) + k = s.quadAhead i := by
  simp only [List.mem_cons, List.not_mem_nil, or_false] at hk
  obtain rfl | rfl | rfl := hk
  · exact ⟨1, rfl, rfl⟩
  · exact ⟨2, rfl, rfl⟩
  · exact ⟨3, rfl, rfl⟩

/-- The fetch of an instruction that raises no fault changes the prefetch buffer and the record of a corrected NVM word at most (R258, R308). -/
theorem fetchCheck_none {s : State} (h : (fetchCheck s).1 = none) (hq : s.quadReadable) : Fetches s (fetchCheck s).2 := by
  unfold fetchCheck at h ⊢
  simp only at h ⊢
  split at h
  · simp at h
  · rename_i hpc
    rw [if_neg hpc]
    have in0 : s.quadIn 0 := by
      unfold State.quadIn
      unfold fld
      simp only [BitVec.extractLsb'_toNat]
      omega
    have at0 : s.quadAhead 0 = (fld s.umber.pc 2 16 : BitVec 16) := by simp [State.quadAhead]
    split at h
    · simp at h
    · clear h
      unfold readAhead
      simp only
      obtain held | readable := hq
      · have held0 := held 0 in0
        rw [at0] at held0
        rw [if_pos held0, readOn_held s]
        · exact Fetches.refl s
        · intro k hk hin
          obtain ⟨i, e, e'⟩ := aheadOf (s := s) hk
          rw [e']
          exact held i (by unfold State.quadIn; omega)
      · have first : Fetches s (if s.umber.prefetch.contains (fld s.umber.pc 2 16) then s else readQuad (fld s.umber.pc 2 16) s) := by
          split
          · exact Fetches.refl s
          · refine readQuad_fetches fun j => ?_
            rw [← at0]
            exact readable 0 in0 j
        refine first.trans (readOn_fetches _ _ fun k hk hin j => ?_)
        obtain ⟨i, e, e'⟩ := aheadOf (s := s) hk
        rw [State.progCell, first.mem, ← State.progCell, e']
        exact readable i (by unfold State.quadIn; omega) j

/-- A record written into a ring of the trace changes what the fetch of the next instruction may change. -/
theorem putTrc_params (s : State) (w : Word) : ∃ ps, putTrc s w = { s with params := ps } ∧ ∀ i, fetchKeeps i → (putTrc s w).par i = s.par i := by
  refine ⟨_, rfl, fun i h => ?_⟩
  obtain ⟨-, -, -, hx, ht, -⟩ := h
  simp only [putTrc]
  rw [State.par_setPar_ne _ _ (fun e => hx e.symm), State.par_setPar_ne]
  intro e
  exact ht ⟨by omega, by have := (fld (s.par P.DBG_TRCIDX) 0 8 : BitVec 8).isLt; omega⟩

theorem putExc_params (s : State) (w : Word) : ∃ ps, putExc s w = { s with params := ps } ∧ ∀ i, fetchKeeps i → (putExc s w).par i = s.par i := by
  refine ⟨_, rfl, fun i h => ?_⟩
  obtain ⟨-, -, -, -, -, hx, ht⟩ := h
  simp only [putExc]
  rw [State.par_setPar_ne _ _ (fun e => hx e.symm), State.par_setPar_ne]
  intro e
  exact ht ⟨by omega, by have := (fld (s.par P.DBG_EXCIDX) 0 4 : BitVec 4).isLt; omega⟩

/-- Records written one after the other. -/
theorem putAll_params {put : State → Word → State}
    (one : ∀ s w, ∃ ps, put s w = { s with params := ps } ∧ ∀ i, fetchKeeps i → (put s w).par i = s.par i) (ws : List Word) : ∀ s : State,
    ∃ ps, ws.foldl put s = { s with params := ps } ∧ ∀ i, fetchKeeps i → (ws.foldl put s).par i = s.par i := by
  induction ws with
  | nil => exact fun s => ⟨s.params, rfl, fun _ _ => rfl⟩
  | cons w ws ih =>
    intro s
    obtain ⟨ps, e, hp⟩ := one s w
    obtain ⟨ps', e', hp'⟩ := ih (put s w)
    rw [List.foldl_cons]
    refine ⟨ps', ?_, fun i h => (hp' i h).trans (hp i h)⟩
    rw [e', e]

/-- The records of the way to an instruction are written: nothing waits any more, and no parameter but those of the trace changes (R629). -/
theorem flushTraces_eq (s : State) :
    ∃ ps, flushTraces s = { s with params := ps, umber := { s.umber with trcPend := [], excPend := [] } } ∧
      ∀ i, fetchKeeps i → (flushTraces s).par i = s.par i := by
  obtain ⟨ps, e, hp⟩ := putAll_params putTrc_params s.umber.trcPend s
  obtain ⟨ps', e', hp'⟩ := putAll_params putExc_params s.umber.excPend (s.umber.trcPend.foldl putTrc s)
  refine ⟨ps', ?_, fun i h => ?_⟩
  · unfold flushTraces
    simp only
    rw [e', e]
    rfl
  · exact ((show (flushTraces s).par i = _ from rfl).trans (hp' i h)).trans (hp i h)

/-- What is noted before the fetch. -/
theorem atIssue_eq (s : State) :
    ∃ q, s.atIssue = { s with umber := { s.umber with bpPass := false, ieFence := false, wakeIrq := false, haltReq := q } } := by
  unfold State.atIssue noteBreakpoint
  split
  · exact ⟨s.umber.haltReq, rfl⟩
  · split
    · split
      · exact ⟨_, rfl⟩
      · exact ⟨s.umber.haltReq, rfl⟩
    · exact ⟨s.umber.haltReq, rfl⟩

/-- The state in which an instruction that issues has its effect: only bookkeeping of the fetch and of debug differs. -/
theorem fetched_eq {s : State} (h : s.issues) :
    ∃ q pf ps, s.fetched = { s with params := ps, umber := { s.umber with
        bpPass := false, ieFence := false, wakeIrq := false, haltReq := q, prefetch := pf, trcPend := [], excPend := [] } } ∧
      ∀ i, fetchKeeps i → s.fetched.par i = s.par i := by
  obtain ⟨q, hq⟩ := atIssue_eq s
  have hr : s.atIssue.quadReadable := by
    rw [hq]
    exact h.2.2.2.1
  obtain ⟨ps, pf, hp, hpar⟩ := fetchCheck_none h.2.2.2.2 hr
  obtain ⟨ps', hf, hfp⟩ := flushTraces_eq (fetchCheck s.atIssue).2
  refine ⟨q, pf, ps', ?_, fun i hi => ?_⟩
  · rw [State.fetched, hf, hp, hq]
  · rw [State.fetched, hfp i hi, hpar i hi.1 hi.2.1, hq]
    rfl

/-! ### Operands do not depend on the fetch -/

theorem seen_congr {s t : State} (hh : t.umber.hist = s.umber.hist) (hf : t.freeCtr = s.freeCtr) {l : Loc} (hg : t.umber.get l = s.umber.get l)
    (u : Use) : t.seen l u = s.seen l u := by
  unfold State.seen
  rw [hh, hf, hg]

theorem fetched_seen {s : State} (h : s.issues) (l : Loc) (u : Use) : s.fetched.seen l u = s.seen l u := by
  obtain ⟨q, pf, ps, e, -⟩ := fetched_eq h
  refine seen_congr (by rw [e]) (by rw [e]) ?_ u
  rw [e]
  cases l with
  | ctl k => fin_cases k <;> rfl
  | _ => rfl

section
variable {s : State} (h : s.issues)
include h

theorem fetched_rdD (r : Fin 16) : s.fetched.rdD r = s.rdD r := by unfold State.rdD; rw [fetched_seen h]
theorem fetched_rdP (r : Fin 16) (u : Use) : s.fetched.rdP r u = s.rdP r u := by unfold State.rdP; rw [fetched_seen h]
theorem fetched_rdN (r : Fin 8) (u : Use) : s.fetched.rdN r u = s.rdN r u := by unfold State.rdN; rw [fetched_seen h]
theorem fetched_rdL (r : Fin 8) (u : Use) : s.fetched.rdL r u = s.rdL r u := by unfold State.rdL; rw [fetched_seen h]
theorem fetched_rdAc (r : Fin 4) (u : Use) : s.fetched.rdAc r u = s.rdAc r u := by unfold State.rdAc; rw [fetched_seen h]
theorem fetched_rdFlag (i : Fin 12) : s.fetched.rdFlag i = s.rdFlag i := by unfold State.rdFlag; rw [fetched_seen h]
theorem fetched_rdCtl (i : Fin 17) : s.fetched.rdCtl i = s.rdCtl i := by unfold State.rdCtl; rw [fetched_seen h]

theorem fetched_rdSr : s.fetched.rdSr = s.rdSr := by
  unfold State.rdSr
  simp only [fetched_rdFlag h, fetched_rdCtl h]

theorem fetched_condTrue (c : BitVec 4) : condTrue c s.fetched = condTrue c s := by
  unfold condTrue
  simp only [fetched_rdFlag h]

end

end Sys2Proof.Machine

namespace Sys2Proof.Claims

open Sys2Proof.Machine

/-! ### What stays, composed -/

theorem BuffersKept.refl (s : State) : BuffersKept s s := by constructor <;> rfl

theorem BuffersKept.trans {s t r : State} (a : BuffersKept s t) (b : BuffersKept t r) : BuffersKept s r :=
  ⟨b.sb.trans a.sb, b.pwq.trans a.pwq, b.locks.trans a.locks, b.bitRam.trans a.bitRam, b.resv.trans a.resv⟩

theorem BlocksKept.refl {keep : Nat → Prop} (s : State) : BlocksKept keep s s := by constructor <;> intros <;> rfl

theorem BlocksKept.trans {keep : Nat → Prop} {s t r : State} (a : BlocksKept keep s t) (b : BlocksKept keep t r) : BlocksKept keep s r :=
  ⟨fun i h => (b.params i h).trans (a.params i h), b.pending.trans a.pending, b.masks.trans a.masks, b.bank.trans a.bank, b.pwr.trans a.pwr, b.time.trans a.time,
   b.pier.trans a.pier, b.mgmt.trans a.mgmt, b.dma.trans a.dma, b.rev.trans a.rev, b.radio.trans a.radio, b.wake.trans a.wake, b.trs.trans a.trs,
   b.crypt.trans a.crypt, b.rng.trans a.rng, b.life.trans a.life, b.host.trans a.host, b.pod.trans a.pod, b.face.trans a.face,
   b.gpio.trans a.gpio, b.lines.trans a.lines⟩

/-- A change of parameters that the fetch or the end of an instruction may make. -/
theorem BlocksKept.ofPar (s : State) {ps : SMap Word} {u : UmberSt} (h : ∀ i, fetchKeeps i → ({ s with params := ps } : State).par i = s.par i) :
    BlocksKept fetchKeeps s { s with params := ps, umber := u } := by
  constructor
  case params => exact h
  all_goals rfl

theorem RegsKept.mono {ls ms : List Loc} {s t : State} (a : RegsKept ls s t) (h : ∀ l ∈ ls, l ∈ ms) : RegsKept ms s t :=
  ⟨fun r hr => a.d r (fun x => hr (h _ x)), fun r hr => a.p r (fun x => hr (h _ x)), fun r hr => a.n r (fun x => hr (h _ x)),
   fun r hr => a.l r (fun x => hr (h _ x)), fun r hr => a.ac r (fun x => hr (h _ x)),
   fun h0 i hi => a.flags (fun x => h0 (h _ x)) i (fun x => hi (h _ x)), fun h0 => a.status (fun x => h0 (h _ x)),
   fun k h1 h2 hc => a.ctl k h1 h2 (fun x => hc (h _ x)), fun h0 => a.pend (fun x => h0 (h _ x)), a.run⟩

theorem OnlyRegs.mono {ls ms : List Loc} {s t : State} (a : OnlyRegs ls s t) (h : ∀ l ∈ ls, l ∈ ms) : OnlyRegs ms s t :=
  ⟨a.regs.mono h, a.cells, a.buffers, a.blocks, a.flow⟩

theorem BlocksKept.ofUmber {keep : Nat → Prop} (s : State) (u : UmberSt) : BlocksKept keep s (s.setUmber u) := by
  constructor <;> intros <;> rfl

end Sys2Proof.Claims

namespace Sys2Proof.Machine

open Sys2Proof.Claims

/-! ### The end of an instruction -/

/-- `t` is `s` but for what lies around an instruction's own effect: the fields that place it in the stream of instructions, the interrupt of a wake event
that waited, the records of the fetch and of a trace. -/
structure Around (s t : State) : Prop where
  regs : UmberSt.Keeps [.ctl 12] s.umber t.umber
  sr : t.umber.sr = s.umber.sr
  pend : ∀ k, k ≠ 10 → t.umber.ipend.getLsbD k = s.umber.ipend.getLsbD k
  mem : t.mem = s.mem
  buffers : BuffersKept s t
  blocks : BlocksKept fetchKeeps s t

theorem Around.refl (s : State) : Around s s :=
  ⟨(UmberSt.Keeps.refl _).mono (by simp), rfl, fun _ _ => rfl, rfl, BuffersKept.refl s, BlocksKept.refl s⟩

theorem Around.trans {s t r : State} (a : Around s t) (b : Around t r) : Around s r :=
  ⟨(a.regs.trans b.regs).mono (by simp), b.sr.trans a.sr, fun k h => (b.pend k h).trans (a.pend k h), b.mem.trans a.mem,
   a.buffers.trans b.buffers, a.blocks.trans b.blocks⟩

/-- A change of the fields of Umber that place an instruction in the stream. -/
theorem Around.ofStream (s : State) (f : UmberSt → UmberSt) (h : ∀ k : Fin 17, k ≠ 12 → (f s.umber).ctl k = s.umber.ctl k)
    (hd : (f s.umber).d = s.umber.d) (hp : (f s.umber).p = s.umber.p) (hn : (f s.umber).n = s.umber.n) (hl : (f s.umber).l = s.umber.l)
    (hac : (f s.umber).ac = s.umber.ac) (hrun : (f s.umber).run = s.umber.run)
    (hpend : ∀ k, k ≠ 10 → (f s.umber).ipend.getLsbD k = s.umber.ipend.getLsbD k)
    (hsb : (f s.umber).sb = s.umber.sb) (hpwq : (f s.umber).pwq = s.umber.pwq) (hlk : (f s.umber).locks = s.umber.locks)
    (hbr : (f s.umber).bitRam = s.umber.bitRam) (hrs : (f s.umber).resv = s.umber.resv) : Around s (s.setUmber (f s.umber)) := by
  have hsr : (f s.umber).sr = s.umber.sr := h 0 (by decide)
  constructor
  case regs =>
    constructor
    case run => exact hrun
    case ctl => exact fun k _ hc => h k (fun e => hc (by simp [e]))
    all_goals intros; simp only [State.setUmber_umber, hd, hp, hn, hl, hac, hsr]
  case buffers => exact ⟨hsb, hpwq, hlk, hbr, hrs⟩
  case blocks => exact BlocksKept.ofUmber s _
  case mem => rfl
  case sr => exact hsr
  case pend => exact hpend

/-- A change of parameters of the bookkeeping. -/
theorem Around.ofParam (s : State) (ps : SMap Word) (h : ∀ i, fetchKeeps i → ({ s with params := ps } : State).par i = s.par i) :
    Around s { s with params := ps } := by
  constructor
  case regs => exact (UmberSt.Keeps.refl _).mono (by simp)
  case blocks => exact BlocksKept.ofPar s h
  case buffers => constructor <;> rfl
  all_goals intros; rfl

theorem Around.setPar (s : State) {i : Nat} (h : ¬ fetchKeeps i) (v : Word) : Around s (s.setPar i v) :=
  Around.ofParam s _ (fun _ hj => s.par_setPar_ne v (fun e => h (e ▸ hj)))

theorem Around.markGap (g : Gap) (s : State) : Around s (markGap g s) := by
  unfold Machine.markGap
  split
  · exact Around.refl s
  · exact Around.ofStream s (fun u => { u with hist := _ }) (fun k _ => by fin_cases k <;> rfl) rfl rfl rfl rfl rfl rfl (fun _ _ => rfl) rfl rfl rfl rfl rfl

theorem Around.traceJump (dest src : Addr) (exc : Bool) (s : State) : Around s (traceJump dest src exc s) := by
  unfold Machine.traceJump
  split
  · exact Around.ofStream s (fun u => { u with trcPend := _ }) (fun k _ => by fin_cases k <;> rfl) rfl rfl rfl rfl rfl rfl (fun _ _ => rfl)
      rfl rfl rfl rfl rfl
  · exact Around.refl s

theorem Around.afterInstr (s : State) : Around s (afterInstr s) := by
  have h0 : Around s (s.setUmber { s.umber with fresh := false }) :=
    Around.ofStream s (fun u => { u with fresh := false }) (fun k _ => by fin_cases k <;> rfl) rfl rfl rfl rfl rfl rfl (fun _ _ => rfl) rfl rfl rfl rfl rfl
  have h1 : ∀ s : State, Around s (if (s.par P.WAKE_STATUS).getLsbD 1 then (s.parBit P.WAKE_STATUS 1 false).raiseIrq 10 else s) := by
    intro s
    split
    · refine (Around.setPar s (i := P.WAKE_STATUS) (fun h => h.2.2.1 rfl) (putBit (s.par P.WAKE_STATUS) 1 false)).trans ?_
      refine Around.ofStream _ (fun u => { u with ipend := putBit u.ipend 10 true }) (fun k hk => ?_) rfl rfl rfl rfl rfl rfl (fun k hk => ?_) rfl rfl rfl rfl rfl
      · fin_cases k <;> first | rfl | exact absurd rfl hk
      · by_cases h : k < 36
        · exact (getLsbD_putBit _ _ _ _ h).trans (if_neg hk)
        · rw [BitVec.getLsbD_of_ge _ _ (by omega), BitVec.getLsbD_of_ge _ _ (by omega)]
    · exact Around.refl s
  unfold Machine.afterInstr
  simp only
  refine (h0.trans (h1 _)).trans ?_
  generalize s.setUmber { s.umber with fresh := false } = q
  generalize (if (q.par P.WAKE_STATUS).getLsbD 1 then (q.parBit P.WAKE_STATUS 1 false).raiseIrq 10 else q) = r
  split
  · exact Around.ofStream r (fun u => { u with stepping := false, haltReq := some (1, 0) }) (fun k _ => by fin_cases k <;> rfl)
      rfl rfl rfl rfl rfl rfl (fun _ _ => rfl) rfl rfl rfl rfl rfl
  · exact Around.refl r

/-! ### Writes leave the buffers and the stream -/

/-- The fields of Umber that no register write touches. -/
structure UmberSt.SameStream (u t : UmberSt) : Prop where
  sb : t.sb = u.sb
  pwq : t.pwq = u.pwq
  locks : t.locks = u.locks
  bitRam : t.bitRam = u.bitRam
  resv : t.resv = u.resv
  pc : t.pc = u.pc
  slots : t.slots = u.slots

theorem UmberSt.put_sameStream (u : UmberSt) (l : Loc) (v : BitVec 80) : UmberSt.SameStream u (u.put l v) := by
  cases l with
  | ctl i => fin_cases i <;> constructor <;> rfl
  | _ => constructor <;> rfl

theorem UmberSt.puts_sameStream (ws : List Wr) : ∀ u : UmberSt, UmberSt.SameStream u (u.puts ws) := by
  induction ws with
  | nil => exact fun u => by constructor <;> rfl
  | cons w ws ih =>
    intro u
    have a := UmberSt.put_sameStream u w.1 w.2.2
    have b := ih (u.put w.1 w.2.2)
    exact ⟨b.sb.trans a.sb, b.pwq.trans a.pwq, b.locks.trans a.locks, b.bitRam.trans a.bitRam, b.resv.trans a.resv, b.pc.trans a.pc,
      b.slots.trans a.slots⟩

/-! ### Completion -/

theorem commit_around (ws : List Wr) (s : State) : Around (s.setUmber (s.umber.puts ws)) (commit ws s) := by
  constructor
  case regs =>
    constructor
    case ctl =>
      intro k _ _
      fin_cases k <;> rfl
    all_goals intros; rfl
  case buffers => constructor <;> rfl
  case blocks => constructor <;> intros <;> rfl
  all_goals intros; rfl

/-- A change of the place in the stream alone. -/
theorem around_place (s : State) (pc : Addr) (slots : Option SlotSt) :
    Around s (s.setUmber { s.umber with pc := pc, slots := slots }) :=
  Around.ofStream s (fun u => { u with pc := pc, slots := slots }) (fun k _ => by fin_cases k <;> rfl) rfl rfl rfl rfl rfl rfl
    (fun _ _ => rfl) rfl rfl rfl rfl rfl

theorem advancePc_around (s : State) : Around s (advancePc s) := by
  unfold advancePc
  simp only
  split
  · exact around_place s (s.umber.pc + 1) s.umber.slots
  · rename_i k hk
    split
    · exact around_place s _ _
    · split
      · refine (Around.traceJump k.target (s.umber.pc - 2) false s).trans ?_
        generalize traceJump k.target (s.umber.pc - 2) false s = r
        split
        · exact (Around.markGap .bubble r).trans (around_place _ _ _)
        · exact around_place r _ _
      · exact around_place s _ _

theorem markGap_pc (g : Gap) (s : State) : (markGap g s).umber.pc = s.umber.pc ∧ (markGap g s).umber.slots = s.umber.slots := by
  unfold markGap
  split <;> exact ⟨rfl, rfl⟩

theorem afterInstr_pc (s : State) : (afterInstr s).umber.pc = s.umber.pc ∧ (afterInstr s).umber.slots = s.umber.slots := by
  have h : ∀ (b : Bool) (r : State), (if b then r.setUmber { r.umber with stepping := false, haltReq := some (1, 0) } else r).umber.pc = r.umber.pc ∧
      (if b then r.setUmber { r.umber with stepping := false, haltReq := some (1, 0) } else r).umber.slots = r.umber.slots := by
    intro b r
    cases b <;> exact ⟨rfl, rfl⟩
  unfold afterInstr
  simp only
  by_cases hw : ((s.setUmber { s.umber with fresh := false }).par P.WAKE_STATUS).getLsbD 1 = true
  · rw [if_pos hw]
    exact h _ (((s.setUmber { s.umber with fresh := false }).parBit P.WAKE_STATUS 1 false).raiseIrq 10)
  · rw [if_neg hw]
    exact h _ (s.setUmber { s.umber with fresh := false })

theorem advancePc_none {s : State} (h : s.umber.slots = none) : (advancePc s).umber.pc = s.umber.pc + 1 ∧ (advancePc s).umber.slots = none := by
  unfold advancePc
  simp only [h]
  exact ⟨rfl, rfl⟩

theorem advancePc_first {s : State} {k : SlotSt} (h : s.umber.slots = some k) (h1 : k.slot = 1) :
    (advancePc s).umber.pc = s.umber.pc + 1 ∧ (advancePc s).umber.slots = some { k with slot := 2 } := by
  unfold advancePc
  simp only [h, if_pos h1]
  exact ⟨rfl, rfl⟩

theorem advancePc_taken {s : State} {k : SlotSt} (h : s.umber.slots = some k) (h1 : k.slot ≠ 1) (ht : k.taken = true) :
    (advancePc s).umber.pc = k.target ∧ (advancePc s).umber.slots = none := by
  unfold advancePc
  simp only [h, if_neg h1, if_pos ht]
  exact ⟨rfl, rfl⟩

theorem advancePc_untaken {s : State} {k : SlotSt} (h : s.umber.slots = some k) (h1 : k.slot ≠ 1) (ht : k.taken ≠ true) :
    (advancePc s).umber.pc = s.umber.pc + 1 ∧ (advancePc s).umber.slots = none := by
  unfold advancePc
  simp only [h, if_neg h1, if_neg ht]
  exact ⟨rfl, rfl⟩

theorem advancePc_flow (s : State) : flowsOn s (advancePc s) := by
  unfold flowsOn
  cases hk : s.umber.slots with
  | none => exact advancePc_none hk
  | some k =>
    simp only
    by_cases h1 : k.slot = 1
    · rw [if_pos h1]; exact advancePc_first hk h1
    · rw [if_neg h1]
      by_cases ht : k.taken = true
      · rw [if_pos ht]; exact advancePc_taken hk h1 ht
      · rw [if_neg ht]; exact advancePc_untaken hk h1 ht

theorem flowsOn_congr {s s' t t' : State} (hp : s'.umber.pc = s.umber.pc) (hs : s'.umber.slots = s.umber.slots)
    (hp' : t'.umber.pc = t.umber.pc) (hs' : t'.umber.slots = t.umber.slots) (h : flowsOn s t) : flowsOn s' t' := by
  unfold flowsOn at h ⊢
  rw [hp, hs, hp', hs']
  exact h

theorem completed_around (s : State) (ws : List Wr) : Around (s.setUmber (s.umber.puts ws)) (completed s ws) :=
  ((commit_around ws s).trans (advancePc_around _)).trans (Around.afterInstr _)

theorem completed_flow (s : State) (ws : List Wr) : flowsOn s (completed s ws) := by
  have hu := UmberSt.puts_sameStream ws s.umber
  exact flowsOn_congr (s := commit ws s) (t := advancePc (commit ws s)) hu.pc.symm hu.slots.symm
    (afterInstr_pc _).1 (afterInstr_pc _).2 (advancePc_flow _)

/-- What an instruction that completes with register and flag writes leaves: every place but those it writes. -/
theorem completed_keeps (s : State) (ws : List Wr) (h : Loc.ctl 12 ∉ ws.map (fun w => w.1)) :
    RegsKept (ws.map (fun w => w.1)) s (completed s ws) ∧ (completed s ws).mem = s.mem ∧ BuffersKept s (completed s ws) ∧
      BlocksKept fetchKeeps s (completed s ws) := by
  have a := completed_around s ws
  have k := UmberSt.puts_keeps ws s.umber
  have m := UmberSt.puts_sameStream ws s.umber
  refine ⟨?_, a.mem, ?_, ?_⟩
  · constructor
    case flags => exact fun h0 i hi => (congrArg (fun w => w.getLsbD i.val) a.sr).trans (k.flags h0 i hi)
    case status => exact fun h0 i hi => (congrArg (fun w => w.getLsbD i) a.sr).trans (k.status h0 i hi)
    case ctl => exact fun i h0 h12 hi => (a.regs.ctl i h0 (by simp [h12])).trans (k.ctl i h0 hi)
    case pend => exact fun _ i hi => (a.pend i hi).trans (congrArg (fun w => w.getLsbD i) (k.ctl 12 (by decide) h))
    case run => exact a.regs.run.trans k.run
    all_goals
      intro r hr
      first
        | exact (a.regs.d r (by simp)).trans (k.d r hr)
        | exact (a.regs.p r (by simp)).trans (k.p r hr)
        | exact (a.regs.n r (by simp)).trans (k.n r hr)
        | exact (a.regs.l r (by simp)).trans (k.l r hr)
        | exact (a.regs.ac r (by simp)).trans (k.ac r hr)
  · exact ⟨a.buffers.sb.trans m.sb, a.buffers.pwq.trans m.pwq, a.buffers.locks.trans m.locks, a.buffers.bitRam.trans m.bitRam,
      a.buffers.resv.trans m.resv⟩
  · exact (BlocksKept.ofUmber s _).trans a.blocks

/-- The places an instruction wrote hold the last values written. -/
theorem completed_get (s : State) (ws : List Wr) {l : Loc} (h0 : l ≠ .ctl 0) (h12 : l ≠ .ctl 12) :
    (completed s ws).umber.get l = (s.umber.puts ws).get l := by
  have a := completed_around s ws
  cases l with
  | flag i => simp only [UmberSt.get, a.sr, State.setUmber_umber]
  | ctl k => simp only [UmberSt.get]; rw [a.regs.ctl k (fun e => h0 (by rw [e])) (by simp; exact fun e => h12 (by rw [e]))]; rfl
  | d r => simp only [UmberSt.get]; rw [a.regs.d r (by simp)]; rfl
  | p r => simp only [UmberSt.get]; rw [a.regs.p r (by simp)]; rfl
  | n r => simp only [UmberSt.get]; rw [a.regs.n r (by simp)]; rfl
  | l r => simp only [UmberSt.get]; rw [a.regs.l r (by simp)]; rfl
  | ac r => simp only [UmberSt.get]; rw [a.regs.ac r (by simp)]; rfl

/-! ### Issue -/

theorem fetched_around {s : State} (h : s.issues) : Around s s.fetched := by
  obtain ⟨q, pf, ps, e, hp⟩ := fetched_eq h
  rw [e] at hp ⊢
  exact (Around.ofParam s ps hp).trans (Around.ofStream _
    (fun u => { u with bpPass := false, ieFence := false, wakeIrq := false, haltReq := q, prefetch := pf, trcPend := [], excPend := [] })
    (fun k _ => by fin_cases k <;> rfl) rfl rfl rfl rfl rfl rfl (fun _ _ => rfl) rfl rfl rfl rfl rfl)

theorem fetched_flow {s : State} (h : s.issues) : s.fetched.umber.pc = s.umber.pc ∧ s.fetched.umber.slots = s.umber.slots := by
  obtain ⟨q, pf, ps, e, -⟩ := fetched_eq h
  rw [e]
  exact ⟨rfl, rfl⟩

theorem fetched_rpt {s : State} (h : s.issues) : s.fetched.umber.rpt = none := by
  obtain ⟨q, pf, ps, e, -⟩ := fetched_eq h
  rw [e]
  exact h.2.1

section
variable {s : State} {c : BitVec 4} {k : IClass} {pm : State → List Wr} {body : State → Body}

/-- How an instruction that issues ends, by what its body answers. -/
theorem issueAt_eq (h : s.issues) (hr : k.rsv = false) (hcf : k.cf = false ∨ s.umber.slots = none) :
    issueAt c k pm body s =
      match runOnce c pm body s.fetched with
      | .ok s ws => advancePc (commit ws s)
      | .branch s ws taken target => startSlots taken target (commit ws s)
      | .trap t s => raiseFault t none s
      | .jump s => s
      | .wait r w => r.setUmber { r.umber with bpPass := s.umber.bpPass, hold := w } := by
  have hslots := (fetched_flow h).2
  have hb : (k.cf && s.fetched.umber.slots.isSome) = false := by
    rw [hslots]
    rcases hcf with e | e <;> simp [e]
  have hpass : (if s.atBoundary then s else noteBreakpoint s).umber.bpPass = s.umber.bpPass := by
    unfold noteBreakpoint
    split
    · rfl
    · split
      · split <;> rfl
      · rfl
  have hat : s.atIssue.umber.rpt.isSome = false := by
    obtain ⟨q, e⟩ := atIssue_eq s
    rw [e]
    simp [h.2.1]
  have hho : s.atIssue.umber.holds = false := by
    obtain ⟨q, e⟩ := atIssue_eq s
    rw [e]
    exact h.2.2.1.1
  have hf : fetchCheck s.atIssue = (none, (fetchCheck s.atIssue).2) := by
    rw [← h.2.2.2.2]
  unfold issueAt
  simp only
  change (match (if s.atIssue.umber.holds || (s.atIssue.umber.rpt.isSome && s.atIssue.umber.rptCache.contains s.atIssue.umber.pc) then (none, s.atIssue)
      else fetchCheck s.atIssue) with
    | (some t, r) => _
    | (none, r) => _) = _
  simp only [hho, hat, Bool.false_and, Bool.or_self, Bool.false_eq_true, if_false]
  rw [hf]
  simp only [show flushTraces (fetchCheck s.atIssue).2 = s.fetched from rfl, fetched_rpt h, hr, hb, Bool.or_self, Bool.false_eq_true, if_false, hpass]
  all_goals (cases runOnce c pm body s.fetched <;> rfl)

theorem hold_markGap (g : Gap) (r : State) : (markGap g r).umber.hold = r.umber.hold := by
  unfold markGap
  split <;> rfl

theorem hold_traceJump (dest src : Addr) (exc : Bool) (r : State) : (traceJump dest src exc r).umber.hold = r.umber.hold := by
  unfold traceJump
  split <;> rfl

theorem hold_traceExc (pc : Addr) (v : Nat) (d : Dom) (r : State) : (traceExc pc v d r).umber.hold = r.umber.hold := by
  unfold traceExc
  split <;> rfl

theorem hold_advancePc (r : State) : (advancePc r).umber.hold = r.umber.hold := by
  unfold advancePc
  simp only
  split
  · rfl
  · split
    · rfl
    · split
      · simp only [State.setUmber_umber]
        split
        · rw [hold_markGap, hold_traceJump]
        · rw [hold_traceJump]
      · rfl

theorem hold_noteLastFlt (a : Addr) (sub : BitVec 3) (r : State) : (noteLastFlt a sub r).umber = r.umber := rfl

theorem hold_faultNoted (t : Trap) (rem : Option Nat) (r : State) : (faultNoted t rem r).umber.hold = .none := by
  have h0 : (if t.vec = 9 then commit [] r else r.setUmber { r.umber with hold := .none, frame := [], inFlight := 0 }).umber.hold = .none := by
    split <;> rfl
  have h1 : ∀ q : State, q.umber.hold = .none → (if t.vec = 3 then noteLastFlt (t.eaddr.getD 0) t.sub q else q).umber.hold = .none := by
    intro q h
    split
    · rw [hold_noteLastFlt, h]
    · exact h
  cases rem <;> exact h1 _ h0

/-- A fault leaves no instruction waiting. -/
theorem hold_raiseFault (t : Trap) (rem : Option Nat) (r : State) : (raiseFault t rem r).umber.hold = .none := by
  unfold raiseFault
  simp only
  split
  · exact hold_faultNoted t rem r
  · split <;> rfl

theorem issue_ok (h : s.issues) (hr : k.rsv = false) (hcf : k.cf = false ∨ s.umber.slots = none) (hc : condTrue c s = true) {s1 : State} {ws : List Wr}
    (hb : body s.fetched = .ok s1 ws) : issue c k pm body s = completed s1 ws := by
  have hh : (advancePc (commit ws s1)).umber.hold = .none := by rw [hold_advancePc]; rfl
  unfold issue
  rw [if_pos h.1, issueAt_eq h hr hcf, runOnce, fetched_condTrue h, if_pos hc, hb]
  simp only [hh, if_true]
  rfl

theorem issue_skip (h : s.issues) (hr : k.rsv = false) (hcf : k.cf = false ∨ s.umber.slots = none) (hc : condTrue c s = false) :
    issue c k pm body s = completed s.fetched (pm s.fetched) := by
  have hh : (advancePc (commit (pm s.fetched) s.fetched)).umber.hold = .none := by rw [hold_advancePc]; rfl
  unfold issue
  rw [if_pos h.1, issueAt_eq h hr hcf, runOnce, fetched_condTrue h, hc]
  simp only [Bool.false_eq_true, if_false, hh, if_true]
  rfl

theorem issue_branch (h : s.issues) (hr : k.rsv = false) (hcf : k.cf = false ∨ s.umber.slots = none) (hc : condTrue c s = true) {s1 : State} {ws : List Wr}
    {taken : Bool} {target : Addr} (hb : body s.fetched = .branch s1 ws taken target) : issue c k pm body s = branched s1 ws taken target := by
  have hh : (startSlots taken target (commit ws s1)).umber.hold = .none := rfl
  unfold issue
  rw [if_pos h.1, issueAt_eq h hr hcf, runOnce, fetched_condTrue h, if_pos hc, hb]
  simp only [hh, if_true]
  rfl

theorem issue_trap (h : s.issues) (hr : k.rsv = false) (hcf : k.cf = false ∨ s.umber.slots = none) (hc : condTrue c s = true) {s1 : State} {t : Trap}
    (hb : body s.fetched = .trap t s1) : issue c k pm body s = afterInstr (raiseFault t none s1) := by
  unfold issue
  rw [if_pos h.1, issueAt_eq h hr hcf, runOnce, fetched_condTrue h, if_pos hc, hb]
  simp only [hold_raiseFault, if_true]

theorem issue_jump (h : s.issues) (hr : k.rsv = false) (hcf : k.cf = false ∨ s.umber.slots = none) (hc : condTrue c s = true) {s1 : State}
    (hb : body s.fetched = .jump s1) (hh : s1.umber.hold = .none) : issue c k pm body s = afterInstr s1 := by
  unfold issue
  rw [if_pos h.1, issueAt_eq h hr hcf, runOnce, fetched_condTrue h, if_pos hc, hb]
  simp only [hh, if_true]

end

/-- An instruction whose effect is its register and flag writes. -/
theorem onlyRegs_completed {s : State} (h : s.issues) (ws : List Wr) (h12 : Loc.ctl 12 ∉ ws.map (fun w => w.1)) :
    OnlyRegs (ws.map (fun w => w.1)) s (completed s.fetched ws) := by
  obtain ⟨hr, hm, hb, hk⟩ := completed_keeps s.fetched ws h12
  have a := fetched_around h
  have hmem : (completed s.fetched ws).mem = s.mem := hm.trans a.mem
  refine ⟨?_, ?_, a.buffers.trans hb, a.blocks.trans hk, ?_⟩
  · exact ⟨fun r h => (hr.d r h).trans (a.regs.d r (by simp)), fun r h => (hr.p r h).trans (a.regs.p r (by simp)),
      fun r h => (hr.n r h).trans (a.regs.n r (by simp)), fun r h => (hr.l r h).trans (a.regs.l r (by simp)),
      fun r h => (hr.ac r h).trans (a.regs.ac r (by simp)),
      fun h0 i h => (hr.flags h0 i h).trans (congrArg (fun w => w.getLsbD i.val) a.sr),
      fun h0 i h => (hr.status h0 i h).trans (congrArg (fun w => w.getLsbD i) a.sr),
      fun i h0 h12 h => (hr.ctl i h0 h12 h).trans (a.regs.ctl i h0 (by simp [h12])),
      fun h0 i h => (hr.pend h0 i h).trans (a.pend i h), hr.run.trans a.regs.run⟩
  · exact ⟨fun _ => by simp only [State.sramCell, hmem], fun _ => by simp only [State.tileCell, hmem], fun _ => by simp only [State.progCell, hmem],
      fun _ => by simp only [State.dnvmCell, hmem], fun _ => by simp only [State.poisoned, hmem]⟩
  · exact flowsOn_congr (fetched_flow h).1.symm (fetched_flow h).2.symm rfl rfl (completed_flow s.fetched ws)

/-! ### What the writes of an instruction leave, register by register -/

section
variable (u : UmberSt) (ws : List Wr)

@[simp] theorem UmberSt.puts_nil : u.puts [] = u := rfl
theorem UmberSt.puts_cons (w : Wr) : u.puts (w :: ws) = (u.put w.1 w.2.2).puts ws := rfl
theorem UmberSt.puts_append (ws' : List Wr) : u.puts (ws ++ ws') = (u.puts ws).puts ws' := List.foldl_append

@[simp] theorem UmberSt.puts_wD (r : Fin 16) (p : Prod) (w : Word) :
    u.puts (wD r p w :: ws) = ({ u with d := u.d.set r w } : UmberSt).puts ws := by
  rw [UmberSt.puts_cons]
  simp [wD, UmberSt.put]

@[simp] theorem UmberSt.puts_wP (r : Fin 16) (p : Prod) (a : Addr) :
    u.puts (wP r p a :: ws) = ({ u with p := u.p.set r a } : UmberSt).puts ws := by
  rw [UmberSt.puts_cons]
  simp [wP, UmberSt.put]

@[simp] theorem UmberSt.puts_wN (r : Fin 8) (p : Prod) (a : Addr) :
    u.puts (wN r p a :: ws) = ({ u with n := u.n.set r a } : UmberSt).puts ws := by
  rw [UmberSt.puts_cons]
  simp [wN, UmberSt.put]

@[simp] theorem UmberSt.puts_wL (r : Fin 8) (p : Prod) (a : Addr) :
    u.puts (wL r p a :: ws) = ({ u with l := u.l.set r a } : UmberSt).puts ws := by
  rw [UmberSt.puts_cons]
  simp [wL, UmberSt.put]

@[simp] theorem UmberSt.puts_wAc (r : Fin 4) (a : Acc) :
    u.puts (wAc r a :: ws) = ({ u with ac := u.ac.set r a } : UmberSt).puts ws := by
  rw [UmberSt.puts_cons]
  simp [wAc, UmberSt.put]

end

/-- A flag after a list of flag writes: the last one decides. -/
def flagAfter (i : Nat) (b : Bool) (fs : FlagW) : Bool := fs.foldl (fun b f => if f.1 % 12 = i then f.2 else b) b

@[simp] theorem flagAfter_nil (i : Nat) (b : Bool) : flagAfter i b [] = b := rfl
@[simp] theorem flagAfter_cons (i : Nat) (b : Bool) (f : Nat × Bool) (fs : FlagW) :
    flagAfter i b (f :: fs) = flagAfter i (if f.1 % 12 = i then f.2 else b) fs := rfl

/-- Flag writes touch SR alone, and of it the bits they name. -/
theorem UmberSt.puts_wFlags (u : UmberSt) (p : Prod) (fs : FlagW) :
    ∃ sr, u.puts (wFlags p fs) = { u with sr := sr } ∧ ∀ i < 36, sr.getLsbD i = flagAfter i (u.sr.getLsbD i) fs := by
  induction fs generalizing u with
  | nil => exact ⟨u.sr, rfl, fun _ _ => rfl⟩
  | cons f fs ih =>
    obtain ⟨sr, h1, h2⟩ := ih ({ u with sr := putBit u.sr (f.1 % 12) f.2 } : UmberSt)
    refine ⟨sr, ?_, fun i hi => ?_⟩
    · rw [← h1]
      simp [wFlags, UmberSt.puts_cons, UmberSt.put, Fin.ofNat]
    · rw [h2 i hi, flagAfter_cons]
      congr 1
      rw [getLsbD_putBit _ _ _ _ hi]
      by_cases h : i = f.1 % 12
      · simp [h]
      · simp [h, Ne.symm h]

@[simp] theorem UmberSt.puts_wFlags_d (u : UmberSt) (p : Prod) (fs : FlagW) : (u.puts (wFlags p fs)).d = u.d := by
  obtain ⟨sr, h, -⟩ := u.puts_wFlags p fs; rw [h]
@[simp] theorem UmberSt.puts_wFlags_p (u : UmberSt) (p : Prod) (fs : FlagW) : (u.puts (wFlags p fs)).p = u.p := by
  obtain ⟨sr, h, -⟩ := u.puts_wFlags p fs; rw [h]
@[simp] theorem UmberSt.puts_wFlags_ac (u : UmberSt) (p : Prod) (fs : FlagW) : (u.puts (wFlags p fs)).ac = u.ac := by
  obtain ⟨sr, h, -⟩ := u.puts_wFlags p fs; rw [h]
theorem UmberSt.puts_wFlags_sr (u : UmberSt) (p : Prod) (fs : FlagW) {i : Nat} (hi : i < 36) :
    (u.puts (wFlags p fs)).sr.getLsbD i = flagAfter i (u.sr.getLsbD i) fs := by
  obtain ⟨sr, h, hs⟩ := u.puts_wFlags p fs; rw [h]; exact hs i hi

theorem completed_d (s : State) (ws : List Wr) : (completed s ws).umber.d = (s.umber.puts ws).d := by
  apply Vector.ext
  intro i hi
  exact (completed_around s ws).regs.d ⟨i, hi⟩ (by simp)
theorem completed_p (s : State) (ws : List Wr) : (completed s ws).umber.p = (s.umber.puts ws).p := by
  apply Vector.ext
  intro i hi
  exact (completed_around s ws).regs.p ⟨i, hi⟩ (by simp)
theorem completed_n (s : State) (ws : List Wr) : (completed s ws).umber.n = (s.umber.puts ws).n := by
  apply Vector.ext
  intro i hi
  exact (completed_around s ws).regs.n ⟨i, hi⟩ (by simp)
theorem completed_l (s : State) (ws : List Wr) : (completed s ws).umber.l = (s.umber.puts ws).l := by
  apply Vector.ext
  intro i hi
  exact (completed_around s ws).regs.l ⟨i, hi⟩ (by simp)
theorem completed_ac (s : State) (ws : List Wr) : (completed s ws).umber.ac = (s.umber.puts ws).ac := by
  apply Vector.ext
  intro i hi
  exact (completed_around s ws).regs.ac ⟨i, hi⟩ (by simp)
theorem completed_sr (s : State) (ws : List Wr) : (completed s ws).umber.sr = (s.umber.puts ws).sr := (completed_around s ws).sr

theorem fetched_sr {s : State} (h : s.issues) : s.fetched.umber.sr = s.umber.sr := (fetched_around h).sr
theorem fetched_ac {s : State} (h : s.issues) : s.fetched.umber.ac = s.umber.ac := by
  obtain ⟨q, pf, ps, e, -⟩ := fetched_eq h
  rw [e]

/-- The one lemma for an instruction whose effect is its writes: its row's values and nothing else. -/
theorem umberStep_writes {s : State} {c : Cond} {k : IClass} {body : State → Body} {ws : List Wr} {ls : List Loc} {post : State → Prop}
    (h : s.issues) (hc : condTrue c s = true) (hr : k.rsv = false) (hcf : k.cf = false ∨ s.umber.slots = none)
    (hb : body s.fetched = .ok s.fetched ws) (hls : ∀ l ∈ ws.map (fun w => w.1), l ∈ ls) (h12 : Loc.ctl 12 ∉ ls)
    (hpost : post (completed s.fetched ws)) :
    ∃ t, umberStep c k body s = .next t ∧ post t ∧ OnlyRegs ls s t := by
  refine ⟨completed s.fetched ws, ?_, hpost, (onlyRegs_completed h ws (fun x => h12 (hls _ x))).mono hls⟩
  unfold umberStep
  rw [issue_ok h hr hcf hc hb]

/-- With its condition false an instruction changes nothing. -/
theorem umberStep_skips {s : State} {c : Cond} {k : IClass} {body : State → Body}
    (h : s.issues) (hc : condTrue c s = false) (hr : k.rsv = false) (hcf : k.cf = false ∨ s.umber.slots = none) :
    ∃ t, umberStep c k body s = .next t ∧ OnlyRegs [] s t := by
  refine ⟨completed s.fetched [], ?_, onlyRegs_completed h [] (by simp)⟩
  unfold umberStep
  rw [issue_skip h hr hcf hc]
  rfl

end Sys2Proof.Machine
end

