-- ==== Sys2Proof/Laws/Alu.lean ====
section
/-!
SUPPORT. Sys2Proof/Laws/Alu.lean: the results of the arithmetic functions in the spec's terms: what a completed instruction holds whose writes are the result of
each function (06 R193, R199; 07 R216-R218, R226, R227).
-/

namespace Sys2Proof.Machine

open Sys2Proof.Claims

/-! ### Reading a result and its flags -/

theorem flag_fetched {s : State} (h : s.issues) (i : Nat) : flag s.fetched i = flag s i := by
  unfold flag
  rw [fetched_sr h]

theorem flag_after_d (r : State) (rd : Fin 16) (p q : Prod) (w : Word) (fs : FlagW) {i : Nat} (hi : i < 36) :
    flag (completed r (wD rd p w :: wFlags q fs)) i = flagAfter i (flag r i) fs := by
  unfold flag
  rw [completed_sr, UmberSt.puts_wD, UmberSt.puts_wFlags_sr _ _ _ hi]

theorem d_after_d (r : State) (rd : Fin 16) (p q : Prod) (w : Word) (fs : FlagW) :
    (completed r (wD rd p w :: wFlags q fs)).umber.d[rd] = w := by
  rw [completed_d, UmberSt.puts_wD, UmberSt.puts_wFlags_d]
  simp

theorem flag_after_flags (r : State) (q : Prod) (fs : FlagW) {i : Nat} (hi : i < 36) :
    flag (completed r (wFlags q fs)) i = flagAfter i (flag r i) fs := by
  unfold flag
  rw [completed_sr, UmberSt.puts_wFlags_sr _ _ _ hi]

theorem flag_after_ac (r : State) (a : Fin 4) (w : Acc) (q : Prod) (fs : FlagW) {i : Nat} (hi : i < 36) :
    flag (completed r (wAc a w :: wFlags q fs)) i = flagAfter i (flag r i) fs := by
  unfold flag
  rw [completed_sr, UmberSt.puts_wAc, UmberSt.puts_wFlags_sr _ _ _ hi]

theorem ac_after_ac (r : State) (a : Fin 4) (w : Acc) (q : Prod) (fs : FlagW) :
    (completed r (wAc a w :: wFlags q fs)).umber.ac[a] = w := by
  rw [completed_ac, UmberSt.puts_wAc, UmberSt.puts_wFlags_ac]
  simp

/-! ### ZNCV and ZN -/

theorem ofInt_toInt_of_range {x : Int} (h1 : -2 ^ 35 ≤ x) (h2 : x < 2 ^ 35) : (BitVec.ofInt 36 x).toInt = x := by
  rw [BitVec.toInt_ofInt]
  exact Int.bmod_eq_of_le (by norm_num at *; omega) (by norm_num at *; omega)

/-- A completed instruction whose writes are a ZNCV result holds the signed result of R193. -/
theorem aluZNCV_signed (s r : State) (sat : Bool) (rd : Fin 16) (x : Int) (cout : Bool) (hf : ∀ i, flag r i = flag s i) :
    signedResult sat rd x cout s (completed r (wD rd .alu (aluZNCV sat x cout).val :: wFlags .flag (aluZNCV sat x cout).flags)) := by
  unfold signedResult z n c v sv
  simp only [d_after_d, flag_after_d _ _ _ _ _ _ (show 2 < 36 by decide), flag_after_d _ _ _ _ _ _ (show 3 < 36 by decide),
    flag_after_d _ _ _ _ _ _ (show 4 < 36 by decide), flag_after_d _ _ _ _ _ _ (show 5 < 36 by decide),
    flag_after_d _ _ _ _ _ _ (show 6 < 36 by decide), hf]
  by_cases h1 : -2 ^ 35 ≤ x <;> by_cases h2 : x < 2 ^ 35
  · have hw : inWord x = true := by simp only [inWord, Bool.and_eq_true, decide_eq_true_eq]; exact ⟨h1, h2⟩
    simp only [aluZNCV, satWord, hw, if_true, flagAfter_cons, flagAfter_nil, fZ, fN, fC, fV]
    refine ⟨by simp [beq_eq_decide], by simp, by simp, fun _ => ⟨ofInt_toInt_of_range h1 h2, by simp, by simp⟩, ?_, ?_, ?_, ?_⟩ <;>
      (intros; omega)
  · have hw : inWord x = false := by simp only [inWord, decide_eq_false h2, Bool.and_false]
    have h0 : ¬ x < 0 := by omega
    cases sat <;>
    simp only [aluZNCV, satWord, hw, h0, Bool.false_eq_true, if_false, if_true, flagAfter_cons, flagAfter_nil, fZ, fN, fC, fV, fSV]
    · refine ⟨by simp [beq_eq_decide], by simp, by simp, fun h => absurd h.2 h2, by simp, ?_, ?_, by simp⟩ <;> (intros; first | omega | simp_all)
    · refine ⟨by simp [beq_eq_decide], by simp, by simp, fun h => absurd h.2 h2, by simp, ?_, ?_, ?_⟩ <;> (intros; first | omega | simp_all [wordMax])
  · have hw : inWord x = false := by simp only [inWord, decide_eq_false h1, Bool.false_and]
    have h0 : x < 0 := by omega
    cases sat <;>
    simp only [aluZNCV, satWord, hw, h0, Bool.false_eq_true, if_false, if_true, flagAfter_cons, flagAfter_nil, fZ, fN, fC, fV, fSV]
    · refine ⟨by simp [beq_eq_decide], by simp, by simp, fun h => absurd h.1 h1, by simp, ?_, ?_, by simp⟩ <;> (intros; first | omega | simp_all)
    · refine ⟨by simp [beq_eq_decide], by simp, by simp, fun h => absurd h.1 h1, by simp, ?_, ?_, ?_⟩ <;> (intros; first | omega | simp_all [wordMin])
  · omega

theorem aluZN_zn (r : State) (rd : Fin 16) (w : Word) :
    (completed r (wD rd .alu (aluZN w).val :: wFlags .flag (aluZN w).flags)).umber.d[rd] = w ∧
      zn w (completed r (wD rd .alu (aluZN w).val :: wFlags .flag (aluZN w).flags)) := by
  refine ⟨d_after_d _ _ _ _ _ _, ?_⟩
  unfold zn z n v
  simp only [flag_after_d _ _ _ _ _ _ (show 2 < 36 by decide), flag_after_d _ _ _ _ _ _ (show 3 < 36 by decide),
    flag_after_d _ _ _ _ _ _ (show 5 < 36 by decide), aluZN, znFlags, flagAfter_cons, flagAfter_nil, fZ, fN, fV]
  simp [beq_eq_decide]

end Sys2Proof.Machine
end

