-- ==== Sys2Proof/Machine/Pins.lean ====
section
/-!
DEFINITION. Sys2Proof/Machine/Pins.lean: the levels of the package's output pins, at reset and otherwise (22 R661, R675, Table ELE-6; 03 R103; 11 R374; 18 R584;
19 R597, R606, R608, R611, R612), and the frames on the pod line, cell by cell (R597, R598).
-/

namespace Sys2Proof.Machine

/-- What an output does with its pin. -/
inductive PinLevel where
  | highZ
  | low
  | high
  deriving DecidableEq, Repr

def PinLevel.ofBool (b : Bool) : PinLevel := if b then .high else .low

/-- VDD is below 1.2 V, where every output but PWRON is high-impedance (R661, R675), whether or not its brown-out detector has tripped yet and the Pier has power. -/
def State.underVolt (s : State) : Bool := decide (s.pier.sup.vdd.toNat < 1200)

/-- An output powered from VDD. -/
def State.output (s : State) (p : PinLevel) : PinLevel := if s.underVolt then .highZ else p

/-- The part is held in reset, or is in mode 0: the strike and amplifier pins hold the levels of Table ELE-6 (R661). -/
def State.heldLevels (s : State) : Bool :=
  decide (s.pwr.mode = .vddOff) || decide (s.pwr.mode = .pier) || (decide (s.pwr.mode = .reset) && (!s.pwr.vddOk || s.pwr.rstLow))

/-- TP and STRK1-STRK3. -/
def State.strikePin (s : State) (pin : BitVec 2) : PinLevel := s.output (.ofBool (!s.heldLevels && s.pinOut pin))

/-- PA_ON, LNA_ON, TRSW and ANT_SEL, k = 0 to 3: asserted high, or low with the bit of RADIO.PAPOL (R374). -/
def State.amplifierPin (s : State) (k : Fin 4) : PinLevel :=
  s.output (.ofBool (!s.heldLevels && xor (s.paAsserted.getLsbD k.val) (decide (s.pwr.package = .ab) && (s.par P.RADIO_PAPOL).getLsbD k.val)))

/-- The code at PA_BIAS; its inactive level is 0 µA (R374). -/
def State.biasCode (s : State) : BitVec 6 := if !s.underVolt && !s.heldLevels && s.paAsserted.getLsbD 0 then s.radio.pabias else 0

/-- The host port runs: its island has power and is not stopped by a mode (R584, Table ISL-9). -/
def State.hostRuns (s : State) : Bool := s.vddRuns

/-- HIRQ: push-pull and asserted high, or with H.CTL.HIRQOD open-drain and asserted low; deasserted while the island does not run (R584). -/
def State.hirqPin (s : State) : PinLevel :=
  let on := s.hostRuns && s.hirq
  s.output (if (s.hreg hCTL).getLsbD 0 && !s.heldLevels then (if on then .low else .highZ) else .ofBool on)

/-- HDO: high-impedance while HCS_N is high, low while the island does not run; otherwise the bit of the byte chosen last, bit 7 first (R569, R584, Table ELE-6). -/
def State.hdoPin (s : State) (hcsLow : Bool) (k : Fin 8) : PinLevel :=
  s.output (if !hcsLow then .highZ else if !s.hostRuns then .low else .ofBool ((s.host.sent.getLastD 0).getLsbD (7 - k.val)))

/-- FCS_N, low in a transfer (R608). -/
def State.fcsPin (s : State) : PinLevel := s.output (.ofBool !(s.awake && s.face.active))

/-- FPWR: asserted high, or low with PWRPOL, whose level at reset is low (R608, Table ELE-6). -/
def State.fpwrPin (s : State) : PinLevel := s.output (.ofBool (xor s.facePower ((s.par P.FACE_CTL).getLsbD 10)))

/-- FRST_N, low when asserted (R608). -/
def State.frstPin (s : State) : PinLevel := s.output (.ofBool !s.faceReset)

/-- FSDO and FDC of bit k of the byte sent last; low outside a transfer (Table ELE-6). -/
def State.fsdoPin (s : State) (k : Fin 8) : PinLevel :=
  s.output (.ofBool (s.face.active && (((faceBits (s.face.sent.getLastD 0))[k.val]?.map (·.1)).getD false)))
def State.fdcPin (s : State) : PinLevel := s.output (.ofBool (s.face.active && (s.face.sent.getLastD 0).getLsbD 8))

/-- FSCK rests low between its pulses (SPI mode 0, R608). -/
def State.fsckRest (s : State) : PinLevel := s.output .low

/-- FSCK runs in a transfer while REFRDY is 1, at 26 MHz ÷ (2 × (DIV + 1)): the half period in periods of 26 MHz (R608). Below 1.2 V of VDD it is high-impedance
with the other outputs (R661). -/
def State.fsckHalf (s : State) : Option Nat :=
  if !s.underVolt && s.face.active && (s.par P.PWR_STATUS).getLsbD 3 then some ((fld (s.par P.FACE_CTL) 0 4 : BitVec 4).toNat + 1) else none

/-- A GPIO pin as the part drives it (R611): an output that is enabled, high-impedance in mode 0 and in reset. -/
def State.gpioPin (s : State) (g : Fin 8) : PinLevel :=
  s.output (if s.gpioDrives g.val && !s.heldLevels then .ofBool ((s.par P.GPIO_OUT).getLsbD g.val) else .highZ)

/-- LIGHT is biased at 0.3 V during a measurement that names it, and high-impedance otherwise (R612, Table SEP-6). -/
def lightBiased (mask : BitVec 6) : Bool := mask.getLsbD 4

/-! ### The pod line (R597) -/

/-- The pull-up on POD_ID is enabled: while the controller runs, and in modes 1 and 2 where the WAKE island keeps it (R597, R606, Table ELE-6). -/
def State.podPullUp (s : State) : Bool :=
  s.awake || ((decide (s.pwr.mode = .doze) || decide (s.pwr.mode = .retain)) && s.pod.pullKept)

/-- A bit cell as the half cells in which the line is released: a 0 is low and then released, a 1 released and then low (R597). -/
def podCell (b : Bool) : List Bool := [b, !b]

/-- The cells of a frame: preamble, then the bytes least significant bit first (R597); the CRC stands among them so that it leaves bit 7 first (R598). -/
def podCells (preamble : List Bool) (bs : List Byte) : List Bool :=
  (preamble ++ bs.flatMap (fun b => (List.range 8).map (fun i => b.getLsbD i))).flatMap podCell

/-- A host frame on the line, in half cells of 32 µs: the break of 256 µs, 64 µs released, the preamble 0110 and the bytes (Table POD-1, R597). -/
def podHostLine (bs : List Byte) : List Bool := List.replicate 8 false ++ List.replicate 2 true ++ podCells [false, true, true, false] bs

/-- A pod frame: the preamble 1001 and the bytes (R597). -/
def podFrameLine (bs : List Byte) : List Bool := podCells [true, false, false, true] bs

/-- POD_ID as the controller drives it, in half cells: the host frame that a transaction under way sends (R598, R601); released otherwise, in the modes that stop Sepia
(R606), and below 1.2 V of VDD (R661, Table ELE-6). -/
def State.podLine (s : State) : List Bool :=
  match s.podTxn with
  | some t => if (decide (t.phase = .sent) || decide (t.phase = .polled)) && !s.underVolt then podHostLine s.pod.frame else []
  | none => []

end Sys2Proof.Machine
end

