-- ==== Sys2Proof/WellFormed.lean ====
section
/-!
DEFINITION. Sys2Proof/WellFormed.lean: the check that a command is one of its row. A row that is a write of a parameter with a field at a given code holds
only of values that spell that code; a command that fails the check has no effect (log 4). Umber's instructions are never ill-formed: a reserved
value of a field is an encoding with an effect of its own, the reserved-opcode trap (R197).
-/

namespace Sys2Proof

open Sys2Proof.Machine

/-- The command is one of its row; the rows not named here hold of every operand. -/
def Instr.wellFormed (i : Instr) : Bool :=
  match i with
  | .softwareReset _ v => spSysrst v
  | .umberResetRequest _ v => spUmbrst v
  | .radioPowerOn _ v => spOn 1 v
  | .radioPowerOff _ v => spOff 1 v
  | .trestlePowerOn _ v => spOn 0 v
  | .trestlePowerOff _ v => spOff 0 v
  | .cipherPowerOn _ v => spOn 3 v
  | .cipherPowerOff _ v => spOff 3 v
  | .l1Enable _ v => spOn 2 v
  | .l1Disable _ v => spOff 2 v
  | .timeLoad _ v => spOn 0 v
  | .strkArm _ _ v => spOn 0 v
  | .strkDisarm _ _ v => spOff 0 v
  | .pierHaltSet _ v => spOn 0 v
  | .pierHaltClear _ v => spOff 0 v
  | .pwronAck _ v => spOn 0 v
  | .archRequestOn _ v => spArch 0 v
  | .archRequestSleep _ v => spArch 1 v
  | .archRequestOff _ v => spArch 2 v
  | .memInject _ v => spOn 0 v
  | .revoke _ v => spOn 4 v
  | .dmaStart _ _ v => spDmaCmd 0 v
  | .dmaResume _ _ v => spDmaCmd 1 v
  | .dmaAbort _ _ v => spDmaCmd 2 v
  | .radioCmdSleep _ v => spRadio 1 v
  | .radioCmdStandby _ v => spRadio 2 v
  | .radioCmdRx _ v => spRadio 3 v
  | .radioCmdTx _ v => spRadio 4 v
  | .radioCmdTxstart _ v => spRadio 5 v
  | .radioCmdWakelisten _ v => spRadio 6 v
  | .radioCmdChsw _ v => spRadio 7 v
  | .radioCmdCalrc _ v => spRadio 8 v
  | .radioCmdCaliq _ v => spRadio 9 v
  | .radioCmdCaldc _ v => spRadio 10 v
  | .radioCmdInvalid _ v => spRadioBad v
  | .radioTxflush _ v => spOn 16 v
  | .radioRxflush _ v => spOn 17 v
  | .trsChannelEnable _ _ v => spOn 0 v
  | .trsChannelDisable _ _ v => spOff 0 v
  | .searchCapture _ v => spScmd 1 v
  | .searchPass _ v => spScmd 2 v
  | .searchAbort _ v => spScmd 3 v
  | .aesEcbEncrypt _ v => spOp 1 v
  | .aesEcbDecrypt _ v => spOp 2 v
  | .aesCtr _ v => spOp 3 v
  | .aesCcmEncrypt _ v => spOp 4 v
  | .aesCcmDecrypt _ v => spOp 5 v
  | .sha256Start _ v => spOp 6 v
  | .hmacSha256 _ v => spOp 7 v
  | .derive _ v => spOp 8 v
  | .ecdsaSign _ v => spOp 9 v
  | .ecdsaVerifyStart _ v => spOp 10 v
  | .ecdh _ v => spOp 11 v
  | .pubkey _ v => spOp 12 v
  | .clear _ v => spOp 13 v
  | .wrap _ v => spOp 14 v
  | .ownerHashProgram _ v => spOwn v
  | .dbgChallenge _ v => spDbg 1 v
  | .dbgCheckResponse _ v => spDbg 2 v
  | .dbgDropRights _ v => spDbg 3 v
  | .dbgCheckCerts _ v => spDbg 4 v
  | .podRead _ v => spPod 1 v
  | .podWrite _ v => spPod 2 v
  | .podAddchg _ v => spPod 3 v
  | .podAuth _ v => spPod 4 v
  | .podPing _ v => spPod 5 v
  | .faceEnd _ v => spOn 0 v
  | .faceFlush _ v => spOn 1 v
  | _ => true

end Sys2Proof
end

