-- ==== Sys2Proof/Tests/Slice0.lean ====
section
/-!
SUPPORT. Sys2Proof/Tests/Slice0.lean: the smoke test of WellFormed, a few steps on small states, and states and operands that meet the hypotheses of the statements.
-/

namespace Sys2Proof.Tests

open Sys2Proof.Machine Sys2Proof.Claims

-- The proofs are checked one after another: side by side they would need more stack space than the check allows.
set_option Elab.async false

/-! ### Small states -/

/-- Parameters set one after another. -/
def sets (s : State) (l : List (Nat × Word)) : State := l.foldl (fun s e => s.setPar e.1 e.2) s

/-- The part awake in PRODUCTION: clocks running, every region powered, arches READY, Umber at 0x100 with the regions of Table DMA-2, store time valid. -/
def up : State :=
  let s := sets (loadBootRegions 0 State.reset)
    [(P.MEM_ARCHSTAT, 0x2492), (P.PWR_CLKCTL, 1), (P.PWR_STATUS, 0x38), (P.PWR_ISLAND, 0xF), (P.PIER_STATUS, 0), (P.TIME_STATUS, 1), (P.RADIO_STATE, 2),
     (P.LIFE_STATE, 0x20FFF), (P.LIFE_DBGSTAT, 0xFF)]
  { s with pwr := { s.pwr with mode := .active, vddLost := false, relock := false }, umber := { s.umber with run := .running, pc := 0x100 } }

def withUmber (u : UmberSt) : State := { up with umber := u }

/-- What holds of the next state of a command; false where there is none. -/
def gives (i : Instr) (s : State) (p : State → Bool) : Bool := match exec i s with | .next t => p t | _ => false

/-- A command leaves everything as it is. -/
def idles (i : Instr) (s : State) : Bool := gives i s (fun t => decide (t = s))


/-! ### WellFormed: for each check a command that is not of its row, which is refused and has no effect -/

/-- The command fails the check and leaves everything as it is. -/
def refused (c : Instr) : Bool := !c.wellFormed && idles c up

theorem test_ill_formed_power_time_memory : ([.softwareReset .sepia 0, .umberResetRequest .sepia 0x18, .radioPowerOn .sepia 0, .radioPowerOff .sepia 2, .trestlePowerOn .sepia 0,
    .trestlePowerOff .sepia 1, .cipherPowerOn .sepia 0, .cipherPowerOff .sepia 8, .l1Enable .sepia 0, .l1Disable .sepia 4, .timeLoad .sepia 2,
    .strkArm .sepia 0 2, .strkDisarm .sepia 0 1, .pierHaltSet .sepia 0, .pierHaltClear .sepia 1, .pwronAck .sepia 2, .archRequestOn .sepia 0x155,
    .archRequestSleep .sepia 0, .archRequestOff .sepia 0, .memInject .sepia 2, .revoke .sepia 3, .dmaStart .sepia 0 3, .dmaResume .sepia 0 1,
    .dmaAbort .sepia 0 2] : List Instr).all refused = true := by
  decide +kernel

theorem test_ill_formed_radio_trestle : ([.radioCmdSleep .sepia 2, .radioCmdStandby .sepia 1, .radioCmdRx .sepia 1, .radioCmdTx .sepia 1, .radioCmdTxstart .sepia 1,
    .radioCmdWakelisten .sepia 1, .radioCmdChsw .sepia 1, .radioCmdCalrc .sepia 1, .radioCmdCaliq .sepia 1, .radioCmdCaldc .sepia 1,
    .radioCmdInvalid .sepia 10, .radioTxflush .sepia 0, .radioRxflush .sepia 0, .trsChannelEnable .sepia 0 2, .trsChannelDisable .sepia 0 1,
    .searchCapture .sepia 2, .searchPass .sepia 1, .searchAbort .sepia 1] : List Instr).all refused = true := by
  decide +kernel

theorem test_ill_formed_cipher_life_pod : ([.aesEcbEncrypt .sepia 2, .aesEcbDecrypt .sepia 1, .aesCtr .sepia 1, .aesCcmEncrypt .sepia 1, .aesCcmDecrypt .sepia 1, .sha256Start .sepia 1,
    .hmacSha256 .sepia 1, .derive .sepia 1, .ecdsaSign .sepia 1, .ecdsaVerifyStart .sepia 1, .ecdh .sepia 1, .pubkey .sepia 1, .clear .sepia 1,
    .wrap .sepia 1, .ownerHashProgram .sepia 1, .dbgChallenge .sepia 2, .dbgCheckResponse .sepia 1, .dbgDropRights .sepia 1,
    .dbgCheckCerts .sepia 1, .podRead .sepia 2, .podWrite .sepia 1, .podAddchg .sepia 1, .podAuth .sepia 1, .podPing .sepia 1, .faceEnd .sepia 2,
    .faceFlush .sepia 1] : List Instr).all refused = true := by
  decide +kernel

theorem test_well_formed : ([.softwareReset .sepia 8, .umberResetRequest .sepia 0x10, .strkArm .sepia 0 1, .archRequestOff .sepia 2, .dmaAbort .sepia 0 4,
    .radioCmdCaldc .sepia 10, .radioCmdInvalid .sepia 11, .wrap .sepia 14, .podPing .sepia 5, .faceFlush .sepia 2] : List Instr).all Instr.wellFormed = true := by
  decide +kernel


/-! ### Umber: states and operands that meet the hypotheses -/

/-- Every pointer at 0x1000, a word with SR-like bits in each data register. -/
def up1 : State := withUmber { up.umber with p := Vector.replicate 16 0x1000, d := Vector.replicate 16 5 }

/-- Umber with its SR, beside `up1`. -/
def withSr (w : Word) : State := withUmber { up1.umber with sr := w }

/-- A word of SRAM with its check bits. -/
def withSram (l : List (Nat × Word)) (s : State) : State :=
  { s with mem := { s.mem with sram := l.foldl (fun m e => SMap.put m e.1 0 (checkBits e.2 ++ e.2)) s.mem.sram } }

/-- What `State.issues` asks, as a value. -/
def mayIssue (s : State) : Bool :=
  s.umberReady && s.umber.rpt.isNone && !s.umber.holds && s.umber.frame.isEmpty && (fetchCheck s.atIssue).1.isNone &&
    (List.finRange 4).all (fun k => decide (0xC000 ≤ (fld s.umber.pc 2 16 : BitVec 16).toNat + k.val) || decide (∀ j : BitVec 2, cellBad (s.progCell (s.quadAhead k ++ j)) = false))

theorem issues_of {s : State} (h : mayIssue s = true) : s.issues := by
  simp only [mayIssue, Bool.and_eq_true, Bool.not_eq_true', Option.isNone_iff_eq_none, List.isEmpty_iff, List.all_eq_true, Bool.or_eq_true, decide_eq_true_eq] at h
  obtain ⟨⟨⟨⟨⟨ready, once⟩, free⟩, bare⟩, fetched⟩, quads⟩ := h
  exact ⟨ready, once, ⟨free, bare⟩, Or.inr (fun k inside => (quads k (List.mem_finRange k)).resolve_left (Nat.not_le.mpr inside)), fetched⟩

theorem up1_issues : up1.issues := issues_of (by decide +kernel)

/-- An instruction of a table that issues with its condition true. -/
abbrev Met (rows : Instr → Option Row) (i : Instr) : Prop := ∃ r, rows i = some r ∧ up1.issues ∧ condTrue r.cond up1 = true

theorem met_sumRows : Met sumRows (.addi 0 true 15 0x3FFFF) := ⟨_, rfl, up1_issues, by decide +kernel⟩
theorem met_productRows : Met productRows (.mul 2 0 15 15) := ⟨_, rfl, up1_issues, by decide +kernel⟩
theorem met_logicRows : Met logicRows (.and 0 15 15 0) := ⟨_, rfl, up1_issues, by decide +kernel⟩
theorem met_compareRows : Met compareRows (.cmpi 0 15 0x20000) := ⟨_, rfl, up1_issues, by decide +kernel⟩
theorem met_shiftRows : Met shiftRows (.lsli 0 true 0 15 63) := ⟨_, rfl, up1_issues, by decide +kernel⟩
theorem met_countRows : Met countRows (.exts 0 0 15 35) := ⟨_, rfl, up1_issues, by decide +kernel⟩
theorem met_moveRows : Met moveRows (.mvda 0 15 3 2) := ⟨_, rfl, up1_issues, by decide +kernel⟩
theorem met_macRows : Met macRows (.mac 0 true 3 15 15) := ⟨_, rfl, up1_issues, by decide +kernel⟩
theorem met_complexRows : Met complexRows (.cmac 0 true 2 15 15) := ⟨_, rfl, up1_issues, by decide +kernel⟩
theorem met_extractRows : Met extractRows (.exta 0 true 15 3 44) := ⟨_, rfl, up1_issues, by decide +kernel⟩
theorem met_fcmpRows : Met fcmpRows (.fcmp 0 15 0) := ⟨_, rfl, up1_issues, by decide +kernel⟩

theorem met_f36Rows : ∃ r, f36Rows (.fadd 0 15 0 1) = some r ∧ up1.issues ∧ condTrue r.cond up1 = true ∧ ¬ ((r.out up1).isInvalid = true ∧ ftrap up1 = true) :=
  ⟨_, rfl, up1_issues, by decide +kernel, fun h => absurd h.2 (by decide +kernel)⟩

theorem met_falseCondition : plainCond (.add 1 false 0 1 2) = some 1 ∧ plainCond (.lr 1 0 0 1 0x7FF) = some 1 ∧ flowCond (.reti 1) = some 1 ∧ up1.issues ∧
    up1.umber.slots = none ∧ condTrue 1 up1 = false := ⟨rfl, rfl, rfl, up1_issues, by decide +kernel, by decide +kernel⟩

theorem met_pmFalse : modeRows (.ld 1 0 0 2 0x800) = some (1, 0, 2, 0x800) ∧ legal 0 2 0x800 ∧ modeRows (.std 1 14 8 5 0) = some (1, 8, 5, 0) ∧ legal 8 5 0 ∧ up1.issues ∧
    condTrue 1 up1 = false := ⟨rfl, by decide, rfl, by decide, up1_issues, by decide +kernel⟩

/-- Addresses by each mode of Table UMI-8, and readable words that the regions permit, at the ends of data SRAM, the tile and NVM. -/
theorem met_addresses : ([(0, 0, 0, 0x1000), (0, 1, 0xFFF, 0xFFF), (15, 2, 0, 0x1000), (15, 3, 0x800, 0x1000), (7, 4, 0, 0x1000), (8, 5, 0, 0xFFF)] :
    List (Fin 16 × BitVec 3 × BitVec 12 × Addr)).all (fun e => decide (legal e.1 e.2.1 e.2.2.1) && address e.1 e.2.1 e.2.2.1 up1 == e.2.2.2) = true := by decide +kernel

theorem met_words : ([0x000000, 0x000FFF, 0x001000, 0x03FFFF, 0x100000, 0x100FFF, 0x200100, 0x207FFF, 0x300000, 0x32FFFF] : List Addr).all
    (fun a => decide (up1.regionFail up1.umberAcc spData a .r = none) && (dataWord up1 a).isSome) = true := by decide +kernel

/-- The rows of a load, of LDD with an even register and of the widest store. -/
theorem met_loadRows : (loadRows (.ldq 0 3 15 15 2 0)).isSome = true ∧ up1.issues ∧ condTrue 0 up1 = true ∧ (14 : Fin 16).val % 2 = 0 ∧
    (address 0 1 0xFFE up1).getLsbD 0 = false ∧ permits up1 .r (address 0 1 0xFFE up1 + 1) ∧ dataWord up1 (address 0 1 0xFFE up1 + 1) = some 0 :=
  ⟨rfl, up1_issues, by decide +kernel, rfl, by decide +kernel, by unfold permits; decide +kernel, by decide +kernel⟩

theorem met_stores : (storeRows (.stq 0 3 15 15 3 0)).isSome = true ∧ legal 15 3 0 ∧ up1.issues ∧ condTrue 0 up1 = true ∧
    permits up1 (storeNeeds 8) (address 15 3 0 up1) ∧ storable up1 (address 15 3 0 up1) 8 ∧ (address 15 3 0 up1).toNat < 0x040000 ∧ up1.umber.sb.length < 4 ∧
    permits up1 .w 0x100FFF ∧ storable up1 0x100FFF 15 :=
  ⟨rfl, by decide, up1_issues, by decide +kernel, by unfold permits; decide +kernel, by unfold storable; decide +kernel, by decide +kernel, by decide +kernel,
    by unfold permits; decide +kernel, by unfold storable; decide +kernel⟩

/-- An address that a pointer at 0x410000 or so reaches. -/
def at0 (a : Addr) (q : List PWrite) : State := withUmber { up1.umber with p := Vector.replicate 16 a, pwq := q }

/-- A waiting write of TIME.LOADS by the kernel. -/
def waits (t : PTarget) (v : Word) (r : Option (BitVec 4)) : PWrite := { tgt := t, val := v, dom := 1, prv := true, latched := r }

theorem at0_address : address 0 0 0 (at0 0x400300 []) = 0x400300 ∧ address 0 0 0 (at0 0x410000 (List.replicate 8 (waits .fifo 1 none))) = 0x410000 := by decide +kernel

theorem met_queuedStores : ([0x400300, 0x401FFF, 0x410000, 0x4100FF, 0x410100, 0x4101FF] : List Addr).all
    (fun a => decide (up1.regionFail up1.umberAcc spData a .w = none)) = true := by decide +kernel

theorem met_queuedStores_masks : (at0 0x400300 []).issues ∧ populated 0x300 = true ∧ up1.maskDenies up1.umberAcc 0x300 true = false ∧ privDenies up1.umberAcc 0x300 true = false :=
  ⟨issues_of (by decide +kernel), by decide +kernel⟩

theorem met_queuedStores_unpopulated : populated 0x0013 = false ∧ (storeRows (.st 0 1 0 0 0)).isSome = true := ⟨by decide +kernel, rfl⟩

theorem met_queueFull : (at0 0x410000 (List.replicate 8 (waits .fifo 1 none))).issues ∧ 8 ≤ (at0 0x410000 (List.replicate 8 (waits .fifo 1 none))).umber.pwq.length :=
  ⟨issues_of (by decide +kernel), by decide +kernel⟩

/-- The same of a parameter. -/
theorem met_queueFull_parameter : (at0 0x400300 (List.replicate 8 (waits .fifo 1 none))).issues ∧ populated (0x400300 - 0x400000) = true ∧
    (at0 0x400300 []).maskDenies up1.umberAcc 0x300 true = false := ⟨issues_of (by decide +kernel), by decide +kernel⟩

/-- Steps of Tables UMD-6 and UMD-7: P2 in a buffer of 5 words at 0x2008, and bit-reversed with N2 = 4. -/
theorem test_pointer_modes : (let u := { up1.umber with l := up1.umber.l.set 2 5, n := up1.umber.n.set 2 4, pmode := 0x10 }
    let at' := fun (a : Addr) (m : Word) => withUmber { u with p := u.p.set 2 a, pmode := m }
    afterStep (at' 0x200B 0x10) 2 false 1 = 0x200C ∧ afterStep (at' 0x200C 0x10) 2 false 1 = 0x2008 ∧ afterStep (at' 0x2008 0x10) 2 false (-1) = 0x200C ∧
    afterStep (at' 0x1004 0x20) 2 true 4 = 0x1002 ∧ afterStep (at' 0x1006 0x20) 2 true 4 = 0x1001 ∧ afterStep (at' 0x1007 0x20) 2 true 4 = 0x1000) := by decide +kernel

theorem met_atomics : legalAtomic 1 0xFFF ∧ up1.issues ∧ permits up1 .rw (address 0 1 0xFFF up1) ∧ up1.archState ((address 0 1 0xFFF up1).toNat / 65536) = 2 ∧
    (drainAll up1.fetched).poisoned ((address 0 1 0xFFF up1).extractLsb' 0 18) = false ∧
    readable ((drainAll up1.fetched).sramCell ((address 0 1 0xFFF up1).extractLsb' 0 18)) = some 0 ∧ (atomRows (.atadd 0 1 0 1 0xFFF)).isSome = true :=
  ⟨by decide, up1_issues, by unfold permits; decide +kernel, by decide +kernel, by decide +kernel, by decide +kernel, rfl⟩

/-- The reservation of SC at its address. -/
theorem met_sc : (withUmber { up1.umber with resv := some (0x1000, 1) }).umber.resv =
    some (address 0 0 0 (withUmber { up1.umber with resv := some (0x1000, 1) }), up1.umber.sr.extractLsb' 16 4) := by decide +kernel

theorem met_duals : (dualRows (.macd 0 true 3 7 7 3 3 15 true)).isSome = true ∧ dualAddress (up1.rdP 7 .addr) ∧ permits up1 .r (up1.rdP 7 .addr) ∧
    dataWord up1 (up1.rdP 15 .addr) = some 0 ∧ permits up1 .r (0x300000 + up1.rdP 13 .addr) ∧ (up1.rdP 13 .addr).toNat < 0x030000 ∧
    readable (up1.progCell ((up1.rdP 13 .addr).extractLsb' 0 18)) = some 0 :=
  ⟨rfl, Or.inl (by decide +kernel), by unfold permits; decide +kernel, by decide +kernel, by unfold permits; decide +kernel, by decide +kernel, by decide +kernel⟩

/-- Bits at the ends of each range of Table UMM-5: a flag, the reserved range, lock bits, bit RAM, peripheral bits. -/
theorem met_bits : ∀ b ∈ ([0x000, 0x00B, 0x0FF, 0x100, 0x1FF, 0x200, 0x7FF, 0x800, 0xFFF] : List (BitVec 12)),
    (b.toNat < 0x100 ∨ up1.regionFail up1.umberAcc spBit (b.setWidth 24) .rw = none) ∧ (bitRead up1 b).isSome = true ∧ up1.umber.pwq.length < 8 ∧
      up1.umber.sr.getLsbD 20 = true := by decide +kernel

theorem met_bitRows : (bitRows (.bmovToBit 0 0x7FF 15 35)).isSome = true ∧ (bitReadRows (.bmovFromBit 0 15 35 0x200)).isSome = true ∧
    (∃ r, bitRows (.btgl 0 0x200) = some r ∧ r.value up1 = some true) := ⟨rfl, rfl, _, rfl, by decide +kernel⟩

theorem met_branches : (flowRows (.call 0 0xFFFFFF)).isSome = true ∧ (flowRows (.br 1 4)).isSome = true ∧ up1.issues ∧ up1.umber.slots = none ∧
    condTrue 0 up1 = true ∧ condTrue 1 up1 = false := ⟨rfl, rfl, up1_issues, by decide +kernel⟩

theorem met_framesPush : (frameRows (.callm 0 0xFFF 0x800)).isSome = true ∧ up1.rdP 15 .addr = 0x1000 ∧ (frameOf up1 0xFFF).length = 15 :=
  ⟨rfl, by decide +kernel, by decide +kernel⟩

theorem met_framePlaces : (below 0x1000 15).all (fun a => decide (up1.regionFail up1.umberAcc spData a .w = none) && decide (a.toNat < 0x040000) &&
    up1.archState (a.toNat / 65536) == 2) = true := by decide +kernel

/-- A frame of two words beside its header at 0x1000. -/
def framed : State := withSram [(0x1000, 0x3000), (0x1001, 0x25), (0x1002, 0x123)] up1

theorem met_framePops : framed.issues ∧ condTrue 0 framed = true ∧ goodHeader 0x3000 ∧ dataWord framed (framed.rdP 15 .addr) = some 0x3000 ∧
    (∀ j < 3, permits framed .r (framed.rdP 15 .addr + BitVec.ofNat 24 j)) ∧ dataWord framed (framed.rdP 15 .addr + 1) = some 0x25 ∧
    dataWord framed (framed.rdP 15 .addr + 2) = some 0x123 :=
  ⟨issues_of (by decide +kernel), by decide +kernel, by unfold goodHeader; decide +kernel, by decide +kernel,
    by unfold permits; decide +kernel, by decide +kernel, by decide +kernel⟩

theorem met_systemRows : up1.issues ∧ condTrue 0 up1 = true ∧ up1.umber.pwq = [] ∧ up1.umber.slots = none ∧ (at0 0 [waits .fifo 1 none]).umber.pwq ≠ [] ∧
    (at0 0 [waits .fifo 1 none]).issues :=
  ⟨up1_issues, by decide +kernel, by decide +kernel, by decide +kernel, by decide +kernel, issues_of (by decide +kernel)⟩

/-- An RPT of 4,096 waits for the instruction it repeats. -/
def repeating : State := withUmber { up1.umber with rpt := some 4096 }
theorem met_repeatedAddi : repeating.umberReady = true ∧ repeating.begins ∧ repeating.umber.rpt = some 4096 ∧ repeating.umber.slots = none ∧ (fetchCheck repeating.atIssue).1 = none :=
  ⟨by decide +kernel, ⟨by decide +kernel, by decide +kernel⟩, by decide +kernel, by decide +kernel, by decide +kernel⟩

theorem met_controlWrites : mayWrite (flag up1 20) 15 ∧ mayWrite (flag up1 20) 3 ∧ mayWrite (flag (withSr 0x020000) 20) 1 ∧ mayRead (flag up1 20) 16 ∧
    mayRead (flag (withSr 0x020000) 20) 12 :=
  ⟨Or.inr (Or.inr (Or.inl rfl)), by unfold mayWrite; decide +kernel, Or.inr (Or.inl rfl), by unfold mayRead; decide +kernel, by unfold mayRead; decide +kernel⟩

/-! ### Exceptions -/

theorem met_fetchFaults : (let s := withUmber { up1.umber with pc := 0x030000 }; s.umberReady && !flag s 25 && !flag s 26 && s.umber.rpt.isNone && !s.umber.holds && s.umber.frame.isEmpty &&
    decide (0x030000 ≤ s.umber.pc.toNat)) = true ∧
    (let s := withUmber { up1.umber with pc := 0x018000 }; s.umberReady && (s.regionFail s.umberAcc spProg s.umber.pc .x).isSome && decide (s.umber.pc.toNat < 0x030000)) = true :=
  by decide +kernel

/-- One form of each kind of Table UMM-9: reserved opcode, TRAP, privilege, a bus fault, alignment, protection, an F36 invalid operation that traps. -/
theorem met_raises_reserved : raises (.reservedOpcode 1) up1 { vec := 7 } := Or.inl ⟨Or.inl trivial, rfl⟩
theorem met_raises_slot : raises (.trap 0 3) (withUmber { up1.umber with slots := some ⟨2, true, 0x200⟩ }) { vec := 7 } := Or.inl ⟨Or.inr ⟨rfl, by decide +kernel⟩, rfl⟩

theorem not_reserved {i : Instr} {s : State} (h : reservedForm i = False) (hs : s.umber.slots = none) : ¬ (reservedForm i ∨ (isFlow i = true ∧ s.umber.slots.isSome = true)) := by
  simp [h, hs]

theorem met_raises_trap : raises (.trap 0 0xFF) up1 { vec := 9, code := 0xFF } := Or.inr ⟨not_reserved rfl (by decide +kernel), Or.inl ⟨by decide +kernel, rfl⟩⟩
theorem met_raises_privilege : raises (.reti 0) (withSr 0x020000) { vec := 3, sub := 4 } := Or.inr ⟨not_reserved rfl (by decide +kernel), Or.inl ⟨by decide +kernel, by decide +kernel, rfl⟩⟩
theorem met_raises_tas : raises (.tas 0 1 true 0xFFF) up1 { vec := 7 } := Or.inr ⟨not_reserved rfl (by decide +kernel), Or.inr (Or.inl ⟨by decide +kernel, Or.inl ⟨Or.inr (by decide +kernel), rfl⟩⟩)⟩

/-- Block 3 denies domain 1; a word of SRAM is poisoned, and another cannot be corrected; lock bit 5 belongs to domain 7 and domain 1 has PRV 0. -/
def denied : State := { at0 0x400300 [] with masks := SMap.put up1.masks 3 0x00030003#32 0x00010001#32 }
def poisonedAt1000 : State := { up1 with mem := { up1.mem with poison := SMap.put up1.mem.poison 0x1000 false true } }
def badAt1001 : State := { up1 with mem := { up1.mem with sram := SMap.put up1.mem.sram 0x1001 0 3 } }
def lockedOut : State := withUmber { up1.umber with sr := 0x010000, locks := SMap.insert up1.umber.locks 5 7 }

theorem met_raises_more : denied.issues ∧ poisonedAt1000.issues ∧ badAt1001.issues ∧ lockedOut.issues ∧ (withUmber { up1.umber with inFlight := 1 }).issues :=
  ⟨issues_of (by decide +kernel), issues_of (by decide +kernel), issues_of (by decide +kernel), issues_of (by decide +kernel), issues_of (by decide +kernel)⟩

theorem met_raises_denied : raises (.ld 0 4 0 0 0) denied { vec := 3, sub := 3, eaddr := some 0x400300, bstat := some 2, index := some 0x300, records := .denied 0x300 false } ∧
    raises (.st 0 4 0 0 0) denied { vec := 3, sub := 3, eaddr := some 0x400300, bstat := some 2, index := some 0x300, records := .denied 0x300 true } :=
  ⟨Or.inr ⟨by unfold reservedForm; decide +kernel, Or.inr (Or.inr ⟨by decide +kernel, Or.inr ⟨Or.inl rfl, Or.inr ⟨by unfold permits; decide +kernel,
      Or.inr (Or.inr ⟨by decide +kernel, Or.inl ⟨by decide +kernel, rfl⟩⟩)⟩⟩⟩)⟩,
    Or.inr ⟨by unfold reservedForm; decide +kernel, Or.inr (Or.inr ⟨by decide +kernel, Or.inr ⟨Or.inl rfl, Or.inr ⟨by unfold permits; decide +kernel,
      Or.inr (Or.inr ⟨by decide +kernel, Or.inl ⟨by decide +kernel, rfl⟩⟩)⟩⟩⟩)⟩⟩

theorem met_raises_poison : raises (.ldh 0 1 4 0 0 0) poisonedAt1000 { vec := 4, eaddr := some 0x1000, records := .memory none } ∧
    raises (.ldd 0 4 0 0 0) badAt1001 { vec := 4, eaddr := some 0x1001, records := .memory (some 0x1001) } ∧
    raises (.stq 0 3 4 0 0 0) poisonedAt1000 { vec := 4, eaddr := some 0x1000 } :=
  ⟨Or.inr ⟨by unfold reservedForm; decide +kernel, Or.inr (Or.inr ⟨by decide +kernel, Or.inr ⟨Or.inr (by unfold paramOrFifo; decide +kernel), Or.inr ⟨by unfold permits; decide +kernel,
      Or.inr (Or.inl ⟨by decide +kernel, by decide +kernel, by decide +kernel⟩)⟩⟩⟩)⟩,
    Or.inr ⟨by unfold reservedForm; decide +kernel, Or.inr (Or.inr ⟨by decide +kernel, Or.inr ⟨by unfold paramOrFifo; decide +kernel, Or.inr ⟨by unfold permits; decide +kernel,
      Or.inr ⟨by unfold permits; decide +kernel, Or.inr ⟨rfl, Or.inr ⟨by decide +kernel, by decide +kernel, by decide +kernel, by decide +kernel⟩⟩⟩⟩⟩⟩)⟩,
    Or.inr ⟨by unfold reservedForm; decide +kernel, Or.inr (Or.inr ⟨by decide +kernel, Or.inr ⟨Or.inr (by unfold paramOrFifo; decide +kernel), Or.inr ⟨by unfold permits; decide +kernel,
      Or.inr (Or.inl ⟨by decide +kernel, rfl, Or.inl (by decide +kernel)⟩)⟩⟩⟩)⟩⟩

theorem met_raises_locks : raises (.bmovToBit 0 0x105 4 35) lockedOut { vec := 3, sub := 5, eaddr := some 0x105 } ∧
    raises (.bmovToBit 0 0x1FF 4 0) (withUmber { up1.umber with inFlight := 1 }) { vec := 3, sub := 1, eaddr := some 0x1FF } :=
  ⟨Or.inr ⟨by unfold reservedForm; decide +kernel, Or.inr (Or.inl ⟨by decide +kernel, Or.inr ⟨by unfold bitPermitted; decide +kernel,
      Or.inl ⟨by decide +kernel, by unfold mayClear; decide +kernel, rfl⟩⟩⟩)⟩,
    Or.inr ⟨by unfold reservedForm; decide +kernel, Or.inr (Or.inl ⟨by decide +kernel, Or.inr ⟨by unfold bitPermitted; decide +kernel,
      Or.inr ⟨by decide +kernel, by decide +kernel, by decide +kernel, by decide +kernel, rfl⟩⟩⟩)⟩⟩

theorem met_raises_pairs : raises (.ldd 0 4 0 1 0xFFF) up1 { vec := 6, eaddr := some 0xFFF } ∧ raises (.std 0 14 0 0 0) (at0 0x4101FE []) { vec := 6, eaddr := some 0x4101FE } :=
  ⟨Or.inr ⟨by unfold reservedForm; decide +kernel, Or.inr (Or.inr ⟨by decide +kernel, Or.inl ⟨Or.inl (by decide +kernel), by decide +kernel⟩⟩)⟩,
    Or.inr ⟨by unfold reservedForm; decide +kernel, Or.inr (Or.inr ⟨by decide +kernel, Or.inl ⟨Or.inr (Or.inl (by unfold paramOrFifo; decide +kernel)), by decide +kernel⟩⟩)⟩⟩

theorem met_raises_issues : up1.issues ∧ (withSr 0x020000).umberReady = true ∧ flag up1 25 = false ∧ flag up1 26 = false ∧
    (withSr 0x002110000).umberReady = true ∧ flag (withSr 0x002110000) 25 = true ∧ flag (withSr 0x002110000) 26 = false ∧ flag (withSr 0x004110000) 26 = true :=
  ⟨up1_issues, by decide +kernel⟩

/-- Umber at a boundary with source 31 pending, enabled and of level 7, IE set. -/
def pending31 : State := withUmber { up1.umber with sr := 0x310000, ipend := 0x80000000, ien := 0x80000000, ilvl1 := 7 <<< 30 }

theorem met_interrupts : pending31.umberRuns = true ∧ pending31.umber.slots = none ∧ pending31.umber.rpt = none ∧ pending31.umber.holds = false ∧
    pending31.umber.ieFence = false ∧ flag pending31 21 = true ∧ flag pending31 25 = false ∧ pending31.umber.nmiPend = false ∧ pending31.umber.ipend.getLsbD 31 = true ∧
    pending31.umber.ien.getLsbD 31 = true := by decide +kernel

/-- The same with an NMI condition pending. -/
def nmi31 : State := withUmber { pending31.umber with nmiPend := true }

theorem met_nmi : nmi31.umberRuns = true ∧ nmi31.umber.slots = none ∧ nmi31.umber.holds = false ∧ nmi31.umber.nmiPend = true ∧ flag nmi31 26 = false := by decide +kernel

theorem test_interrupt_entry : gives .interruptEntry pending31 (fun t => t.umber.pc == 188 && flag t 25 && !t.umber.ipend.getLsbD 31) = true := by decide +kernel

/-- An NMI comes before an interrupt (R179). -/
theorem test_nmi_first : idles .interruptEntry nmi31 = true ∧
    gives .nmiEntry nmi31 (fun t => t.umber.pc == 8 && flag t 26) = true := by decide +kernel

theorem met_returns : up1.issues ∧ condTrue 0 up1 = true ∧ flag up1 20 = true ∧ flag (withSr 0x004110000) 26 = true ∧ (withSr 0x004110000).umberReady = true :=
  ⟨up1_issues, by decide +kernel⟩




/-! ### Writes and reads of parameters -/

/-- Sepia's writes stand ready at their shells and are accepted. -/
def ready (s : State) (l : List (Nat × Word)) : Bool :=
  l.all (fun e => decide (arriving .sepia e.1 e.2 s = some sepiaAcc) && !s.holdsWrite sepiaAcc e.1 && s.writeRefusal sepiaAcc e.1 e.2 == 0)

/-- A channel that reads its code from code memory, 1,023 chips. -/
def upTrs : State := sets up [(P.CH_CODECFG + 64 * 47, 1 + 4 * 1023), (P.CH_CODECFG, 1 + 4 * 1023)]

theorem met_writes : ready upTrs [(P.TIME_INC, 0x14A61D149), (P.TIME_STEP, 5), (P.TIME_CTL, 1), (P.STRK_CTL + 112, 1), (P.STRK_CTL, 0), (P.PIER_SEC, 0x1FFFFFFFF), (P.PIER_CTL, 1),
    (P.PIER_PWRSTAT, 1), (P.PIER_SWCFG, 0), (P.MEM_ARCHCTL, 0x155), (P.MEM_INJECT, 0xFF), (P.DOM_REVOKE, 0x13), (P.DOM_LKVIEW, 1), (P.DMA_CTL + 240, 3), (P.DMA_CMD, 1),
    (P.RADIO_CMD, 10), (P.RADIO_FIFOCFG, 0x30000), (P.SYNTH_XOTRIM, 0xFF)] = true := by decide +kernel

theorem met_writes_regions : ready upTrs [(P.CH_CTL + 64 * 47, 1), (P.CH_CTL, 0), (P.TRS_CHSTARTLO, 0xFFFFFFFFF), (P.CH_CARRADJ, 5), (P.CH_CODEADJ, 5), (P.TRS_CMDATA, 5),
    (P.TRS_DUMPBASE, 5), (P.TRS_DUMPLEN, 5), (P.TRS_SCMD, 1), (P.CRYPT_CMD, 6), (P.RNG_CTL, 0), (P.LIFE_TRANS, 0xA55AFFFF), (P.LIFE_DBGCMD, 1), (P.MGMT_WDKICK, 0xC3A5),
    (P.HOST_DOOROUT, 0xFF), (P.POD_CMD, 5), (P.FACE_TXD, 5), (P.FACE_CMD, 2), (P.PWR_DVFS, 4), (P.PWR_ISLAND, 0xF), (P.DBG_CTL, 0x18), (P.SYS_ROLE, 0), (P.PWR_WAKEEN, 0x3F),
    (P.MPU_BASE + 0x2FF, 0xFF), (P.PIER_CTL, 0)] = true := by decide +kernel

/-- Umber's oldest write for a shell, behind one of another, and the host's. -/
theorem met_arriving : (let s := at0 0 [waits (.par 0x0300) 1 none, waits (.par 0x0B00) 2 none]; decide (arriving .umber 0x0B00 2 s = some { master := .umber, dom := 1, prv := true }) &&
    decide (arriving .umber 0x0300 1 s = some { master := .umber, dom := 1, prv := true })) = true ∧
    (let s := { up with host := { up.host with wq := [⟨.par 0x0300, 1, none, []⟩] } }; decide (arriving .host 0x0300 1 s = some { master := .host, dom := 1, prv := true })) = true :=
  by decide +kernel

/-- Writes that their shells decline: TIME.INC out of range, LIFE.TRANS without its key, OWNCMD in PRODUCTION, TXD with eight words waiting, TICK while the Pier runs. -/
theorem met_refusals : up.writeRefusal sepiaAcc P.TIME_INC 5 = 1 ∧ up.writeRefusal sepiaAcc P.LIFE_TRANS 0xFFF ≠ 0 ∧ up.writeRefusal sepiaAcc P.LIFE_OWNCMD 0xA55A ≠ 0 ∧
    { up with face := { up.face with fifo := List.replicate 8 0 } }.writeRefusal sepiaAcc P.FACE_TXD 1 = 2 ∧ up.writeRefusal sepiaAcc P.PIER_TICK_LO 1 = 2 ∧
    (sets up [(P.PIER_CTL, 1)]).writeRefusal sepiaAcc P.PIER_TICK_LO 1 = 0 ∧ (sets up [(P.PIER_STATUS, 8)]).locked = true ∧
    (sets up [(P.LIFE_STATE, 0x100FF)]).writeRefusal sepiaAcc P.LIFE_OWNCMD 0xA55A = 0 :=
  by decide +kernel

theorem met_refusals_trestle : up.writeRefusal sepiaAcc P.CH_CTL 1 = 2 ∧ (sets upTrs [(P.CH_CTL, 1), (P.TRS_CMADDR, 5)]).writeRefusal sepiaAcc P.TRS_CMDATA 1 = 2 ∧
    up.writeRefusal sepiaAcc P.CRYPT_IN 1 = 2 ∧ up.writeRefusal sepiaAcc P.POD_CMD 7 ≠ 0 := by decide +kernel

/-- Reads that their shells serve, of each master that reads. -/
theorem met_reads : ([P.TIME_NOWF, P.TIME_PIERCAP, P.TIME_PIERCAPT, P.PIER_TICK_LO, P.PIER_TICK_HI, P.CH_CODENOW, P.CRYPT_OUT, P.RNG_DATA, P.MGMT_EVFIFO, P.HOST_DOORIN] : List Nat).all
    (fun i => ([.sepia, .umber, .dma 15] : List Master).all (fun m => match reading m i (sets up [(P.DMA_CTL + 240, 1)]) with
      | some acc => !up.shellOff i && !up.foreign acc i
      | none => false)) = true := by decide +kernel

/-- Acknowledgements: an accepted entry and a refused one, each first of its island. -/
theorem met_acknowledgements : (let s := at0 0 [waits (.par 0x0300) 1 (some 0), waits (.par 0x0B00) 2 (some 1)]
    ([0, 1] : List Nat).all (fun k => match s.umber.pwq[k]? with
      | some w => w.latched.isSome && (s.umber.pwq.take k).all (fun e => decide (e.tgt.shell ≠ w.tgt.shell))
      | none => false)) = true := by decide +kernel

/-- The oldest one is a store of the extension space, refused by a shell. -/
theorem met_quietAcknowledgement : (at0 0 [{ waits (.par 0x0B00) 2 (some 1) with quiet := true }]).umber.pwq.head?.map (fun w => (w.quiet, w.latched)) = some (true, some 1) := by decide +kernel

/-- An accepted write of TIME.STEP or PIER.SEC is not acknowledged before the edge that applies it; one of TIME.INC is at once (R51). -/
theorem met_acknowledgementWaits : (let s := at0 0 [waits (.par (BitVec.ofNat 13 P.TIME_STEP)) 1 (some 0)]
    let stepping : State := { s with time := { s.time with steps := [5] } }
    let setting : State := { s with pier := { s.pier with secPend := some 5 } }
    effectWaits P.TIME_STEP stepping ∧ effectWaits P.PIER_SEC setting ∧ ¬ effectWaits P.TIME_INC stepping ∧ ¬ effectWaits P.TIME_STEP s) :=
  ⟨Or.inl ⟨by decide +kernel, Or.inl ⟨rfl, by decide +kernel⟩⟩, Or.inr ⟨by decide +kernel, Or.inl ⟨rfl, by decide +kernel⟩⟩, by unfold effectWaits; decide +kernel,
    by unfold effectWaits; decide +kernel⟩

/-- Such an entry stays while its effect waits, and goes once it has landed. -/
theorem test_ack_waits : (let s := at0 0 [waits (.par (BitVec.ofNat 13 P.TIME_STEP)) 5 (some 0)]
    idles (.paramWriteAck 0) { s with time := { s.time with steps := [5] } } && gives (.paramWriteAck 0) s (fun t => decide (t.umber.pwq = []))) = true := by decide +kernel

/-! ### Store time and strikes -/

theorem met_loadAtEdge : ∃ l : PendLoad, l.taken = true ∧ l.onTick = true ∧ l.examined = false ∧ l.atTick ≠ up.pier.tick.extractLsb' 0 16 ∧
    32768 < (l.atTick - up.pier.tick.extractLsb' 0 16).toNat ∧ bit up P.PIER_STATUS 0 = false :=
  ⟨{ taken := true, examined := false, value := 0, atTick := 0xFFFF, onTick := true }, rfl, rfl, rfl, by decide +kernel⟩

theorem met_storeTime : up.refRuns = true ∧ up.time.steps = [] ∧ up.time.load = none ∧ (sets up [(P.PWR_STATUS, 0)]).refRuns = false ∧ up.crystalRuns = true ∧
    bit up P.PIER_STATUS 0 = false ∧ up.pier.secPend = none ∧ bit up P.PIER_CTL 0 = false ∧ up.pier.winNext.toNat % 1024 ≠ 1023 ∧ bit (sets up [(P.TIME_CTL, 2)]) P.TIME_CTL 1 = true :=
  by decide +kernel

theorem met_arming : still up 7 ∧ up.armed 7 = false ∧ up.time.armPend = [] ∧ up.time.chainPend = [] ∧ armable (sets up [(P.STRK_PSEC + 112, 1)]) 7 true ∧
    (up.par (ofUnit P.STRK_RACT 7)).extractLsb' 0 2 ≠ 3 ∧ ((up.par (ofUnit P.STRK_RACT 7)).extractLsb' 2 6).toNat < 40 ∧
    ¬ armable (sets up [(P.STRK_RACT + 112, 3)]) 7 false :=
  ⟨Or.inl (by decide +kernel), by decide +kernel, by decide +kernel, by decide +kernel, ⟨by decide +kernel, by decide +kernel, fun _ => by decide +kernel⟩, by decide +kernel, by decide +kernel, fun h => absurd h.1 (by decide +kernel)⟩

/-- Strike 7 is armed for the cycle that the next edge starts. -/
def due : State :=
  let s := sets up [(P.STRK_CTL + 112, 1), (P.STRK_TGT + 112, 0x10), (P.STRK_NSEC + 112, 0), (P.STRK_NFRAC + 112, 40)]
  { s with time := { s.time with strikes := s.time.strikes.set 7 { armedAt := none, fired := 0, unlimited := false }, acc := (40 <<< 28) - 0x14A61D149 } }

theorem met_strikes : due.armed 7 = true ∧ bit due (ofUnit P.STRK_CTL 7) 1 = false ∧ inCycle due (pair32 due (ofUnit P.STRK_NSEC 7) (ofUnit P.STRK_NFRAC 7)) ∧ bit due P.TIME_STATUS 0 = true ∧
    (due.par (ofUnit P.STRK_TGT 7)).extractLsb' 0 6 = 0x10#6 :=
  ⟨by decide +kernel, by decide +kernel, by unfold inCycle; decide +kernel, by decide +kernel, by decide +kernel⟩

theorem test_strike_fires : gives (.strikeFire 7) due (fun t => t.time.signals.length == 1 && !t.armed 7 && bit t (P.STRK_STATUS + 112) 0) = true := by decide +kernel

theorem met_pulseEnd : (let s := { up with time := { up.time with pulses := [{ pin := 3, at' := 0x14A61D149 }] } }
    decide (s.time.pulses.tail = []) && (s.time.pulses.head?.map (fun p => (p.at'.extractLsb' 28 64 - edgeTime s 2).msb) == some true)) = true ∧
    bit (sets up [(P.TIME_STATUS, 0)]) P.TIME_STATUS 0 = false := by decide +kernel

/-- An interrupt and an epoch latch are under way, and an event waits for Sepia. -/
def signalling : State :=
  { up with time := { up.time with signals := [{ unit := 7, sent := 0, dma := none }, { unit := 7, sent := 0, dma := some 0 }],
                                   epochs := [{ edge := 1, time := some 5 }], sepiaEvs := [9] } }

theorem met_signals : (signalling.time.signals.head?.map (·.dma)) = some none ∧ (signalling.time.epochs.head?.map (·.time)) = some (some 5) ∧
    signalling.time.sepiaEvs ≠ [] ∧ nothingAbove 2 signalling ∧
    (sets signalling [(P.PWR_ISLAND, 0xE)]).trsRuns = false := ⟨rfl, rfl, by decide +kernel, by unfold nothingAbove; decide +kernel, by decide +kernel⟩

theorem test_signals_arrive : (match step { signalling with umber := { up.umber with run := .gated } } with | .next t => t.umber.ipend.getLsbD 7 | _ => false) = true := by decide +kernel

theorem met_strikeTargets : (sets up [(P.RADIO_STATE, 0)]).radioPowered = false ∧ up.radioState = 2 ∧ up.radio.trans = none ∧ up.radio.lockWait = none ∧ up.radioFault = false ∧
    (sets up [(P.PWR_ISLAND, 0xE)]).trsRuns = false ∧ bit up P.MGMT_EVCFG 16 = false ∧ bit up P.MGMT_EVCFG 17 = false :=
  by decide +kernel

/-! ### Pier -/

theorem met_pierEdges : (let a : State := { up with pier := { up.pier with winNext := 5 } }
    let b : State := { (sets up [(P.PIER_TRIM, 0x1FF00000)]) with pier := { up.pier with winNext := 1023, trimAcc := 1023 } }
    let c : State := { a with pier := { a.pier with alarms := a.pier.alarms.set 1 { value := 1, mask := 0, en := true } } }
    !trimDue a && decide (a.pier.winNext ≠ 0) && decide (up.pier.winNext = 0) && trimDue b && decide (b.pier.winNext ≠ 0) && a.crystalRuns && b.crystalRuns &&
      decide ((c.pier.alarms[(1 : Fin 2)]).value = c.pier.tick + 1) && decide (c.pier.ackPend = false)) = true := by decide +kernel

theorem none_granted : ∀ i : Fin 8, up.life.grants[i] = none := by decide +kernel

theorem met_pierSupplies : plainEdge { up with pier := { up.pier with winNext := 5 } } ∧ onVdd up ∧ wellAbove 1 { vdd := 1866, vbk := 0, band := 0 } ∧ steady up ∧
    level 1 { vdd := 1784, vbk := 0, band := 0 } 60 100 = 1800 ∧ level 0 { vdd := 0, vbk := 2000, band := 0 } 60 100 = 2060 :=
  ⟨⟨by decide +kernel, by decide +kernel, by decide +kernel⟩, ⟨by decide +kernel, by decide +kernel⟩, by unfold wellAbove; decide +kernel,
    ⟨⟨by decide +kernel, by decide +kernel⟩, by unfold wellAbove; decide +kernel, fun _ i _ granted => by have := none_granted i; simp_all⟩, by decide +kernel, by decide +kernel⟩

/-- A stopped crystal, VDD just below and above the release point of 1.85 V, and the count at its last tick. -/
theorem met_pierRelease : (sets up [(P.PIER_STATUS, 4)]).crystalRuns = false ∧ bit (sets up [(P.PIER_STATUS, 8)]) P.PIER_STATUS 3 = true ∧
    level ((up.par P.PIER_SWCFG).extractLsb' 0 5) { vdd := 1834, vbk := 3000, band := 0 } 110 150 = 1850 ∧ wellAbove ((up.par P.PIER_SWCFG).extractLsb' 0 5) { vdd := 1866, vbk := 3000, band := 0 } ∧
    (64 : BitVec 7).toNat < 65 ∧ level 1 { vdd := 3000, vbk := 3000, band := 0 } 40 100 + 15 < 3000 ∧
    level 1 { vdd := 1780, vbk := 0, band := 0 } (-40) 0 + 15 < 1780 ∧ 1780 + 15 < level 1 { vdd := 1780, vbk := 0, band := 0 } 60 100 :=
  ⟨by decide +kernel, by decide +kernel, by decide +kernel, by unfold wellAbove; decide +kernel, by decide +kernel⟩

/-- VDD at 1.78 V lies below the trip point of 1.80 V and above the falling threshold of 1.70 V: lockout trips, and the supply stays. -/
theorem test_lockout_trip : gives (.supplyToVbk { vdd := 1780, vbk := 3000, band := 0 }) up (fun t => bit t P.PIER_STATUS 3 && !bit t P.PIER_STATUS 4) = true := by
  decide +kernel

/-- Inside the band of 15 mV about the trip point the comparator decides. -/
theorem test_trip_band : gives (.supplyToVbk { vdd := 1790, vbk := 3000, band := 1 }) up (fun t => !bit t P.PIER_STATUS 3) = true ∧
    gives (.supplyToVbk { vdd := 1790, vbk := 3000, band := 0 }) up (fun t => bit t P.PIER_STATUS 3) = true := by decide +kernel

/-- Under lockout the supply moves to VBK; one of 1.3 V browns the Pier out. -/
theorem test_supply_moves : gives (.supplyToVbk { vdd := 1680, vbk := 3000, band := 0 }) (sets up [(P.PIER_STATUS, 8)]) (fun t => bit t P.PIER_STATUS 4 && !bit t P.PIER_STATUS 5) = true ∧
    gives (.supplyToVbk { vdd := 1680, vbk := 1300, band := 0 }) (sets up [(P.PIER_STATUS, 8)]) (fun t => !t.pwr.pierOn) = true := by decide +kernel

/-- The 66th tick above the release point releases lockout. -/
theorem test_release_count : gives .pierTickEdge { (sets up [(P.PIER_STATUS, 8)]) with pier := { up.pier with above := 65 } }
    (fun t => !bit t P.PIER_STATUS 3) = true ∧
    gives .pierTickEdge { (sets up [(P.PIER_STATUS, 8)]) with pier := { up.pier with above := 64 } } (fun t => bit t P.PIER_STATUS 3) = true :=
  by decide +kernel

theorem met_pierEvents : up.pwr.pierOn = true ∧ bit up P.PIER_STATUS 2 = false ∧ bit (sets up [(P.PIER_STATUS, 4)]) P.PIER_STATUS 2 = true ∧ bit up P.PIER_STATUS 3 = false ∧
    bit (sets up [(P.PIER_STATUS, 8)]) P.PIER_STATUS 3 = true ∧ bit (sets up [(P.PIER_STATUS, 0x18)]) P.PIER_STATUS 4 = true :=
  by decide +kernel

/-- VDD on its way down: the level that LOCKOUT_TRIP brings lies between the trip point and the falling threshold. -/
theorem met_lockoutTrip : up.pwr.pierOn = true ∧ onVdd up ∧ bit (sets up [(P.PIER_STATUS, 0x10)]) P.PIER_STATUS 3 = false := ⟨by decide +kernel, by unfold onVdd; decide +kernel, by decide +kernel⟩

theorem met_shadowRelease : (let s := { up with pier := { up.pier with sepiaShadow := { frozen := true, value := 5, strobes := 2, stale := false } } }
    (shadowOf .sepia s).frozen && decide (2 ≤ (shadowOf .sepia s).strobes.toNat)) = true := by decide +kernel

/-- A certificate bound to time has granted rights when the crystal fails. -/
theorem met_boundGrant : (let s : State := { up with life := { up.life with grants := up.life.grants.set 7 (some { rights := 0xFF, timeBound := true, notAfter := 5 }) } }
    s.pwr.pierOn && s.vddRuns && !bit s P.PIER_STATUS 2 && decide ((s.life.grants[(7 : Fin 8)]).map (·.timeBound) = some true)) = true := by decide +kernel

/-! ### Memories -/

/-- A store waits in the buffer. -/
def stored (mask : BitVec 4) : State := withUmber { up.umber with sb := [{ addr := 0x3FFFF, mask := mask, data := 0x5 }] }

theorem met_drains : headIs (stored 15) true ∧ headIs (stored 1) false ∧ (stored 1).poisoned 0x3FFFF = false ∧ (readable ((stored 1).sramCell 0x3FFFF)).isSome = true ∧
    (stored 1).vddRuns = true := ⟨⟨_, rfl, rfl⟩, ⟨_, rfl, by decide⟩, by decide +kernel, by decide +kernel, by decide +kernel⟩

theorem met_scrubs : (let s := { (sets up [(P.MEM_SCRUBCFG, 1), (P.MEM_SCRUBPOS, 0x3FFFF)]) with mem := { up.mem with wbacks := [{ tile := false, addr := 0x3FFFF, finder := 1 }] } }
    s.awake && bit s P.MEM_SCRUBCFG 0 && (s.par P.MEM_SCRUBPOS).extractLsb' 0 18 == (0x3FFFF : BitVec 18) && s.archState 3 == 2 && !s.poisoned 0x3FFFF &&
      (readable (s.sramCell 0x3FFFF)).isSome) = true := by decide +kernel

theorem met_arches : ([(5, 0, 0), (3, 0x55, 0), (3, 0xAA, 0xF), (1, 0, 0)] : List (Nat × Nat × Nat)).all (fun e =>
    let s0 := sets up [(P.MEM_ARCHSTAT, BitVec.ofNat 36 (e.1 * 0x1249)), (P.MEM_ARCHCTL, BitVec.ofNat 36 e.2.1)]
    let s := { s0 with mem := { s0.mem with toOff := BitVec.ofNat 5 e.2.2 } }
    s.awake && (s.archState 3).toNat == e.1 && (s.archWant 3).toNat == e.2.1 % 4 && s.mem.toOff.getLsbD 3 == decide (e.2.2 = 0xF)) = true := by decide +kernel

/-- A request of two words waits in the NVM write queue. -/
def queued (n : BitVec 13) : State :=
  { up with mgmt := { up.mgmt with nvmQ := [{ ticket := 3, dom := 1, dest := 0x206000, data := [5, 6], done := n, bad := false }] } }

theorem met_nvmWrites : nothingAbove 5 (queued 1) ∧ (queued 1).vddRuns = true ∧
    nvmHead (queued 1) (fun r => dataWordDue r ∧ SMap.getD (queued 1).mem.defects (r.dest + r.done.setWidth 24).toNat 0 = 0) :=
  ⟨by unfold nothingAbove; decide +kernel, by decide +kernel, _, rfl, by unfold dataWordDue; decide +kernel⟩

/-- The same of a program slot: the second word of its request, and one that a write failure aborts. -/
def queuedProgram : State :=
  { up with mgmt := { up.mgmt with nvmQ := [{ ticket := 3, dom := 1, dest := 0x318000, data := [5, 6], done := 1, bad := false }] } }

theorem met_programWrites : nothingAbove 5 queuedProgram ∧ queuedProgram.vddRuns = true ∧
    nvmHead queuedProgram (fun r => programWordDue r ∧ queuedProgram.hasSeal (nvmSlot r.dest) = false ∧ SMap.getD queuedProgram.mem.defects (r.dest + r.done.setWidth 24).toNat 0 = 0) ∧
    nvmHead queuedProgram (fun r => nvmPart r.dest = 1 ∨ nvmPart r.dest = 2) :=
  ⟨by unfold nothingAbove; decide +kernel, by decide +kernel, ⟨_, rfl, by unfold programWordDue; decide +kernel⟩, _, rfl, by decide +kernel⟩

/-- A reservation in the arch that is initialised goes, one elsewhere stays. -/
theorem met_reservations : resvOutside (withUmber { up.umber with resv := some (0x30000, 1) }) 3 = none ∧
    resvOutside (withUmber { up.umber with resv := some (0x2FFFF, 1) }) 3 = some (0x2FFFF, 1) := by decide +kernel

theorem test_nvm_verify : gives (.nvmWordWrite 1) (queued 1) (fun t => bit t P.MEM_NVMSTAT 4 && decide (t.mgmt.nvmQ = []) && (t.par P.MGMT_NVMQSTAT).extractLsb' 28 3 == 6) = true ∧
    gives (.nvmWordWrite 0) (queued 0) (fun t => readable (t.dnvmCell 0x6000) == some 5 && t.mgmt.nvmQ.length == 1) = true := by decide +kernel




/-! ### Domains and DMA -/

/-- Channel 15 of domain 1 with the descriptor of a copy of `n` words from 0x1000 to 0x2000. -/
def copies16 (st : Word) (n : Word) : State :=
  sets up [(P.DMA_CTL + 240, 1), (P.DMA_STATUS + 240, st), (P.DMA_DESC0 + 240, 2), (P.DMA_DESC0 + 241, 0x1000), (P.DMA_DESC0 + 242, 0x2000), (P.DMA_DESC0 + 243, n)]

theorem met_revocation : (∃ r, ({ up with rev := some { dom := 2, byKernel := true, channels := 0, lockCount := 0, resv := false, cipherAck := true } } : State).rev = some r ∧
    r.dom ≠ 1 ∧ r.cipherAck = true) ∧ ∀ ch : Fin 16, (up.dma[ch]).revoked = true → up.dmaState ch ≠ 4 := ⟨⟨_, rfl, by decide, rfl⟩, by decide +kernel⟩

theorem met_dmaCommands : (copies16 0 3).dmaState 15 = 0 ∧ descGood (paramDescOf (copies16 0 3) 15) ∧ ¬ descGood (paramDescOf (copies16 0 0) 15) ∧ (copies16 3 3).dmaState 15 = 3 :=
  ⟨by decide +kernel, by unfold descGood; decide +kernel, by unfold descGood; decide +kernel, by decide +kernel⟩

theorem test_dma_start : gives (.dmaStart .sepia 15 1) (copies16 0 3) (fun t => t.dmaState 15 == 1) = true := by decide +kernel

/-- The same channel at its first element, in a phase. -/
def moving (ph : DmaPhase) : State :=
  let s := copies16 1 3
  { s with dma := s.dma.set 15 { s.dma[15] with desc := #v[2, 0x1000, 0x2000, 3, 0, 0, 0], phase := ph } }

theorem met_dmaAccesses : (([.source, .dest] : List DmaPhase).all (fun ph => let s := moving ph
    s.awake && (List.finRange 16).all (fun x => decide (s.dmaState x = 1) == decide (x = 15)) && decide ((s.dma[(15 : Fin 16)]).phase = ph) &&
      (s.dma[(15 : Fin 16)]).elemAddr (decide (ph = .dest)) == (if ph = .dest then 0x2000 else 0x1000))) = true := by decide +kernel

/-- A start of channel 15 by strike 3 is under way, behind an interrupt of the same strike. -/
def striking (g : List StrikeSig) : State :=
  let s := sets (copies16 0 3) [(P.DMA_CTL + 240, 0x341)]
  { s with time := { s.time with signals := g } }

theorem met_dmaStrikes : (let s := striking [{ unit := 3, sent := 0, dma := some 0x8000 }]
    decide ((s.time.signals.head?).bind (·.dma) = some (1#16 <<< 15)) && trig s 15 == 1 && (s.par (ofCh P.DMA_CTL 15)).extractLsb' 8 3 == 3 && s.dmaState 15 == 0) = true ∧
    descGood (paramDescOf (striking []) 15) ∧ (sets up [(P.DMA_STATUS + 240, 4)]).dmaState 15 = 4 := ⟨by decide +kernel, by unfold descGood; decide +kernel, by decide +kernel⟩

/-- The signals keep their order: the interrupt has arrived when the start is made. -/
theorem test_dma_strike : gives .dmaStrikeStart (striking [{ unit := 3, sent := 0, dma := none }, { unit := 3, sent := 0, dma := some 0x8000 }])
    (fun t => t.dmaState 15 == 1 && t.umber.ipend.getLsbD 3 && decide (t.time.signals = [])) = true := by decide +kernel

theorem met_dmaWords : (moving .source).regionFail ((moving .source).dmaAcc 15) spData 0x1000 .r = none ∧ (moving .dest).regionFail ((moving .dest).dmaAcc 15) spData 0x2000 .w = none ∧
    (moving .source).regionFail ((moving .source).dmaAcc 15) spData 0x3FFFFF .r ≠ none := by decide +kernel

theorem test_dma_element : gives .dmaElement (withSram [(0x1000, 0x123)] (moving .source)) (fun t => (t.dma[(15 : Fin 16)]).kept.1 == 0x123) = true := by decide +kernel

theorem met_dmaAlone : alone (moving .source) 15 ∧ noReply (moving .source) ∧ wordOk (moving .source) 15 .r 0x1000 ∧ wordOk (moving .dest) 15 .w 0x2000 :=
  ⟨⟨by decide +kernel, by decide +kernel, by decide +kernel⟩, by unfold noReply; decide +kernel, by unfold wordOk; decide +kernel, by unfold wordOk; decide +kernel⟩

/-- The channel reads parameter 0x0013, which the map does not populate; its access has been sent, and it aborts. -/
def acrossing (sent : Bool) (st : Word) : State :=
  let s := sets (moving .source) [(P.DMA_STATUS + 240, st)]
  { s with dma := s.dma.set 15 { s.dma[15] with desc := #v[2, 0x400013, 0x2000, 3, 0, 0, 0], sent := sent } }

theorem met_dmaCrossing : crossing (acrossing false 1) 15 0x0013 ∧ populated 0x0013 = false ∧ alone (acrossing false 1) 15 ∧ (acrossing true 4).dmaState 15 = 4 ∧
    ((acrossing true 4).dma[(15 : Fin 16)]).sent = true ∧
    (acrossing false 1).regionFail ((acrossing false 1).dmaAcc 15) spData (0x400000 + (0x0013 : BitVec 13).setWidth 24) .r = none :=
  ⟨by unfold crossing; decide +kernel, by decide +kernel, ⟨by decide +kernel, by decide +kernel, by decide +kernel⟩, by decide +kernel, by decide +kernel, by decide +kernel⟩

theorem test_dma_sent : gives .dmaElement (acrossing false 1) (fun t => (t.dma[(15 : Fin 16)]).sent) = true ∧
    (fun t : State => !(t.dma[(15 : Fin 16)]).sent && bit t (P.DMA_STATUS + 240) 11 && t.dmaState 15 == 4)
      (Sys2Proof.Machine.dmaElement 0x8000 (acrossing true 4)) = true := by decide +kernel

/-- The channel's abort came with its last element made, and LAST is 1. -/
def ended : State :=
  let s := copies16 3 3
  { s with dma := s.dma.set 15 { s.dma[15] with desc := #v[0x12, 0x1000, 0x2000, 3, 0, 0, 0], phase := .source, elem := (s.dma[15]).icnt } }

theorem met_dmaResumeEnd : ended.dmaState 15 = 3 ∧ pastEnd { ended with dma := ended.dma.set 15 { ended.dma[15] with elem := (ended.dma[15]).icnt } } 15 = true ∧
    ((ended.dma[(15 : Fin 16)]).desc[0]).getLsbD 4 = true ∧ pastEnd (moving .dest) 15 = false := by decide +kernel

/-- A doubleword at its first access, and at its second. -/
def doubling (h : Option Word) : State :=
  let s := moving .source
  { s with dma := s.dma.set 15 { s.dma[15] with desc := #v[3, 0x1000, 0x2000, 3, 0, 0, 0], half := h } }

theorem met_doublewords : doublewordAt (doubling none) 15 0x1000 ∧ doublewordAt (doubling (some 5)) 15 0x1000 ∧ wordOk (doubling none) 15 .r 0x1000 ∧
    (doubling none).regionFail ((doubling none).dmaAcc 15) spData 0x1001 .r = none :=
  ⟨⟨by decide +kernel, by unfold noReply; decide +kernel, ⟨by decide +kernel, by decide +kernel, by decide +kernel⟩, by decide +kernel⟩,
   ⟨by decide +kernel, by unfold noReply; decide +kernel, ⟨by decide +kernel, by decide +kernel, by decide +kernel⟩, by decide +kernel⟩, by unfold wordOk; decide +kernel, by decide +kernel⟩

theorem test_doubleword : gives .dmaElement (withSram [(0x1000, 0x123)] (doubling none)) (fun t => (t.dma[(15 : Fin 16)]).half == some 0x123) = true := by decide +kernel

/-- Channel 14 aborts too, and its access went into the same crossing behind that of channel 15. -/
def behind15 : State :=
  let s := sets (acrossing true 4) [(P.DMA_STATUS + 224, 4)]
  { s with dma := s.dma.set 14 { s.dma[14] with phase := .source, desc := #v[2, 0x400013, 0x2000, 3, 0, 0, 0], sent := true, ahead := 0x8000 } }

theorem met_dmaOrder : behind15.awake = true ∧ (∀ y : Fin 16, y ≠ 14 → y ≠ 15 → (behind15.dma[y]).sent = false ∧ behind15.dmaState y ≠ 1) ∧ behind15.dmaState 15 = 4 ∧
    (behind15.dma[(15 : Fin 16)]).sent = true ∧ (behind15.dma[(15 : Fin 16)]).ahead = 0 ∧ (behind15.dma[(14 : Fin 16)]).sent = true ∧ (behind15.dma[(14 : Fin 16)]).ahead = 1#16 <<< 15 := by
  decide +kernel

theorem test_dma_order : (fun t : State => !(t.dma[(15 : Fin 16)]).sent && (t.dma[(14 : Fin 16)]).sent && (t.dma[(14 : Fin 16)]).ahead == 0)
    (Sys2Proof.Machine.dmaElement 0x8000 behind15) = true := by decide +kernel

/-- A chained channel starts on its parameter descriptor. -/
theorem met_paramDescriptor : (let s := moving .descriptor
    let t : State := { s with dma := s.dma.set 15 { s.dma[15] with param := true } }
    t.awake && decide ((t.dma[(15 : Fin 16)]).phase = .descriptor) && (t.dma[(15 : Fin 16)]).param && decide (t.dmaState 15 = 1) && !(t.dma[(15 : Fin 16)]).sent) = true ∧
    descGood (paramDescOf (moving .descriptor) 15) := ⟨by decide +kernel, by unfold descGood; decide +kernel⟩

theorem met_dmaRequests : up.lineLevel 15 = false := by decide +kernel

/-- Seven words of a descriptor at 0x1000. -/
def fetching : State :=
  let s := withSram [(0x1000, 2), (0x1001, 0x1000), (0x1002, 0x2000), (0x1003, 3)] (sets (moving .descriptor) [(P.DMA_DPTR + 240, 0x1000)])
  { s with dma := s.dma.set 15 { s.dma[15] with words := 6, param := false } }

theorem met_dmaDescriptorLoad : (List.range 7).all (fun k => let a : Addr := 0x1000 + BitVec.ofNat 24 k
    decide (fetching.regionFail (fetching.dmaAcc 15) spData a .r = none) && !fetching.poisoned (a.extractLsb' 0 18) &&
      decide (eccRead (fetching.sramCell (a.extractLsb' 0 18)) = .good ((fetching.sramCell (a.extractLsb' 0 18)).extractLsb' 0 36))) = true := by decide +kernel

theorem met_dmaLoading : loading fetching 15 0x1000 ∧ (fetching.dma[(15 : Fin 16)]).words = 6 :=
  ⟨⟨by decide +kernel, ⟨by decide +kernel, by decide +kernel, by decide +kernel⟩, by decide +kernel, by decide +kernel, by decide +kernel, by decide, by unfold wordOk; decide +kernel,
    by decide +kernel, by decide +kernel⟩, by decide +kernel⟩

/-- The seventh word of the descriptor starts the first element. -/
theorem test_dma_descriptor : gives (.dmaDescriptorLoad 15) fetching (fun t => decide ((t.dma[(15 : Fin 16)]).phase = .source) && t.dmaState 15 == 1) = true := by decide +kernel

/-! ### Power -/

theorem met_clocks : (let s := sets up [(P.PWR_STATUS, 0)]; s.awake && bit s P.PWR_CLKCTL 0 && !bit s P.PWR_STATUS 3 && !s.pwr.exiting) = true ∧
    (let s := sets up [(P.PWR_STATUS, 8)]; bit s P.PWR_STATUS 3 && !bit s P.PWR_STATUS 4) = true ∧
    (let s := { up with pwr := { up.pwr with relock := true } }; s.pwr.relock && bit s P.PWR_STATUS 3) = true ∧ bit (sets up [(P.PWR_DVFS, 0xC)]) P.PWR_DVFS 3 = true :=
  by decide +kernel

/-- REF about to lock with requests latched, and a loss behind them. -/
def locking (r : List RadioLate) (t : List TrsReq) (lost : Bool) : State :=
  let s := sets upTrs [(P.PWR_STATUS, 8)]
  { s with radio := { s.radio with late := r }, trs := { s.trs with late := t, refLost := lost } }

theorem met_requestsAct : refLocks (locking [.push 7, .flush true false, .push 8] [.code 0xFFF 5] true) ∧ (locking [.push 7] [] false).radio.lockWait = none ∧
    (∀ r ∈ (locking [.push 7] [] false).radio.late, ∀ c k, r ≠ .cmd c k) ∧ (locking [.push 7, .cmd 3 4] [] false).radio.late.getLast? = some (.cmd 3 4) ∧
    Claims.code (locking [.cmd 3 0, .cmd 4 0] [] false) = 2 ∧ bit (locking [.cmd 3 0, .cmd 4 0] [] false) P.RADIO_STATE 6 = false ∧
    (∀ r ∈ (locking [] [.enable 47 false true] false).trs.late, ∀ a b, r ≠ .start a b) :=
  ⟨⟨by decide +kernel, by decide +kernel, by decide +kernel, by decide +kernel⟩, rfl, fun r h c k => by rw [List.mem_singleton.mp h]; exact RadioLate.noConfusion, rfl,
    by decide +kernel, by decide +kernel, fun r h a b => by rw [List.mem_singleton.mp h]; exact TrsReq.noConfusion⟩

/-- They act in their order: a word behind a flush stays; RX behind TX is refused; a channel enabled before REF was ever lost starts. -/
theorem test_requests_act : gives .refPllLock (locking [.push 7, .flush true false, .push 8] [] false) (fun t => decide (t.radio.txFifo = [8]) && decide (t.radio.late = [])) = true ∧
    gives .refPllLock (locking [.cmd 4 0, .cmd 3 0] [] false) (fun t => Claims.code t == 6 && bit t P.RADIO_STATUS 0) = true ∧
    gives .refPllLock (locking [] [.code 0xFFF 5, .enable 47 false true] false) (fun t => enabled t 47 && SMap.getD t.trs.codeMem 0xFFF 0 == 5) = true := by decide +kernel

theorem test_ref_pll_lock : gives .refPllLock (sets up [(P.PWR_STATUS, 8)]) (fun t => bit t P.PWR_STATUS 4 && t.time.acc == 0 && t.refRuns) = true := by decide +kernel

theorem met_l1Path : (let s := { (sets up [(P.SYNTH_GSTAT, 1)]) with pwr := { up.pwr with package := .ab } }
    decide (s.pwr.package = .ab) && bit s P.PWR_ISLAND 2 && s.refRuns && !s.pwr.gLost && !bit s P.PWR_STATUS 6 && bit s P.SYNTH_GSTAT 0) = true := by decide +kernel

/-- A mode with alarm 0 pending and enabled. -/
def asleep (m : OpMode) : State := { (sets up [(P.PWR_WAKEEN, 1), (P.PIER_STATUS, 0x80)]) with pwr := { up.pwr with mode := m } }

theorem met_ends : ends 2 0 (asleep .retain) = true ∧ ends 1 0 (sets (asleep .doze) [(P.PIER_STATUS, 0x84)]) = true ∧
    ends 2 3 (sets (asleep .retain) [(P.PIER_STATUS, 4)]) = false := by decide +kernel

theorem met_wakeAccepts : wakes 3 0 (asleep .halt) = true ∧ wakes 2 0 (asleep .retain) = true ∧ wakes 1 0 (asleep .doze) = true ∧ wakes 0 0 (asleep .pier) = true ∧
    (asleep .pier).pwr.vddOk = true ∧ (asleep .pier).pwr.exiting = false := by decide +kernel

/-- STOP for a mode, with ALM0 enabled. -/
def stopping (target : Word) (alm : Word) : State := sets up [(P.PWR_MODE, target), (P.PWR_WAKEEN, 1), (P.PIER_STATUS, alm), (P.RADIO_STATE, 1)]

theorem met_stops : stopReady 0 (stopping 2 0) :=
  ⟨issues_of (by decide +kernel), by decide +kernel⟩

theorem met_stops_targets : stopTarget (stopping 3 0) = 3 ∧ stopTarget (stopping 0 0) = 0 ∧ wakes 2 0 (stopping 2 0x80) = true ∧
    (List.range 6).all (fun k => !wakes 2 k (stopping 2 0)) = true ∧ (List.finRange 16).all (fun ch => (stopping 2 0).dmaState ch == 0) = true ∧ Claims.code (stopping 2 0) = 1 :=
  by decide +kernel

theorem test_stop_retain : gives (.stop 0) (stopping 2 0) (fun t => decide (t.pwr.mode = .retain)) = true := by decide +kernel

theorem test_stop_halt : gives (.stop 0) (stopping 3 0) (fun t => decide (t.pwr.mode = .halt) && decide (t.umber.run = .gated)) = true := by decide +kernel

/-- Cause 1: a source is pending; 4: none is enabled; 3: the radio is above STANDBY; 2: a DMA channel is not IDLE (Table ISL-17). -/
theorem test_stop_abandoned : (([(stopping 2 0x80, 1), (sets (stopping 2 0) [(P.PWR_WAKEEN, 0)], 4), (sets (stopping 2 0) [(P.RADIO_STATE, 5)], 3),
    (sets (stopping 2 0) [(P.DMA_STATUS, 1)], 2)] : List (State × Nat)).all (fun e =>
      gives (.stop 0) e.1 (fun t => bit t P.PWR_STATUS 8 && ((t.par P.PWR_STATUS).extractLsb' 9 3).toNat == e.2 && t.umber.pc == 0x101))) = true := by decide +kernel

theorem met_boots : State.reset.pwr.mode = .reset ∧ State.reset.pwr.vddOk = true ∧ State.reset.pwr.pierOn = true ∧ State.reset.pwr.rstLow = false ∧
    (lifeStateWord State.reset.life.fuses.copies).extractLsb' 16 2 ≠ 3 ∧ State.reset.pwr.exiting = false ∧ State.reset.umber.run = .inReset := by decide +kernel

theorem met_supplies : ({ up with pwr := { up.pwr with pierOn := false } } : State).pwr.pierOn = false ∧ ({ up with pwr := { up.pwr with vddOk := false } } : State).pwr.vddOk = false ∧
    up.pwr.rstLow = false ∧ up.fuseBusy = false ∧ (sets up [(P.LIFE_TSTAT, 1)]).fuseBusy = true ∧ ({ up with pwr := { up.pwr with umberRst := some 18 } } : State).pwr.umberRst = some 18 :=
  ⟨rfl, rfl, by decide +kernel, by decide +kernel, by decide +kernel, rfl⟩

/-- VDD known to lie below its release point, as it rises; and the part in END OF LIFE. -/
theorem met_rises : (let s : State := { up with pwr := { up.pwr with vddOk := false }, pier := { up.pier with sup := { vdd := 500, vbk := 3000, band := 0 } } }
    !s.pwr.vddOk && s.pwr.pierOn && decide (s.pier.sup.vdd.toNat < 1670) && decide (1470 < s.pier.sup.vbk.toNat)) = true ∧ up.lifeState ≠ 3 ∧
    (sets up [(P.LIFE_STATE, 0x3FFFF)]).lifeState = 3 ∧ (sets up [(P.LIFE_STATE, 0x3FFFF)]).awake = true := by decide +kernel

/-- Domain 1 revoked: its keys are refused (R641). -/
theorem met_umberResetRevoked : (let s : State := { (sets up [(P.CRYPT_KREFUSE, 2)]) with pwr := { up.pwr with umberRst := some 16 } }
    s.awake && !s.fuseBusy && bit s P.CRYPT_KREFUSE 1 && s.pwr.umberRst.isSome) = true ∧ bit up P.CRYPT_KREFUSE 1 = false := by decide +kernel

/-- A synthesiser G locked when REF stops. -/
theorem met_lockLost : (let s : State := { (sets up [(P.SYNTH_GSTAT, 1)]) with pwr := { up.pwr with package := .ab } }
    gives .refLoss s (fun t => bit t P.SYNTH_GSTAT 7 && t.pwr.gLost)) = true := by decide +kernel

/-- The supplies at two levels in mV. -/
def supplied (vdd vbk : BitVec 12) (s : State) : State := { s with pier := { s.pier with sup := { s.pier.sup with vdd := vdd, vbk := vbk } } }

theorem test_vdd_brownout : gives .vddBrownout (supplied 1700 3000 up) (fun t => decide (t.pwr.mode = .vddOff) && t.pwr.code == 3) = true := by decide +kernel

/-- Supplies that start the Pier, that do not, and levels above and below each detector. -/
theorem met_levels : (let off : State := { up with pwr := { up.pwr with pierOn := false } }; off.pwr.pierOn) = false ∧ 1520 < (3000 : BitVec 12).toNat ∧ (1300 : BitVec 12).toNat < 1380 ∧
    (let s : State := { supplied 1780 3000 up with pwr := { up.pwr with vddOk := false } }; !s.pwr.vddOk && s.pwr.pierOn && decide (1770 ≤ s.pier.sup.vdd.toNat)) = true ∧
    up.pwr.vddOk = true ∧ up.pwr.pierOn = true ∧ (supplied 1720 3000 up).pier.sup.vdd.toNat ≤ 1720 ∧ 1720 < up.pier.sup.vdd.toNat ∧ 1470 < up.pier.sup.vbk.toNat ∧
    bit up P.PIER_STATUS 4 = false ∧ bit (sets up [(P.PIER_STATUS, 0x10)]) P.PIER_STATUS 4 = true := by decide +kernel

/-! ### Radio, store link, wake receiver -/

theorem met_radioCommands : accepted 3 up = some (4, true) ∧ accepted 7 up = some (2, false) ∧ accepted 5 up = none ∧ accepted 6 (sets up [(P.RADIO_STATE, 1)]) = some (1, true) ∧
    accepted 1 (sets up [(P.RADIO_STATE, 8)]) = some (8, true) ∧ accepted 5 (sets up [(P.RADIO_STATE, 0x17)]) = some (7, true) ∧ accepted 2 (sets up [(P.RADIO_STATE, 0x40)]) = none := by
  decide +kernel

/-- A command with the radio clock running, and one that waits for it behind an earlier one. -/
theorem met_clocked : clocked 3 up ∧ ¬ clocked 7 (sets up [(P.PWR_STATUS, 0)]) ∧ clocked 3 (sets up [(P.PWR_STATUS, 0)]) :=
  ⟨Or.inl (by decide +kernel), fun h => h.elim (fun r => absurd r (by decide +kernel)) (fun r => absurd r.2.2 (by decide +kernel)), Or.inr (by decide +kernel)⟩

theorem test_radio_waits : gives (.radioCmdChsw .sepia 7) (sets up [(P.PWR_STATUS, 0)]) (fun t => decide (t.radio.late = [.cmd 7 (up.radio.chan)]) && !bit t P.RADIO_STATUS 0) = true := by decide +kernel

/-- A collection that an exit let go on ends as the radio leaves STANDBY, and with the clock standing a word for the transmit FIFO waits. -/
theorem test_radio_listens_no_more : gives (.radioCmdRx .sepia 3) (sets up [(P.WAKE_STATUS, 8)]) (fun t => !bit t P.WAKE_STATUS 3) = true ∧
    gives (.radioTxFifoWrite .umber 7) (sets (at0 0 [waits .fifo 7 none]) [(P.PWR_STATUS, 0)]) (fun t => decide (t.radio.late = [.push 7]) && t.radio.txFifo.isEmpty) = true := by decide +kernel

theorem test_radio_rx : gives (.radioCmdRx .sepia 3) up (fun t => Claims.code t == 4 && t.radio.trans.isSome) = true := by decide +kernel

/-- The radio receiving, and sending. -/
def receiving : State := sets up [(P.RADIO_STATE, 5), (P.RADIO_RXTO, 5), (P.LINK_RXCFG, 0)]
def sending (w : TxWork) : State := let s := sets up [(P.RADIO_STATE, 0x27)]; { s with radio := { s.radio with tx := some w } }

theorem met_radioEvents : Claims.code receiving = 5 ∧ receiving.par P.RADIO_RXTO ≠ 0 ∧ receiving.radio.ackWait = none ∧ bit receiving P.RADIO_STATE 6 = false ∧ receiving.radio.ret = none ∧
    bit (sending (.frame none false)) P.RADIO_STATE 5 = true ∧ (sending (.frame none false)).radio.txFifo.length ≤ 256 ∧
    ({ up.radio with antcfg := 2 }.antcfg.extractLsb' 0 2 = 2) ∧ bit (sets up [(P.RADIO_STATE, 0x40)]) P.RADIO_STATE 6 = true ∧ up.radio.down = false := by decide +kernel

theorem met_transitions_done : ({ up with radio := { up.radio with trans := some .start, txcfg := 2 } } : State).radio.txcfg.extractLsb' 0 2 = 2 := by decide +kernel

/-- An acknowledgement is awaited; and the fault sequence of a power-off under way. -/
theorem met_timeouts : (let s := { receiving with radio := { receiving.radio with ackWait := some { addr := 5, seq := true, due := false } } }; decide (Claims.code s = 5) && decide (s.radio.trans = none) && s.radio.ackWait.isSome) = true ∧
    (let s : State := sets ({ up with radio := { up.radio with down := true } } : State) [(P.RADIO_STATE, 0x40), (P.PWR_ISLAND, 0xD)]
     bit s P.RADIO_STATE 6 && s.radio.down && !bit s P.PWR_ISLAND 1) = true := by decide +kernel

/-- A window whose antenna and gain are not yet decided. -/
def measuring : State := { receiving with radio := { receiving.radio with meas := true } }

theorem met_diversity : Claims.code measuring = 5 ∧ measuring.radio.meas = true ∧ measuring.radio.rx = none := by decide +kernel

/-- The stronger antenna is taken once: a second decision changes nothing. -/
theorem test_diversity : gives (.diversityDecision 5 9 2) measuring (fun t => bit t P.RADIO_DIV 0 && !t.radio.meas && idles (.diversityDecision 9 5 3) t) = true := by decide +kernel

theorem test_radio_down : gives (.radioTransitionDone true) { up with radio := { up.radio with trans := some (.lower 1 none true) } }
    (fun t => Claims.code t == 1 && bit t P.RADIO_STATUS 13) = true := by decide +kernel

theorem met_radioData : (let s := at0 0 [waits .fifo 7 none]; s.radioPowered && decide ((s.umber.pwq.find? (fun w => w.latched.isNone && decide (w.tgt.shell = Shell.radio))).isSome)) = true ∧
    up.queuedFor Shell.radio = false ∧ bit up P.PWR_CLKCTL 1 = false ∧ up.par P.SYNTH_XONOW = ((up.par P.SYNTH_XONOW).extractLsb' 0 8).setWidth 36 :=
  by decide +kernel

theorem test_radio_tx_fifo : gives (.radioTxFifoWrite .umber 7) (at0 0 [waits .fifo 7 none]) (fun t => decide (t.radio.txFifo = [7])) = true := by decide +kernel

/-- A frame under reception. -/
def framing : State := { receiving with radio := { receiving.radio with rx := some { stamp := 5, hist := 0, rssi := 0, rate := false, ant := false, filter := none } } }

theorem met_storeLink : framing.radio.rx.isSome = true ∧ framing.radio.ackWait = none ∧ framing.radio.rxtoDue = false ∧ bit framing P.LINK_RXCFG 0 = false ∧ bit framing P.LINK_RXCFG 4 = false ∧
    receiving.radio.rxcfg.extractLsb' 0 2 ≠ 3 ∧ bit (sending (.train 1 2 3)) P.RADIO_STATE 5 = true ∧ (sending (.train 1 2 3)).radio.rxNext = false ∧
    bit (sets up [(P.LINK_TXCTL, 0)]) P.LINK_TXCTL 0 = false := by decide +kernel

theorem met_badFrame : (bitsNat ((up.whiten (up.whiten (airData 6 (List.replicate 12 0)))).take 8) = 6) ∧ (up.whiten (airData 6 (List.replicate 12 0))).length = 128 := by decide +kernel

theorem test_frame_received : gives (.frameReceived (framing.whiten (airData 6 (List.replicate 12 7)))) framing
    (fun t => bit t P.LINK_STATUS 0 && !bit t P.LINK_STATUS 1 && t.radio.rxFifo.length == 6) = true := by decide +kernel

theorem test_frame_crc : gives (.frameReceived (framing.whiten (airData 6 (List.replicate 12 7)) |>.map not)) framing (fun t => decide (t.radio.rxFifo = [])) = true := by decide +kernel

theorem met_wakeReceiver : (let s := { (sets up [(P.WAKE_CFG, 1)]) with pwr := { up.pwr with mode := .doze }, wake := { up.wake with openDue := true } }
    s.wake.openDue && bit s P.WAKE_CFG 0 && s.crystalRuns && decide (s.pwr.mode = .doze)) = true ∧
    wakeHit (sets up [(P.WAKE_GRP + 3, 0x1FFFF0102)]) (0xAA010203AB#40) 0 ∧ bit (sets up [(P.WAKE_STATUS, 8)]) P.WAKE_STATUS 3 = true :=
  ⟨by decide +kernel, by unfold wakeHit; decide +kernel, by decide +kernel⟩

/-- Collections that can complete: in WAKELISTEN, and in a window of mode 2. -/
theorem met_collected : collected (sets up [(P.RADIO_STATE, 8), (P.WAKE_STATUS, 8)]) ∧ collected { (sets up [(P.WAKE_STATUS, 8)]) with pwr := { up.pwr with mode := .retain } } :=
  ⟨⟨by decide +kernel, fun h => absurd h (by unfold scheduled; decide +kernel), fun _ => Or.inr (by decide +kernel)⟩,
   ⟨by decide +kernel, fun _ => by decide +kernel, fun h => absurd (show scheduled _ from Or.inr rfl) h⟩⟩

/-- A wake word begun in WAKELISTEN is not received past it. -/
theorem test_collection_left : idles (.wakeMatch { bits := 0xAA010203AB, level := 5 }) (sets up [(P.RADIO_STATE, 5), (P.WAKE_STATUS, 8), (P.WAKE_GRP + 3, 0x1FFFF0102)]) = true := by decide +kernel

/-- In mode 1 with the crystal failed nothing is collected. -/
theorem met_collection_fails : (let s := { (sets up [(P.WAKE_STATUS, 8), (P.PIER_STATUS, 4)]) with pwr := { up.pwr with mode := .doze } }
    decide (s.pwr.mode = .doze) && !s.crystalRuns && idles (.wakeMatch { bits := 0xAA010203AB, level := 5 }) s) = true := by decide +kernel

/-- Slot 16 of a burst with offset 1 sends chip 0 of the base sequence, slot 8,200 begins group 1. -/
theorem test_burst : (16 + 1023 - 16 * 1) % 1023 = 0 ∧ groupOf 1 15 = 0 ∧ groupOf 1 8199 = 0 ∧ groupOf 1 8200 = 1 ∧ signBit [0x2] 1 = true ∧ baseSequence.length = 1023 := by
  decide +kernel

theorem test_wake_match : gives (.wakeMatch { bits := 0xAA010203AB, level := 5 }) (sets up [(P.RADIO_STATE, 8), (P.WAKE_STATUS, 8), (P.WAKE_GRP + 3, 0x1FFFF0102)]) (fun t => bit t P.WAKE_STATUS 0) = true := by decide +kernel

theorem test_wake_nomatch : gives (.wakeNomatch { bits := 0xAA010203AC, level := 5 }) (sets up [(P.RADIO_STATE, 8), (P.WAKE_STATUS, 8), (P.WAKE_GRP + 3, 0x1FFFF0102)]) (fun t => bit t P.WAKE_STATUS 2) = true := by decide +kernel




/-- Reads of the receive FIFO that the regions let happen, and XONOW with the clock of REF running and standing. -/
theorem met_radioReads : fifoReadable .umber up ∧ fifoReadable (.dma 15) (sets up [(P.DMA_CTL + 240, 1)]) ∧ up.refRuns = true ∧ (sets up [(P.PWR_STATUS, 0)]).refRuns = false :=
  ⟨⟨0, by decide, by decide +kernel⟩, ⟨255, by decide, by decide +kernel⟩, by decide +kernel, by decide +kernel⟩

theorem test_xonow_waits : idles .xonowStep (sets up [(P.PWR_STATUS, 0), (P.SYNTH_XOTRIM, 5)]) = true ∧
    gives .xonowStep (sets up [(P.SYNTH_XONOW, 0), (P.SYNTH_XOTRIM, 5)]) (fun t => t.par P.SYNTH_XONOW == 1) = true := by decide +kernel

/-- A frame of 4 bytes with one word after its first, and a burst of 288 periods without all its words. -/
def starved (w : TxWork) (l : List Word) : State := { sending w with radio := { (sending w).radio with txFifo := l } }

theorem met_underruns : bit (starved (.frame (some 4) false) [7]) P.RADIO_STATE 5 = true ∧ [(7 : Word)].length < ((((4 : Word)).extractLsb' 0 8).toNat + 9) / 4 ∧
    (starved (.frame (some 4) false) [7]).radio.rxNext = false ∧ (starved (.burst 1 289 true) [7]).radio.txFifo.length < (((289 : BitVec 10).toNat + 7) / 8 + 35) / 36 := by decide +kernel

/-- Cut after the length byte and a word, the frame leaves 5 bytes on air behind preamble and sync. -/
theorem test_underrun_air : gives .txUnderrun (starved (.frame (some 4) false) [7]) (fun t =>
    match t.radio.air with | some (.frame _ _ bits) => bits.length == 32 + 8 * (up.radio.sendCfg.extractLsb' 1 4).toNat + 32 + 40 | _ => false) = true := by decide +kernel

/-- A wake word received after the first instruction since the mode interrupts at once; before it, it waits. -/
theorem met_wakeInterrupt : (let s := sets (withUmber { up.umber with fresh := false }) [(P.WAKE_STATUS, 8)]; s.awake && decide (Claims.code s ≠ 8) && !s.umber.fresh) = true ∧
    (withUmber { up.umber with fresh := true }).umber.fresh = true := by decide +kernel

/-! ### Trestle -/

theorem met_channels : codeGood upTrs 47 ∧ tapsGood upTrs 47 ∧ enabled upTrs 47 = false ∧ enabled (sets upTrs [(P.CH_CTL + 64 * 47, 1)]) 47 = true ∧ ¬ (codeGood up 0 ∧ tapsGood up 0) :=
  ⟨by simp only [codeGood]; rw [if_pos (by decide +kernel)]; decide +kernel, by unfold tapsGood; decide +kernel, by decide +kernel, by decide +kernel,
    fun h => absurd h.1 (by simp only [codeGood]; rw [if_neg (by decide +kernel)]; exact fun g => absurd g.1.1 (by decide +kernel))⟩

theorem test_channel_enable : gives (.trsChannelEnable .sepia 47 1) upTrs (fun t => enabled t 47 && (t.trs.ch[(47 : Fin 48)]).code == 0) = true := by decide +kernel

/-- Channel 47 tracking, just before the end of an integration of one epoch. -/
def tracking : State :=
  let s := sets upTrs [(P.CH_CTL + 64 * 47, 1), (P.CH_CODEFREQ + 64 * 47, 0x10000000)]
  { s with trs := { s.trs with ch := s.trs.ch.set 47 { s.trs.ch[47] with code := 1023 * 2 ^ 32 - 1, intcfg := 1, age := 5 } } }

theorem met_samples : tracking.trsRuns = true ∧ enabled tracking 47 = true ∧ (tracking.trs.ch[(47 : Fin 48)]).codeAdj = [] ∧
    (tracking.trs.ch[(47 : Fin 48)]).epochs + 1 = (tracking.trs.ch[(47 : Fin 48)]).intcfg.extractLsb' 0 8 ∧
    ((tracking.par (ofTrack P.CH_CODECFG 47)).extractLsb' 2 13).toNat * 2 ^ 32 ≤
      (tracking.trs.ch[(47 : Fin 48)]).code.toNat + ((tracking.par (ofTrack P.CH_CODEFREQ 47)).extractLsb' 0 32).toNat :=
  by decide +kernel

theorem test_trs_dump : gives (.trsDump 47 [⟨1, 1, 1, 1⟩]) tracking (fun t => t.trs.dumped.getLsbD 47 && (t.par (P.CH_HISTIDX + 64 * 47)).toNat == 1) = true := by decide +kernel

theorem met_quantBlock : (let s := { up with trs := { up.trs with blockPos := 25999 } }; s.trsRuns && s.trs.blockPos == 25999 && (List.finRange 16).all (fun k => decide ((s.trs.counts[k]).toNat ≤ 52000))) = true := by
  decide +kernel

theorem test_quant_block : gives (.quantBlockEnd [⟨1, 1, 1, 1⟩]) { up with trs := { up.trs with blockPos := 25999 } } (fun t => t.trs.blockPos == 0) = true := by decide +kernel

/-- Without the REF group Trestle's clock stands still, and its shell latches what comes. -/
theorem test_trestle_latches : gives (.trsChannelEnable .sepia 47 1) (sets upTrs [(P.PWR_STATUS, 0)]) (fun t => enabled t 47 && decide (t.trs.late = [.enable 47 false true])) = true := by
  decide +kernel

/-- Channel 47 takes a sample: its code can be used, and its phase lies below CODELEN. -/
theorem met_sampled : codeGood tracking 47 ∧ (tracking.trs.ch[(47 : Fin 48)]).code.toNat < codeLength tracking 47 ∧ enabled tracking 0 = false ∧ tracking.trsRuns = true ∧
    (tracking.trs.ch[(47 : Fin 48)]).ended = false ∧ (tracking.trs.ch[(47 : Fin 48)]).age ≠ 26000 :=
  ⟨by simp only [codeGood]; rw [if_pos (by decide +kernel)]; decide +kernel, by decide +kernel⟩

/-- The same with RING: the dump FIFO empty, and with 2,040 words. -/
theorem met_ring : (let s := sets tracking [(P.CH_CTL + 64 * 47, 5)]; bit s (ofTrack P.CH_CTL 47) 2 && decide (queuedWords s + 480 ≤ 2048) && decide ((s.par P.TRS_SSTATUS).extractLsb' 0 2 ≠ 1)) = true ∧
    (let s : State := { tracking with trs := { tracking.trs with fifo := List.replicate 204 (.record (Vector.replicate 10 7)) } }; decide (2038 < queuedWords s)) = true := by decide +kernel

/-- On the L1 path of an OZ-3648-AB, with the carrier at phase 0 and chip 0 at +1: a sample of levels (7, −7) adds (7·6 − 7·1, −7·6 − 7·1) to the prompt tap, and the NCOs
advance (R433-R436, Table TRS-1). -/
theorem test_sample : (let s := sets tracking [(P.CH_CTL + 64 * 47, 3), (P.CH_CARRFREQ + 64 * 47, 0x100), (P.PWR_STATUS, 0x78)]
    gives (.codenowRead .sepia { ch := 47, xs := [⟨0, 0, 127, 128⟩] })
      { s with pwr := { s.pwr with package := .ab }, trs := { s.trs with ch := s.trs.ch.set 47 { s.trs.ch[47] with code := 5 } } }
      (fun t => t.par (P.CH_CARRNOW + 64 * 47) == 0x100 && t.par (P.CH_CODENOW + 64 * 47) == 0x80000 && (t.trs.ch[(47 : Fin 48)]).acc[4] == 35 &&
        (t.trs.ch[(47 : Fin 48)]).acc[5] == BitVec.ofInt 28 (-49))) = true := by decide +kernel

/-- A record waits for the ring at 0x1000, of 4 slots. -/
def dumping : State :=
  let s := sets up [(P.TRS_DUMPBASE, 0x1000), (P.TRS_DUMPLEN, 4)]
  { s with trs := { s.trs with fifo := [.record (Vector.replicate 10 7)] } }

theorem met_dumps : writerRuns dumping ∧ (headRecord dumping).isSome = true ∧ ¬ ringIsFull dumping ∧ bit dumping P.MEM_INJECT 0 = false ∧
    (dumping.par P.TRS_DUMPWP).toNat < (dumping.par P.TRS_DUMPLEN).toNat ∧ ringIsFull (sets dumping [(P.TRS_DUMPLEN, 1)]) :=
  ⟨⟨by decide +kernel, by decide +kernel⟩, by decide +kernel, by unfold ringIsFull; decide +kernel, by decide +kernel, by decide +kernel, by unfold ringIsFull; decide +kernel⟩

theorem met_dumpWords : (List.range 10).all (fun k => decide ((ringWord dumping k).toNat < 0x40000) && dumping.archState ((ringWord dumping k).toNat / 65536) == 2 &&
    decide (dumping.regionFail { master := .host, dom := 1, prv := false } spData (ringWord dumping k) .w = none)) = true := by decide +kernel

theorem test_dump_write : gives .dumpWrite dumping (fun t => (t.par P.TRS_DUMPWP).toNat == 1 && readable (t.sramCell 0x1009) == some 7) = true := by decide +kernel

/-- A search with its capture, at an idle engine, and its results. -/
theorem met_searches : search upTrs = 0 ∧ (upTrs.par P.TRS_SCFG).extractLsb' 0 6 = BitVec.ofNat 6 0 ∧ codeGood upTrs 0 ∧ ({ up.trs with capValid := true }).capValid = true ∧
    search (sets up [(P.TRS_SSTATUS, 3)]) = 3 ∧ up.trs.nextH.toNat ≤ 4096 :=
  ⟨by decide +kernel, by decide +kernel, by simp only [codeGood]; rw [if_pos (by decide +kernel)]; decide +kernel, rfl, by decide +kernel, by decide +kernel⟩

/-- The last sample of a capture, and a word of code memory written while the clock stands. -/
theorem met_captureEnd : (let s := sets { up with trs := { up.trs with cap := [(1, 1)], capEnd := 2 } } [(P.TRS_SSTATUS, 1)]
    s.trsRuns && decide ((s.par P.TRS_SSTATUS).extractLsb' 0 2 = 1) && decide (s.trs.cap.length + 1 = s.trs.capEnd)) = true ∧
    gives (.cmdataWrite .sepia 5) (sets upTrs [(P.PWR_STATUS, 0), (P.TRS_CMADDR, 0xFFF)]) (fun t => decide (t.trs.late = [.code 0xFFF 5]) && decide (t.par P.TRS_CMADDR = 0)) = true := by decide +kernel

/-- Channel 1 names a code that cannot be used: the capture is made, and the pass refused (R430, R448). -/
theorem met_badPass : (let s := sets upTrs [(P.TRS_SCFG, 1)]; s.trsRuns && decide (search s = 0) && decide ((s.par P.TRS_SCFG).extractLsb' 0 6 = BitVec.ofNat 6 (1 : Fin 48).val)) = true ∧
    ¬ codeGood (sets upTrs [(P.TRS_SCFG, 1)]) 1 :=
  ⟨by decide +kernel, by simp only [codeGood]; rw [if_neg (by decide +kernel)]; exact fun g => absurd g.1.1 (by decide +kernel)⟩

/-- A result of hypothesis 5 waits to be written at 0x1005. -/
def result5 : State :=
  let s := sets up [(P.TRS_SRESBASE, 0x1000), (P.PWR_STATUS, 0x8), (P.TRS_SSTATUS, 2)]
  { s with trs := { s.trs with fifo := [.result 5 0x1005 false 9 true] } }

theorem met_searchResult : resultHead { result5 with trs := { result5.trs with nextH := 4096 } } 5 0x1005 false 9 true ∧ writerMay result5 0x1005 ∧ writerAwake result5 0x1005 ∧
    (readable (result5.sramCell 0x1005)).isSome = true :=
  ⟨⟨⟨by decide +kernel, by decide +kernel⟩, rfl, Or.inr rfl, rfl, by decide +kernel⟩, ⟨by decide +kernel, by decide +kernel⟩, by unfold writerAwake; decide +kernel, by decide +kernel⟩

/-- A result for a word outside data SRAM, one to be added, and one of an earlier pass. -/
def resultAt (a : Addr) (add live : Bool) : State := { result5 with trs := { result5.trs with nextH := 4096, fifo := [.result 5 a add 9 live] } }

theorem met_searchResults : resultHead (resultAt 0x200000 false true) 5 0x200000 false 9 true ∧ ¬ writerMay (resultAt 0x200000 false true) 0x200000 ∧
    resultHead (resultAt 0x3FFFF true false) 5 0x3FFFF true 9 false ∧
    (resultAt 0x3FFFF true false).regionFail { master := .host, dom := 1, prv := false } spData 0x3FFFF .rw = none ∧ stale (.result 5 0 false 9 true) = .result 5 0 false 9 false :=
  ⟨⟨⟨by decide +kernel, by decide +kernel⟩, rfl, Or.inr rfl, rfl, by decide +kernel⟩, fun h => absurd h.1 (by decide +kernel),
    ⟨⟨by decide +kernel, by decide +kernel⟩, rfl, Or.inr rfl, rfl, by decide +kernel⟩, by decide +kernel, rfl⟩

theorem test_search_fault : gives .searchResultWrite (resultAt 0x200000 false true) (fun t => bit t P.TRS_DWFAULT 35 && t.trs.doneH == 1 && decide (t.trs.vals = [])) = true := by decide +kernel

theorem test_search_result : gives .searchResultWrite result5 (fun t => readable (t.sramCell 0x1005) == some 9 && t.trs.doneH == 1) = true := by decide +kernel

/-- With Trestle running the latch takes the words of channel 47 too. -/
theorem met_epochLatch : (let s : State := { tracking with time := { tracking.time with epochs := [{ edge := 1, time := some 5 }] } }
    s.trsRuns && decide (s.time.epochs.head?.map (·.time) = some (some 5)) && enabled s 47 && !enabled s 0 && bit (sets s [(P.TRS_CTL, 1)]) P.TRS_CTL 0 &&
      decide (queuedWords s + 480 ≤ 2048)) = true := by decide +kernel

theorem test_epoch_latch : gives (.epochLatch { phase := 2, xs := [] }) { tracking with time := { tracking.time with epochs := [{ edge := 1, time := some 5 }] } }
    (fun t => bit t P.TRS_LATCHSTAT 0 && t.par (P.CH_LATCH0 + 64 * 47) == 0x200006F && t.par P.CH_LATCH0 == 0) = true := by decide +kernel

/-- A pass computing: its next hypothesis, with the words of SRESBASE writable. -/
theorem met_hypothesis : (let s := sets upTrs [(P.TRS_SSTATUS, 2), (P.TRS_SRESBASE, 0x1000), (P.TRS_SCFG, 47)]
    (writerRuns s ∧ s.trsRuns = true ∧ search s = 2 ∧ s.trs.fifo = [] ∧ s.trs.nextH.toNat < 4096 ∧ s.trs.abortAt = none ∧ bit s P.TRS_SCFG 9 = false ∧
      (s.par P.TRS_SCFG).extractLsb' 0 6 = BitVec.ofNat 6 (47 : Fin 48).val ∧ writerMay s 0x1000 ∧ writerAwake s 0x1000)) ∧ codeGood (sets upTrs [(P.TRS_SCFG, 47)]) 47 :=
  ⟨⟨⟨by decide +kernel, by decide +kernel⟩, by decide +kernel, by decide +kernel, by decide +kernel, by decide +kernel, by decide +kernel, by decide +kernel, by decide +kernel,
    ⟨by decide +kernel, by decide +kernel⟩, by unfold writerAwake; decide +kernel⟩, by simp only [codeGood]; rw [if_pos (by decide +kernel)]; decide +kernel⟩

/-- Two captured samples of (1, 0), carrier and code standing at 0, add to (12, −2): P_h is 148. -/
theorem test_hypothesis : (let s := sets upTrs [(P.TRS_SSTATUS, 2), (P.TRS_SRESBASE, 0x1000), (P.TRS_SCFG, 47)]
    gives .searchResultWrite { s with trs := { s.trs with cap := [(1, 0), (1, 0)] } } (fun t => readable (t.sramCell 0x1000) == some 148)) = true := by decide +kernel

theorem met_searchPassDone : (let s := { (sets up [(P.TRS_SSTATUS, 3)]) with trs := { up.trs with doneH := 4096, vals := [(5, 9)] } }
    s.awake && decide (search s = 3) && s.trs.doneH == 4096 && decide (s.trs.vals ≠ []) && s.trs.vals.all (fun e => decide (e.1 < 4096))) = true := by decide +kernel

/-! ### Cipher unit and random numbers -/

theorem met_ciphers : cmdGood 6 ∧ up.crypt.op = none ∧ up.crypt.inFifo = [] ∧ ¬ lengthBad 6 up ∧ keyReady 6 1 up ∧ ¬ drawing 6 ∧ lengthBad 1 (sets up [(P.CRYPT_LEN, 3)]) ∧
    ¬ cmdGood 4 ∧ keyDenied 14 1 up ∧ keyBad 1 1 up ∧ drawing 9 ∧ keyReady 0x60E 0 up :=
  ⟨by unfold cmdGood; decide +kernel, by decide +kernel, by decide +kernel, by unfold lengthBad; decide +kernel, by simp [keyReady, keyless, opOf], by unfold drawing; decide +kernel,
    by unfold lengthBad; decide +kernel, by unfold cmdGood; decide +kernel, by simp [keyDenied, keyless, opOf], ⟨by decide +kernel, by decide +kernel, by decide +kernel, Or.inl (by unfold slotEmpty; decide +kernel)⟩,
    by unfold drawing; decide +kernel, by simp [keyReady, keyless, opOf, ksrc]⟩

theorem test_sha_starts : gives (.sha256Start .sepia 6) (sets up [(P.CRYPT_LEN, 4)]) (fun t => bit t P.CRYPT_STATUS 0 && t.crypt.op.isSome) = true := by decide +kernel

/-- An operation that takes input. -/
def hashing (op : BitVec 20) (need : BitVec 23) (got : List (BitVec 32)) : State :=
  let o : CryptOp :=
    { cmd := op, owner := 0, len := 4, alen := 0, iv := Vector.replicate 4 0, key := Vector.replicate 8 0, wide := false, need := need, got := got, outPend := [], nonce := [] }
  { (sets up [(P.CRYPT_STATUS, 1)]) with crypt := { up.crypt with op := some o } }

theorem met_cipherData : (hashing 6 1 []).writeRefusal sepiaAcc P.CRYPT_IN 5 = 0 ∧ (hashing 6 1 []).holdsWrite sepiaAcc P.CRYPT_IN = false ∧ (hashing 6 1 []).crypt.op.isSome = true := by
  decide +kernel

theorem met_cipherEnds : (([1, 2, 3, 4, 5, 6, 7, 8, 9, 10, 11, 12, 13, 14] : List Nat).all (fun k => (atEnd k (hashing (BitVec.ofNat 20 k) 0 [5])).isSome)) = true := by decide +kernel

/-- SHA-256 of the four bytes 61 62 63 64 begins 88 D4 26 6F (FIPS 180-4). -/
theorem test_sha_ends : gives .cipherOpDone (hashing 6 0 [0x64636261]) (fun t => t.crypt.outFifo.length == 8 && t.crypt.outFifo.head? == some 0x6F26D488 && decide (t.crypt.op = none)) = true := by decide +kernel

theorem met_randomness : rawSource up ∧ up.rng = RngSt.init ∧ up.cipherOn = true ∧ bit up P.RNG_CTL 1 = false ∧ up.lifeState ≠ 3 ∧ (reading .umber P.RNG_DATA up).isSome = true :=
  ⟨by unfold rawSource; decide +kernel, by decide +kernel⟩

/-- Alternating samples: no long run, and as many ones as zeros. -/
theorem met_rngSamples : (runsOf up ((List.range 1024).map (fun i => decide (i % 2 = 1)))).all (fun k => decide (k < 40)) = true ∧
    countTrue ((List.range 1024).map (fun i => decide (i % 2 = 1))) = 512 ∧ (runsOf up (List.replicate 40 true)).getLast? = some 40 :=
  by decide +kernel

/-- A word forms from alternating samples: for the FIFO, and for Umber's read that waits. -/
theorem met_formsWord : formsWord 0xAAAAAAAAAAAAAAAAAAAAAAAAAAAAAAAAAAAAAAAAAAAAAAAAAAAAAAAAAAAAAAAAAAAAAAAA { up with rng := { up.rng with passed := true, waiters := [(.umber, .waiting)] } } :=
  ⟨by unfold rawSource; decide +kernel, by decide +kernel⟩

/-- With 16 words in the FIFO no word forms. -/
theorem met_fullRng : formsWord 0xAAAAAAAAAAAAAAAAAAAAAAAAAAAAAAAAAAAAAAAAAAAAAAAAAAAAAAAAAAAAAAAAAAAAAAAA { up with rng := { up.rng with passed := true, fifo := List.replicate 16 1 } } ∧
    16 ≤ (List.replicate 16 (1 : Word)).length := ⟨⟨by unfold rawSource; decide +kernel, by decide +kernel⟩, by decide⟩

theorem met_randomReads : readsRandom .umber up ∧ noneWaits .umber up ∧
    (let s : State := { up with rng := { up.rng with waiters := [(.sepia, .waiting), (.umber, .word 5)] } }; s.rng.waiters.find? (fun e => decide (e.1 = .umber)) = some (.umber, .word 5)) :=
  ⟨by unfold readsRandom; decide +kernel, by unfold noneWaits; decide +kernel, by decide +kernel⟩

/-- Reads that wait are answered in the order of their arrival (R503). -/
theorem test_rng_order : gives (.rngDataRead .umber) { up with rng := { up.rng with waiters := [(.sepia, .waiting)] } } (fun t => decide (t.rng.waiters = [(.sepia, .waiting), (.umber, .waiting)])) = true := by
  decide +kernel

theorem test_rng_alarm : gives (.rngAlarm (List.replicate 40 true)) { up with rng := { up.rng with passed := true } } (fun t => bit t P.RNG_STATUS 1 && t.umber.ipend.getLsbD 20) = true := by
  decide +kernel

theorem test_rng_data : gives (.rngDataRead .umber) { up with rng := { up.rng with fifo := [7, 8] } } (fun t => decide (t.rng.fifo = [8]) && t.par P.RNG_WORDCNT == 1) = true := by decide +kernel




/-! ### Life cycle and debug -/

/-- A transition from PRODUCTION to END OF LIFE, and one from BLANK to TEST, under way. -/
def turningTo (c : BitVec 16) : State :=
  { (sets up [(P.LIFE_TSTAT, 1)]) with life := { up.life with fuseOp := some (.transition c) } }

theorem met_transitions : turning (turningTo 0x000F) 0x000F ∧ turning (turningTo 0xFFFF) 0xFFFF ∧
    (0x0001 &&& 0x000F &&& ~~~(Claims.copies (turningTo 0x000F))[0] ≠ (0 : BitVec 16)) ∧ (turningTo 0xFFFF).pwr.vddOk = true ∧ (turningTo 0xFFFF).pwr.mode = .active :=
  ⟨⟨rfl, rfl, by decide +kernel⟩, ⟨rfl, rfl, by decide +kernel⟩, by decide +kernel, by decide +kernel, by decide +kernel⟩

theorem test_transition : gives (.transitionDone 15 0) (turningTo 0x000F) (fun t => t.life.fuses.copies.toList.all (· == 0x000F) && t.life.fuseOp.isNone) = true := by decide +kernel

theorem test_transition_supply : gives (.transitionDone 0 0) (turningTo 0x000F) (fun t => t.life.fuses.copies.toList.all (· == 0) && t.life.fuseOp.isNone) = true := by decide +kernel

theorem met_ownerHash : (hashOf { up with life := { up.life with fuseOp := some (.ownerHash (Vector.replicate 8 1)) } }).isSome = true ∧ up.life.heldReset = none := by decide +kernel

/-- The generator READY with words, no rights, and a challenge outstanding. -/
def challenged : State :=
  let s := sets up [(P.RNG_STATUS, 0x51), (P.LIFE_DBGSTAT, 0x1000)]
  { s with rng := { s.rng with passed := true, fifo := [1, 2, 3, 4, 5] } }

theorem met_authorisation : challenged.lifeState = 2 ∧ bit challenged P.RNG_STATUS 1 = false ∧ bit challenged P.RNG_STATUS 0 = true ∧ (challenged.par P.LIFE_FAILCNT).toNat < 8 ∧
    4 ≤ challenged.rng.fifo.length ∧ challenged.life.chalWait = false ∧ bit challenged P.LIFE_DBGSTAT 12 = true ∧ bit up P.LIFE_DBGSTAT 12 = false ∧ up.vddRuns = true ∧
    bit up P.LIFE_DBGSTAT 9 = false := by decide +kernel

theorem test_challenge : gives (.dbgChallenge .sepia 1) challenged (fun t => t.par P.LIFE_CHAL == 1 && t.par (P.LIFE_CHAL + 3) == 4 && decide (t.rng.fifo = [5])) = true := by decide +kernel

theorem met_nonce : mayRead4 challenged ∧ mayRead4 { challenged with rng := { challenged.rng with fifo := [] } } := by unfold mayRead4; decide +kernel

/-- What is checked is what stood at the command: a RESP word written later changes nothing (R526). -/
theorem test_response_taken : gives (.dbgCheckResponse .sepia 2) (sets challenged [(P.LIFE_CHAL, 7), (P.LIFE_RESP + 15, 8)]) (fun t => t.life.chkChal[0] == 7 && t.life.chkResp[15] == 8) = true := by
  decide +kernel

/-- A hit that waits is recorded at any halt. -/
theorem met_hitWaits : (withUmber { up.umber with wpHit := some (1, 0x1000, true), haltReq := some (1, 0) }).umber.wpHit = some (1, 0x1000, true) := by decide +kernel

/-- An open debug transaction of an operation, Umber halted or not. -/
def debugging' (op : BitVec 5) (r : UmberRun) : State :=
  { up with umber := { up.umber with run := r }, host := { up.host with txn := some { wr := decide (op ≠ 8), type := 3, addr := op, dead := false, spent := false } } }

theorem met_debugging : debugOpen 1 (debugging' 1 .running) ∧ mayHalt (debugging' 1 .running) ∧ debugOpen 8 (debugging' 8 .halted) ∧ mayRegs (debugging' 8 .halted) ∧
    ¬ mayHalt (sets (debugging' 1 .running) [(P.LIFE_DBGSTAT, 0)]) ∧ ¬ mayRegs (debugging' 9 .running) ∧ regSel 0xFF = none ∧ (regSel 0x1F).isSome = true :=
  ⟨⟨_, rfl, rfl, by decide, rfl, rfl, rfl⟩, ⟨by decide +kernel, by decide +kernel⟩, ⟨_, rfl, rfl, by decide, rfl, rfl, rfl⟩, ⟨by decide +kernel, by decide +kernel, by decide +kernel⟩,
    fun h => absurd h.2 (by decide +kernel), fun h => absurd h.2.2 (by decide +kernel), by decide +kernel, by decide +kernel⟩

theorem test_regwr : gives (.regwr 0x1F 0x123) (debugging' 9 .halted) (fun t => t.umber.p[15] == 0x123 && t.umber.p[14] == 0) = true := by decide +kernel

theorem test_debug_halt : gives .debugHalt (debugging' 1 .running) (fun t => decide (t.umber.haltReq = some (0, 0))) = true := by decide +kernel

theorem met_halts : (let s := withUmber { up.umber with haltReq := some (0, 0) }; decide (s.umber.run = .running) && decide (s.pwr.mode = .active) && s.umber.slots.isNone && s.umber.rpt.isNone &&
      !s.umber.ieFence && !s.umber.holds) = true ∧
    (let s := sets up [(P.DBG_BP + 3, 0x1000100)]; s.par (P.DBG_BP + 3) == ((1 : Word) <<< 24 ||| s.umber.pc.setWidth 36) && bit s P.LIFE_DBGSTAT 2 &&
      (List.range 3).all (fun j => !bit s (P.DBG_BP + j) 24)) = true := by decide +kernel

theorem test_breakpoint : gives .breakpointHit (sets up [(P.DBG_BP + 3, 0x1000100)]) (fun t => decide (t.umber.run = .halted) && t.par (P.DBG_BPHIT + 3) == 1) = true := by decide +kernel

/-! ### Sepia -/

/-- A service of domain 1, requested with words 1-3 of the mailbox. -/
def service (code : BitVec 8) (a b c : Word) : State :=
  let s := sets up [(P.MGMT_SVCREQ + 1, a), (P.MGMT_SVCREQ + 2, b), (P.MGMT_SVCREQ + 3, c), (P.MGMT_SVCSTAT, 1), (P.MGMT_LOGMASK, 0xFFFF)]
  { s with mgmt := { s.mgmt with service := some { code := code, tag := 9, requester := 1, host := false, worked := false, status := 0, reply1 := 0 } } }

theorem met_services : ([1, 2, 3, 4, 5, 6, 7, 8, 9, 10] : List Nat).all (fun k => (asked k (service (BitVec.ofNat 8 k) 0 0 0)).isSome) = true := by decide +kernel

theorem met_nothingAbove : nothingAbove 4 (service 10 0 0 0) ∧ nothingAbove 6 up ∧ soundConfig up ∧ soundCells 0x201000 0x205000 up :=
  ⟨by unfold nothingAbove; decide +kernel, by unfold nothingAbove; decide +kernel, fun _ _ _ => rfl, fun _ _ _ => rfl⟩

theorem met_nvmMay : nvmMay up 1 0x206000 2 ∧ nvmMay up 1 0x318000 4096 ∧ ¬ nvmMay up 1 0x300000 1 ∧ ¬ nvmMay up 2 0x206000 2 ∧ bufferGood up 1 0x1000 2 :=
  by unfold nvmMay bufferGood; decide +kernel

theorem test_nvmwrite : gives .nvmwrite (service 1 0x206000 2 0x1000) (fun t => t.mgmt.nvmQ.length == 1 && t.mgmt.nextTicket == 1) = true := by decide +kernel

theorem test_logappend : gives .logappend (service 2 0x800 5 6) (fun t => match t.mgmt.logQ with | [r] => r.type == 0x800 && r.w3 == 6 | _ => false) = true := by decide +kernel

theorem met_logappend : (0x800 : Nat) ≤ (req (service 2 0x800 5 6) 1).toNat ∧ bit (service 2 0x800 5 6) P.MGMT_LOGMASK 1 = true ∧ (service 2 0x800 5 6).mgmt.logQ.length < 32 := by decide +kernel

/-- No region of domain 0 is enabled; and one that leaves out slot 15 of the key store is, with DOM.VIOL free. -/
def sepiaBarred : State := sets (service 9 15 4 0x1000) [(P.MPU_BASE, 0x200000), (P.MPU_BASE + 1, 0x200010), (P.MPU_BASE + 2, 0xF)]

theorem met_sepiaFree : sepiaFree up ∧ ¬ sepiaFree sepiaBarred ∧ nothingAbove 4 sepiaBarred ∧ keySlot sepiaBarred = 15 ∧ bit sepiaBarred P.DOM_VIOL 35 = false ∧
    (∃ x, asked 9 sepiaBarred = some x ∧ x.wrap = none ∧ x.requester = 1 ∧ sepiaBarred.lifeState ≠ 3 ∧ (req sepiaBarred 1).toNat < 16) ∧
    sepiaBarred.regionFail { master := .sepia, dom := 0, prv := true } spData (0x200000 + 16 * (keySlot sepiaBarred).setWidth 24) .r ≠ none :=
  ⟨by unfold sepiaFree; decide +kernel, by unfold sepiaFree; decide +kernel, by unfold nothingAbove; decide +kernel, by decide +kernel, by decide +kernel,
    ⟨_, rfl, rfl, rfl, by decide +kernel, by decide +kernel⟩, by decide +kernel⟩

theorem test_sepia_barred : gives .keywrite sepiaBarred (fun t => bit t P.DOM_VIOL 35 && (match t.mgmt.service with | some x => x.worked && x.status == 3 | none => false)) = true := by
  decide +kernel

theorem met_updates : hdrFormed ((service 6 1 0 0).header 1) = false ∧ ¬ runsFrom (service 6 1 0 0) 1 ∧ runsFrom (service 6 0 0 0) 0 ∧ (service 9 15 1 0x1000).cipherOn = true ∧
    (service 9 15 1 0x1000).crypt.op = none ∧ ((service 9 15 1 0x1000).slotHeader 15).getLsbD 29 = false ∧ req (service 9 15 1 0x1000) 3 ≠ 0 ∧ bufferGood (service 9 15 1 0x1000) 1 0x1000 8 :=
  ⟨by decide +kernel, fun h => absurd h.2 (by decide +kernel), ⟨by decide +kernel, by decide +kernel⟩, by decide +kernel, by decide +kernel, by decide +kernel, by decide +kernel,
    by unfold bufferGood; decide +kernel⟩

/-- The cipher unit free for a KEYWRITE, one that runs, and a KEYWRITE whose WRAP has been started. -/
def wrapOp : CryptOp :=
  { cmd := 14 + 2 ^ 5 * 15 + 2 ^ 9, owner := 0, len := 0, alen := 0, iv := Vector.replicate 4 0, key := Vector.replicate 8 3, wide := true, need := 0, got := [0x2000004], outPend := [], nonce := [] }

def wrapped : State :=
  let s := service 9 15 4 0x1000
  { s with mgmt := { s.mgmt with service := s.mgmt.service.map (fun x => { x with wrap := some 0x2000004 }) }, crypt := { s.crypt with op := some wrapOp } }

theorem met_keyAsked : (∃ x, keyAsked (service 9 15 4 0x1000) x) ∧ cipherFree (service 9 15 4 0x1000) ∧ wrapping 15 0x2000004 wrapOp ∧
    (asked 9 wrapped).isSome = true ∧ wrapped.crypt.op = some wrapOp ∧ keySlot wrapped = 15 :=
  ⟨⟨_, rfl, rfl, rfl, by decide +kernel⟩, by unfold cipherFree; decide +kernel, by unfold wrapping; decide +kernel, by decide +kernel⟩

theorem met_keyBusy : (∃ x, keyAsked { service 9 15 4 0x1000 with crypt := { up.crypt with outFifo := [5] } } x) ∧ (∃ x, asked 9 (service 9 16 4 0x1000) = some x ∧ x.wrap = none) ∧
    16 ≤ (req (service 9 16 4 0x1000) 1).toNat := ⟨⟨_, rfl, rfl, rfl, by decide +kernel⟩, ⟨_, rfl, rfl⟩, by decide +kernel⟩

/-- A request writes into slot 0, or into slot 1. -/
theorem met_slotWritten : slotWritten queuedProgram 1 ∧ ¬ slotWritten queuedProgram 0 :=
  ⟨⟨_, List.mem_singleton.mpr rfl, by decide +kernel⟩, fun ⟨r, inQueue, h⟩ => absurd (List.mem_singleton.mp inQueue ▸ h.2) (by decide +kernel)⟩

theorem test_armupdate_malformed : gives .armupdate (service 6 1 0 0) (fun t => match t.mgmt.service with | some x => x.worked && x.status == 6 && x.reply1 == 1 | none => false) = true := by
  decide +kernel

theorem met_supervision : (let s := sets up [(P.MGMT_WDCFG, 0x40403)]; wdOn s && decide (s.mgmt.wdStage = 0) && s.mgmt.wdLeft == 0 && !s.fuseBusy) = true ∧
    (up.par P.MGMT_SENSCFG).extractLsb' 6 12 = 0 ∧ ((sets up [(P.MGMT_SENSCFG, 0x5F)]).par P.MGMT_SENSCFG).extractLsb' 6 12 ≠ 0 ∧ wdOn up = false :=
  by decide +kernel

theorem test_wdt_stage1 : gives .wdtStage1 (sets up [(P.MGMT_WDCFG, 0x40403)]) (fun t => t.mgmt.wdStage == 1 && t.mgmt.wdLeft == 128 && t.umber.ipend.getLsbD 23) = true := by decide +kernel

theorem test_evfifo : gives (.evfifoRead .umber) { up with mgmt := { up.mgmt with evFifo := [7, 8] } } (fun t => decide (t.mgmt.evFifo = [8])) = true := by decide +kernel

def logging : State := { up with mgmt := { up.mgmt with logQ := [{ type := 0x800, source := 1, untrusted := false, tick := 9, w2 := 5, w3 := 6 }] } }
theorem met_escalates : (let s := { logging with umber := { up.umber with escalate := true } }; s.awake && !s.fuseBusy && !wdOn s && s.umber.escalate && s.rev.isNone && !bit s P.CRYPT_KREFUSE 1) = true := by decide +kernel

/-- A log record that waits is written before a service. -/
theorem test_sepia_order : gives (.podtest 0) { (service 4 0 0 0) with mgmt := { (service 4 0 0 0).mgmt with logQ := logging.mgmt.logQ } }
    (fun t => decide (t.mgmt.logQ = [])) = true := by decide +kernel

theorem met_logWrite : nothingAbove 3 logging ∧  logging.vddRuns = true ∧ logging.pier.evUncopied = 0 ∧ logging.mgmt.logQ ≠ [] := ⟨by unfold nothingAbove; decide +kernel, by decide +kernel⟩

/-! ### Host port -/

/-- An open transaction of a type at an address. -/
def hosting (type : BitVec 2) (wr : Bool) (a : BitVec 5) : State :=
  { up with host := { up.host with txn := some { wr := wr, type := type, addr := a, dead := false, spent := false }, regs := up.host.regs.set 0 0x80 } }

theorem met_host : serving 0 true (hosting 0 true 0x15) ∧ serving 1 false (hosting 1 false 0) ∧ serving 2 true (hosting 2 true 1) ∧ Claims.locked up = false ∧
    (hosting 0 true 0).host.read = none ∧ ¬ wrongCommand 0x80 ∧ wrongCommand 0x22 ∧ wrongCommand 0x60 :=
  by unfold wrongCommand; decide +kernel

theorem met_hostStart : (let s := { up with host := { up.host with regs := up.host.regs.set 0 0x80 } }; s.host.txn.isNone && (s.host.regs[0]).getLsbD 7 && decide (s.pwr.mode = .active)) = true := by
  decide +kernel

/-- While a STOP waits, the edge of a transaction and of a pin are noted as wake events. -/
theorem test_stop_waits : gives (.hostTransactionStart 0x80) (withUmber { up.umber with hold := .stop }) (fun t => t.pwr.hostWake) = true ∧
    gives (.gpioEdge 3 true) (sets (withUmber { up.umber with hold := .stop }) [(P.GPIO_CFG + 3, 0x40)]) (fun t => t.pwr.gpioWake) = true := by decide +kernel

/-- Transactions whose bytes are ignored, and one with RDY 0. -/
def dead : State := { up with host := { up.host with txn := some { wr := true, type := 0, addr := 0, dead := true, spent := false } } }

theorem met_ignored : ignored dead ∧ (sets State.reset []).host.txn = none ∧ up.vddRuns = true ∧ (up.host.regs[0]).getLsbD 7 = false := ⟨⟨by decide +kernel, by decide +kernel⟩, by decide +kernel⟩

theorem test_ignored : gives (.directWrite 7) dead (fun t => decide (t.host.sent = up.host.sent ++ [0])) = true := by decide +kernel

/-- A byte for the doorbell, behind a write of memory that has not been made and one that CORE has latched. -/
theorem met_doorbells : unarrived ⟨.mem 0 15, 5, none, []⟩ ∧ ¬ unarrived ⟨.par 0x0300, 5, some 0, []⟩ ∧
    writesDirect (fun r => r == 0x15) (hosting 0 true 0x15) := ⟨⟨rfl, fun _ h => nomatch h⟩, fun h => absurd h.1 (by decide), by decide +kernel⟩

/-- A doorbell waits for the writes to CORE before it (R48). -/
theorem test_doorbell_waits : (let s := hosting 0 true 0x15
    gives (.doorbell 9) { s with host := { s.host with wq := [⟨.mem 0x1000 15, 5, none, []⟩] } } (fun t => !t.host.bell && decide (t.host.wq = [⟨.mem 0x1000 15, 5, none, [9]⟩]))) = true := by decide +kernel

theorem test_doorbell : gives (.directWrite 7) (hosting 0 true 0x15) (fun t => t.host.bell && bit t P.HOST_DOORIN 35 && t.umber.ipend.getLsbD 21) = true := by decide +kernel

theorem test_direct_read : gives .directRead (hosting 0 false 0x18) (fun t => decide (t.host.sent = [0x36])) = true := by decide +kernel

/-- A read in flight, and writes waiting. -/
def hostReading (x : HostTgt) : State := { (hosting 1 false 0) with host := { (hosting 1 false 0).host with read := some x, readLive := true } }
/-- Nothing of the write queue holds it back. -/
theorem not_held (x : HostTgt) : ¬ heldBack x (hostReading x) := by
  rintro ⟨w, queued, _⟩
  rw [show (hostReading x).host.wq = [] from rfl] at queued
  simp at queued

/-- A write of the same island, committed before it, does; one committed after it does not (R578). -/
theorem met_heldBack : (let s := hostReading (.par 0x0300)
    heldBack (.par 0x0300) { s with host := { s.host with wq := [⟨.par 0x0300, 1, none, []⟩], readBehind := 1 } } ∧
      ¬ heldBack (.par 0x0300) { s with host := { s.host with wq := [⟨.par 0x0300, 1, none, []⟩], readBehind := 0 } }) :=
  ⟨⟨_, List.mem_singleton.mpr rfl, by decide +kernel⟩, fun ⟨_, h, _⟩ => nomatch h⟩

/-- A write of memory, which is CORE's, holds back a read of a CORE parameter (R578). -/
theorem met_heldBack_memory : (let s := hostReading (.par 0x1E01)
    heldBack (.par 0x0900) { s with host := { s.host with wq := [⟨.mem 0x1000 15, 1, none, []⟩], readBehind := 1 } }) :=
  ⟨_, List.mem_singleton.mpr rfl, by decide +kernel⟩

def hostWriting (w : HostWrite) : State := { up with host := { up.host with wq := [w] } }

theorem met_parWindow : reads (fun x => x = .par 0x0300) (hostReading (.par 0x0300)) ∧ populated 0x0300 = true ∧ (hostReading (.par 0x0300)).hostDenied 0x0300 false = false ∧
    (parValue 0x0300 (hostReading (.par 0x0300))).isSome = true :=
  ⟨⟨by decide +kernel, _, rfl, rfl, not_held _⟩, by decide +kernel, by decide +kernel, by decide +kernel⟩

theorem test_param_read : gives .hostReadComplete (hostReading (.par 0x0300)) (fun t => t.host.regs[0x07] == 0x49 && t.host.regs[0x0B] == 1 && t.host.regs[0x1D] == 1) = true := by
  decide +kernel

theorem met_memWindow : windowMay 3 .r 0x1000 up ∧ reads (fun x => x = .mem 0x1000 0xF) (hostReading (.mem 0x1000 0xF)) ∧ memHead (hostWriting ⟨.mem 0x3FFFF 15, 5, none, []⟩) 0x3FFFF 15 5 ∧
    windowMay 4 .w 0x3FFFF up ∧ ¬ windowMay 4 .w 0x1000 (sets State.reset [(P.LIFE_DBGSTAT, 0)]) :=
  ⟨⟨by decide +kernel, Or.inl (by decide +kernel)⟩, ⟨by decide +kernel, _, rfl, rfl, not_held _⟩, rfl, ⟨by decide +kernel, Or.inl (by decide +kernel)⟩,
    fun h => absurd h.2 (by decide +kernel)⟩

/-- Entries that their shells have taken, one with a doorbell behind it, and END OF LIFE. -/
theorem met_hostAcks : (hostWriting ⟨.par 0x0300, 5, some 1, []⟩).vddRuns = true ∧ P.TIME_INC ≠ P.SYS_ROLE ∧ up.lifeState ≠ 3 ∧ (sets up [(P.LIFE_STATE, 0x30FFF)]).lifeState = 3 ∧
    (sets up [(P.LIFE_STATE, 0x30FFF)]).hostBarred 0x0013 = true := by decide +kernel

theorem test_host_ack : gives .hostWriteAck (hostWriting ⟨.par 0x0300, 5, some 1, [9]⟩) (fun t => t.host.bell && t.host.regs[1] == 1 && decide (t.host.wq = [])) = true := by decide +kernel

theorem test_mem_write : gives .hostWriteAck (hostWriting ⟨.mem 0x3FFFF 15, 5, none, []⟩) (fun t => readable (t.sramCell 0x3FFFF) == some 5 && decide (t.host.wq = [])) = true := by decide +kernel

/-- The host's write of TIME.STEP, whose step waits, and without it. -/
theorem met_comesBack : (let s := hostWriting ⟨.par (BitVec.ofNat 13 P.TIME_STEP), 5, some 0, []⟩
    effectWaits P.TIME_STEP { s with time := { s.time with steps := [5] } } ∧ comesBack ⟨.par (BitVec.ofNat 13 P.TIME_STEP), 5, some 0, []⟩ 0 s ∧
      comesBack ⟨.par (BitVec.ofNat 13 P.TIME_STEP), 5, some 2, []⟩ 2 s) :=
  ⟨Or.inl ⟨by decide +kernel, Or.inl ⟨rfl, by decide +kernel⟩⟩, fun _ i h => by
      have : i = BitVec.ofNat 13 P.TIME_STEP := (Option.some.inj h).symm
      subst this; unfold effectWaits; decide +kernel, fun h => absurd h (by decide)⟩

theorem test_host_ack_waits : (let s := hostWriting ⟨.par (BitVec.ofNat 13 P.TIME_STEP), 5, some 0, []⟩
    idles .hostWriteAck { s with time := { s.time with steps := [5] } } && gives .hostWriteAck s (fun t => decide (t.host.wq = []))) = true := by decide +kernel

/-! ### Pod line, face port and general pins -/

/-- A transaction of POD.CMD in a phase. -/
def podding (op : BitVec 3) (ph : PodPhase) : State :=
  { (sets up [(P.POD_STATUS, 1)]) with pod := { up.pod with txn := some { op := op, addr := 0, count := 1, sepia := false, inc := 0, phase := ph } } }

theorem met_podLine : bit up P.POD_STATUS 0 = false ∧ bit (podding 5 .sent) P.POD_STATUS 0 = true ∧ podAt .sent (podding 1 .sent) ∧ (podNow (podding 1 .sent)).count.toNat = 1 ∧
    podAt .accepted (podding 2 .accepted) ∧ podAt .polled (podding 3 .polled) ∧ podAt .ended (podding 4 .ended) ∧ (podding 4 .ended).pod.meterWait = [] := by decide +kernel

theorem test_pod_ping : gives (.podPing .sepia 5) up (fun t => decide (t.pod.frame = [0xA1, crcOf [0xA1]]) && bit t P.POD_STATUS 0) = true := by decide +kernel

theorem test_pod_answer : gives (.podAnswer (some [0x42, crcOf [0x42]])) (podding 1 .sent) (fun t => podByte t 0 == 0x42 && podAt .ended t) = true := by decide +kernel

/-- In modes 1 and 2 Sepia is stopped and a transaction stands still. -/
theorem test_pod_stands : (let s : State := { podding 1 .sent with pwr := { up.pwr with mode := .retain } }
    !s.awake && idles (.podAnswer (some [0x42, crcOf [0x42]])) s && idles .podTransactionDone s) = true := by decide +kernel

theorem met_chargeMeter : up.awake = true ∧ bit up P.PIER_STATUS 3 = false ∧ pulsesUsed 0 up % 1000 = 0 ∧ (∀ m < 3, modeUsed up m % 32768 = 0) ∧
    (up.pier.sepiaMirror.extractLsb' 15 33).toNat < (chg up 2).toNat + 604800 ∧ up.pod.identDue = true ∧ up.umber.run ≠ .inReset := by decide +kernel

/-- A new pod, with the generator in ALARM and READY. -/
def podReady (st : Word) : State := { (sets up [(P.RNG_STATUS, st)]) with rng := { up.rng with passed := true, fifo := [1, 2, 3, 4] } }

theorem met_podIdentify : identifies (podReady 2) ∧ bit (podReady 2) P.RNG_STATUS 1 = true ∧ identifies (podReady 0x41) ∧ bit (podReady 0x41) P.PIER_STATUS 3 = false ∧
    bit (podReady 0x41) P.RNG_STATUS 1 = false ∧ (podReady 0x41).cipherOn = true ∧ 4 ≤ (podReady 0x41).rng.fifo.length ∧ (podReady 0x41).rng.waiters = [] :=
  ⟨by unfold identifies; decide +kernel, by decide +kernel, by unfold identifies; decide +kernel, by decide +kernel⟩

/-- Modes 1 and 2 with the crystal failed. -/
theorem met_noDetector : (let s : State := { (sets up [(P.PIER_STATUS, 4)]) with pwr := { up.pwr with mode := .doze } }; s.crystalRuns) = false ∧
    (let s : State := { up with pwr := { up.pwr with mode := .doze } }; s.crystalRuns) = true := by decide +kernel

/-- A release notice under lockout: the count is owed. -/
theorem met_notices : (let s := sets up [(P.PIER_STATUS, 8)]; decide (s.pwr.mode = .active) && decide (s.umber.hold ≠ .stop) && s.pod.txn.isNone && !bit s P.POD_STATUS 0 && bit s P.PIER_STATUS 3) = true ∧
    (podding 3 .ended).pod.txn.isSome = true ∧ ({ podding 3 .ended with pod := { (podding 3 .ended).pod with meterWait := [5, 6] } } : State).pod.meterWait = 5 :: [6] := by decide +kernel

theorem met_facePort : up.face.fifo.length < 8 ∧ (let s := { (sets up [(P.FACE_CTL, 0x200)]) with face := { up.face with fifo := [5] } }; faceMay true s ∧ refRuns s = true) :=
  ⟨by decide +kernel, by unfold faceMay; decide +kernel, by decide +kernel⟩

theorem test_face_starts : gives (.faceTransferStart true) { (sets up [(P.FACE_CTL, 0x200)]) with face := { up.face with fifo := [5] } } (fun t => t.face.active) = true := by decide +kernel

/-- A transfer under way with REF running, when REF is lost, and when CLKCTL stops it: it waits with NOREF. -/
def transferring : State := { up with face := { up.face with active := true } }

theorem met_faceRef : transferring.awake = true ∧ transferring.refRuns = true ∧ refRuns transferring = true ∧ transferring.face.active = true ∧ transferring.face.fifo = [] ∧
    bit transferring P.PWR_CLKCTL 0 = true ∧ bit transferring P.FACE_CTL 6 = false ∧ refRuns (sets transferring [(P.PWR_STATUS, 0)]) = false := by decide +kernel

theorem test_face_noref : gives (.paramWrite .sepia (BitVec.ofNat 13 P.PWR_CLKCTL) 0) transferring (fun t => bit t P.FACE_STATUS 8 && t.face.active) = true ∧
    gives .refLoss transferring (fun t => bit t P.FACE_STATUS 8 && idles (.faceTransferEnd true true) t) = true := by decide +kernel

theorem met_generalPins : arrives 3 true (sets up [(P.GPIO_CFG + 3, 0x10)]) ∧ edgeSel (sets up [(P.GPIO_CFG + 3, 0x10)]) 3 4 = 1 := ⟨by unfold arrives; decide +kernel, by decide +kernel⟩

/-- A pin that nothing drives takes its pull. -/
theorem met_pulls : pinLevel 7 (sets up [(P.GPIO_CFG + 7, 4)]) = true ∧ pinLevel 7 (sets up [(P.GPIO_CFG + 7, 8)]) = false ∧
    ({ up with gpio := { up.gpio with driven := 0x80, pins := 0x80 } } : State).gpio.driven.getLsbD 7 = true := by decide +kernel

theorem test_gpio_edge : gives (.gpioEdge 3 true) (sets up [(P.GPIO_CFG + 3, 0x10)]) (fun t => bit t P.GPIO_EDGE 3 && t.lines.getLsbD 14 && t.umber.ipend.getLsbD 27) = true := by decide +kernel

/-! ### The queue and the reset state -/

/-- The command at the front is taken and the rest stays. -/
theorem test_step_front : (match step { up with pending := [.refLoss, .oscFail] } with | .next t => decide (t.pending = [.oscFail]) | _ => false) = true := by decide +kernel

theorem test_step_idle : (match step up with | .next t => t.time.tclk == 1 && t.time.acc == 0x14A61D149 | _ => false) = true := by decide +kernel

/-- With the word of ADDI D1, #5 at its program counter, Umber runs it; under IE an interrupt comes first. -/
def programmed (s : State) : State := { s with mem := { s.mem with prog := SMap.put s.mem.prog 0x100 0 (checkBits 0x010400005#36 ++ 0x010400005#36) } }

theorem test_program_runs : (match step (programmed up1) with | .next t => t.umber.d[1] == 10 && t.umber.pc == 0x101 | _ => false) = true ∧
    (match step (programmed pending31) with | .next t => t.umber.pc == 188 && t.umber.epc == 0x100 | _ => false) = true := by decide +kernel

theorem met_programRuns : (idle up1).umberRuns = true ∧ (idle up1).nmiTakes = false ∧ (idle up1).irqTakes = false ∧ (idle pending31).irqTakes = true ∧
    (idle nmi31).nmiTakes = true ∧ (idle (withUmber { up.umber with run := .gated })).umberRuns = false := by decide +kernel

/-! ### Words of Umber's instructions, written out from the encodings of 06 and 07: COND, MAJOR, then the fields of the format -/

theorem test_words_alu : decodeUmber 0b0000_000000_0010_1_0001_0010_0011_000000000 = .sub 0 true 1 2 3 ∧
    decodeUmber 0b0001_000001_0101_0_0001_0010_0000_000000101 = .lsri 1 1 2 5 ∧ decodeUmber 0b0000_000010_0011_1_1111_1110_1101_000000000 = .mulq 0 true 15 14 13 ∧
    decodeUmber 0b0010_000100_0001_1_000_000000000000000101 = .addi 2 true 1 5 ∧ decodeUmber 0b0000_000101_1000_0_001_111111111111111111 = .ldpi 0 8 0x3FFFF ∧
    decodeUmber 0b0000_000110_0000_0_0011_0100_0000_000000000 = .mov 0 3 4 := by decide +kernel

theorem test_words_memory : decodeUmber 0b0000_010000_000_0001_0010_011_100000000001 = .ld 0 1 2 3 0x801 ∧ decodeUmber 0b0000_010001_001_0001_0010_000_000000000000 = .ldh 0 1 1 2 0 0 ∧
    decodeUmber 0b0000_010011_011_0001_0010_001_000000000111 = .stq 0 3 1 2 1 7 ∧ decodeUmber 0b0000_010100_000_0010_1111_000_000000000000 = .ldd 0 2 15 0 0 ∧
    decodeUmber 0b0000_111000_000_0001_0010_001_111111111111 = .lr 0 1 2 1 0xFFF ∧ decodeUmber 0b0000_101000_0000_000000001011_0000000000 = .bset 0 0x00B ∧
    decodeUmber 0b0000_111001_0000_000100000000_11_00000000 = .tas 0 1 true 0x100 := by decide +kernel

theorem test_words_flow : decodeUmber 0b0001_110000_00_111111111111111111111100 = .br 1 0xFFFFFC ∧ decodeUmber 0b0000_110001_0000_0_0000_1110_0000_000000000 = .jmp 0 14 ∧
    decodeUmber 0b0000_110111_00_000000000000_000000000011 = .rpt 0 (.imm 3) ∧ decodeUmber 0b0000_110111_01_00000000000000000000_0101 = .rpt 0 (.reg 5) ∧
    decodeUmber 0b0000_111010_00011_0000_000000_000_11111111 = .trap 0 0xFF ∧ decodeUmber 0b0000_111010_00101_0010_000100_000_00000000 = .mvtc 0 4 2 := by decide +kernel

theorem test_words_signal : decodeUmber 0b0000_011000_0000_1_0011_0001_0010_000000000 = .mac 0 true 3 1 2 ∧ decodeUmber 0b0000_011001_0000_0_0001_0010_0011_000000000 = .acadd 0 false 1 2 3 ∧
    decodeUmber 0b0000_100000_0000_0_0001_0010_0011_000000000 = .fadd 0 1 2 3 ∧ decodeUmber 0b0000_100001_0000_0_0001_0010_0000_111111111 = .fcvtFi 0 1 2 0x1FF := by decide +kernel

theorem test_words_system : decodeUmber 0xFFFFFFFFF = .extensionSpace 15 ∧ decodeUmber 0x0E8000000 = .nop 0 ∧ decodeUmber 0x0C8C0F040 = .callm 0 0xC0F 0x040 ∧
    decodeUmber 0x068025400 = .macd 0 false 0 1 1 1 1 0 false ∧ decodeUmber 0x000000001 = .reservedOpcode 0 := by decide +kernel

theorem met_reset : State.reset.canonical ∧ State.reset.umber.sr = 0x000110000#36 := by decide +kernel


end Sys2Proof.Tests
end

/-! ## The reset state -/

section
namespace Sys2Proof.Machine
open Sys2Proof.Claims

/-- At reset no parameter is listed: each reads its reset value. -/
@[simp] theorem reset_par (i : Nat) : State.reset.par i = resetOf i := rfl

theorem reset_strikes_disarmed : ∀ n : Fin 8, State.reset.armed n = false := by decide +kernel

theorem reset_channels_idle : ∀ ch : Fin 16, State.reset.dmaState ch = 0 := by decide +kernel

theorem reset_resetState : resetState :=
  ⟨rfl, reset_par, fun _ => rfl, rfl, rfl, rfl, rfl, rfl, rfl, rfl, rfl, rfl, reset_strikes_disarmed, reset_channels_idle, rfl, rfl⟩

/-- Its maps are empty, and an empty map is in canonical form. -/
theorem reset_canonical : State.reset.canonical :=
  ⟨⟨SMap.wf_nil _, SMap.wf_nil _, SMap.wf_nil _, SMap.wf_nil _, SMap.wf_nil _, SMap.wf_nil _⟩, SMap.wf_nil _, SMap.wf_nil _, SMap.wf_nil _⟩

/-- Its buffers are empty. -/
theorem reset_bounded : Bounded State.reset := by
  constructor <;> decide

/-- An SR word the invariant allows: PRV = 1 only with DOM = 1, DOM not 0, and the reserved bits 12 to 15 and 29 and up clear (R14, R161). -/
structure LegalSr (w : Word) : Prop where
  kernel : w.getLsbD 20 = true → w.extractLsb' 16 4 = 1#4
  notSepia : w.extractLsb' 16 4 ≠ 0#4
  reserved : ∀ k, (12 ≤ k ∧ k < 16) ∨ 29 ≤ k → w.getLsbD k = false

theorem supervised_iff (s : State) : Supervised s ↔ LegalSr s.umber.sr :=
  ⟨fun ⟨a, b, c⟩ => ⟨a, b, c⟩, fun ⟨a, b, c⟩ => ⟨a, b, c⟩⟩

theorem legalSr_srReset : LegalSr srReset where
  kernel := by decide
  notSepia := by decide
  reserved k hk := by
    rcases Nat.lt_or_ge k 36 with h | h
    · exact (by decide : ∀ k < 36, (12 ≤ k ∧ k < 16) ∨ 29 ≤ k → srReset.getLsbD k = false) k h hk
    · exact BitVec.getLsbD_of_ge _ _ h

end Sys2Proof.Machine

/-- Settles O3: nothing is listed in the reset state, so each clause is read off the reset values. -/
theorem resetIsThePowerOnState : Obligations.ResetIsThePowerOnState :=
  ⟨Sys2Proof.Machine.reset_resetState, Sys2Proof.Machine.reset_canonical, Sys2Proof.Machine.reset_bounded,
    (Sys2Proof.Machine.supervised_iff _).2 Sys2Proof.Machine.legalSr_srReset⟩

end

section
/-!
The frame of SR: what every device, shared operation and boot leaves of it. Most leave it as it is (`f_sr`); those that may reset Umber leave it or give it its reset
value (`f_srKept`). The lemmas stand in the order of the definitions' dependence.
-/

namespace Sys2Proof.Machine

@[simp] theorem foldl_sr {α : Type} {f : State → α → State} (h : ∀ s a, (f s a).umber.sr = s.umber.sr) (l : List α) (s : State) :
    (l.foldl f s).umber.sr = s.umber.sr := by
  induction l generalizing s with
  | nil => rfl
  | cons a l ih => rw [List.foldl_cons, ih, h]

theorem ite_keeps_sr {p : Prop} [Decidable p] {a b : State} {w : Word} (ha : a.umber.sr = w) (hb : b.umber.sr = w) :
    (if p then a else b).umber.sr = w := by
  split <;> assumption

theorem ite_snd_keeps_sr {α : Type} {p : Prop} [Decidable p] {a b : α × State} {w : Word} (ha : a.2.umber.sr = w) (hb : b.2.umber.sr = w) :
    (if p then a else b).2.umber.sr = w := by
  split <;> assumption

theorem snd_sr_of_eq {α : Type} {p : α × State} {a : α} {t : State} (h : p = (a, t)) : t.umber.sr = p.2.umber.sr := by rw [h]

/-- SR is as it was, or at its reset value (R161). -/
def SrKept (s t : State) : Prop := t.umber.sr = s.umber.sr ∨ t.umber.sr = srReset

theorem SrKept.of_eq {s t : State} (h : t.umber.sr = s.umber.sr) : SrKept s t := .inl h

theorem SrKept.refl (s : State) : SrKept s s := .inl rfl

theorem SrKept.trans {s t r : State} (a : SrKept s t) (b : SrKept t r) : SrKept s r := by
  unfold SrKept at *
  grind

theorem SrKept.ite {p : Prop} [Decidable p] {s a b : State} (ha : SrKept s a) (hb : SrKept s b) : SrKept s (if p then a else b) := by
  split <;> assumption

@[simp] theorem commit_nil_sr (s : State) : (commit [] s).umber.sr = s.umber.sr := rfl

@[simp] theorem ite_sr (p : Prop) [Decidable p] (a b : State) :
    (if p then a else b).umber.sr = if p then a.umber.sr else b.umber.sr := apply_ite (fun s : State => s.umber.sr) p a b

@[simp] theorem ite_snd_sr {α : Type} (p : Prop) [Decidable p] (a b : α × State) :
    (if p then a else b).2.umber.sr = if p then a.2.umber.sr else b.2.umber.sr := apply_ite (fun s : α × State => s.2.umber.sr) p a b

@[simp] theorem traceExc_sr (pc : Addr) (vec : ℕ) (dom : Dom) (s : State) :
    (traceExc pc vec dom s).umber.sr = s.umber.sr := by
  simp [traceExc]

@[simp] theorem traceJump_sr (dest : Addr) (src : Addr) (exc : Bool) (s : State) :
    (traceJump dest src exc s).umber.sr = s.umber.sr := by
  simp [traceJump]

@[simp] theorem markGap_sr (g : Gap) (s : State) :
    (markGap g s).umber.sr = s.umber.sr := by
  unfold markGap
  split <;> simp

@[simp] theorem leaveStream_sr (back : Addr) (s : State) :
    (leaveStream back s).umber.sr = s.umber.sr := by
  simp [leaveStream]

@[simp] theorem noteBreakpoint_sr (s : State) :
    (noteBreakpoint s).umber.sr = s.umber.sr := by
  unfold noteBreakpoint
  split <;> simp

@[simp] theorem State.setPar_sr (s : State) (i : ℕ) (v : Word) :
    (s.setPar i v).umber.sr = s.umber.sr := rfl

@[simp] theorem State.parBit_sr (s : State) (i : ℕ) (bit : ℕ) (b : Bool) :
    (s.parBit i bit b).umber.sr = s.umber.sr := rfl

@[simp] theorem State.pushLog_sr (s : State) (type : ℕ) (source : ℕ) (w2 : Word) (w3 : Word) :
    (s.pushLog type source w2 w3).umber.sr = s.umber.sr := by
  simp [State.pushLog]

@[simp] theorem nvmRead_sr (c : Cell) (addr : Addr) (s : State) :
    (nvmRead c addr s).2.umber.sr = s.umber.sr := by
  unfold nvmRead
  split <;> simp

@[simp] theorem readQuad_sr (q : BitVec 16) (s : State) :
    (readQuad q s).umber.sr = s.umber.sr := by
  simp [readQuad]

@[simp] theorem readAhead_sr (q : BitVec 16) (s : State) :
    (readAhead q s).umber.sr = s.umber.sr := by
  simp [readAhead]

@[simp] theorem fetchCheck_sr (s : State) :
    (fetchCheck s).2.umber.sr = s.umber.sr := by
  grind [fetchCheck, readAhead_sr, readQuad_sr]

@[simp] theorem noteLastFlt_sr (a : Addr) (sub : BitVec 3) (s : State) :
    (noteLastFlt a sub s).umber.sr = s.umber.sr := rfl

@[simp] theorem faultNoted_sr (t : Trap) (rem : Option Nat) (s : State) : (faultNoted t rem s).umber.sr = s.umber.sr := by
  unfold faultNoted
  cases rem <;> simp

@[simp] theorem putExc_sr (s : State) (w : Word) :
    (putExc s w).umber.sr = s.umber.sr := rfl

@[simp] theorem putTrc_sr (s : State) (w : Word) :
    (putTrc s w).umber.sr = s.umber.sr := rfl

@[simp] theorem flushTraces_sr (s : State) : (flushTraces s).umber.sr = s.umber.sr := by
  simp only [flushTraces, State.setUmber_umber]
  exact (foldl_sr putExc_sr _ _).trans (foldl_sr putTrc_sr _ _)

@[simp] theorem advancePc_sr (s : State) :
    (advancePc s).umber.sr = s.umber.sr := by
  simp only [advancePc]
  (repeat' split) <;> simp

@[simp] theorem startSlots_sr (taken : Bool) (target : Addr) (s : State) :
    (startSlots taken target s).umber.sr = s.umber.sr := rfl

@[simp] theorem State.raiseIrq_sr (s : State) (n : ℕ) :
    (s.raiseIrq n).umber.sr = s.umber.sr := rfl

@[simp] theorem afterInstr_sr (s : State) :
    (afterInstr s).umber.sr = s.umber.sr := by
  simp [afterInstr]

@[simp] theorem watchAccess_sr (a : Addr) (write : Bool) (s : State) :
    (watchAccess a write s).umber.sr = s.umber.sr := by
  simp [watchAccess]

@[simp] theorem noteBstat_sr (bit : ℕ) (idx : Option ℕ) (s : State) :
    (noteBstat bit idx s).umber.sr = s.umber.sr := rfl

@[simp] theorem umberGrant_sr (a : BitVec 18) (s : State) :
    (umberGrant a s).umber.sr = s.umber.sr := rfl

@[simp] theorem noteCorrected_sr (tile : Bool) (a : BitVec 18) (y : BitVec 7) (s : State) :
    (noteCorrected tile a y s).umber.sr = s.umber.sr := by
  simp [noteCorrected]

@[simp] theorem State.setMem_sr (s : State) (m : MemSt) :
    (s.setMem m).umber.sr = s.umber.sr := rfl

@[simp] theorem schedWb_sr (tile : Bool) (a : BitVec 18) (finder : BitVec 3) (s : State) :
    (schedWb tile a finder s).umber.sr = s.umber.sr := rfl

@[simp] theorem putPoison_sr (a : BitVec 18) (b : Bool) (s : State) :
    (putPoison a b s).umber.sr = s.umber.sr := rfl

@[simp] theorem notePoison_sr (finder : BitVec 3) (a : BitVec 18) (y : BitVec 7) (s : State) :
    (notePoison finder a y s).umber.sr = s.umber.sr := by
  simp [notePoison]

@[simp] theorem sramRead_sr (finder : BitVec 3) (a : BitVec 18) (s : State) :
    (sramRead finder a s).2.umber.sr = s.umber.sr := by
  unfold sramRead
  (repeat' split) <;> simp

@[simp] theorem umberSramRead_sr (a : BitVec 18) (s : State) :
    (umberSramRead a s).2.umber.sr = s.umber.sr := by
  grind [umberSramRead, umberGrant_sr, sramRead_sr]

@[simp] theorem tileRead_sr (a : BitVec 12) (s : State) :
    (tileRead a s).2.umber.sr = s.umber.sr := by
  unfold tileRead
  split <;> simp

@[simp] theorem notePerr_sr (m : Master) (idx : ℕ) (reason : BitVec 4) (write : Bool) (s : State) :
    (notePerr m idx reason write s).umber.sr = s.umber.sr := by
  simp [notePerr]

@[simp] theorem State.setRng_sr (s : State) (g : RngSt) :
    (s.setRng g).umber.sr = s.umber.sr := rfl

@[simp] theorem rngForget_sr (gone : Master → Bool) (s : State) :
    (rngForget gone s).umber.sr = s.umber.sr := rfl

@[simp] theorem showRng_sr (s : State) :
    (showRng s).umber.sr = s.umber.sr := rfl

@[simp] theorem rngPop_sr (s : State) :
    (rngPop s).umber.sr = s.umber.sr := rfl

@[simp] theorem rngTake_sr (m : Master) (s : State) :
    (rngTake m s).2.umber.sr = s.umber.sr := by
  unfold rngTake
  (repeat' split) <;> simp

@[simp] theorem State.setPier_sr (s : State) (p : PierSt) :
    (s.setPier p).umber.sr = s.umber.sr := rfl

@[simp] theorem readTickLo_sr (m : Master) (s : State) :
    (readTickLo m s).2.umber.sr = s.umber.sr := by
  unfold readTickLo
  split <;> simp

@[simp] theorem readTickHi_sr (m : Master) (s : State) :
    (readTickHi m s).2.umber.sr = s.umber.sr := by
  unfold readTickHi
  split <;> simp

@[simp] theorem readRes_sr (m : Master) (i : ℕ) (s : State) :
    (readRes m i s).2.umber.sr = s.umber.sr := by
  unfold readRes
  split <;> simp

@[simp] theorem captureNow_sr (s : State) :
    (captureNow s).umber.sr = s.umber.sr := by
  simp [captureNow]

@[simp] theorem freezeCap_sr (s : State) :
    (freezeCap s).umber.sr = s.umber.sr := rfl

@[simp] theorem releaseCap_sr (s : State) :
    (releaseCap s).umber.sr = s.umber.sr := rfl

@[simp] theorem captureChannel_sr (c : Fin 48) (s : State) :
    (captureChannel c s).umber.sr = s.umber.sr := rfl

@[simp] theorem State.drawn_sr (s : State) :
    (s.drawn).umber.sr = s.umber.sr := rfl

@[simp] theorem readStep_sr (s : State) :
    (readStep s).2.umber.sr = s.umber.sr := by
  simp [readStep]

@[simp] theorem State.setCrypt_sr (s : State) (c : CryptSt) :
    (s.setCrypt c).umber.sr = s.umber.sr := rfl

@[simp] theorem cryptDraw_sr (n : Nat) (s : State) : (cryptDraw n s).umber.sr = s.umber.sr := by
  induction n generalizing s with
  | zero => rfl
  | succ n ih =>
    unfold cryptDraw
    (repeat' split) <;> simp [ih]

@[simp] theorem cryptPump_sr (s : State) :
    (cryptPump s).umber.sr = s.umber.sr := by
  unfold cryptPump
  split <;> simp

@[simp] theorem countCnt7_sr (s : State) :
    (countCnt7 s).umber.sr = s.umber.sr := rfl

@[simp] theorem setCryptStatus_sr (bit : ℕ) (s : State) :
    (setCryptStatus bit s).umber.sr = s.umber.sr := rfl

@[simp] theorem cryptOut_sr (s : State) :
    (cryptOut s).2.umber.sr = s.umber.sr := by
  unfold cryptOut
  split <;> simp

@[simp] theorem State.setMgmt_sr (s : State) (m : MgmtSt) :
    (s.setMgmt m).umber.sr = s.umber.sr := rfl

@[simp] theorem popEvent_sr (s : State) :
    (popEvent s).2.umber.sr = s.umber.sr := by
  unfold popEvent
  split <;> simp

@[simp] theorem State.setHost_sr (s : State) (h : HostSt) :
    (s.setHost h).umber.sr = s.umber.sr := rfl

@[simp] theorem clearRc_sr (i : ℕ) (s : State) :
    (clearRc i s).umber.sr = s.umber.sr := by
  unfold clearRc
  split <;> simp

@[simp] theorem readDoorIn_sr (s : State) :
    (readDoorIn s).2.umber.sr = s.umber.sr := rfl

@[simp] theorem readPar_sr (acc : Accessor) (i : Nat) (s : State) : (readPar acc i s).2.umber.sr = s.umber.sr := by
  refine ite_snd_keeps_sr rfl <| ite_snd_keeps_sr rfl <| ite_snd_keeps_sr ?_ <| ite_snd_keeps_sr rfl <| ite_snd_keeps_sr rfl <|
    ite_snd_keeps_sr (readTickLo_sr _ _) <| ite_snd_keeps_sr (readTickHi_sr _ _) <| ite_snd_keeps_sr (readRes_sr _ _ _) <|
    ite_snd_keeps_sr rfl <| ite_snd_keeps_sr rfl <| ite_snd_keeps_sr (captureNow_sr _) <| ite_snd_keeps_sr rfl <| ite_snd_keeps_sr rfl <|
    ite_snd_keeps_sr (captureChannel_sr _ _) <| ite_snd_keeps_sr (readStep_sr _) <| ite_snd_keeps_sr (cryptOut_sr _) <|
    ite_snd_keeps_sr (popEvent_sr _) <| ite_snd_keeps_sr (readDoorIn_sr _) (clearRc_sr _ _)
  split <;> rename_i h <;> exact (snd_sr_of_eq h).trans (rngTake_sr _ _)

@[simp] theorem radioEvent_sr (bit : ℕ) (s : State) :
    (radioEvent bit s).umber.sr = s.umber.sr := by
  simp [radioEvent]

@[simp] theorem State.setRadio_sr (s : State) (r : RadioSt) :
    (s.setRadio r).umber.sr = s.umber.sr := rfl

@[simp] theorem rxPop_sr (s : State) :
    (rxPop s).2.umber.sr = s.umber.sr := by
  unfold rxPop
  split <;> simp

@[simp] theorem fifoRead_sr (a : Addr) (s : State) :
    (fifoRead a s).2.umber.sr = s.umber.sr := by
  simp [fifoRead]

@[simp] theorem injected_sr (a : BitVec 18) (w : Word) (s : State) :
    (injected a w s).2.umber.sr = s.umber.sr := by
  simp [injected]

@[simp] theorem clearResv_sr (a : BitVec 18) (s : State) :
    (clearResv a s).umber.sr = s.umber.sr := by
  unfold clearResv
  split <;> simp

@[simp] theorem dropWb_sr (tile : Bool) (a : BitVec 18) (s : State) :
    (dropWb tile a s).umber.sr = s.umber.sr := rfl

@[simp] theorem putSram_sr (a : BitVec 18) (c : Cell) (s : State) :
    (putSram a c s).umber.sr = s.umber.sr := rfl

@[simp] theorem sramWrite_sr (a : BitVec 18) (w : Word) (s : State) :
    (sramWrite a w s).umber.sr = s.umber.sr := by
  simp [sramWrite]

@[simp] theorem sramPartial_sr (finder : BitVec 3) (a : BitVec 18) (mask : BitVec 4) (w : Word) (s : State) :
    (sramPartial finder a mask w s).2.umber.sr = s.umber.sr := by
  grind [sramPartial, sramWrite_sr, sramRead_sr, injected_sr, clearResv_sr, dropWb_sr, putSram_sr]

@[simp] theorem drainEntry_sr (e : SbEntry) (s : State) :
    (drainEntry e s).umber.sr = s.umber.sr := by
  grind [drainEntry, State.raiseIrq_sr, State.parBit_sr, State.pushLog_sr, sramPartial_sr, umberGrant_sr]

@[simp] theorem drainOne_sr (s : State) :
    (drainOne s).umber.sr = s.umber.sr := by
  unfold drainOne
  split <;> simp

@[simp] theorem State.setArchState_sr (s : State) (k : ℕ) (v : BitVec 3) :
    (s.setArchState k v).umber.sr = s.umber.sr := rfl

@[simp] theorem setToOff_sr (k : ℕ) (b : Bool) (s : State) :
    (setToOff k b s).umber.sr = s.umber.sr := rfl

@[simp] theorem archStart_sr (k : ℕ) (s : State) :
    (archStart k s).umber.sr = s.umber.sr := by
  simp [archStart]

@[simp] theorem archesSettle_sr (s : State) :
    (archesSettle s).umber.sr = s.umber.sr := by
  simp [archesSettle]

@[simp] theorem allocStore_sr (a : BitVec 18) (mask : BitVec 4) (w : Word) (s : State) :
    (allocStore a mask w s).umber.sr = s.umber.sr := by
  simp [allocStore]

@[simp] theorem putTile_sr (a : BitVec 12) (c : Cell) (s : State) :
    (putTile a c s).umber.sr = s.umber.sr := rfl

@[simp] theorem tileWrite_sr (a : BitVec 12) (mask : BitVec 4) (w : Word) (s : State) :
    (tileWrite a mask w s).2.umber.sr = s.umber.sr := by
  grind [tileWrite, dropWb_sr, putTile_sr, tileRead_sr]

@[simp] theorem drainAll_sr (s : State) :
    (drainAll s).umber.sr = s.umber.sr := by
  simp [drainAll]

@[simp] theorem setResv_sr (r : Option (Addr × Dom)) (s : State) :
    (setResv r s).umber.sr = s.umber.sr := rfl

@[simp] theorem sramAtomic_sr (finder : BitVec 3) (a : BitVec 18) (f : Word → Word) (s : State) :
    (sramAtomic finder a f s).2.umber.sr = s.umber.sr := by
  grind [sramAtomic, sramRead_sr, injected_sr, clearResv_sr, dropWb_sr, putSram_sr]

@[simp] theorem bankStall_sr (x0 : Addr) (y : Addr) (s : State) :
    (bankStall x0 y s).umber.sr = s.umber.sr := by
  unfold bankStall
  split <;> simp

@[simp] theorem State.setLocks_sr (s : State) (l : SMap Dom) :
    (s.setLocks l).umber.sr = s.umber.sr := rfl

@[simp] theorem takeLock_sr (k : BitVec 8) (d : Dom) (s : State) :
    (takeLock k d s).umber.sr = s.umber.sr := by
  unfold takeLock
  split <;> simp

@[simp] theorem freeLock_sr (k : BitVec 8) (s : State) :
    (freeLock k s).umber.sr = s.umber.sr := rfl

@[simp] theorem frameStep_sr (w : Word) (s : State) :
    (frameStep w s).umber.sr = s.umber.sr := rfl

@[simp] theorem drainSettled_sr (s : State) :
    (drainSettled s).umber.sr = s.umber.sr := by
  simp [drainSettled]

@[simp] theorem nvmSettled_sr (s : State) :
    (nvmSettled s).umber.sr = s.umber.sr := rfl

@[simp] theorem State.setPwr_sr (s : State) (p : PowerSt) :
    (s.setPwr p).umber.sr = s.umber.sr := rfl

@[simp] theorem freshTime_sr (s : State) :
    (freshTime s).umber.sr = s.umber.sr := rfl

@[simp] theorem disarm_sr (n : Fin 8) (s : State) :
    (disarm n s).umber.sr = s.umber.sr := rfl

@[simp] theorem timeModeEntry_sr (s : State) :
    (timeModeEntry s).umber.sr = s.umber.sr := by
  simp [timeModeEntry]

@[simp] theorem setSearch_sr (v : BitVec 2) (s : State) :
    (setSearch v s).umber.sr = s.umber.sr := rfl

@[simp] theorem fifoLevels_sr (s : State) :
    (fifoLevels s).umber.sr = s.umber.sr := by
  simp [fifoLevels]

@[simp] theorem State.setTrs_sr (s : State) (t : TrsSt) :
    (s.setTrs t).umber.sr = s.umber.sr := rfl

@[simp] theorem trsModeEntry_sr (s : State) :
    (trsModeEntry s).umber.sr = s.umber.sr := rfl

@[simp] theorem l1Invalid_sr (s : State) :
    (l1Invalid s).umber.sr = s.umber.sr := rfl

@[simp] theorem goRadio_sr (code : BitVec 4) (hold : Bool) (sending : Bool) (s : State) :
    (goRadio code hold sending s).umber.sr = s.umber.sr := by
  simp [goRadio]

@[simp] theorem State.setLife_sr (s : State) (l : LifeSt) :
    (s.setLife l).umber.sr = s.umber.sr := rfl

@[simp] theorem gateEvent_sr (event : BitVec 3) (detail : ℕ) (s : State) :
    (gateEvent event detail s).umber.sr = s.umber.sr := rfl

@[simp] theorem gateLog_sr (event : BitVec 3) (detail : ℕ) (s : State) :
    (gateLog event detail s).umber.sr = s.umber.sr := by
  simp [gateLog]

@[simp] theorem setLastRes_sr (r : BitVec 3) (s : State) :
    (setLastRes r s).umber.sr = s.umber.sr := rfl

@[simp] theorem refuseChallenge_sr (c : BitVec 3) (s : State) :
    (refuseChallenge c s).umber.sr = s.umber.sr := by
  simp [refuseChallenge]

@[simp] theorem sepiaDrops_sr (s : State) :
    (sepiaDrops s).umber.sr = s.umber.sr := rfl

@[simp] theorem sepiaReads_sr (n : Nat) (s : State) : (sepiaReads n s).umber.sr = s.umber.sr := by
  induction n generalizing s with
  | zero => rfl
  | succ n ih =>
    have h := rngTake_sr .sepia s
    unfold sepiaReads
    split
    · rfl
    · split <;> simp_all

@[simp] theorem formChallenge_sr (ws : List (BitVec 32)) (s : State) :
    (formChallenge ws s).umber.sr = s.umber.sr := rfl

@[simp] theorem challengeWords_sr (s : State) :
    (challengeWords s).umber.sr = s.umber.sr := by
  simp [challengeWords]

@[simp] theorem challengeRetry_sr (s : State) :
    (challengeRetry s).umber.sr = s.umber.sr := by
  simp [challengeRetry]

@[simp] theorem clearKeys_sr (s : State) :
    (clearKeys s).umber.sr = s.umber.sr := rfl

@[simp] theorem clearFifos_sr (s : State) :
    (clearFifos s).umber.sr = s.umber.sr := rfl

@[simp] theorem endOp_sr (code : BitVec 5) (cmd : BitVec 20) (owner : Dom) (s : State) :
    (endOp code cmd owner s).umber.sr = s.umber.sr := by
  simp [endOp]

@[simp] theorem endEarly_sr (code : BitVec 5) (cmd : BitVec 20) (owner : Dom) (s : State) :
    (endEarly code cmd owner s).umber.sr = s.umber.sr := by
  simp [endEarly]

@[simp] theorem stopOp_sr (code : BitVec 5) (s : State) :
    (stopOp code s).umber.sr = s.umber.sr := by
  unfold stopOp
  split <;> simp

@[simp] theorem cipherStop_sr (s : State) :
    (cipherStop s).umber.sr = s.umber.sr := by
  simp [cipherStop]

@[simp] theorem State.setFace_sr (s : State) (f : FaceSt) :
    (s.setFace f).umber.sr = s.umber.sr := rfl

@[simp] theorem coreLost_sr (s : State) :
    (coreLost s).umber.sr = s.umber.sr := rfl

@[simp] theorem modeEntry_sr (s : State) :
    (modeEntry s).umber.sr = s.umber.sr := by
  simp [modeEntry]

@[simp] theorem initArch_sr (k : ℕ) (s : State) :
    (initArch k s).umber.sr = s.umber.sr := by
  unfold initArch
  split <;> simp

@[simp] theorem archesLost_sr (ks : List ℕ) (s : State) :
    (archesLost ks s).umber.sr = s.umber.sr := by
  simp [archesLost]

@[simp] theorem State.setWake_sr (s : State) (w : WakeSt) :
    (s.setWake w).umber.sr = s.umber.sr := rfl

@[simp] theorem wakeEnter_sr (s : State) :
    (wakeEnter s).umber.sr = s.umber.sr := rfl

@[simp] theorem State.setPod_sr (s : State) (p : PodSt) :
    (s.setPod p).umber.sr = s.umber.sr := rfl

@[simp] theorem showHalted_sr (b : Bool) (s : State) :
    (showHalted b s).umber.sr = s.umber.sr := rfl

@[simp] theorem resumeUmber_sr (s : State) :
    (resumeUmber s).umber.sr = s.umber.sr := by
  simp [resumeUmber]

@[simp] theorem showRights_sr (dar : Bool) (s : State) :
    (showRights dar s).umber.sr = s.umber.sr := by
  simp [showRights]

@[simp] theorem withdrawRights_sr (reset : Bool) (s : State) :
    (withdrawRights reset s).umber.sr = s.umber.sr := by
  simp [withdrawRights]

@[simp] theorem enterMode_sr (target : ℕ) (s : State) :
    (enterMode target s).umber.sr = s.umber.sr := by
  simp -implicitDefEqProofs [enterMode]

@[simp] theorem tryStop_sr (s : State) :
    (tryStop s).umber.sr = s.umber.sr := by
  simp [tryStop]

@[simp] theorem resumeStream_sr (pc : Addr) (s : State) :
    (resumeStream pc s).umber.sr = s.umber.sr := rfl

@[simp] theorem quietFrom_sr (n : ℕ) (s : State) :
    (quietFrom n s).umber.sr = s.umber.sr := rfl

@[simp] theorem raiseStrikes_sr (gs : List StrikeSig) (s : State) : (raiseStrikes gs s).umber.sr = s.umber.sr := by
  refine foldl_sr ?_ gs s
  intro s g
  rfl

@[simp] theorem arriveIrqs_sr (s : State) :
    (arriveIrqs s).umber.sr = s.umber.sr := by
  simp [arriveIrqs]

@[simp] theorem noteViol_sr (code : BitVec 3) (dom : Dom) (a : Addr) (write : Bool) (s : State) :
    (noteViol code dom a write s).umber.sr = s.umber.sr := by
  simp [noteViol]

@[simp] theorem nvmSaw_sr (may : Addr → Bool) (prog : Bool) (lo : ℕ) (n : ℕ) (s : State) :
    (nvmSaw may prog lo n s).umber.sr = s.umber.sr := by
  simp [nvmSaw]

@[simp] theorem sepiaSaw_sr (prog : Bool) (lo : ℕ) (n : ℕ) (s : State) :
    (sepiaSaw prog lo n s).umber.sr = s.umber.sr := by
  simp [sepiaSaw]

@[simp] theorem putProg_sr (a : ℕ) (c : Cell) (s : State) :
    (putProg a c s).umber.sr = s.umber.sr := by
  simp [putProg]

@[simp] theorem putDnvm_sr (a : ℕ) (c : Cell) (s : State) :
    (putDnvm a c s).umber.sr = s.umber.sr := rfl

@[simp] theorem putNvm_sr (a : Addr) (c : Cell) (s : State) :
    (putNvm a c s).umber.sr = s.umber.sr := by
  simp [putNvm]

@[simp] theorem nvmPut_sr (a : Addr) (w : Word) (flip : BitVec 43) (s : State) :
    (nvmPut a w flip s).umber.sr = s.umber.sr := by
  simp [nvmPut]

@[simp] theorem writeWords_sr (xs : List (ℕ × Word)) (s : State) :
    (writeWords xs s).umber.sr = s.umber.sr := by
  simp [writeWords]

@[simp] theorem writeDnvm_sr (a : ℕ) (ws : List Word) (s : State) :
    (writeDnvm a ws s).umber.sr = s.umber.sr := by
  simp [writeDnvm]

@[simp] theorem writeCfg_sr (f : List Word → List Word) (s : State) :
    (writeCfg f s).umber.sr = s.umber.sr := by
  simp [writeCfg]

@[simp] theorem writeRole_sr (v : BitVec 2) (s : State) :
    (writeRole v s).umber.sr = s.umber.sr := by
  simp [writeRole]

@[simp] theorem coreRelock_sr (s : State) :
    (coreRelock s).umber.sr = s.umber.sr := rfl

@[simp] theorem faceRefLost_sr (s : State) :
    (faceRefLost s).umber.sr = s.umber.sr := by
  simp [faceRefLost]

@[simp] theorem loadCalWhere_sr (sel : ℕ → Bool) (valid : Bool) (s : State) :
    (loadCalWhere sel valid s).umber.sr = s.umber.sr := by
  simp [loadCalWhere]

@[simp] theorem loadRadioCal_sr (s : State) :
    (loadRadioCal s).umber.sr = s.umber.sr := rfl

@[simp] theorem evalCal_sr (s : State) :
    (evalCal s).umber.sr = s.umber.sr := by
  simp [evalCal]

@[simp] theorem abandonMeas_sr (s : State) :
    (abandonMeas s).umber.sr = s.umber.sr := by
  simp [abandonMeas]

@[simp] theorem histFlag_sr (e : BitVec 4) (bit : ℕ) (s : State) :
    (histFlag e bit s).umber.sr = s.umber.sr := rfl

@[simp] theorem abandonRx_sr (s : State) :
    (abandonRx s).umber.sr = s.umber.sr := by
  unfold abandonRx
  split <;> simp

@[simp] theorem linkEvent_sr (bit : ℕ) (s : State) :
    (linkEvent bit s).umber.sr = s.umber.sr := by
  simp [linkEvent]

@[simp] theorem stopRadio_sr (s : State) :
    (stopRadio s).umber.sr = s.umber.sr := by
  simp [stopRadio]

@[simp] theorem towardStandby_sr (wl : Bool) (done : Bool) (s : State) :
    (towardStandby wl done s).umber.sr = s.umber.sr := by
  simp [towardStandby]

@[simp] theorem resetPars_sr (lo : ℕ) (hi : ℕ) (s : State) :
    (resetPars lo hi s).umber.sr = s.umber.sr := rfl

@[simp] theorem radioOn_sr (s : State) :
    (radioOn s).umber.sr = s.umber.sr := by
  simp [radioOn]

@[simp] theorem radioKept_sr (s : State) :
    (radioKept s).umber.sr = s.umber.sr := by
  simp [radioKept]

@[simp] theorem gLoses_sr (s : State) :
    (gLoses s).umber.sr = s.umber.sr := by
  simp [gLoses]

@[simp] theorem trsRefLost_sr (s : State) :
    (trsRefLost s).umber.sr = s.umber.sr := by
  simp [trsRefLost]

@[simp] theorem radioOff_sr (s : State) :
    (radioOff s).umber.sr = s.umber.sr := rfl

@[simp] theorem radioRefLost_sr (s : State) :
    (radioRefLost s).umber.sr = s.umber.sr := by
  grind [radioRefLost, State.parBit_sr, goRadio_sr, stopRadio_sr, radioEvent_sr, State.setRadio_sr, radioOff_sr]

@[simp] theorem setStrikeStatus_sr (n : Fin 8) (bit : ℕ) (s : State) :
    (setStrikeStatus n bit s).umber.sr = s.umber.sr := rfl

@[simp] theorem timeRefLost_sr (s : State) :
    (timeRefLost s).umber.sr = s.umber.sr := by
  simp [timeRefLost]

@[simp] theorem refStop_sr (ran : Bool) (s : State) :
    (refStop ran s).umber.sr = s.umber.sr := by
  simp [refStop]

@[simp] theorem writeClkctl_sr (v : Word) (s : State) :
    (writeClkctl v s).umber.sr = s.umber.sr := by
  simp [writeClkctl]

@[simp] theorem writeDvfs_sr (v : Word) (s : State) :
    (writeDvfs v s).umber.sr = s.umber.sr := by
  grind [writeDvfs, State.setPar_sr, State.setPwr_sr]

@[simp] theorem trsOff_sr (s : State) :
    (trsOff s).umber.sr = s.umber.sr := rfl

@[simp] theorem trsOn_sr (s : State) :
    (trsOn s).umber.sr = s.umber.sr := by
  simp [trsOn]

@[simp] theorem bumpPar_sr (i : ℕ) (s : State) :
    (bumpPar i s).umber.sr = s.umber.sr := rfl

@[simp] theorem startFault_sr (down : Bool) (s : State) :
    (startFault down s).umber.sr = s.umber.sr := by
  simp [startFault]

@[simp] theorem radioPowerOff_sr (s : State) :
    (radioPowerOff s).umber.sr = s.umber.sr := by
  simp [radioPowerOff]

@[simp] theorem cipherShellReset_sr (s : State) :
    (cipherShellReset s).umber.sr = s.umber.sr := rfl

@[simp] theorem cipherPowerUp_sr (s : State) :
    (cipherPowerUp s).umber.sr = s.umber.sr := rfl

@[simp] theorem cipherOff_sr (s : State) :
    (cipherOff s).umber.sr = s.umber.sr := by
  simp [cipherOff]

@[simp] theorem writeIsland_sr (v : Word) (s : State) :
    (writeIsland v s).umber.sr = s.umber.sr := by
  simp [writeIsland]

@[simp] theorem tickWrite_sr (hi : Bool) (v : Word) (s : State) :
    (tickWrite hi v s).umber.sr = s.umber.sr := by
  simp [tickWrite]

@[simp] theorem secWrite_sr (v : Word) (s : State) :
    (secWrite v s).umber.sr = s.umber.sr := rfl

@[simp] theorem pwronAck_sr (v : Word) (s : State) :
    (pwronAck v s).umber.sr = s.umber.sr := by
  simp [pwronAck]

@[simp] theorem store_sr (i : ℕ) (v : Word) (s : State) :
    (store i v s).umber.sr = s.umber.sr := rfl

@[simp] theorem startLoad_sr (s : State) :
    (startLoad s).umber.sr = s.umber.sr := rfl

@[simp] theorem timeCtlWrite_sr (v : Word) (s : State) :
    (timeCtlWrite v s).umber.sr = s.umber.sr := by
  simp [timeCtlWrite]

@[simp] theorem strkCtlWrite_sr (n : Fin 8) (v : Word) (s : State) :
    (strkCtlWrite n v s).umber.sr = s.umber.sr := by
  simp [strkCtlWrite]

@[simp] theorem archCtlWrite_sr (v : Word) (s : State) :
    (archCtlWrite v s).umber.sr = s.umber.sr := by
  simp [archCtlWrite]

@[simp] theorem markInFlight_sr (d : Dom) (s : State) :
    (markInFlight d s).umber.sr = s.umber.sr := by
  simp [markInFlight]

@[simp] theorem releaseLocks_sr (d : Dom) (s : State) :
    (releaseLocks d s).umber.sr = s.umber.sr := rfl

@[simp] theorem disableRegions_sr (d : ℕ) (s : State) :
    (disableRegions d s).umber.sr = s.umber.sr := rfl

@[simp] theorem State.setDmaPar_sr (s : State) (base : ℕ) (c : Fin 16) (v : Word) :
    (s.setDmaPar base c v).umber.sr = s.umber.sr := rfl

@[simp] theorem setDmaState_sr (c : Fin 16) (v : BitVec 3) (s : State) :
    (setDmaState c v s).umber.sr = s.umber.sr := rfl

@[simp] theorem State.setDma_sr (s : State) (c : Fin 16) (d : DmaSt) :
    (s.setDma c d).umber.sr = s.umber.sr := rfl

@[simp] theorem State.orPar_sr (s : State) (i : ℕ) (v : Word) :
    (s.orPar i v).umber.sr = s.umber.sr := rfl

@[simp] theorem clearKeysOf_sr (p : Dom → Bool) (s : State) :
    (clearKeysOf p s).umber.sr = s.umber.sr := by
  simp [clearKeysOf]

@[simp] theorem cryptRevoke_sr (d : Dom) (s : State) :
    (cryptRevoke d s).umber.sr = s.umber.sr := by
  grind [cryptRevoke, State.orPar_sr, stopOp_sr, clearFifos_sr, clearKeysOf_sr]

@[simp] theorem svcResult_sr (v : Service) (status : BitVec 8) (reply : Word) (s : State) :
    (svcResult v status reply s).umber.sr = s.umber.sr := rfl

@[simp] theorem svcRevoke_sr (d : Dom) (s : State) :
    (svcRevoke d s).umber.sr = s.umber.sr := by
  unfold svcRevoke
  split <;> simp

@[simp] theorem showNvmQ_sr (s : State) :
    (showNvmQ s).umber.sr = s.umber.sr := rfl

@[simp] theorem nvmRevoke_sr (d : Dom) (s : State) :
    (nvmRevoke d s).umber.sr = s.umber.sr := by
  grind [nvmRevoke, State.setMgmt_sr, State.setPar_sr, showNvmQ_sr]

@[simp] theorem revokeDomain_sr (d : Dom) (byKernel : Bool) (s : State) :
    (revokeDomain d byKernel s).umber.sr = s.umber.sr := by
  simp [revokeDomain]

@[simp] theorem State.setBlockMask_sr (s : State) (b : ℕ) (v : BitVec 32) :
    (s.setBlockMask b v).umber.sr = s.umber.sr := rfl

@[simp] theorem pmaskWrite_sr (v : Word) (s : State) :
    (pmaskWrite v s).umber.sr = s.umber.sr := rfl

@[simp] theorem lkviewWrite_sr (dom : Dom) (v : Word) (s : State) :
    (lkviewWrite dom v s).umber.sr = s.umber.sr := by
  simp [lkviewWrite]

@[simp] theorem setDmaStatus_sr (c : Fin 16) (bit : ℕ) (s : State) :
    (setDmaStatus c bit s).umber.sr = s.umber.sr := rfl

@[simp] theorem showElem_sr (c : Fin 16) (s : State) :
    (showElem c s).umber.sr = s.umber.sr := rfl

@[simp] theorem dmaFault_sr (c : Fin 16) (code : BitVec 5) (addr : Addr) (s : State) :
    (dmaFault c code addr s).umber.sr = s.umber.sr := by
  simp [dmaFault]

@[simp] theorem gate_sr (c : Fin 16) (s : State) :
    (gate c s).umber.sr = s.umber.sr := by
  simp [gate]

@[simp] theorem beginDescriptor_sr (c : Fin 16) (s : State) :
    (beginDescriptor c s).umber.sr = s.umber.sr := by
  simp [beginDescriptor]

@[simp] theorem loadParamDesc_sr (c : Fin 16) (s : State) :
    (loadParamDesc c s).umber.sr = s.umber.sr := rfl

@[simp] theorem startDma_sr (c : Fin 16) (byReq : Bool) (s : State) :
    (startDma c byReq s).umber.sr = s.umber.sr := by
  simp [startDma]

@[simp] theorem chainDone_sr (c : Fin 16) (s : State) :
    (chainDone c s).umber.sr = s.umber.sr := rfl

@[simp] theorem descriptorDone_sr (c : Fin 16) (s : State) :
    (descriptorDone c s).umber.sr = s.umber.sr := by
  simp [descriptorDone]

@[simp] theorem resumeDma_sr (c : Fin 16) (s : State) :
    (resumeDma c s).umber.sr = s.umber.sr := by
  simp [resumeDma]

@[simp] theorem dropRecord_sr (c : Fin 16) (s : State) :
    (dropRecord c s).umber.sr = s.umber.sr := rfl

@[simp] theorem abortDma_sr (c : Fin 16) (s : State) :
    (abortDma c s).umber.sr = s.umber.sr := by
  simp [abortDma]

@[simp] theorem dmaCommand_sr (c : Fin 16) (v : Word) (s : State) :
    (dmaCommand c v s).umber.sr = s.umber.sr := by
  simp [dmaCommand]

@[simp] theorem State.setBank_sr (s : State) (b : BankSt) :
    (s.setBank b).umber.sr = s.umber.sr := rfl

@[simp] theorem writeLow_sr  (acc : Accessor) (i : ℕ) (v : Word) (s : State) : (writeLow acc i v s).umber.sr = s.umber.sr :=
  ite_keeps_sr (writeRole_sr _ _) <| ite_keeps_sr (writeClkctl_sr _ _) <| ite_keeps_sr (writeDvfs_sr _ _) <|
  ite_keeps_sr (writeIsland_sr _ _) <| ite_keeps_sr (tickWrite_sr _ _ _) <| ite_keeps_sr (tickWrite_sr _ _ _) <|
  ite_keeps_sr (secWrite_sr _ _) <| ite_keeps_sr (pwronAck_sr _ _) <| ite_keeps_sr rfl <|
  ite_keeps_sr (timeCtlWrite_sr _ _) <| ite_keeps_sr (strkCtlWrite_sr _ _ _) <| ite_keeps_sr (archCtlWrite_sr _ _) <|
  ite_keeps_sr (ite_keeps_sr (revokeDomain_sr _ _ _) rfl) <| ite_keeps_sr rfl <| ite_keeps_sr (pmaskWrite_sr _ _) <|
  ite_keeps_sr (lkviewWrite_sr _ _ _) <| ite_keeps_sr (dmaCommand_sr _ _ _) <| ite_keeps_sr rfl <| ite_keeps_sr rfl <| store_sr _ _ _

@[simp] theorem setTempNow_sr (t : BitVec 10) (s : State) :
    (setTempNow t s).umber.sr = s.umber.sr := by
  simp [setTempNow]

@[simp] theorem gctlWrite_sr (v : Word) (s : State) :
    (gctlWrite v s).umber.sr = s.umber.sr := by
  simp [gctlWrite]

@[simp] theorem lowerTo_sr (code : BitVec 4) (next : Option (BitVec 4)) (done : Bool) (s : State) :
    (lowerTo code next done s).umber.sr = s.umber.sr := by
  simp [lowerTo]

@[simp] theorem endListening_sr (s : State) :
    (endListening s).umber.sr = s.umber.sr := by
  grind [endListening, State.parBit_sr, State.setPar_sr, State.drawn_sr]

@[simp] theorem sampleCfg_sr (s : State) :
    (sampleCfg s).umber.sr = s.umber.sr := rfl

@[simp] theorem startSettling_sr (n : ℕ) (s : State) :
    (startSettling n s).umber.sr = s.umber.sr := rfl

@[simp] theorem beginOut_sr (o : RadioOut) (s : State) :
    (beginOut o s).umber.sr = s.umber.sr := by
  unfold beginOut
  split <;> simp

@[simp] theorem leaveStandby_sr (o : RadioOut) (s : State) :
    (leaveStandby o s).umber.sr = s.umber.sr := by
  simp [leaveStandby]

@[simp] theorem retune_sr (rx : Bool) (s : State) : (retune rx s).umber.sr = s.umber.sr := by
  rw [retune, State.setPar_umber, State.setRadio_umber]

@[simp] theorem startTurn_sr (rx : Bool) (done : Bool) (work : Option TxWork) (s : State) :
    (startTurn rx done work s).umber.sr = s.umber.sr := by
  simp [startTurn]

@[simp] theorem startChsw_sr (rx : Bool) (s : State) :
    (startChsw rx s).umber.sr = s.umber.sr := by
  simp [startChsw]

theorem radioAct_sr {code : Nat} {s t : State} (h : radioAct code s = some t) : t.umber.sr = s.umber.sr := by
  unfold radioAct at h
  dsimp only at h
  split at h
  · simp at h
  · (repeat' split at h) <;> simp only [reduceCtorEq, Option.some.injEq] at h <;> (subst h; simp)

@[simp] theorem hopOver_sr (s : State) :
    (hopOver s).umber.sr = s.umber.sr := by
  simp [hopOver]

@[simp] theorem radioCommand_sr (code : Nat) (s : State) : (radioCommand code s).umber.sr = s.umber.sr := by
  unfold radioCommand
  split
  · rename_i t h
    simp [radioAct_sr h]
  · simp

@[simp] theorem latchedCommand_sr (code : ℕ) (chan : BitVec 6) (s : State) :
    (latchedCommand code chan s).umber.sr = s.umber.sr := by
  simp [latchedCommand]

@[simp] theorem txPush_sr (v : Word) (s : State) :
    (txPush v s).umber.sr = s.umber.sr := by
  simp [txPush]

@[simp] theorem txFlush_sr (s : State) :
    (txFlush s).umber.sr = s.umber.sr := rfl

@[simp] theorem rxFlush_sr (s : State) :
    (rxFlush s).umber.sr = s.umber.sr := rfl

@[simp] theorem doRadioLate_sr (r : RadioLate) (s : State) :
    (doRadioLate r s).umber.sr = s.umber.sr := by
  unfold doRadioLate
  split <;> simp

@[simp] theorem radioRequest_sr (r : RadioLate) (s : State) :
    (radioRequest r s).umber.sr = s.umber.sr := by
  simp [radioRequest]

@[simp] theorem fifoCfgWrite_sr (v : Word) (s : State) :
    (fifoCfgWrite v s).umber.sr = s.umber.sr := by
  simp [fifoCfgWrite]

@[simp] theorem filterTaken_sr (s : State) :
    (filterTaken s).umber.sr = s.umber.sr := by
  unfold filterTaken
  split <;> simp

@[simp] theorem State.setCh_sr (s : State) (c : Fin 48) (h : TrsCh) :
    (s.setCh c h).umber.sr = s.umber.sr := rfl

@[simp] theorem enableChannel_sr (c : Fin 48) (s : State) :
    (enableChannel c s).umber.sr = s.umber.sr := rfl

@[simp] theorem disableChannel_sr (c : Fin 48) (s : State) :
    (disableChannel c s).umber.sr = s.umber.sr := rfl

@[simp] theorem startChannels_sr (marks : BitVec 48) (s : State) :
    (startChannels marks s).umber.sr = s.umber.sr := by
  simp [startChannels]

@[simp] theorem searchReject_sr (s : State) :
    (searchReject s).umber.sr = s.umber.sr := rfl

@[simp] theorem beginPass_sr (s : State) :
    (beginPass s).umber.sr = s.umber.sr := rfl

@[simp] theorem startPass_sr (s : State) :
    (startPass s).umber.sr = s.umber.sr := by
  unfold startPass
  split <;> simp

@[simp] theorem endAbort_sr (s : State) :
    (endAbort s).umber.sr = s.umber.sr := by
  simp [endAbort]

@[simp] theorem searchCommand_sr (cmd : ℕ) (scfg : Word) (s : State) :
    (searchCommand cmd scfg s).umber.sr = s.umber.sr := by
  unfold searchCommand
  split <;> simp

@[simp] theorem loadCode_sr (a : BitVec 12) (v : BitVec 32) (s : State) :
    (loadCode a v s).umber.sr = s.umber.sr := rfl

@[simp] theorem addCodeFreq_sr (c : Fin 48) (d : BitVec 32) (s : State) :
    (addCodeFreq c d s).umber.sr = s.umber.sr := rfl

@[simp] theorem doRequest_sr (r : TrsReq) (s : State) :
    (doRequest r s).umber.sr = s.umber.sr := by
  unfold doRequest
  split <;> simp

@[simp] theorem showEnables_sr (marks : BitVec 48) (on : BitVec 48) (s : State) :
    (showEnables marks on s).umber.sr = s.umber.sr := by
  simp [showEnables]

@[simp] theorem showRequest_sr (r : TrsReq) (s : State) :
    (showRequest r s).umber.sr = s.umber.sr := by
  unfold showRequest
  split <;> simp

@[simp] theorem trsRequest_sr (r : TrsReq) (s : State) :
    (trsRequest r s).umber.sr = s.umber.sr := by
  simp [trsRequest]

@[simp] theorem chStartWrite_sr (lo : Word) (s : State) :
    (chStartWrite lo s).umber.sr = s.umber.sr := by
  simp -implicitDefEqProofs [chStartWrite]

@[simp] theorem codeWrite_sr (v : BitVec 32) (s : State) :
    (codeWrite v s).umber.sr = s.umber.sr := by
  simp [codeWrite]

@[simp] theorem chCtlWrite_sr (c : Fin 48) (v : Word) (s : State) :
    (chCtlWrite c v s).umber.sr = s.umber.sr := by
  simp [chCtlWrite]

@[simp] theorem carrFreqWrite_sr (c : Fin 48) (v : BitVec 32) (s : State) :
    (carrFreqWrite c v s).umber.sr = s.umber.sr := by
  grind [carrFreqWrite, State.setPar_sr, trsRequest_sr]

@[simp] theorem codeFreqWrite_sr (c : Fin 48) (v : Word) (s : State) :
    (codeFreqWrite c v s).umber.sr = s.umber.sr := by
  simp [codeFreqWrite]

@[simp] theorem chAdjust_sr (c : Fin 48) (carr : Bool) (v : Word) (s : State) :
    (chAdjust c carr v s).umber.sr = s.umber.sr := by
  simp [chAdjust]

@[simp] theorem secCfgWrite_sr (c : Fin 48) (v : Word) (s : State) :
    (secCfgWrite c v s).umber.sr = s.umber.sr := by
  simp [secCfgWrite]

@[simp] theorem writeMid_sr (i : ℕ) (v : Word) (s : State) :
    (writeMid i v s).umber.sr = s.umber.sr := by
  simp [writeMid]

@[simp] theorem cipherSaw_sr (lo : ℕ) (n : ℕ) (s : State) :
    (cipherSaw lo n s).umber.sr = s.umber.sr := by
  simp [cipherSaw]

@[simp] theorem startOp_sr (cmd : BitVec 20) (owner : Dom) (s : State) :
    (startOp cmd owner s).umber.sr = s.umber.sr := by
  grind [startOp, endEarly_sr, cipherSaw_sr, State.pushLog_sr, clearKeys_sr, clearFifos_sr, State.setPar_sr, cryptPump_sr, State.setCrypt_sr]

@[simp] theorem cryptCmd_sr (owner : Dom) (v : Word) (s : State) :
    (cryptCmd owner v s).umber.sr = s.umber.sr := by
  unfold cryptCmd
  split <;> simp

@[simp] theorem cryptIn_sr (v : Word) (s : State) :
    (cryptIn v s).umber.sr = s.umber.sr := by
  unfold cryptIn
  split <;> simp

@[simp] theorem cryptKey_sr (i : Fin 8) (dom : Dom) (v : Word) (s : State) :
    (cryptKey i dom v s).umber.sr = s.umber.sr := rfl

@[simp] theorem rngCtlWrite_sr (v : Word) (s : State) :
    (rngCtlWrite v s).umber.sr = s.umber.sr := rfl

@[simp] theorem startTransition_sr (target : BitVec 16) (s : State) :
    (startTransition target s).umber.sr = s.umber.sr := rfl

@[simp] theorem startOwnerHash_sr (s : State) :
    (startOwnerHash s).umber.sr = s.umber.sr := rfl

@[simp] theorem challenge_sr (s : State) :
    (challenge s).umber.sr = s.umber.sr := by
  simp [challenge]

@[simp] theorem responseFails_sr (code : BitVec 3) (s : State) :
    (responseFails code s).umber.sr = s.umber.sr := by
  simp [responseFails]

@[simp] theorem checkResponse_sr (s : State) :
    (checkResponse s).umber.sr = s.umber.sr := by
  simp [checkResponse]

@[simp] theorem dropRights_sr (s : State) :
    (dropRights s).umber.sr = s.umber.sr := by
  simp [dropRights]

@[simp] theorem startCerts_sr (s : State) :
    (startCerts s).umber.sr = s.umber.sr := rfl

@[simp] theorem debugCmd_sr (v : Word) (s : State) :
    (debugCmd v s).umber.sr = s.umber.sr := by
  unfold debugCmd
  split <;> simp

@[simp] theorem State.countMgmt_sr (s : State) (k : ℕ) :
    (s.countMgmt k).umber.sr = s.umber.sr := rfl

@[simp] theorem svcGo_sr (dom : Dom) (host : Bool) (s : State) :
    (svcGo dom host s).umber.sr = s.umber.sr := by
  simp [svcGo]

@[simp] theorem svcRelease_sr (dom : Dom) (s : State) :
    (svcRelease dom s).umber.sr = s.umber.sr := by
  simp [svcRelease]

@[simp] theorem wdEnter_sr (stage : BitVec 2) (s : State) :
    (wdEnter stage s).umber.sr = s.umber.sr := rfl

@[simp] theorem writeWdcfg_sr (v : Word) (s : State) :
    (writeWdcfg v s).umber.sr = s.umber.sr := by
  simp [writeWdcfg]

@[simp] theorem raiseNmi_sr (s : State) :
    (raiseNmi s).umber.sr = s.umber.sr := by
  simp [raiseNmi]

@[simp] theorem wdKick_sr (v : Word) (s : State) :
    (wdKick v s).umber.sr = s.umber.sr := by
  simp [wdKick]

@[simp] theorem State.setHreg_sr (s : State) (r : Fin 32) (v : Byte) :
    (s.setHreg r v).umber.sr = s.umber.sr := rfl

@[simp] theorem hostIrq_sr (bit : ℕ) (s : State) :
    (hostIrq bit s).umber.sr = s.umber.sr := rfl

@[simp] theorem doorOut_sr (v : Word) (s : State) :
    (doorOut v s).umber.sr = s.umber.sr := rfl

@[simp] theorem startPod_sr (t : PodTxn) (s : State) :
    (startPod t s).umber.sr = s.umber.sr := rfl

@[simp] theorem podCommand_sr (v : Word) (s : State) :
    (podCommand v s).umber.sr = s.umber.sr := by
  simp [podCommand]

@[simp] theorem faceFlush_sr (s : State) :
    (faceFlush s).umber.sr = s.umber.sr := rfl

@[simp] theorem faceIrq_sr (s : State) :
    (faceIrq s).umber.sr = s.umber.sr := by
  simp [faceIrq]

@[simp] theorem faceEnds_sr (s : State) :
    (faceEnds s).umber.sr = s.umber.sr := by
  simp [faceEnds]

@[simp] theorem faceEnd_sr (s : State) :
    (faceEnd s).umber.sr = s.umber.sr := by
  simp [faceEnd]

@[simp] theorem faceCommand_sr (v : Word) (s : State) :
    (faceCommand v s).umber.sr = s.umber.sr := by
  simp [faceCommand]

@[simp] theorem facePush_sr (v : Word) (s : State) :
    (facePush v s).umber.sr = s.umber.sr := by
  simp [facePush]

@[simp] theorem raiseLine_sr (n : ℕ) (s : State) :
    (raiseLine n s).umber.sr = s.umber.sr := rfl

@[simp] theorem gpioEdge_sr (g : ℕ) (rise : Bool) (s : State) :
    (gpioEdge g rise s).umber.sr = s.umber.sr := by
  simp [gpioEdge]

@[simp] theorem gpioEdges_sr (before : Byte) (s : State) :
    (gpioEdges before s).umber.sr = s.umber.sr := by
  simp [gpioEdges]

@[simp] theorem gpioWrite_sr (i : ℕ) (v : Word) (s : State) :
    (gpioWrite i v s).umber.sr = s.umber.sr := by
  simp [gpioWrite]

@[simp] theorem resetDrain_sr (s : State) :
    (resetDrain s).2.umber.sr = s.umber.sr := by
  simp [resetDrain]

@[simp] theorem undoStep_sr (s : State) (a : NvmStep) :
    (undoStep s a).umber.sr = s.umber.sr := by
  unfold undoStep
  split <;> simp

theorem cutJob_sr {cut : Nat → State → NvmStep → State} (h : ∀ k s t, (cut k s t).umber.sr = s.umber.sr) (s : State) :
    (cutJob cut s).umber.sr = s.umber.sr := by
  unfold cutJob
  simp only
  split
  · rfl
  · exact (h _ _ _).trans ((undoStep_sr _ _).trans (foldl_sr undoStep_sr _ _))

@[simp] theorem tearStep_sr (key : ℕ) (s : State) (a : NvmStep) :
    (tearStep key s a).umber.sr = s.umber.sr := by
  unfold tearStep
  split <;> simp

@[simp] theorem stopStep_sr (key : ℕ) (s : State) (a : NvmStep) :
    (stopStep key s a).umber.sr = s.umber.sr := by
  unfold stopStep
  split <;> simp

@[simp] theorem stopJob_sr (s : State) : (stopJob s).umber.sr = s.umber.sr := cutJob_sr stopStep_sr s

@[simp] theorem loadFuses_sr (s : State) :
    (loadFuses s).umber.sr = s.umber.sr := rfl

@[simp] theorem zeroiseKeys_sr (s : State) :
    (zeroiseKeys s).umber.sr = s.umber.sr := by
  simp [zeroiseKeys]

@[simp] theorem showSlots_sr (s : State) :
    (showSlots s).umber.sr = s.umber.sr := by
  simp [showSlots]

@[simp] theorem updateLog_sr (result : ℕ) (k : BitVec 1) (s : State) :
    (updateLog result k s).umber.sr = s.umber.sr := by
  simp [updateLog]

@[simp] theorem blowRollback_sr (k : BitVec 1) (s : State) :
    (blowRollback k s).umber.sr = s.umber.sr := by
  simp [blowRollback]

@[simp] theorem setBoot_sr (w : Word) (s : State) :
    (setBoot w s).umber.sr = s.umber.sr := by
  simp [setBoot]

@[simp] theorem selectSlot_sr (s : State) :
    (selectSlot s).2.umber.sr = s.umber.sr := by
  grind [selectSlot, State.setPar_sr, showSlots_sr, blowRollback_sr, setBoot_sr, updateLog_sr, State.countMgmt_sr]

@[simp] theorem bootWrites_sr (s : State) :
    (bootWrites s).umber.sr = s.umber.sr := by
  grind [bootWrites, loadFuses_sr, zeroiseKeys_sr, selectSlot_sr]

@[simp] theorem writeLog_sr (s : State) : (writeLog s).umber.sr = s.umber.sr := by
  unfold writeLog
  split
  · rfl
  · refine (foldl_sr (fun _ _ => ?_) _ _).trans ?_
    · rfl
    · simp

@[simp] theorem sepiaIrq_sr (bit : ℕ) (s : State) :
    (sepiaIrq bit s).umber.sr = s.umber.sr := by
  simp [sepiaIrq]

@[simp] theorem endNvmReq_sr (result : BitVec 3) (s : State) :
    (endNvmReq result s).umber.sr = s.umber.sr := by
  unfold endNvmReq
  split <;> simp

@[simp] theorem clearSeal_sr (k : BitVec 1) (s : State) :
    (clearSeal k s).umber.sr = s.umber.sr := by
  simp [clearSeal]

@[simp] theorem unsealFor_sr (r : NvmReq) (s : State) :
    (unsealFor r s).umber.sr = s.umber.sr := by
  simp [unsealFor]

@[simp] theorem nvmWordWrite_sr (stuck : BitVec 43) (s : State) :
    (nvmWordWrite stuck s).umber.sr = s.umber.sr := by
  unfold nvmWordWrite
  (repeat' split) <;> simp

@[simp] theorem workInProgress_sr (s : State) :
    (workInProgress s).umber.sr = s.umber.sr := by
  simp [workInProgress]

@[simp] theorem finishNvm_sr (s : State) :
    (finishNvm s).umber.sr = s.umber.sr := by
  simp [finishNvm]

@[simp] theorem resetShells_sr (keepRws : Bool) (keepWake : Bool) (s : State) :
    (resetShells keepRws keepWake s).umber.sr = s.umber.sr := by
  simp [resetShells]

@[simp] theorem freshUmber_sr (vbase pc : Addr) (run : UmberRun) (s : State) : (freshUmber vbase pc run s).umber.sr = srReset := rfl

@[simp] theorem logLost_sr (n : ℕ) (s : State) :
    (logLost n s).umber.sr = s.umber.sr := by
  simp [logLost]

@[simp] theorem systemReset_sr (code : BitVec 5) (lost : Bool) (s : State) : (systemReset code lost s).umber.sr = srReset := by
  simp [systemReset]

theorem requestReset_srKept (code : BitVec 5) (s : State) :
    SrKept s (requestReset code s) := by
  grind [SrKept, requestReset, State.setLife_sr, systemReset_sr]

theorem dbgCtlWrite_srKept (host : Bool) (v : Word) (s : State) :
    SrKept s (dbgCtlWrite host v s) := by
  grind [SrKept, dbgCtlWrite, store_sr, requestReset_srKept, State.setPwr_sr]

theorem writeHigh_srKept (acc : Accessor) (i : Nat) (v : Word) (s : State) : SrKept s (writeHigh acc i v s) := by
  refine .ite (.of_eq (cryptCmd_sr _ _ _)) <| .ite (.of_eq (cryptIn_sr _ _)) <| .ite (.of_eq (cryptKey_sr _ _ _ _)) <|
    .ite (.of_eq (rngCtlWrite_sr _ _)) <| .ite ?_ <| .ite (.of_eq (startOwnerHash_sr _)) <| .ite (.of_eq (debugCmd_sr _ _)) <|
    .ite (.ite (.of_eq (svcGo_sr _ _ _)) (.refl s)) <| .ite (.ite (.of_eq (svcRelease_sr _ _)) (.of_eq (store_sr _ _ _))) <|
    .ite (.of_eq (writeWdcfg_sr _ _)) <| .ite (.of_eq (wdKick_sr _ _)) <| .ite (.of_eq (doorOut_sr _ _)) <| .ite (.of_eq (podCommand_sr _ _)) <|
    .ite (.of_eq rfl) <| .ite (.of_eq (faceCommand_sr _ _)) <| .ite (.of_eq (facePush_sr _ _)) <| .ite (.of_eq (gpioWrite_sr _ _ _)) <|
    .ite (dbgCtlWrite_srKept _ _ _) (.of_eq (store_sr _ _ _))
  split
  · exact .of_eq (startTransition_sr _ _)
  · exact .refl s

theorem applyWrite_srKept (acc : Accessor) (i : Nat) (v : Word) (s : State) : SrKept s (applyWrite acc i v s) :=
  .ite (.refl s) <| .ite (.of_eq (writeLow_sr _ _ _ _)) <| .ite (.of_eq (writeMid_sr _ _ _)) (writeHigh_srKept _ _ _ _)

@[simp] theorem cryptInRefused_sr (s : State) :
    (cryptInRefused s).umber.sr = s.umber.sr := rfl

@[simp] theorem refusedStatus_sr (i : ℕ) (reason : BitVec 4) (s : State) :
    (refusedStatus i reason s).umber.sr = s.umber.sr := by
  grind [refusedStatus, State.parBit_sr, cryptInRefused_sr]

theorem shellWrite_srKept (acc : Accessor) (i : Nat) (v : Word) (s : State) : SrKept s (shellWrite acc i v s).2 :=
  .ite (applyWrite_srKept acc i v s) (.of_eq (refusedStatus_sr _ _ _))

theorem writeAs_srKept (acc : Accessor) (i : Nat) (v : Word) (s : State) : SrKept s (writeAs acc i v s).2 :=
  .ite (shellWrite_srKept acc i v s) ((shellWrite_srKept acc i v s).trans (.of_eq (notePerr_sr _ _ _ _ _)))

@[simp] theorem fifoWrite_sr (v : Word) (s : State) :
    (fifoWrite v s).2.umber.sr = s.umber.sr := by
  simp [fifoWrite]

@[simp] theorem applyBit_sr (acc : Accessor) (b : BitVec 12) (v : Bool) (s : State) : (applyBit acc b v s).umber.sr = s.umber.sr := by
  have clear : ∀ i bit, (if v then s else s.parBit i bit false).umber.sr = s.umber.sr := fun _ _ => ite_keeps_sr rfl rfl
  exact ite_keeps_sr (ite_keeps_sr rfl rfl) <| ite_keeps_sr (clear _ _) <| ite_keeps_sr (clear _ _) <|
    ite_keeps_sr (ite_keeps_sr (startDma_sr _ _ _) rfl) <| ite_keeps_sr (clear _ _) <| ite_keeps_sr (ite_keeps_sr (svcGo_sr _ _ _) rfl) <|
    ite_keeps_sr (ite_keeps_sr rfl (svcRelease_sr _ _)) <| ite_keeps_sr (ite_keeps_sr rfl rfl) <| ite_keeps_sr (clear _ _) <|
    ite_keeps_sr (clear _ _) <| ite_keeps_sr (gpioWrite_sr _ _ _) <| ite_keeps_sr (clear _ _) rfl

theorem latchWrite_srKept (w : PWrite) (s : State) : SrKept s (latchWrite w s).2 := by
  unfold latchWrite
  split
  · exact writeAs_srKept _ _ _ s
  · exact .of_eq (fifoWrite_sr _ s)
  · exact .refl s
  · exact .ite (.of_eq (applyBit_sr _ _ _ s)) (.of_eq (notePerr_sr _ _ _ _ s))

@[simp] theorem markLatched_sr (k : ℕ) (w : PWrite) (r : BitVec 4) (s : State) :
    (markLatched k w r s).umber.sr = s.umber.sr := by
  simp [markLatched]

theorem deliverUmber_srKept (sh : Shell) (named : PWrite → Bool) (s : State) : SrKept s (deliverUmber sh named s) := by
  unfold deliverUmber
  split
  · exact .refl s
  · split
    · exact .refl s
    · exact .ite (.refl s) ((latchWrite_srKept _ s).trans (.of_eq (markLatched_sr _ _ _ _)))

@[simp] theorem ringBell_sr (b : Byte) (s : State) :
    (ringBell b s).umber.sr = s.umber.sr := rfl

@[simp] theorem ringAll_sr (bs : List Byte) (s : State) :
    (ringAll bs s).umber.sr = s.umber.sr := by
  simp -implicitDefEqProofs [ringAll]

@[simp] theorem markHost_sr (k : ℕ) (w : HostWrite) (code : BitVec 4) (s : State) :
    (markHost k w code s).umber.sr = s.umber.sr := by
  simp [markHost]

theorem deliverHost_srKept (tgt : HostTgt) (v : Word) (s : State) : SrKept s (deliverHost tgt v s) := by
  unfold deliverHost
  split
  · exact .refl s
  · split
    · exact .refl s
    · refine .ite (.refl s) ?_
      split
      · exact .ite (.refl s) ((writeAs_srKept _ _ v s).trans (.of_eq ((ringAll_sr _ _).trans (markHost_sr _ _ _ _))))
      · exact .refl s

theorem deliver_srKept (m : Master) (i : Nat) (v : Word) (s : State) : SrKept s (deliver m i v s) := by
  cases m with
  | sepia => exact .ite (writeAs_srKept _ i v s) (.refl s)
  | umber => exact deliverUmber_srKept _ _ s
  | dma _ => exact .refl s
  | host => exact deliverHost_srKept _ v s

@[simp] theorem ackWrite_sr (k : ℕ) (s : State) :
    (ackWrite k s).umber.sr = s.umber.sr := by
  unfold ackWrite
  (repeat' split) <;> simp

@[simp] theorem wakeLeave_sr (s : State) :
    (wakeLeave s).umber.sr = s.umber.sr := by
  simp [wakeLeave]

@[simp] theorem ownResets_sr (old : State) (s : State) :
    (ownResets old s).umber.sr = s.umber.sr := rfl

theorem wakeAccept_srKept (s : State) : SrKept s (wakeAccept s) := by
  unfold wakeAccept
  split
  · refine .ite (.of_eq ?_) (.refl s)
    simp only [State.setPar_umber]
    split <;> split <;> simp
  · refine .ite (.of_eq ?_) (.refl s)
    simp
  · refine .ite (.inr ?_) (.refl s)
    simp
  · refine .ite (.inr ?_) (.refl s)
    simp
  · exact .refl s

@[simp] theorem certWindows_sr (s : State) :
    (certWindows s).umber.sr = s.umber.sr := by
  simp [certWindows]

@[simp] theorem sepiaWindows_sr (s : State) :
    (sepiaWindows s).umber.sr = s.umber.sr := by
  simp [sepiaWindows]

@[simp] theorem setChg_sr (i : ℕ) (v : Word) (s : State) :
    (setChg i v s).umber.sr = s.umber.sr := rfl

@[simp] theorem settleOwed_sr (s : State) :
    (settleOwed s).umber.sr = s.umber.sr := rfl

@[simp] theorem startMeter_sr (s : State) :
    (startMeter s).umber.sr = s.umber.sr := by
  unfold startMeter
  split <;> simp

@[simp] theorem sendAddChg_sr (sec : BitVec 33) (first : Bool) (s : State) :
    (sendAddChg sec first s).umber.sr = s.umber.sr := by
  simp [sendAddChg]

@[simp] theorem actOnNotice_sr (s : State) :
    (actOnNotice s).umber.sr = s.umber.sr := by
  simp [actOnNotice]

@[simp] theorem podEnds_sr (t : PodTxn) (s : State) :
    (podEnds t s).umber.sr = s.umber.sr := rfl

@[simp] theorem podCut_sr (s : State) :
    (podCut s).umber.sr = s.umber.sr := by
  unfold podCut
  split <;> simp

@[simp] theorem takeNotice_sr (s : State) :
    (takeNotice s).umber.sr = s.umber.sr := by
  simp [takeNotice]

@[simp] theorem foldAt_sr (sec : BitVec 33) (s : State) :
    (foldAt sec s).umber.sr = s.umber.sr := by
  simp -implicitDefEqProofs [foldAt]

@[simp] theorem chargeFold_sr (s : State) :
    (chargeFold s).umber.sr = s.umber.sr := by
  simp [chargeFold]

@[simp] theorem copyPierEvents_sr (s : State) :
    (copyPierEvents s).umber.sr = s.umber.sr := by
  simp [copyPierEvents]

theorem retainExit_srKept (s : State) :
    SrKept s (retainExit s) := by
  grind [SrKept, retainExit, State.setPwr_sr, State.parBit_sr, State.setPar_sr, State.setArchState_sr, towardStandby_sr, sepiaWindows_sr, takeNotice_sr, chargeFold_sr, copyPierEvents_sr, wdEnter_sr, freshUmber_sr]

@[simp] theorem hostReady_sr (s : State) :
    (hostReady s).umber.sr = s.umber.sr := by
  simp [hostReady]

@[simp] theorem eolBoot_sr (s : State) : (eolBoot s).umber.sr = s.umber.sr :=
  (State.setPwr_sr _ _).trans <| (foldl_sr (fun s k => State.setArchState_sr s k 0) _ _).trans <| (archesLost_sr _ _).trans <| (refStop_sr _ _).trans <|
    (writeIsland_sr _ _).trans <| (nvmSettled_sr _).trans <| (zeroiseKeys_sr _).trans (nvmSettled_sr s)

@[simp] theorem loadCal_sr (s : State) : (loadCal s).umber.sr = s.umber.sr :=
  (ite_keeps_sr (State.setPar_sr _ _ _) rfl).trans <| (loadCalWhere_sr _ _ _).trans <|
    (foldl_sr (fun t _ => State.setPar_sr t _ _) _ _).trans <| (State.setPar_sr _ _ _).trans (sepiaSaw_sr _ _ _ s)

@[simp] theorem loadRole_sr (s : State) :
    (loadRole s).umber.sr = s.umber.sr := by
  simp [loadRole]

@[simp] theorem archesReady_sr (s : State) : (archesReady s).umber.sr = s.umber.sr :=
  (foldl_sr (fun s _ => State.setArchState_sr s _ 2) _ _).trans <| foldl_sr (fun t _ => State.setPar_sr t _ _) _ s

@[simp] theorem snapFold_sr (s : State) : (snapFold s).umber.sr = s.umber.sr :=
  (foldl_sr (fun t _ => State.setPar_sr t _ _) _ _).trans <| (foldAt_sr _ _).trans <| foldl_sr (fun t _ => State.setPar_sr t _ _) _ s

@[simp] theorem checkSensor_sr (k : ℕ) (s : State) :
    (checkSensor k s).umber.sr = s.umber.sr := by
  simp [checkSensor]

@[simp] theorem storeSensor_sr (r : Readings) (k : ℕ) (s : State) :
    (storeSensor r k s).umber.sr = s.umber.sr := rfl

@[simp] theorem measure_sr (mask : BitVec 6) (r : Readings) (s : State) :
    (measure mask r s).umber.sr = s.umber.sr := by
  simp [measure]

@[simp] theorem warmSlot_sr (s : State) :
    (warmSlot s).2.umber.sr = s.umber.sr := by
  simp [warmSlot]

@[simp] theorem checkCerts_sr (s : State) :
    (checkCerts s).umber.sr = s.umber.sr := by
  simp [checkCerts]

@[simp] theorem setRegion_sr (d : ℕ) (r : ℕ) (base : Addr) (limit : Addr) (attr : BitVec 8) (s : State) :
    (setRegion d r base limit attr s).umber.sr = s.umber.sr := rfl

@[simp] theorem loadRegionSet_sr (s : State) :
    (loadRegionSet s).umber.sr = s.umber.sr := by
  simp [loadRegionSet]

@[simp] theorem loadBootRegions_sr (vbase : Addr) (s : State) :
    (loadBootRegions vbase s).umber.sr = s.umber.sr := by
  simp [loadBootRegions]

@[simp] theorem loadRegions_sr (b : Addr) (s : State) :
    (loadRegions b s).umber.sr = s.umber.sr := by
  simp -implicitDefEqProofs [loadRegions]

@[simp] theorem showRollback_sr (s : State) :
    (showRollback s).umber.sr = s.umber.sr := rfl

@[simp] theorem haltVector_sr (s : State) :
    (haltVector s).umber.sr = s.umber.sr := by
  simp [haltVector]

@[simp] theorem startUmber_sr (k : BitVec 1) (s : State) : (startUmber k s).umber.sr = srReset :=
  (haltVector_sr _).trans (freshUmber_sr _ _ _ _)

theorem bootSlot_srKept (k : Option (BitVec 1)) (s : State) : SrKept s (bootSlot k s) := by
  cases k with
  | some k => exact .inr (startUmber_sr k _)
  | none => exact .of_eq ((loadRegions_sr _ _).trans ((State.parBit_sr _ _ _ _).trans (showRollback_sr s)))

theorem warmWake_srKept (r : Readings) (s : State) : SrKept s (warmWake r s) := by
  refine .ite (.ite (.of_eq ?_) (.ite (.of_eq ((loadRegions_sr _ _).trans ?_)) (.trans (.of_eq ?_) (bootSlot_srKept _ _)))) (.refl s)
  · rw [eolBoot_sr, State.setPwr_sr, showRights_sr, hostReady_sr, State.setPar_sr, loadFuses_sr, State.setPar_sr]
  all_goals
    rw [checkCerts_sr]
    refine (ite_snd_keeps_sr (showSlots_sr _) (warmSlot_sr _)).trans ?_
    rw [takeNotice_sr, snapFold_sr, measure_sr, copyPierEvents_sr, State.parBit_sr, archesReady_sr, loadCal_sr, loadRole_sr,
      State.setPwr_sr, showRights_sr, hostReady_sr, State.setPar_sr, loadFuses_sr, State.setPar_sr]

@[simp] theorem showPatch_sr (s : State) : (showPatch s).umber.sr = s.umber.sr :=
  (ite_keeps_sr rfl (State.setPar_sr _ _ _)).trans ((sepiaSaw_sr _ _ _ _).trans (nvmSettled_sr s))

theorem coldBoot_srKept (r : Readings) (s : State) : SrKept s (coldBoot r s) := by
  refine .ite (.ite (.of_eq ?_) (.ite (.of_eq ((loadRegions_sr _ _).trans ((showSlots_sr _).trans ?_)))
    (.trans (.of_eq ((selectSlot_sr _).trans ?_)) (bootSlot_srKept _ _)))) (.refl s)
  · rw [eolBoot_sr, showRights_sr, hostReady_sr, loadFuses_sr, State.setPar_sr]
  all_goals
    rw [checkCerts_sr, chargeFold_sr, measure_sr, copyPierEvents_sr, State.parBit_sr, archesReady_sr, State.setPwr_sr, loadRole_sr, showPatch_sr,
      loadCal_sr, showRights_sr, hostReady_sr, loadFuses_sr, State.setPar_sr]

@[simp] theorem setPierStatus_sr (bit : ℕ) (b : Bool) (s : State) :
    (setPierStatus bit b s).umber.sr = s.umber.sr := rfl

@[simp] theorem pierPowerOn_sr (sup : Supplies) (s : State) :
    (pierPowerOn sup s).umber.sr = s.umber.sr := by
  simp [pierPowerOn]

@[simp] theorem tearFuses_sr (s : State) :
    (tearFuses s).umber.sr = s.umber.sr := by
  unfold tearFuses
  split <;> simp

@[simp] theorem tearJob_sr (s : State) : (tearJob s).umber.sr = s.umber.sr := cutJob_sr tearStep_sr s

@[simp] theorem tearNvm_sr (s : State) :
    (tearNvm s).umber.sr = s.umber.sr := by
  simp [tearNvm]

theorem vddLoss_srKept (s : State) :
    SrKept s (vddLoss s) := by
  grind [SrKept, vddLoss, tearFuses_sr, tearNvm_sr, systemReset_sr, State.setPwr_sr]

theorem pierBrownout_srKept (s : State) :
    SrKept s (pierBrownout s) := by
  grind [SrKept, pierBrownout, vddLoss_srKept, State.setPwr_sr]

theorem supplyFails_srKept (s : State) :
    SrKept s (supplyFails s) := by
  grind [SrKept, supplyFails, pierBrownout_srKept, State.setPier_sr, State.drawn_sr]

@[simp] theorem vddRise_sr (brownout : Bool) (s : State) :
    (vddRise brownout s).umber.sr = s.umber.sr := by
  simp [vddRise]

@[simp] theorem pierRecord_sr (type : ℕ) (s : State) :
    (pierRecord type s).umber.sr = s.umber.sr := rfl

@[simp] theorem supplyMove_sr (toVbk : Bool) (s : State) :
    (supplyMove toVbk s).umber.sr = s.umber.sr := by
  simp [supplyMove]

theorem supplyMoves_srKept (s : State) :
    SrKept s (supplyMoves s) := by
  grind [SrKept, supplyMoves, supplyMove_sr, pierBrownout_srKept]

@[simp] theorem lockoutTrip_sr (s : State) :
    (lockoutTrip s).umber.sr = s.umber.sr := by
  simp [lockoutTrip]

@[simp] theorem lockTrips_sr (s : State) :
    (lockTrips s).umber.sr = s.umber.sr := by
  simp [lockTrips]

theorem compareSupplies_srKept (s : State) :
    SrKept s (compareSupplies s) := by
  grind [SrKept, compareSupplies, supplyMoves_srKept, lockTrips_sr]

@[simp] theorem setSupplies_sr (sup : Supplies) (s : State) :
    (setSupplies sup s).umber.sr = s.umber.sr := by
  simp [setSupplies]

theorem suppliesAt_srKept (sup : Supplies) (s : State) :
    SrKept s (suppliesAt sup s) := by
  grind [SrKept, suppliesAt, compareSupplies_srKept, setSupplies_sr]

theorem vddReleased_srKept (brownout : Bool) (s : State) :
    SrKept s (vddReleased brownout s) := by
  grind [SrKept, vddReleased, vddRise_sr, suppliesAt_srKept, State.drawn_sr]

theorem vddFalls_srKept (s : State) :
    SrKept s (vddFalls s) := by
  grind [SrKept, vddFalls, vddLoss_srKept, suppliesAt_srKept, State.drawn_sr]

theorem resetPins_srKept (pin : Bool) (testen : Bool) (s : State) :
    SrKept s (resetPins pin testen s) := by
  grind [SrKept, resetPins, State.setPwr_sr, State.setLife_sr, systemReset_sr]

@[simp] theorem rngForgetCore_sr (s : State) :
    (rngForgetCore s).umber.sr = s.umber.sr := rfl

@[simp] theorem dmaReset_sr (s : State) :
    (dmaReset s).umber.sr = s.umber.sr := rfl

theorem umberReset_srKept (code : BitVec 5) (s : State) : SrKept s (umberReset code s) := by
  refine .ite (.inr ((loadRegions_sr _ _).trans ?_)) (.trans (.inr ?_) (bootSlot_srKept _ _))
  all_goals
    rw [State.setPwr_sr, checkCerts_sr]
    refine (ite_snd_keeps_sr (showSlots_sr _) (selectSlot_sr _)).trans ?_
    rw [showRollback_sr, State.parBit_sr]
    refine (foldl_sr (fun t d => disableRegions_sr d t) _ _).trans ?_
    rw [withdrawRights_sr, clearKeysOf_sr]
    split
    · refine ite_keeps_sr ?_ ((stopOp_sr _ _).trans ?_) <;> exact (showHalted_sr _ _).trans (freshUmber_sr _ _ _ _)
    · exact (showHalted_sr _ _).trans (freshUmber_sr _ _ _ _)

theorem resetUmber_srKept (code : BitVec 5) (s : State) :
    SrKept s (resetUmber code s) := by
  grind [SrKept, resetUmber, State.setPwr_sr, requestReset_srKept, umberReset_srKept]

theorem doUmberReset_srKept (s : State) :
    SrKept s (doUmberReset s) := by
  grind [SrKept, doUmberReset, resetUmber_srKept]

@[simp] theorem refReady_sr (s : State) :
    (refReady s).umber.sr = s.umber.sr := by
  simp [refReady]

@[simp] theorem radioCal_sr (s : State) :
    (radioCal s).umber.sr = s.umber.sr := by
  simp [radioCal]

@[simp] theorem radioLate_sr (s : State) :
    (radioLate s).umber.sr = s.umber.sr := by
  simp [radioLate]

@[simp] theorem radioRefLock_sr (s : State) :
    (radioRefLock s).umber.sr = s.umber.sr := by
  unfold radioRefLock
  split <;> simp

@[simp] theorem trsReplay_sr (s : State) :
    (trsReplay s).umber.sr = s.umber.sr := by
  simp [trsReplay]

@[simp] theorem hideRequest_sr (r : TrsReq) (s : State) :
    (hideRequest r s).umber.sr = s.umber.sr := by
  unfold hideRequest
  split <;> simp

@[simp] theorem trsReturn_sr (s : State) :
    (trsReturn s).umber.sr = s.umber.sr := rfl

@[simp] theorem timeStart_sr (s : State) :
    (timeStart s).umber.sr = s.umber.sr := rfl

@[simp] theorem refLoss_sr (s : State) :
    (refLoss s).umber.sr = s.umber.sr := by
  simp [refLoss]

@[simp] theorem corePllLock_sr (s : State) :
    (corePllLock s).umber.sr = s.umber.sr := by
  simp [corePllLock]

@[simp] theorem dvfsEnd_sr (s : State) :
    (dvfsEnd s).umber.sr = s.umber.sr := by
  simp [dvfsEnd]

@[simp] theorem l1Ready_sr (s : State) :
    (l1Ready s).umber.sr = s.umber.sr := by
  simp [l1Ready]

@[simp] theorem synthGLoss_sr (s : State) :
    (synthGLoss s).umber.sr = s.umber.sr := by
  simp [synthGLoss]

@[simp] theorem synthTick_sr (s : State) :
    (synthTick s).umber.sr = s.umber.sr := rfl

@[simp] theorem stampEpochs_sr (s : State) :
    (stampEpochs s).umber.sr = s.umber.sr := rfl

@[simp] theorem logStep_sr (v : Word) (s : State) :
    (logStep v s).umber.sr = s.umber.sr := rfl

@[simp] theorem finishLoad_sr (a : BitVec 92) (s : State) :
    (finishLoad a s).umber.sr = s.umber.sr := rfl

@[simp] theorem dropLoad_sr (bit : ℕ) (s : State) :
    (dropLoad bit s).umber.sr = s.umber.sr := rfl

@[simp] theorem takeLoad_sr (s : State) :
    (takeLoad s).umber.sr = s.umber.sr := by
  unfold takeLoad
  split <;> simp

@[simp] theorem advanceTime_sr (s : State) :
    (advanceTime s).umber.sr = s.umber.sr := by
  grind [advanceTime, logStep_sr, takeLoad_sr, finishLoad_sr]

@[simp] theorem advanceTo_sr (load : Option (BitVec 92)) (s : State) :
    (advanceTo load s).umber.sr = s.umber.sr := by
  unfold advanceTo
  split <;> simp

@[simp] theorem setPin_sr (pin : BitVec 2) (b : Bool) (phase : BitVec 3) (s : State) :
    (setPin pin b phase s).umber.sr = s.umber.sr := rfl

@[simp] theorem endPulsesWhere_sr (sel : PulseEnd → Bool) (s : State) :
    (endPulsesWhere sel s).umber.sr = s.umber.sr := by
  simp -implicitDefEqProofs [endPulsesWhere]

@[simp] theorem endPastPulses_sr (s : State) :
    (endPastPulses s).umber.sr = s.umber.sr := by
  simp [endPastPulses]

@[simp] theorem endPulses_sr (s : State) :
    (endPulses s).umber.sr = s.umber.sr := by
  simp [endPulses]

@[simp] theorem settleArmings_sr (s : State) :
    (settleArmings s).umber.sr = s.umber.sr := rfl

@[simp] theorem endPulsesBefore_sr (pin : BitVec 2) (f : BitVec 92) (s : State) :
    (endPulsesBefore pin f s).umber.sr = s.umber.sr := by
  simp [endPulsesBefore]

@[simp] theorem pinAction_sr (n : Fin 8) (f : StoreTime) (phase : BitVec 3) (s : State) :
    (pinAction n f phase s).umber.sr = s.umber.sr := by
  simp only [pinAction]
  (repeat' split) <;> simp

@[simp] theorem targetAction_sr (n : Fin 8) (t : ℕ) (s : State) :
    (targetAction n t s).umber.sr = s.umber.sr := by
  unfold targetAction
  split <;> simp

@[simp] theorem State.setStrike_sr (s : State) (n : Fin 8) (u : StrikeSt) :
    (s.setStrike n u).umber.sr = s.umber.sr := rfl

@[simp] theorem fireTarget_sr (prior : Option (BitVec 92)) (n : Fin 8) (t : ℕ) (s : State) :
    (fireTarget prior n t s).umber.sr = s.umber.sr := by
  simp [fireTarget]

@[simp] theorem State.setStrikeN_sr (s : State) (n : Fin 8) (t : StoreTime) :
    (s.setStrikeN n t).umber.sr = s.umber.sr := rfl

@[simp] theorem repeatUnit_sr (n : Fin 8) (s : State) :
    (repeatUnit n s).umber.sr = s.umber.sr := by
  simp [repeatUnit]

@[simp] theorem chainUnit_sr (n : Fin 8) (s : State) :
    (chainUnit n s).umber.sr = s.umber.sr := by
  simp [chainUnit]

@[simp] theorem unitFired_sr (n : Fin 8) (s : State) :
    (unitFired n s).umber.sr = s.umber.sr := by
  simp [unitFired]

@[simp] theorem strikeCycle_sr (prior : Option (BitVec 92)) (n : Fin 8) (s : State) :
    (strikeCycle prior n s).umber.sr = s.umber.sr := by
  simp [strikeCycle]

@[simp] theorem armUnit_sr (n : Fin 8) (k : ArmTake) (s : State) :
    (armUnit n k s).umber.sr = s.umber.sr := by
  simp [armUnit]

@[simp] theorem applyAck_sr (s : State) :
    (applyAck s).umber.sr = s.umber.sr := by
  simp [applyAck]

@[simp] theorem pwronSource_sr (src : ℕ) (s : State) :
    (pwronSource src s).umber.sr = s.umber.sr := by
  simp [pwronSource]

@[simp] theorem alarmAt_sr (n : Fin 2) (taken : List Tick) (s : State) :
    (alarmAt n taken s).umber.sr = s.umber.sr := by
  simp [alarmAt]

@[simp] theorem countResidency_sr (s : State) :
    (countResidency s).umber.sr = s.umber.sr := rfl

@[simp] theorem watchdogTick_sr (n : ℕ) (s : State) :
    (watchdogTick n s).umber.sr = s.umber.sr := by
  simp [watchdogTick]

@[simp] theorem wakeCycle_sr (s : State) :
    (wakeCycle s).umber.sr = s.umber.sr := by
  simp [wakeCycle]

@[simp] theorem lockoutRelease_sr (s : State) :
    (lockoutRelease s).umber.sr = s.umber.sr := by
  simp [lockoutRelease]

@[simp] theorem lockEnds_sr (s : State) :
    (lockEnds s).umber.sr = s.umber.sr := by
  simp [lockEnds]

@[simp] theorem countRelease_sr (s : State) :
    (countRelease s).umber.sr = s.umber.sr := by
  simp [countRelease]

@[simp] theorem hostParRead_sr (i : ℕ) (s : State) :
    (hostParRead i s).2.umber.sr = s.umber.sr := by
  grind [hostParRead, State.setHreg_sr, notePerr_sr, readPar_sr]

@[simp] theorem hostRegion_sr (right : ℕ) (need : Need) (a : Addr) (write : Bool) (s : State) :
    (hostRegion right need a write s).2.umber.sr = s.umber.sr := by
  unfold hostRegion
  (repeat' split) <;> simp

@[simp] theorem countGrant_sr (a : BitVec 18) (s : State) :
    (countGrant a s).umber.sr = s.umber.sr := rfl

@[simp] theorem bankLost_sr (k : Fin 5) (a : BitVec 18) (n : Word) (w : Word) (s : State) :
    (bankLost k a n w s).umber.sr = s.umber.sr := rfl

@[simp] theorem busGrant_sr (k : Fin 5) (a : BitVec 18) (s : State) :
    (busGrant k a s).umber.sr = s.umber.sr := rfl

@[simp] theorem hostSend_sr (bs : List Byte) (s : State) :
    (hostSend bs s).umber.sr = s.umber.sr := rfl

@[simp] theorem hostWaits_sr (s : State) :
    (hostWaits s).umber.sr = s.umber.sr := by
  simp [hostWaits]

@[simp] theorem setLatch_sr (r : ℕ) (w : Word) (s : State) :
    (setLatch r w s).umber.sr = s.umber.sr := rfl

@[simp] theorem hostError_sr (code : BitVec 4) (addr : Addr) (s : State) :
    (hostError code addr s).umber.sr = s.umber.sr := by
  simp [hostError]

@[simp] theorem setTxn_sr (t : HostTxn) (s : State) :
    (setTxn t s).umber.sr = s.umber.sr := rfl

@[simp] theorem hostInc_sr (type : BitVec 2) (s : State) :
    (hostInc type s).umber.sr = s.umber.sr := by
  simp [hostInc]

@[simp] theorem hostAnswer_sr (type : BitVec 2) (code : BitVec 4) (w : Word) (s : State) :
    (hostAnswer type code w s).umber.sr = s.umber.sr := by
  unfold hostAnswer
  (repeat' split) <;> simp

@[simp] theorem capReleased_sr (s : State) :
    (capReleased s).umber.sr = s.umber.sr := by
  simp [capReleased]

@[simp] theorem trsIrq_sr (bit : ℕ) (s : State) :
    (trsIrq bit s).umber.sr = s.umber.sr := by
  simp [trsIrq]

@[simp] theorem pushRecord_sr (c : Fin 48) (r : Vector Word 10) (s : State) :
    (pushRecord c r s).umber.sr = s.umber.sr := by
  simp [pushRecord]

@[simp] theorem latchChannel_sr (seq : BitVec 11) (sample : Word) (c : Fin 48) (s : State) :
    (latchChannel seq sample c s).umber.sr = s.umber.sr := by
  simp -implicitDefEqProofs [latchChannel]

@[simp] theorem trsLatch_sr (phase : BitVec 2) (s : State) :
    (trsLatch phase s).umber.sr = s.umber.sr := by
  simp [trsLatch]

@[simp] theorem epochLatch_sr (phase : BitVec 2) (s : State) :
    (epochLatch phase s).umber.sr = s.umber.sr := by
  grind [epochLatch, State.setPar_sr, trsLatch_sr]

@[simp] theorem setShifts_sr (sh : Vector (BitVec 3) 2) (s : State) :
    (setShifts sh s).umber.sr = s.umber.sr := by
  simp -implicitDefEqProofs [setShifts]

@[simp] theorem countClip_sr (x0 : Smp) (s : State) :
    (countClip x0 s).umber.sr = s.umber.sr := by
  simp [countClip]

@[simp] theorem captureSample_sr (xi : ℤ) (xq : ℤ) (blank : Bool) (sample : Word) (s : State) :
    (captureSample xi xq blank sample s).umber.sr = s.umber.sr := by
  simp [captureSample]

@[simp] theorem setCarrFreq_sr (c : Fin 48) (v : BitVec 32) (s : State) :
    (setCarrFreq c v s).umber.sr = s.umber.sr := by
  grind [setCarrFreq, State.setPar_sr, addCodeFreq_sr]

@[simp] theorem applyAdjust_sr (c : Fin 48) (s : State) :
    (applyAdjust c s).umber.sr = s.umber.sr := by
  simp [applyAdjust]

@[simp] theorem startIntegration_sr (c : Fin 48) (s : State) :
    (startIntegration c s).umber.sr = s.umber.sr := by
  simp [startIntegration]

@[simp] theorem accumulate_sr (c : Fin 48) (re : ℤ) (im : ℤ) (s : State) :
    (accumulate c re im s).umber.sr = s.umber.sr := rfl

@[simp] theorem dumpChannel_sr (c : Fin 48) (secLast : BitVec 5) (sample : Word) (s : State) :
    (dumpChannel c secLast sample s).umber.sr = s.umber.sr := by
  simp -implicitDefEqProofs [dumpChannel]

@[simp] theorem channelSample_sr (c : Fin 48) (xi : ℤ) (xq : ℤ) (blank : Bool) (qchg : Bool) (sample : Word) (s : State) :
    (channelSample c xi xq blank qchg sample s).umber.sr = s.umber.sr := by
  simp [channelSample]

@[simp] theorem blockEnd_sr (s : State) :
    (blockEnd s).umber.sr = s.umber.sr := rfl

@[simp] theorem sampleStep_sr (x0 : Smp) (s : State) :
    (sampleStep x0 s).umber.sr = s.umber.sr := by
  simp [sampleStep]

@[simp] theorem runSamples_sr (xs : List Smp) (s : State) :
    (runSamples xs s).umber.sr = s.umber.sr := by
  simp [runSamples]

@[simp] theorem samplesUpTo_sr (xs : List Smp) (s : State) :
    (samplesUpTo xs s).umber.sr = s.umber.sr := by
  simp [samplesUpTo]

@[simp] theorem revokeFinish_sr (s : State) :
    (revokeFinish s).umber.sr = s.umber.sr := by
  unfold revokeFinish
  split <;> simp

theorem revokeEnds_srKept (s : State) :
    SrKept s (revokeEnds s) := by
  grind [SrKept, revokeEnds, revokeFinish_sr, requestReset_srKept]

theorem wdStage3_srKept (s : State) :
    SrKept s (wdStage3 s) := by
  grind [SrKept, wdStage3, State.setPar_sr, State.countMgmt_sr, wdEnter_sr, resetUmber_srKept, State.pushLog_sr]

@[simp] theorem wdStage2_sr (s : State) :
    (wdStage2 s).umber.sr = s.umber.sr := by
  simp [wdStage2]

@[simp] theorem wdStage1_sr (s : State) :
    (wdStage1 s).umber.sr = s.umber.sr := by
  simp [wdStage1]

@[simp] theorem strikeEvent_sr (r : Readings) (s : State) :
    (strikeEvent r s).umber.sr = s.umber.sr := by
  unfold strikeEvent
  split <;> simp

@[simp] theorem eventWork_sr (s : State) :
    (eventWork s).umber.sr = s.umber.sr := by
  simp [eventWork]

@[simp] theorem logWork_sr (s : State) :
    (logWork s).umber.sr = s.umber.sr := by
  simp [logWork]

@[simp] theorem readAs_sr (dom : Dom) (a : Addr) (s : State) :
    (readAs dom a s).2.umber.sr = s.umber.sr := by
  grind [readAs, noteViol_sr, sramRead_sr, busGrant_sr]

@[simp] theorem svcLogAppend_sr (v : Service) (s : State) :
    (svcLogAppend v s).umber.sr = s.umber.sr := by
  simp [svcLogAppend]

@[simp] theorem svcSense_sr (r : Readings) (v : Service) (s : State) :
    (svcSense r v s).umber.sr = s.umber.sr := by
  simp [svcSense]

@[simp] theorem svcPodTest_sr (podr : Word) (v : Service) (s : State) :
    (svcPodTest podr v s).umber.sr = s.umber.sr := by
  simp [svcPodTest]

@[simp] theorem svcXtalChk_sr (ppm : Word) (v : Service) (s : State) :
    (svcXtalChk ppm v s).umber.sr = s.umber.sr := rfl

@[simp] theorem svcWritten_sr (v : Service) (reply : Word) (s : State) :
    (svcWritten v reply s).umber.sr = s.umber.sr := rfl

@[simp] theorem svcArmUpdate_sr (v : Service) (s : State) :
    (svcArmUpdate v s).umber.sr = s.umber.sr := by
  simp [svcArmUpdate]

@[simp] theorem svcConfirm_sr (v : Service) (s : State) :
    (svcConfirm v s).umber.sr = s.umber.sr := by
  unfold svcConfirm
  (repeat' split) <;> simp

@[simp] theorem wrapEnd_sr (v : Service) (slot : BitVec 4) (header : Word) (s : State) :
    (wrapEnd v slot header s).umber.sr = s.umber.sr := by
  simp [wrapEnd]

@[simp] theorem startWrap_sr (v : Service) (slot : BitVec 4) (ksrc : BitVec 2) (header : Word) (s : State) :
    (startWrap v slot ksrc header s).umber.sr = s.umber.sr := by
  simp [startWrap]

@[simp] theorem svcSlotInfo_sr (v : Service) (s : State) :
    (svcSlotInfo v s).umber.sr = s.umber.sr := by
  simp -implicitDefEqProofs [svcSlotInfo]

@[simp] theorem queueWork_sr (s : State) :
    (queueWork s).umber.sr = s.umber.sr := by
  simp [queueWork]

@[simp] theorem shadowReleased_sr (m : Master) (s : State) :
    (shadowReleased m s).umber.sr = s.umber.sr := by
  unfold shadowReleased
  split <;> simp

@[simp] theorem setOsf_sr (s : State) :
    (setOsf s).umber.sr = s.umber.sr := by
  simp [setOsf]

@[simp] theorem oscFails_sr (s : State) :
    (oscFails s).umber.sr = s.umber.sr := by
  simp [oscFails]

@[simp] theorem rcCounted_sr (s : State) :
    (rcCounted s).umber.sr = s.umber.sr := by
  simp [rcCounted]

@[simp] theorem oscReturns_sr (s : State) :
    (oscReturns s).umber.sr = s.umber.sr := by
  simp [oscReturns]

@[simp] theorem scrubDenied_sr (n : Word) (w : Word) (s : State) :
    (scrubDenied n w s).umber.sr = s.umber.sr := by
  unfold scrubDenied
  split <;> simp

@[simp] theorem countPasses_sr (n : ℕ) (s : State) :
    (countPasses n s).umber.sr = s.umber.sr := by
  simp [countPasses]

@[simp] theorem rewriteSram_sr (a : BitVec 18) (w : Word) (s : State) :
    (rewriteSram a w s).umber.sr = s.umber.sr := by
  simp [rewriteSram]

@[simp] theorem scrubWord_sr (s : State) :
    (scrubWord s).umber.sr = s.umber.sr := by
  grind [scrubWord, sramRead_sr, countGrant_sr, countPasses_sr, rewriteSram_sr, State.setPar_sr]

@[simp] theorem scrubRead_sr (granted : Bool) (s : State) :
    (scrubRead granted s).umber.sr = s.umber.sr := by
  simp [scrubRead]

@[simp] theorem writeBack_sr (b : WBack) (s : State) :
    (writeBack b s).umber.sr = s.umber.sr := by
  grind [writeBack, dropWb_sr, putTile_sr, State.parBit_sr, rewriteSram_sr, notePoison_sr]

@[simp] theorem demandWriteback_sr (s : State) :
    (demandWriteback s).umber.sr = s.umber.sr := by
  unfold demandWriteback
  split <;> simp

@[simp] theorem archStepDone_sr (k : ℕ) (s : State) :
    (archStepDone k s).umber.sr = s.umber.sr := by
  simp [archStepDone]

@[simp] theorem archInitDone_sr (k : ℕ) (s : State) :
    (archInitDone k s).umber.sr = s.umber.sr := by
  simp [archInitDone]

@[simp] theorem nvmAbort_sr (s : State) :
    (nvmAbort s).umber.sr = s.umber.sr := by
  unfold nvmAbort
  split <;> simp

@[simp] theorem dmaStrikeStart_sr (s : State) :
    (dmaStrikeStart s).umber.sr = s.umber.sr := by
  simp only [dmaStrikeStart]
  (repeat' split) <;> simp

@[simp] theorem requestChannel_sr (c : Fin 16) (s : State) :
    (requestChannel c s).umber.sr = s.umber.sr := by
  simp [requestChannel]

@[simp] theorem dmaRequest_sr (n : Fin 16) (s : State) :
    (dmaRequest n s).umber.sr = s.umber.sr := by
  simp [dmaRequest]

@[simp] theorem chainStart_sr (c : Fin 16) (s : State) :
    (chainStart c s).umber.sr = s.umber.sr := by
  simp [chainStart]

@[simp] theorem arrived_sr (c : Fin 16) (s : State) :
    (arrived c s).umber.sr = s.umber.sr := rfl

@[simp] theorem elemNoParam_sr (c : Fin 16) (s : State) :
    (elemNoParam c s).umber.sr = s.umber.sr := rfl

@[simp] theorem elementDone_sr (c : Fin 16) (s : State) :
    (elementDone c s).umber.sr = s.umber.sr := by
  simp [elementDone]

@[simp] theorem elemComplete_sr (c : Fin 16) (s : State) :
    (elemComplete c s).umber.sr = s.umber.sr := by
  simp [elemComplete]

@[simp] theorem sendElem_sr (c : Fin 16) (s : State) :
    (sendElem c s).umber.sr = s.umber.sr := rfl

@[simp] theorem abortDone_sr (c : Fin 16) (s : State) :
    (abortDone c s).umber.sr = s.umber.sr := by
  simp [abortDone]

@[simp] theorem drawWord_sr (s : State) :
    (drawWord s).2.umber.sr = s.umber.sr := rfl

@[simp] theorem rcCalDone_sr (s : State) :
    (rcCalDone s).umber.sr = s.umber.sr := by
  simp [rcCalDone]

@[simp] theorem dcAllDone_sr (s : State) :
    (dcAllDone s).umber.sr = s.umber.sr := rfl

@[simp] theorem setCarrier_sr (rx : Bool) (s : State) :
    (setCarrier rx s).umber.sr = s.umber.sr := rfl

@[simp] theorem synthResults_sr (locked : Bool) (s : State) :
    (synthResults locked s).umber.sr = s.umber.sr := rfl

@[simp] theorem synthSettled_sr (rx : Bool) (s : State) :
    (synthSettled rx s).umber.sr = s.umber.sr := by
  grind [synthSettled, setCarrier_sr, retune_sr, synthResults_sr]

@[simp] theorem goOnAir_sr (code : BitVec 4) (hold : Bool) (sending : Bool) (s : State) :
    (goOnAir code hold sending s).umber.sr = s.umber.sr := by
  simp [goOnAir]

@[simp] theorem openRx_sr (s : State) :
    (openRx s).umber.sr = s.umber.sr := by
  simp [openRx]

@[simp] theorem txTake_sr (n : ℕ) (s : State) :
    (txTake n s).2.umber.sr = s.umber.sr := rfl

@[simp] theorem endTx_sr (s : State) :
    (endTx s).umber.sr = s.umber.sr := by
  simp [endTx]

@[simp] theorem bumpSat_sr (i : ℕ) (s : State) :
    (bumpSat i s).umber.sr = s.umber.sr := rfl

@[simp] theorem startSend_sr (s : State) :
    (startSend s).umber.sr = s.umber.sr := by
  simp only [startSend]
  (repeat' split) <;> simp

@[simp] theorem txReady_sr (s : State) :
    (txReady s).umber.sr = s.umber.sr := by
  simp [txReady]

@[simp] theorem synthFailed_sr (hop : Bool) (s : State) :
    (synthFailed hop s).umber.sr = s.umber.sr := by
  simp [synthFailed]

@[simp] theorem autoMove_sr (afterRx : Bool) (v : BitVec 2) (s : State) :
    (autoMove afterRx v s).umber.sr = s.umber.sr := by
  unfold autoMove
  split <;> simp

@[simp] theorem autoReturn_sr (s : State) :
    (autoReturn s).umber.sr = s.umber.sr := by
  unfold autoReturn
  split <;> simp

@[simp] theorem rxtoExpire_sr (s : State) :
    (rxtoExpire s).umber.sr = s.umber.sr := by
  simp [rxtoExpire]

@[simp] theorem rxTimeout_sr (s : State) :
    (rxTimeout s).umber.sr = s.umber.sr := by
  simp [rxTimeout]

@[simp] theorem txUnderrun_sr (s : State) :
    (txUnderrun s).umber.sr = s.umber.sr := by
  simp [txUnderrun]

@[simp] theorem diversity_sr (a : BitVec 8) (b : BitVec 8) (gain : BitVec 3) (s : State) :
    (diversity a b gain s).umber.sr = s.umber.sr := by
  simp [diversity]

@[simp] theorem faultDone_sr (s : State) :
    (faultDone s).umber.sr = s.umber.sr := by
  simp [faultDone]

@[simp] theorem faultEnds_sr (s : State) :
    (faultEnds s).umber.sr = s.umber.sr := by
  simp [faultEnds]

@[simp] theorem rxFifoRead_sr (m : Master) (s : State) :
    (rxFifoRead m s).umber.sr = s.umber.sr := by
  unfold rxFifoRead
  split <;> simp

@[simp] theorem xoStep_sr (s : State) :
    (xoStep s).umber.sr = s.umber.sr := by
  simp [xoStep]

@[simp] theorem syncDetect_sr (word : BitVec 32) (rate : Bool) (rssi : BitVec 8) (gain : BitVec 3) (s : State) :
    (syncDetect word rate rssi gain s).umber.sr = s.umber.sr := by
  simp [syncDetect]

@[simp] theorem rxtoAtEnd_sr (due : Bool) (s : State) :
    (rxtoAtEnd due s).umber.sr = s.umber.sr := by
  simp [rxtoAtEnd]

@[simp] theorem ackWaitEnd_sr (bit : ℕ) (cnt : ℕ) (s : State) :
    (ackWaitEnd bit cnt s).umber.sr = s.umber.sr := by
  simp [ackWaitEnd]

@[simp] theorem seqCheck_sr (n : ℕ) (seq : Bool) (s : State) :
    (seqCheck n seq s).2.umber.sr = s.umber.sr := rfl

@[simp] theorem frameTxEnd_sr (s : State) :
    (frameTxEnd s).umber.sr = s.umber.sr := by
  unfold frameTxEnd
  (repeat' split) <;> simp

@[simp] theorem ackTimeout_sr (s : State) :
    (ackTimeout s).umber.sr = s.umber.sr := by
  unfold ackTimeout
  split <;> simp

@[simp] theorem trainEnd_sr (s : State) :
    (trainEnd s).umber.sr = s.umber.sr := by
  unfold trainEnd
  split <;> simp

@[simp] theorem burstEnd_sr (s : State) :
    (burstEnd s).umber.sr = s.umber.sr := by
  unfold burstEnd
  split <;> simp

@[simp] theorem windowOpen_sr (s : State) :
    (windowOpen s).umber.sr = s.umber.sr := by
  simp [windowOpen]

@[simp] theorem windowClose_sr (level : BitVec 6) (s : State) :
    (windowClose level s).umber.sr = s.umber.sr := by
  simp [windowClose]

@[simp] theorem startCollection_sr (s : State) :
    (startCollection s).umber.sr = s.umber.sr := by
  simp [startCollection]

@[simp] theorem endCollection_sr (level : BitVec 6) (s : State) :
    (endCollection level s).umber.sr = s.umber.sr := by
  grind [endCollection, State.parBit_sr, State.setPar_sr, State.setWake_sr]

@[simp] theorem wakeMatch_sr (bits : BitVec 40) (level : BitVec 6) (s : State) :
    (wakeMatch bits level s).umber.sr = s.umber.sr := by
  unfold wakeMatch
  split <;> simp

@[simp] theorem wakeNoMatch_sr (bits : BitVec 40) (level : BitVec 6) (s : State) :
    (wakeNoMatch bits level s).umber.sr = s.umber.sr := by
  simp [wakeNoMatch]

@[simp] theorem atSample_sr (xs : List Smp) (ev : State → State → Bool) (s : State) :
    (atSample xs ev s).umber.sr = s.umber.sr := by
  simp [atSample]

@[simp] theorem popFifo_sr (s : State) :
    (popFifo s).umber.sr = s.umber.sr := by
  simp [popFifo]

@[simp] theorem dwFault_sr (a : Addr) (kind : BitVec 3) (s : State) :
    (dwFault a kind s).umber.sr = s.umber.sr := rfl

@[simp] theorem dumpWrite_sr (s : State) :
    (dumpWrite s).umber.sr = s.umber.sr := by
  simp only [dumpWrite]
  (repeat' split) <;> simp

@[simp] theorem writeResult_sr (s : State) :
    (writeResult s).umber.sr = s.umber.sr := by
  grind [writeResult, endAbort_sr, State.setTrs_sr, popFifo_sr, bumpPar_sr, dwFault_sr, noteViol_sr, State.parBit_sr, sramAtomic_sr, busGrant_sr, sramWrite_sr]

@[simp] theorem pushResult_sr (s : State) :
    (pushResult s).umber.sr = s.umber.sr := by
  unfold pushResult
  (repeat' split) <;> simp

@[simp] theorem showCounts_sr (before : RngSt) (fault : BitVec 2) (after : RngSt) (longest : ℕ) (s : State) :
    (showCounts before fault after longest s).umber.sr = s.umber.sr := by
  simp [showCounts]

@[simp] theorem rngStartupPass_sr (x0 : BitVec 1024) (s : State) :
    (rngStartupPass x0 s).umber.sr = s.umber.sr := by
  simp [rngStartupPass]

@[simp] theorem rngWord_sr (x0 : BitVec 288) (s : State) :
    (rngWord x0 s).umber.sr = s.umber.sr := by
  simp [rngWord]

@[simp] theorem failReads_sr (s : State) :
    (failReads s).umber.sr = s.umber.sr := rfl

@[simp] theorem rngAlarm_sr (xs : List Bool) (s : State) :
    (rngAlarm xs s).umber.sr = s.umber.sr := by
  simp [rngAlarm]

@[simp] theorem endTstat_sr (result : BitVec 3) (step : BitVec 2) (s : State) :
    (endTstat result step s).umber.sr = s.umber.sr := rfl

@[simp] theorem finishTransition_sr (target : BitVec 16) (vdd : BitVec 4) (stuck : BitVec 48) (s : State) :
    (finishTransition target vdd stuck s).umber.sr = s.umber.sr := by
  simp [finishTransition]

theorem releaseHeld_srKept (s : State) :
    SrKept s (releaseHeld s) := by
  grind [SrKept, releaseHeld, systemReset_sr]

theorem transitionEnds_srKept (vdd : BitVec 4) (stuck : BitVec 48) (s : State) :
    SrKept s (transitionEnds vdd stuck s) := by
  grind [SrKept, transitionEnds, finishTransition_sr, systemReset_sr, releaseHeld_srKept]

@[simp] theorem finishOwnerHash_sr (hash : Vector (BitVec 32) 8) (stuck : BitVec 256) (s : State) :
    (finishOwnerHash hash stuck s).umber.sr = s.umber.sr := by
  simp [finishOwnerHash]

theorem ownerHashEnds_srKept (stuck : BitVec 256) (s : State) :
    SrKept s (ownerHashEnds stuck s) := by
  grind [SrKept, ownerHashEnds, releaseHeld_srKept, finishOwnerHash_sr]

@[simp] theorem certsDone_sr (s : State) :
    (certsDone s).umber.sr = s.umber.sr := by
  simp [certsDone]

@[simp] theorem hostFault_sr (code : BitVec 4) (s : State) :
    (hostFault code s).umber.sr = s.umber.sr := by
  simp [hostFault]

@[simp] theorem requestHalt_sr (cause : BitVec 3) (s : State) :
    (requestHalt cause s).umber.sr = s.umber.sr := by
  simp [requestHalt]

@[simp] theorem noteWatch_sr (s : State) :
    (noteWatch s).umber.sr = s.umber.sr := by
  unfold noteWatch
  split <;> simp

@[simp] theorem haltUmber_sr (cause : BitVec 3) (num : BitVec 2) (s : State) :
    (haltUmber cause num s).umber.sr = s.umber.sr := by
  simp [haltUmber]

@[simp] theorem umberHalts_sr (s : State) :
    (umberHalts s).umber.sr = s.umber.sr := by
  unfold umberHalts
  split <;> simp

@[simp] theorem stepUmber_sr (s : State) :
    (stepUmber s).umber.sr = s.umber.sr := by
  simp [stepUmber]

@[simp] theorem forgetOld_sr (l : Loc) (s : State) :
    (forgetOld l s).umber.sr = s.umber.sr := rfl

@[simp] theorem breakHits_sr (s : State) :
    (breakHits s).umber.sr = s.umber.sr := by
  unfold breakHits
  (repeat' split) <;> simp

@[simp] theorem watchHits_sr (s : State) :
    (watchHits s).umber.sr = s.umber.sr := by
  unfold watchHits
  (repeat' split) <;> simp

@[simp] theorem svcDone_sr (s : State) :
    (svcDone s).umber.sr = s.umber.sr := by
  unfold svcDone
  split <;> simp

@[simp] theorem samplePeriodic_sr (r : Readings) (s : State) :
    (samplePeriodic r s).umber.sr = s.umber.sr := by
  simp [samplePeriodic]

@[simp] theorem hostStart_sr (cmd : BitVec 8) (s : State) :
    (hostStart cmd s).umber.sr = s.umber.sr := by
  simp [hostStart]

@[simp] theorem directLocked_sr (r : Fin 32) (s : State) :
    (directLocked r s).umber.sr = s.umber.sr := by
  simp [directLocked]

@[simp] theorem hostCommit_sr (tgt : HostTgt) (v : Word) (s : State) :
    (hostCommit tgt v s).umber.sr = s.umber.sr := by
  simp [hostCommit]

@[simp] theorem sendBell_sr (b : Byte) (s : State) :
    (sendBell b s).umber.sr = s.umber.sr := by
  unfold sendBell
  split <;> simp

@[simp] theorem directStore_sr (r : Fin 32) (b : Byte) (s : State) :
    (directStore r b s).umber.sr = s.umber.sr := by
  simp [directStore]

@[simp] theorem hostMemWrite_sr (a : Addr) (lanes : BitVec 4) (v : Word) (s : State) :
    (hostMemWrite a lanes v s).2.umber.sr = s.umber.sr := by
  grind [hostMemWrite, hostRegion_sr, sramPartial_sr, busGrant_sr, tileWrite_sr]

@[simp] theorem hostEnd_sr (s : State) :
    (hostEnd s).umber.sr = s.umber.sr := by
  simp [hostEnd]

@[simp] theorem hostWithdrawn_sr (s : State) :
    (hostWithdrawn s).umber.sr = s.umber.sr := by
  unfold hostWithdrawn
  (repeat' split) <;> simp

@[simp] theorem hostTimeout_sr (s : State) :
    (hostTimeout s).umber.sr = s.umber.sr := by
  unfold hostTimeout
  split <;> simp

@[simp] theorem podPoll_sr (s : State) :
    (podPoll s).umber.sr = s.umber.sr := by
  unfold podPoll
  split <;> simp

@[simp] theorem putPodBytes_sr (bs : List Byte) (s : State) :
    (putPodBytes bs s).umber.sr = s.umber.sr := by
  simp -implicitDefEqProofs [putPodBytes]

@[simp] theorem podStatus_sr (b : Byte) (s : State) :
    (podStatus b s).umber.sr = s.umber.sr := rfl

@[simp] theorem podTakes_sr (t : PodTxn) (bs : List Byte) (s : State) :
    (podTakes t bs s).umber.sr = s.umber.sr := by
  simp [podTakes]

@[simp] theorem podAnswer_sr (frame : Option (List Byte)) (s : State) :
    (podAnswer frame s).umber.sr = s.umber.sr := by
  unfold podAnswer
  (repeat' split) <;> simp

@[simp] theorem podTimeout_sr (s : State) :
    (podTimeout s).umber.sr = s.umber.sr := by
  unfold podTimeout
  split <;> simp

@[simp] theorem podShown_sr (s : State) :
    (podShown s).umber.sr = s.umber.sr := by
  simp [podShown]

@[simp] theorem podDone_sr (s : State) :
    (podDone s).umber.sr = s.umber.sr := by
  unfold podDone
  split <;> simp

@[simp] theorem releaseNotice_sr (s : State) :
    (releaseNotice s).umber.sr = s.umber.sr := by
  simp [releaseNotice]

@[simp] theorem identEnds_sr (f : List Byte) (s : State) :
    (identEnds f s).umber.sr = s.umber.sr := by
  simp [identEnds]

@[simp] theorem newPod_sr (p : PodIdent) (s : State) :
    (newPod p s).umber.sr = s.umber.sr := rfl

@[simp] theorem identified_sr (p : PodIdent) (ok : Bool) (s : State) :
    (identified p ok s).umber.sr = s.umber.sr := by
  simp [identified]

@[simp] theorem countPulses_sr (n : Word) (s : State) :
    (countPulses n s).umber.sr = s.umber.sr := rfl

@[simp] theorem faceStart_sr (fbusy : Bool) (s : State) :
    (faceStart fbusy s).umber.sr = s.umber.sr := by
  simp [faceStart]

@[simp] theorem faceFinish_sr (under : Bool) (fbusy : Bool) (s : State) :
    (faceFinish under fbusy s).umber.sr = s.umber.sr := by
  simp [faceFinish]

@[simp] theorem fbusyRelease_sr (s : State) :
    (fbusyRelease s).umber.sr = s.umber.sr := by
  simp [fbusyRelease]

@[simp] theorem gpioInput_sr (g : Fin 8) (level : Bool) (s : State) :
    (gpioInput g level s).umber.sr = s.umber.sr := by
  simp [gpioInput]

@[simp] theorem faceShift_sr (s : State) :
    (faceShift s).umber.sr = s.umber.sr := by
  unfold faceShift
  split <;> simp

end Sys2Proof.Machine
end

section
/-!
The frame of SR, continued: the clocks, Sepia's work in its order, the DMA engine, the radio and the host port.
-/

namespace Sys2Proof.Machine

theorem foldr_sr {α : Type} {f : α → State → State} (h : ∀ a s, (f a s).umber.sr = s.umber.sr) (l : List α) (s : State) :
    (l.foldr f s).umber.sr = s.umber.sr := by
  induction l with
  | nil => rfl
  | cons a l ih => exact (h _ _).trans ih

@[simp] theorem trsLate_sr (s : State) : (trsLate s).umber.sr = s.umber.sr :=
  (trsReplay_sr _).trans (foldr_sr hideRequest_sr _ s)

@[simp] theorem trsRefLock_sr (s : State) : (trsRefLock s).umber.sr = s.umber.sr :=
  ite_keeps_sr (trsLate_sr _) <| ite_keeps_sr (trsReturn_sr _) <|
    ite_keeps_sr ((trsReturn_sr _).trans (trsLate_sr _)) ((trsReplay_sr _).trans (trsReturn_sr _))

@[simp] theorem refLock_sr (s : State) : (refLock s).umber.sr = s.umber.sr :=
  ite_keeps_sr ((radioRefLock_sr _).trans <| (trsRefLock_sr _).trans <| timeStart_sr _) rfl

@[simp] theorem armChained_sr (busy : Fin 8 → Bool) (due : List (BitVec 3 × BitVec 3)) (armedNow : BitVec 8) (s : State) :
    (armChained busy due armedNow s).umber.sr = s.umber.sr := by
  induction due generalizing armedNow s with
  | nil => rfl
  | cons e rest ih =>
    rw [armChained]
    exact ite_keeps_sr ((ih _ _).trans (setStrikeStatus_sr _ _ _)) ((ih _ _).trans (armUnit_sr _ _ _))

@[simp] theorem tclkCycle_sr (load : Option (BitVec 92)) (s : State) : (tclkCycle load s).umber.sr = s.umber.sr := by
  unfold tclkCycle
  refine (armChained_sr _ _ _ _).trans <| (foldl_sr (fun t _ => armUnit_sr _ _ t) _ _).trans <| (endPulses_sr _).trans <| (settleArmings_sr _).trans <|
    (foldl_sr (fun t n => strikeCycle_sr _ n t) _ _).trans <| (endPastPulses_sr _).trans <| (synthTick_sr _).trans <| (stampEpochs_sr _).trans <|
    (advanceTo_sr _ _).trans ?_
  exact arriveIrqs_sr s

@[simp] theorem tclkEdge_sr (s : State) : (tclkEdge s).umber.sr = s.umber.sr := tclkCycle_sr none s

theorem stepWrite_srKept (m : Master) (v : Word) (s : State) : SrKept s (stepWrite m v s) :=
  (deliver_srKept m P.TIME_STEP v s).trans (.of_eq (ite_keeps_sr (tclkEdge_sr _) rfl))

@[simp] theorem timeAtPierEdge_sr (t : BitVec 16) (s : State) : (timeAtPierEdge t s).umber.sr = s.umber.sr := by
  unfold timeAtPierEdge
  extract_lets cap n _ s₁ _ _ s₂ marks _ s₃ s₄ s₅
  have h₂ : s₂.umber.sr = s.umber.sr := ite_keeps_sr rfl rfl
  have h₄ : s₄.umber.sr = s.umber.sr := by
    dsimp only [s₄]
    split <;> exact h₂
  have h₅ : s₅.umber.sr = s.umber.sr := ite_keeps_sr h₄ ((takeLoad_sr _).trans h₄)
  split
  · exact h₅
  · exact ite_keeps_sr h₅ <| ite_keeps_sr ((dropLoad_sr _ _).trans h₅) <| ite_keeps_sr ((tclkCycle_sr _ _).trans h₅) <|
      ite_keeps_sr ((dropLoad_sr _ _).trans h₅) h₅

@[simp] theorem crystalEdge_sr (s : State) : (crystalEdge s).umber.sr = s.umber.sr := by
  unfold crystalEdge
  extract_lets i trim _ s₁ step halt taken tick s₂ _ s₃ s₄ s₅ _ s₆ s₇ _ s₈ s₉
  have h₁ : s₁.umber.sr = s.umber.sr := ite_keeps_sr rfl rfl
  have h₄ : s₄.umber.sr = s.umber.sr := (applyAck_sr _).trans h₁
  have h₅ : s₅.umber.sr = s.umber.sr := ite_keeps_sr h₄ ((foldl_sr (fun t n => alarmAt_sr n _ t) _ _).trans h₄)
  have h₇ : s₇.umber.sr = s.umber.sr := (countResidency_sr _).trans h₅
  have h₉ : s₉.umber.sr = s.umber.sr := (watchdogTick_sr _ _).trans ((wakeCycle_sr _).trans h₇)
  exact ite_keeps_sr ((timeAtPierEdge_sr _ _).trans h₉) h₉

theorem pierEdge_srKept (s : State) : SrKept s (pierEdge s) := by
  unfold pierEdge
  extract_lets sec s₁ s₂ _ s₃
  have h₂ : s₂.umber.sr = s.umber.sr := ite_keeps_sr (crystalEdge_sr s) ((sepiaWindows_sr _).trans (crystalEdge_sr s))
  exact .trans (.of_eq h₂) (.trans (compareSupplies_srKept s₃) (.of_eq (countRelease_sr _)))

theorem loadApply_srKept (s : State) : SrKept s (loadApply s) :=
  .ite (.of_eq (ite_keeps_sr (tclkEdge_sr s) rfl)) <| .ite (.ite (pierEdge_srKept s) (.refl s)) (.refl s)

theorem armWrite_srKept (m : Master) (n : Fin 8) (v : Word) (s : State) : SrKept s (armWrite m n v s) :=
  .ite ((deliver_srKept m _ v s).trans (.of_eq (ite_keeps_sr (tclkEdge_sr _) rfl))) (.refl s)

theorem map_hopOver_sr {o : Option State} {w : Word} {t : State} (h : ∀ u, o = some u → u.umber.sr = w) (ht : Option.map hopOver o = some t) : t.umber.sr = w := by
  obtain ⟨u, hu, rfl⟩ := Option.map_eq_some_iff.1 ht
  exact (hopOver_sr u).trans (h u hu)

theorem radioStrike_sr {r : BitVec 9} {s t : State} (h : radioStrike r s = some t) : t.umber.sr = s.umber.sr := by
  refine map_hopOver_sr (fun u hu => ?_) h
  split at hu
  · split at hu
    · exact radioAct_sr hu
    · split at hu
      · cases hu
      · split at hu
        · exact radioAct_sr hu
        · cases hu
  · split at hu
    · exact radioAct_sr hu
    · cases hu
  · split at hu
    · exact (radioAct_sr hu).trans (State.setPar_sr _ _ _)
    · cases hu
  · cases hu

theorem radioStrike_getD_sr (r : BitVec 9) (d s : State) (h : d.umber.sr = s.umber.sr) :
    (match radioStrike r s with | some t => t | none => d).umber.sr = s.umber.sr := by
  split
  · exact radioStrike_sr ‹_›
  · exact h

@[simp] theorem strikeAction_sr (s : State) : (strikeAction s).umber.sr = s.umber.sr := by
  unfold strikeAction
  split
  · rfl
  · exact ite_keeps_sr (radioStrike_getD_sr _ _ _ (setStrikeStatus_sr _ _ _)) rfl

@[simp] theorem hostPoison_sr (r : Option Word × State) : (hostPoison r).2.umber.sr = r.2.umber.sr := by
  unfold hostPoison
  split <;> rfl

@[simp] theorem hostMemRead_sr (a : Addr) (s : State) : (hostMemRead a s).2.umber.sr = s.umber.sr := by
  refine ite_snd_keeps_sr rfl ?_
  split
  · rename_i h
    exact (snd_sr_of_eq h).trans (hostRegion_sr _ _ _ _ _)
  · rename_i h
    refine Eq.trans ?_ ((snd_sr_of_eq h).trans (hostRegion_sr _ _ _ _ _))
    split
    · exact ite_snd_keeps_sr rfl ((hostPoison_sr _).trans ((sramRead_sr _ _ _).trans (busGrant_sr _ _ _)))
    · exact ite_snd_keeps_sr rfl <| ite_snd_keeps_sr rfl ((hostPoison_sr _).trans (tileRead_sr _ _))
    · exact (hostPoison_sr _).trans (nvmRead_sr _ _ _)
    · exact (hostPoison_sr _).trans (nvmRead_sr _ _ _)
    · rfl

@[simp] theorem hostReadDone_sr (s : State) : (hostReadDone s).umber.sr = s.umber.sr := by
  unfold hostReadDone
  split
  · rfl
  · rename_i tgt _
    refine ite_keeps_sr rfl ?_
    extract_lets r code w _ s₁ s₂ s₃ s₄
    have hr : r.2.umber.sr = s.umber.sr := by
      dsimp only [r]
      split
      · exact hostParRead_sr _ s
      · exact hostMemRead_sr _ s
    have h₁ : s₁.umber.sr = s.umber.sr := (hostWaits_sr _).trans hr
    have h₂ : s₂.umber.sr = s.umber.sr := by
      dsimp only [s₂]
      split <;> exact h₁
    have h₃ : s₃.umber.sr = s.umber.sr := ite_keeps_sr h₂ ((hostError_sr _ _ _).trans h₂)
    exact (hostAnswer_sr _ _ _ _).trans h₃

theorem readLeaves_sr (m : Master) (i : Nat) (r : ParRead × State) : (readLeaves m i r).umber.sr = r.2.umber.sr := by
  unfold readLeaves
  split
  · exact notePerr_sr _ _ _ _ _
  · rfl

@[simp] theorem readEffect_sr (m : Master) (i : Nat) (s : State) : (readEffect m i s).umber.sr = s.umber.sr := by
  cases m with
  | sepia => exact ite_keeps_sr ((readLeaves_sr _ _ _).trans (readPar_sr _ _ _)) rfl
  | umber => exact ite_keeps_sr ((readLeaves_sr _ _ _).trans (readPar_sr _ _ _)) rfl
  | dma c => exact ite_keeps_sr ((readLeaves_sr _ _ _).trans (readPar_sr _ _ _)) rfl
  | host => exact ite_keeps_sr (hostReadDone_sr s) rfl

theorem escalated_srKept (s : State) : SrKept s (escalated s) := by
  unfold escalated
  split
  · extract_lets _ s₁
    have h₁ : s₁.umber.sr = s.umber.sr := by
      dsimp only [s₁]
      rw [State.countMgmt_sr, State.setUmber_umber]
    exact .trans (.of_eq ((State.pushLog_sr _ _ _ _ _).trans h₁)) (resetUmber_srKept 17 _)
  · exact .refl s

theorem watchdogWork_srKept (s : State) : SrKept s (watchdogWork s) :=
  .ite (.trans (.of_eq ((wdStage2_sr _).trans (wdStage1_sr s))) <| .trans (wdStage3_srKept _) <| .trans (escalated_srKept _) (revokeEnds_srKept _)) (.refl s)

theorem onService_sr {code : BitVec 8} {f : Service → State → State} (h : ∀ v s, (f v s).umber.sr = s.umber.sr) (s : State) :
    (onService code f s).umber.sr = s.umber.sr := by
  unfold onService
  split
  · exact ite_keeps_sr ((h _ _).trans (nvmSettled_sr s)) rfl
  · rfl

@[simp] theorem readBuffer_sr (dom : Dom) (n : Nat) (a : Addr) (s : State) : (readBuffer dom n a s).2.umber.sr = s.umber.sr := by
  induction n generalizing a s with
  | zero => rfl
  | succ n ih => exact ite_snd_keeps_sr (readAs_sr _ _ _) ((ih _ _).trans (readAs_sr _ _ _))

theorem withBuffer_sr {f : List Word → State → State} (h : ∀ ws s, (f ws s).umber.sr = s.umber.sr) (v : Service) (n : Nat) (a : Addr) (s : State) :
    (withBuffer v n a f s).umber.sr = s.umber.sr :=
  ite_keeps_sr ((svcResult_sr _ _ _ _).trans (readBuffer_sr _ _ _ _)) ((h _ _).trans (readBuffer_sr _ _ _ _))

@[simp] theorem svcNvmWrite_sr (v : Service) (s : State) : (svcNvmWrite v s).umber.sr = s.umber.sr :=
  ite_keeps_sr (svcResult_sr _ _ _ _) <| ite_keeps_sr (svcResult_sr _ _ _ _) <|
    withBuffer_sr (fun _ _ => (svcResult_sr _ _ _ _).trans ((showNvmQ_sr _).trans (State.setMgmt_sr _ _))) _ _ _ s

@[simp] theorem svcRegions_sr (v : Service) (s : State) : (svcRegions v s).umber.sr = s.umber.sr :=
  ite_keeps_sr (svcResult_sr _ _ _ _) <| withBuffer_sr (fun _ _ => (svcWritten_sr _ _ _).trans (writeCfg_sr _ _)) _ _ _ s

@[simp] theorem cryptDone_sr (s : State) : (cryptDone s).umber.sr = s.umber.sr := by
  unfold cryptDone
  split
  · rfl
  · refine ite_keeps_sr ?_ rfl
    split
    · exact ite_keeps_sr (cryptDraw_sr _ _) rfl
    · rename_i kt _
      refine ite_keeps_sr ?_ rfl
      extract_lets _ s₁ s₂ _ s₃ iv s₄ 
      have h₃ : s₃.umber.sr = s.umber.sr := by
        dsimp only [s₃]
        split <;> rfl
      have h₄ : s₄.umber.sr = s.umber.sr := ite_keeps_sr ((foldl_sr (fun t _ => State.setPar_sr t _ _) _ _).trans h₃) h₃
      exact (endOp_sr _ _ _ _).trans h₄

@[simp] theorem wrapStep_sr (v : Service) (slot : BitVec 4) (header : Word) (s : State) : (wrapStep v slot header s).umber.sr = s.umber.sr := by
  unfold wrapStep
  extract_lets s₁
  have h₁ : s₁.umber.sr = s.umber.sr := by
    dsimp only [s₁]
    split
    · exact ite_keeps_sr (cryptDone_sr s) rfl
    · rfl
  split
  · exact ite_keeps_sr h₁ ((wrapEnd_sr _ _ _ _).trans h₁)
  · exact (wrapEnd_sr _ _ _ _).trans h₁

@[simp] theorem svcKeyWrite_sr (v : Service) (s : State) : (svcKeyWrite v s).umber.sr = s.umber.sr := by
  unfold svcKeyWrite
  extract_lets slot s₁ old gen header
  have h₁ : s₁.umber.sr = s.umber.sr := sepiaSaw_sr _ _ _ s
  have fails : ∀ code reply, (svcResult v code reply s₁).umber.sr = s.umber.sr := fun _ _ => (svcResult_sr _ _ _ _).trans h₁
  split
  · exact wrapStep_sr _ _ _ s
  · refine ite_keeps_sr (fails _ _) <| ite_keeps_sr (fails _ _) <| ite_keeps_sr (fails _ _) <| ite_keeps_sr (fails _ _) <|
      ite_keeps_sr ((startWrap_sr _ _ _ _ _).trans h₁) <| (withBuffer_sr (fun xs t => ?_) _ _ _ s₁).trans h₁
    exact (startWrap_sr _ _ _ _ _).trans (foldl_sr (fun u _ => cryptKey_sr _ _ _ u) _ _)

@[simp] theorem serviceWork_sr (s : State) : (serviceWork s).umber.sr = s.umber.sr := by
  unfold serviceWork
  split
  · rfl
  · refine ite_keeps_sr rfl ?_
    split
    · exact onService_sr svcNvmWrite_sr s
    · exact onService_sr svcLogAppend_sr s
    · exact onService_sr (svcSense_sr _) s.drawn
    · exact onService_sr (svcPodTest_sr _) s.drawn
    · exact onService_sr (svcXtalChk_sr _) s.drawn
    · exact onService_sr svcArmUpdate_sr s
    · exact onService_sr svcConfirm_sr s
    · exact onService_sr svcRegions_sr s
    · exact onService_sr svcKeyWrite_sr s
    · exact onService_sr svcSlotInfo_sr s
    · rfl

theorem higherWork_srKept (p : Nat) (s : State) : SrKept s (higherWork p s) := by
  unfold higherWork
  extract_lets s₁ s₂ s₃ s₄
  have h₁ : SrKept s s₁ := .ite (watchdogWork_srKept s) (.refl s)
  have h₂ : s₂.umber.sr = s₁.umber.sr := ite_keeps_sr (eventWork_sr s₁) rfl
  have h₃ : s₃.umber.sr = s₂.umber.sr := ite_keeps_sr (logWork_sr s₂) rfl
  have h₄ : s₄.umber.sr = s₃.umber.sr := ite_keeps_sr (serviceWork_sr s₃) rfl
  exact h₁.trans (.of_eq ((ite_keeps_sr (queueWork_sr s₄) rfl).trans (h₄.trans (h₃.trans h₂))))

theorem inTurn_srKept {p : Nat} {f : State → State} (h : ∀ s, SrKept s (f s)) (s : State) : SrKept s (inTurn p f s) :=
  .ite ((higherWork_srKept p s).trans (h _)) (higherWork_srKept p s)

theorem edgeWhen_srKept (b : Bool) (s : State) : SrKept s (edgeWhen b s) := .ite (pierEdge_srKept s) (.refl s)

theorem swcfgWritten_srKept (m : Master) (v : Word) (sup : Supplies) (s : State) : SrKept s (swcfgWritten m v sup s) := by
  have h : SrKept s (deliver m P.PIER_SWCFG v (suppliesAt sup s)) := (suppliesAt_srKept sup s).trans (deliver_srKept m _ v _)
  exact .ite (h.trans (pierEdge_srKept _)) h

theorem lockReleases_srKept (s : State) : SrKept s (lockReleases s) := by
  have h : SrKept s (compareSupplies s) := compareSupplies_srKept s
  exact .ite h <| .ite (.ite (h.trans (pierEdge_srKept _)) h) <| .ite (h.trans (.of_eq (lockEnds_sr _))) h

/-- SR after an element's access, in whichever state the answer carries. -/
inductive ElemR.SrKept (s : State) : ElemR → Prop
  | ok {ws : Word × Word} {t : State} : Machine.SrKept s t → SrKept s (.ok ws t)
  | fault {code : BitVec 5} {a : Addr} {t : State} : Machine.SrKept s t → SrKept s (.fault code a t)
  | hold {t : State} : Machine.SrKept s t → SrKept s (.hold t)
  | sent : SrKept s .sent

theorem ElemR.srKept_ite {p : Prop} [Decidable p] {s : State} {a b : ElemR} (ha : a.SrKept s) (hb : b.SrKept s) : ElemR.SrKept s (if p then a else b) := by
  split <;> assumption

theorem ElemR.srKept_ok {ws : Word × Word} {s t : State} (h : t.umber.sr = s.umber.sr) : (ElemR.ok ws t).SrKept s := .ok (.of_eq h)

theorem ElemR.srKept_fault {code : BitVec 5} {a : Addr} {s t : State} (h : t.umber.sr = s.umber.sr) : (ElemR.fault code a t).SrKept s := .fault (.of_eq h)

theorem ElemR.srKept_hold {s t : State} (h : t.umber.sr = s.umber.sr) : (ElemR.hold t).SrKept s := .hold (.of_eq h)

theorem keepHalf_srKept {c : Fin 16} {w : Word} {s t : State} (h : t.umber.sr = s.umber.sr) : (keepHalf c w t).SrKept s := .hold (.of_eq h)

theorem elemRegion_srKept {acc : Accessor} {need : Need} {as : List Addr} {s : State} {k : ElemR} (h : k.SrKept s) : (elemRegion acc need as s k).SrKept s := by
  unfold elemRegion
  split
  · exact h
  · exact ElemR.srKept_fault (noteViol_sr _ _ _ _ s)

theorem elemMask_srKept {acc : Accessor} {write : Bool} {a : Addr} {s : State} {k : ElemR} (h : k.SrKept s) : (elemMask acc write a s k).SrKept s := by
  unfold elemMask
  split
  · exact ElemR.srKept_ite (ElemR.srKept_fault (notePerr_sr _ _ _ _ s)) h
  · exact h

theorem elemWordR_srKept {a : Addr} {r : Option Word × State} {f : Word → State → ElemR} {s : State} (hr : r.2.umber.sr = s.umber.sr)
    (hf : ∀ w t, t.umber.sr = s.umber.sr → (f w t).SrKept s) : (elemWordR a r f).SrKept s := by
  unfold elemWordR
  split
  · exact hf _ _ hr
  · exact ElemR.srKept_fault hr

theorem elemReadWord_srKept (c : Fin 16) (a : Addr) (s : State) {f : Word → State → ElemR}
    (hf : ∀ w t, t.umber.sr = s.umber.sr → (f w t).SrKept s) : (elemReadWord c a s f).SrKept s := by
  cases h : place a with
  | sram b =>
    simp only [elemReadWord, h]
    exact ElemR.srKept_ite (ElemR.srKept_fault rfl) (elemWordR_srKept ((sramRead_sr _ _ _).trans (busGrant_sr _ _ _)) hf)
  | dnvm b =>
    simp only [elemReadWord, h]
    exact elemWordR_srKept (nvmRead_sr _ _ s) hf
  | prog b =>
    simp only [elemReadWord, h]
    exact elemWordR_srKept (nvmRead_sr _ _ s) hf
  | par i =>
    simp only [elemReadWord, h]
    refine ElemR.srKept_ite (hf _ _ (elemNoParam_sr c s)) ?_
    rcases hr : readPar (s.dmaAcc c) i.toNat s with ⟨v, t⟩
    have ht : t.umber.sr = s.umber.sr := (snd_sr_of_eq hr).trans (readPar_sr _ _ s)
    cases v with
    | val w => exact hf _ _ ht
    | refused r => exact ElemR.srKept_fault ((notePerr_sr _ _ _ _ _).trans ht)
    | wait => exact ElemR.srKept_hold ht
    | bus => exact ElemR.srKept_fault ht
  | fifo =>
    simp only [elemReadWord, h]
    exact hf _ _ (fifoRead_sr _ _)
  | _ =>
    simp only [elemReadWord, h]
    exact ElemR.srKept_fault rfl

theorem elemReadPlace_srKept (c : Fin 16) (d : DmaSt) (n : Nat) (a : Addr) (s : State) : (elemReadPlace c d n a s).SrKept s := by
  unfold elemReadPlace
  split
  · exact elemReadWord_srKept c _ s fun _ _ ht => ElemR.srKept_ok ht
  · exact elemReadWord_srKept c _ s fun _ _ ht => ElemR.srKept_ite (keepHalf_srKept ht) (ElemR.srKept_ok ht)

theorem elemWriteSram_srKept (c : Fin 16) (d : DmaSt) (n : Nat) (a : Addr) (b : BitVec 18) (h : place a = .sram b) (s : State) : (elemWritePlace c d n a s).SrKept s := by
  simp only [elemWritePlace, h]
  have hb : ∀ b, (busGrant waitDma b s).umber.sr = s.umber.sr := fun b => busGrant_sr _ b s
  refine ElemR.srKept_ite (ElemR.srKept_fault rfl) <|
    ElemR.srKept_ite (elemWordR_srKept ((sramAtomic_sr _ _ _ _).trans (hb b)) fun _ _ ht => ElemR.srKept_ok ht) <|
    ElemR.srKept_ite (ElemR.srKept_ite (ElemR.srKept_ok ((sramWrite_sr _ _ _).trans (hb _))) (keepHalf_srKept ((sramWrite_sr _ _ _).trans (hb b)))) ?_
  split <;> rename_i h
  · exact ElemR.srKept_ok ((snd_sr_of_eq h).trans ((sramPartial_sr _ _ _ _ _).trans (hb b)))
  · exact ElemR.srKept_fault ((snd_sr_of_eq h).trans ((sramPartial_sr _ _ _ _ _).trans (hb b)))

theorem elemWritePlace_srKept (c : Fin 16) (d : DmaSt) (n : Nat) (a : Addr) (s : State) : (elemWritePlace c d n a s).SrKept s := by
  have stays : ∀ code, (ElemR.fault code a s).SrKept s := fun _ => ElemR.srKept_fault rfl
  cases h : place a with
  | sram b => exact elemWriteSram_srKept c d n a b h s
  | par i =>
    simp only [elemWritePlace, h]
    exact ElemR.srKept_ite (stays _) <| ElemR.srKept_ite (ElemR.srKept_ok (elemNoParam_sr c s)) <| ElemR.srKept_ite (ElemR.srKept_hold rfl) <|
      ElemR.srKept_ite (.ok (writeAs_srKept _ _ _ s)) (.fault (writeAs_srKept _ _ _ s))
  | fifo =>
    simp only [elemWritePlace, h]
    exact ElemR.srKept_ite (stays _) <| ElemR.srKept_ite (ElemR.srKept_ok rfl) <|
      ElemR.srKept_ite (ElemR.srKept_ok (fifoWrite_sr _ s)) (ElemR.srKept_fault (fifoWrite_sr _ s))
  | _ =>
    simp only [elemWritePlace, h]
    exact stays _

theorem elemPerform_srKept (c : Fin 16) (s : State) : (elemPerform c s).SrKept s :=
  ElemR.srKept_ite (elemWritePlace_srKept c _ _ _ s) (elemReadPlace_srKept c _ _ _ s)

theorem elemAccess_srKept (c : Fin 16) (s : State) : (elemAccess c s).SrKept s :=
  ElemR.srKept_ite (elemPerform_srKept c s) <| ElemR.srKept_ite (ElemR.srKept_fault rfl) <|
    elemRegion_srKept (elemMask_srKept (ElemR.srKept_ite .sent (elemPerform_srKept c s)))

theorem descWord_srKept (c : Fin 16) (a : Addr) (s : State) : (descWord c a s).SrKept s := by
  refine elemRegion_srKept ?_
  split
  · exact ElemR.srKept_ite (ElemR.srKept_fault rfl) (elemWordR_srKept ((sramRead_sr _ _ _).trans (busGrant_sr _ _ _)) fun _ _ ht => ElemR.srKept_ok ht)
  · exact ElemR.srKept_fault rfl

theorem elemTake_srKept {c : Fin 16} {r : ElemR} {s t : State} (h : r.SrKept s) (ht : SrKept s t) : SrKept s (elemTake c r t) := by
  cases h with
  | ok h => exact .ite (.trans h (.of_eq (elemComplete_sr _ _))) h
  | fault h => exact .trans h (.of_eq (dmaFault_sr _ _ _ _))
  | hold h => exact h
  | sent => exact ht

theorem descriptorLoad_srKept (c : Fin 16) (s : State) : SrKept s (descriptorLoad c s) := by
  refine .ite (.ite (.of_eq ((beginDescriptor_sr _ _).trans (loadParamDesc_sr _ _))) ?_) (.refl s)
  extract_lets k a
  have h := descWord_srKept c a s
  generalize descWord c a s = r at h
  cases h with
  | ok h => exact .ite (.trans h (.of_eq (beginDescriptor_sr _ _))) h
  | fault h => exact .trans h (.of_eq (dmaFault_sr _ _ _ _))
  | hold | sent => exact .refl s

theorem dmaReply_srKept (c : Fin 16) (s : State) : SrKept s (dmaReply c s) := by
  refine .ite ?_ (.refl s)
  extract_lets _ t
  have ht : t.umber.sr = s.umber.sr := arrived_sr c _
  have h := elemPerform_srKept c t
  generalize elemPerform c t = r at h
  refine .trans (.of_eq ht) ?_
  cases h with
  | hold h => exact h
  | ok h => exact elemTake_srKept (.ok h) (.refl t)
  | fault h => exact elemTake_srKept (.fault h) (.refl t)
  | sent => exact elemTake_srKept .sent (.refl t)

theorem SrKept.foldl {α : Type} {f : State → α → State} (h : ∀ s a, SrKept s (f s a)) (l : List α) (s : State) : SrKept s (l.foldl f s) := by
  induction l generalizing s with
  | nil => exact .refl s
  | cons a l ih => exact (h s a).trans (ih _)

theorem dmaElement_srKept (back : BitVec 16) (s : State) : SrKept s (dmaElement back s) := by
  unfold dmaElement
  extract_lets s₁
  have h₁ : SrKept s s₁ := SrKept.foldl (fun t c => .ite (dmaReply_srKept c t) (.refl t)) _ s
  split
  · exact h₁
  · exact h₁.trans (.ite (.refl s₁) (elemTake_srKept (elemAccess_srKept _ s₁) (.refl s₁)))

@[simp] theorem drawPars_sr (base n : Nat) (s : State) : (drawPars base n s).umber.sr = s.umber.sr := by
  induction n generalizing base s with
  | zero => rfl
  | succ n ih => exact ih _ _

@[simp] theorem iqCalDone_sr (s : State) : (iqCalDone s).umber.sr = s.umber.sr :=
  (evalCal_sr _).trans ((State.setRadio_sr _ _).trans ((State.setPar_sr _ _ _).trans (drawPars_sr _ _ s)))

@[simp] theorem dcStartDone_sr (s : State) : (dcStartDone s).umber.sr = s.umber.sr := by
  unfold dcStartDone
  extract_lets g
  split <;> exact drawPars_sr _ _ s

@[simp] theorem addedCals_sr (rx rc iq dcAll : Bool) (s : State) : (addedCals rx rc iq dcAll s).umber.sr = s.umber.sr := by
  unfold addedCals
  extract_lets s₁ s₂
  have h₁ : s₁.umber.sr = s.umber.sr := ite_keeps_sr (rcCalDone_sr s) rfl
  have h₂ : s₂.umber.sr = s.umber.sr := ite_keeps_sr ((iqCalDone_sr _).trans h₁) h₁
  exact ite_keeps_sr (ite_keeps_sr ((State.setRadio_sr _ _).trans ((dcAllDone_sr _).trans h₂)) ((dcStartDone_sr _).trans h₂)) h₂

theorem opened_sr (rx : Bool) (s : State) : (if rx then openRx s else txReady s).umber.sr = s.umber.sr :=
  ite_keeps_sr (openRx_sr s) (txReady_sr s)

theorem radioEvent_ite_sr (p : Prop) [Decidable p] (bit : Nat) (s : State) : (if p then radioEvent bit s else s).umber.sr = s.umber.sr :=
  ite_keeps_sr (radioEvent_sr _ s) rfl

@[simp] theorem transitionDone_sr (locked : Bool) (s : State) : (transitionDone locked s).umber.sr = s.umber.sr := by
  unfold transitionDone
  split
  · rfl
  · exact (radioEvent_ite_sr _ _ _).trans ((goRadio_sr _ _ _ _).trans (State.setRadio_sr _ _))
  · have h := (goRadio_sr rsStandby false false (s.setRadio { s.radio with trans := none })).trans (State.setRadio_sr s _)
    exact ite_keeps_sr (ite_keeps_sr ((lowerTo_sr _ _ _ _).trans h) ((radioEvent_ite_sr _ _ _).trans h)) rfl
  · exact ite_keeps_sr ((radioEvent_sr _ _).trans ((opened_sr _ _).trans ((addedCals_sr _ _ _ _ _).trans (synthSettled_sr _ s)))) (synthFailed_sr _ s)
  · exact (radioEvent_ite_sr _ _ _).trans (opened_sr _ s)
  · exact (radioEvent_sr _ _).trans (startSend_sr s)
  · exact (goOnAir_sr _ _ _ _).trans (State.setRadio_sr s _)
  · rename_i rx _
    refine ite_keeps_sr ((radioEvent_sr _ _).trans (Eq.trans ?_ (synthSettled_sr rx s))) (synthFailed_sr _ s)
    exact ite_keeps_sr (openRx_sr _) ((goOnAir_sr _ _ _ _).trans (State.setRadio_sr _ _))
  · refine (radioEvent_sr _ _).trans ((radioEvent_sr _ _).trans ((goRadio_sr _ _ _ _).trans ((State.setRadio_sr _ _).trans ?_)))
    exact ite_keeps_sr (rcCalDone_sr s) (ite_keeps_sr (iqCalDone_sr s) (dcAllDone_sr s))

theorem deliverFifo_srKept (m : Master) (v : Word) (s : State) : SrKept s (deliverFifo m v s) := by
  cases m with
  | umber => exact deliverUmber_srKept _ _ s
  | _ => exact .refl s

@[simp] theorem rngServe_sr (n : Nat) (s : State) : (rngServe n s).umber.sr = s.umber.sr := by
  induction n generalizing s with
  | zero => rfl
  | succ n ih =>
    unfold rngServe
    split
    · exact (ih _).trans ((State.setRng_sr _ _).trans (rngPop_sr s))
    · rfl

@[simp] theorem rngFollows_sr (s : State) : (rngFollows s).umber.sr = s.umber.sr :=
  (challengeRetry_sr _).trans ((rngServe_sr _ _).trans (cryptPump_sr s))

@[simp] theorem sepiaVerify_sr (ws : List (BitVec 32)) (s : State) : (sepiaVerify ws s).umber.sr = s.umber.sr := by
  unfold sepiaVerify
  extract_lets s₁
  have h₁ : s₁.umber.sr = s.umber.sr := startOp_sr _ _ s
  split
  · exact (cryptDone_sr _).trans h₁
  · exact h₁

@[simp] theorem responseDone_sr (s : State) : (responseDone s).umber.sr = s.umber.sr := by
  refine ite_keeps_sr ?_ rfl
  extract_lets _ s₁ hash s₂ s₃
  have h₁ : s₁.umber.sr = s.umber.sr := State.setLife_sr s _
  have h₂ : s₂.umber.sr = s.umber.sr := (sepiaVerify_sr _ _).trans h₁
  exact ite_keeps_sr ((gateLog_sr _ _ _).trans ((State.setPar_sr _ _ _).trans ((setLastRes_sr _ _).trans ((showRights_sr _ _).trans h₂))))
    ((responseFails_sr _ _).trans h₂)

theorem takeFrame_sr (f : RxFrame) (len : BitVec 8) (body : List Byte) (h : Header) (crcok : Bool) (mk mi : BitVec 2) (s : State) :
    (takeFrame f len body h crcok mk mi s).state.umber.sr = s.umber.sr := by
  unfold takeFrame
  extract_lets cfg seq dup s₁ drop room want store ack desc rec' _ s₂ s₃
  have h₁ : s₁.umber.sr = s.umber.sr := by
    have hq : seq.2.umber.sr = s.umber.sr := ite_snd_keeps_sr (seqCheck_sr _ _ s) rfl
    exact ite_keeps_sr ((linkEvent_sr _ _).trans ((bumpSat_sr _ _).trans hq)) hq
  have h₂ : s₂.umber.sr = s.umber.sr := (State.setRadio_sr s₁ _).trans h₁
  exact ite_keeps_sr ((linkEvent_sr _ _).trans ((bumpSat_sr _ _).trans h₂))
    (ite_keeps_sr ((linkEvent_sr _ _).trans ((bumpSat_sr _ _).trans h₁)) h₁)

@[simp] theorem frameReceived_sr (bits : List Bool) (s : State) : (frameReceived bits s).umber.sr = s.umber.sr := by
  unfold frameReceived
  split
  · rfl
  · rename_i f _
    extract_lets clear len data crcok body h _ s₁ s₂ b s₃ awaited s₄ v s₅ s₆
    have h₂ : s₂.umber.sr = s.umber.sr := ite_keeps_sr rfl ((linkEvent_sr _ _).trans (bumpSat_sr _ _))
    have h₃ : s₃.umber.sr = s.umber.sr := h₂
    have hv : v.state.umber.sr = s.umber.sr := by
      dsimp only [v]
      split
      · exact (linkEvent_sr _ _).trans ((bumpSat_sr _ _).trans h₃)
      · exact (takeFrame_sr _ _ _ _ _ _ _ _).trans h₃
    have h₆ : s₆.umber.sr = s.umber.sr := ite_keeps_sr ((histFlag_sr _ _ _).trans hv) hv
    refine ite_keeps_sr rfl (ite_keeps_sr ((rxtoAtEnd_sr _ _).trans ((ackWaitEnd_sr _ _ _).trans ((histFlag_sr _ _ _).trans h₃))) ?_)
    split
    · exact (rxtoAtEnd_sr _ _).trans (ite_keeps_sr ((ackWaitEnd_sr _ _ _).trans h₆) h₆)
    · exact ite_keeps_sr ((rxtoExpire_sr _).trans h₆) <| ite_keeps_sr h₆ <| ite_keeps_sr ((startTurn_sr _ _ _ _).trans h₆) h₆

@[simp] theorem passDone_sr (s : State) : (passDone s).umber.sr = s.umber.sr := by
  refine ite_keeps_sr ?_ rfl
  extract_lets l s₁ sum s₂ s₃ s₄ s₅
  clear_value l
  have h₁ : s₁.umber.sr = s.umber.sr := (drawPars_sr _ _ _).trans (drawPars_sr _ _ s)
  have h₂ : s₂.umber.sr = s.umber.sr := by
    dsimp only [s₂]
    split
    · exact h₁
    · split <;> exact h₁
  have h₃ : s₃.umber.sr = s.umber.sr := (foldl_sr (fun t _ => State.setPar_sr t _ _) _ s₂).trans h₂
  exact (trsIrq_sr _ _).trans h₃

@[simp] theorem sepiaOp_sr (cmd : BitVec 20) (bs : List Byte) (s : State) : (sepiaOp cmd bs s).umber.sr = s.umber.sr :=
  (cryptDone_sr _).trans ((foldl_sr (fun t _ => cryptIn_sr _ t) _ _).trans ((startOp_sr _ _ _).trans (State.setPar_sr s _ _)))

@[simp] theorem checkPod_sr (nonce : List Byte) (p : PodIdent) (s : State) : (checkPod nonce p s).2.umber.sr = s.umber.sr := by
  unfold checkPod
  extract_lets ser tag s₁ s₂
  have h₁ : s₁.umber.sr = s.umber.sr := sepiaOp_sr _ _ s
  exact ite_snd_keeps_sr h₁ ((clearFifos_sr _).trans ((sepiaOp_sr _ _ _).trans h₁))

theorem podIdentify_none_sr (s : State) : (podIdentify none s).umber.sr = s.umber.sr :=
  ite_keeps_sr rfl ((startMeter_sr _).trans ((identEnds_sr _ _).trans rfl))

theorem podIdentify_some_sr (p : PodIdent) (s : State) : (podIdentify (some p) s).umber.sr = s.umber.sr := by
  unfold podIdentify
  refine ite_keeps_sr rfl <| ite_keeps_sr rfl <| ite_keeps_sr ((startMeter_sr _).trans ((identified_sr _ _ _).trans ((identEnds_sr _ _).trans (sepiaDrops_sr s)))) ?_
  extract_lets s₁ nonce s₂ r s₃
  have h₁ : s₁.umber.sr = s.umber.sr := sepiaReads_sr 4 s
  refine ite_keeps_sr ((State.setPod_sr _ _).trans h₁) ?_
  refine (challengeRetry_sr _).trans <| (startMeter_sr _).trans <| (identified_sr _ _ _).trans <| (identEnds_sr _ _).trans <| (podStatus_sr _ _).trans ?_
  exact (checkPod_sr _ _ _).trans <| (cipherSaw_sr _ _ _).trans <| (identEnds_sr _ _).trans <| (sepiaDrops_sr s₁).trans h₁

theorem tempPeriodic_srKept (temp : BitVec 10) (s : State) : SrKept s (tempPeriodic temp s) :=
  .ite (inTurn_srKept (fun t => .ite (.of_eq (setTempNow_sr _ t)) (.refl t)) s) (.refl s)

@[simp] theorem idle_sr (s : State) : (idle s).umber.sr = s.umber.sr :=
  (faceShift_sr _).trans (ite_keeps_sr (tclkEdge_sr s) rfl)

theorem serve_srKept {code : BitVec 8} {f : Service → State → State} (h : ∀ v s, (f v s).umber.sr = s.umber.sr) (s : State) : SrKept s (serve code f s) :=
  .ite (inTurn_srKept (fun t => .of_eq (onService_sr h t)) s) (.refl s)

theorem hostEntryEnd_sr {w : HostWrite} {next : Bool} {s : State} {r : BitVec 4 × State} (h : hostEntryEnd w next s = some r) : r.2.umber.sr = s.umber.sr := by
  cases hl : w.latched with
  | some c =>
    simp only [hostEntryEnd, hl, Option.ite_none_right_eq_some, Option.some.injEq] at h
    obtain ⟨-, rfl⟩ := h
    rfl
  | none =>
    cases ht : w.tgt with
    | mem a lanes =>
      simp only [hostEntryEnd, hl, ht, Option.ite_none_left_eq_some, Option.some.injEq] at h
      obtain ⟨-, rfl⟩ := h
      exact hostMemWrite_sr _ _ _ s
    | par i =>
      simp only [hostEntryEnd, hl, ht, Option.ite_none_left_eq_some] at h
      obtain ⟨-, h⟩ := h
      repeat' split at h
      · obtain rfl := Option.some.inj h
        rfl
      · obtain rfl := Option.some.inj h
        rfl
      · obtain rfl := Option.some.inj h
        exact notePerr_sr _ _ _ _ s
      · cases h

@[simp] theorem hostAck_sr (s : State) : (hostAck s).umber.sr = s.umber.sr := by
  refine ite_keeps_sr rfl ?_
  extract_lets n hit
  clear_value hit
  split
  · rfl
  · split
    · rfl
    · split
      · rfl
      · rename_i h
        extract_lets behind _ s₁ s₂
        have h₁ : s₁.umber.sr = s.umber.sr := (ringAll_sr _ _).trans ((State.setHost_sr _ _).trans (hostEntryEnd_sr h))
        have h₂ : s₂.umber.sr = s.umber.sr := ite_keeps_sr ((nvmSettled_sr _).trans h₁) h₁
        exact ite_keeps_sr h₂ ((hostError_sr _ _ _).trans h₂)

end Sys2Proof.Machine
end

section
/-!
SR as a word: which bits only entries, RETI and resets change (Table UMM-3), and that each of these gives a legal word.
-/

namespace Sys2Proof.Machine

open Sys2Proof.Claims

/-! ### SR words -/

/-- A bit of SR that only entries to handlers, RETI and resets change: DOM, PRV, EXL, NMIL and the reserved ones (Table UMM-3, R172). -/
def SrHeld (k : Nat) : Prop := (12 ≤ k ∧ k ≤ 20) ∨ k = 25 ∨ k = 26 ∨ 29 ≤ k

/-- The bits that only entries, RETI and resets change are as they were. -/
def PrivKept (w w' : Word) : Prop := ∀ k, SrHeld k → w'.getLsbD k = w.getLsbD k

theorem PrivKept.refl (w : Word) : PrivKept w w := fun _ _ => rfl

theorem PrivKept.of_eq {w w' : Word} (h : w' = w) : PrivKept w w' := h ▸ .refl w

theorem PrivKept.trans {w w' w'' : Word} (a : PrivKept w w') (b : PrivKept w' w'') : PrivKept w w'' := fun k hk => (b k hk).trans (a k hk)

theorem getLsbD_putBit_ne {n : Nat} (w : BitVec n) {i k : Nat} (b : Bool) (h : k ≠ i) : (putBit w i b).getLsbD k = w.getLsbD k := by
  rcases Nat.lt_or_ge k n with hk | hk
  · rw [getLsbD_putBit _ _ _ _ hk, if_neg h]
  · rw [BitVec.getLsbD_of_ge _ _ hk, BitVec.getLsbD_of_ge _ _ hk]

theorem privKept_putBit {w : Word} {i : Nat} {b : Bool} (h : ¬ SrHeld i) : PrivKept w (putBit w i b) :=
  fun _ hk => getLsbD_putBit_ne w b fun e => h (e ▸ hk)

/-- DOM is bits 16 to 19. -/
theorem dom_congr {w w' : Word} (h : ∀ i < 4, w'.getLsbD (16 + i) = w.getLsbD (16 + i)) : w'.extractLsb' 16 4 = w.extractLsb' 16 4 := by
  refine BitVec.eq_of_getLsbD_eq fun i hi => ?_
  simp only [BitVec.getLsbD_extractLsb', hi, decide_true, Bool.true_and]
  exact h i hi

/-- Legality rests on DOM, PRV and the reserved bits. -/
theorem LegalSr.congr {w w' : Word} (hw : LegalSr w) (h : ∀ k, (12 ≤ k ∧ k ≤ 20) ∨ 29 ≤ k → w'.getLsbD k = w.getLsbD k) : LegalSr w' := by
  have hd : w'.extractLsb' 16 4 = w.extractLsb' 16 4 := dom_congr fun i hi => h _ (by omega)
  refine ⟨fun hp => ?_, hd ▸ hw.notSepia, fun k hk => (h k (by omega)).trans (hw.reserved k hk)⟩
  rw [hd]
  exact hw.kernel ((h 20 (by omega)).symm.trans hp)

theorem LegalSr.of_privKept {w w' : Word} (hw : LegalSr w) (h : PrivKept w w') : LegalSr w' :=
  hw.congr fun k hk => h k (by unfold SrHeld; omega)

theorem LegalSr.putBit {w : Word} (h : LegalSr w) {i : Nat} {b : Bool} (hi : (21 ≤ i ∧ i ≤ 28) ∨ i < 12) : LegalSr (putBit w i b) :=
  h.congr fun _ _ => getLsbD_putBit_ne _ _ (by omega)

/-- Bits taken over under a mask that holds none of them. -/
theorem privKept_masked {old w m : Word} (hm : ∀ k < 36, SrHeld k → m.getLsbD k = false) : PrivKept old ((old &&& ~~~m) ||| (w &&& m)) := by
  intro k hk
  rcases Nat.lt_or_ge k 36 with h | h
  · simp only [BitVec.getLsbD_or, BitVec.getLsbD_and, BitVec.getLsbD_not, hm k h hk, h, decide_true, Bool.not_false, Bool.and_true, Bool.and_false, Bool.or_false]
  · rw [BitVec.getLsbD_of_ge _ _ h, BitVec.getLsbD_of_ge _ _ h]

/-- MVTC of SR writes the flags, and at PRV = 1 IE, IPL and FTRAP (R161). -/
theorem privKept_mvtcSr (old w : Word) : PrivKept old (mvtcSr old w) := by
  unfold mvtcSr
  refine privKept_masked ?_
  split <;> unfold SrHeld <;> decide

/-- REGWR of SR writes as MVTC at PRV = 1 does. -/
theorem privKept_regWriteCtl (old v : Word) : PrivKept old (regWriteCtl 0 old v) := by
  have h : PrivKept (putBit old 20 true) (mvtcSr (putBit old 20 true) v) := privKept_mvtcSr _ v
  intro k hk
  show (mvtcSr (putBit old 20 true) v &&& ~~~(0x000100000#36) ||| (old &&& 0x000100000#36)).getLsbD k = _
  rcases Nat.lt_or_ge k 36 with hlt | hge
  · by_cases h20 : k = 20
    · subst h20
      simp
    · have hm : (0x000100000#36).getLsbD k = false := by
        have := (by decide : ∀ k < 36, k ≠ 20 → (0x000100000#36).getLsbD k = false)
        exact this k hlt h20
      simp only [BitVec.getLsbD_or, BitVec.getLsbD_and, BitVec.getLsbD_not, hm, hlt, decide_true, Bool.not_false, Bool.and_true, Bool.and_false, Bool.or_false]
      rw [h k hk, getLsbD_putBit_ne _ _ h20]
  · rw [BitVec.getLsbD_of_ge _ _ hge, BitVec.getLsbD_of_ge _ _ hge]

theorem getLsbD_putFld_ne {n m : Nat} (w : BitVec n) {lo k : Nat} (v : BitVec m) (h : k < lo ∨ lo + m ≤ k) : (putFld w lo v).getLsbD k = w.getLsbD k := by
  unfold putFld
  rcases Nat.lt_or_ge k n with hk | hk
  · rcases h with h | h
    · simp [hk, h]
    · have h1 : ¬ k < lo := by omega
      have h2 : ¬ k - lo < m := by omega
      simp [hk, h1, h2, BitVec.getLsbD_of_ge v (k - lo) (by omega)]
  · rw [BitVec.getLsbD_of_ge _ _ hk, BitVec.getLsbD_of_ge _ _ hk]

/-- The field holds the value put there. -/
theorem extractLsb'_putFld {n m : Nat} (w : BitVec n) {lo : Nat} (v : BitVec m) (h : lo + m ≤ n) : (putFld w lo v).extractLsb' lo m = v := by
  refine BitVec.eq_of_getLsbD_eq fun i hi => ?_
  have h1 : lo + i < n := by omega
  unfold putFld
  simp [hi, h1]

theorem privKept_putIpl {w : Word} {l : BitVec 3} : PrivKept w (putFld w 22 l) :=
  fun _ hk => getLsbD_putFld_ne w l (by unfold SrHeld at hk; omega)

/-- SR of a handler is legal where the SR left had its reserved bits clear (R178, R180). -/
theorem legalSr_handlerSr {w : Word} (h : LegalSr w) : LegalSr (handlerSr w) := by
  have hd : (handlerSr w).extractLsb' 16 4 = 1#4 := by
    refine BitVec.eq_of_getLsbD_eq fun i hi => ?_
    have e : (handlerSr w).getLsbD (16 + i) = (putFld w 16 (1 : Dom)).getLsbD (16 + i) := by
      unfold handlerSr
      rw [getLsbD_putBit_ne _ _ (by omega), getLsbD_putBit_ne _ _ (by omega), getLsbD_putBit_ne _ _ (by omega)]
    have f := congrArg (fun v : BitVec 4 => v.getLsbD i) (extractLsb'_putFld w (lo := 16) (1 : Dom) (by omega))
    simp only [BitVec.getLsbD_extractLsb', hi, decide_true, Bool.true_and] at f ⊢
    rw [e, f]
    rfl
  refine ⟨fun _ => hd, by rw [hd]; decide, fun k hk => ?_⟩
  unfold handlerSr
  rw [getLsbD_putBit_ne _ _ (by omega), getLsbD_putBit_ne _ _ (by omega), getLsbD_putBit_ne _ _ (by omega), getLsbD_putFld_ne _ _ (by omega)]
  exact h.reserved k hk

/-- RETI loads a legal SR, whatever was saved (R172). -/
theorem legalSr_returnSr (saved : Word) (clearExl : Bool) : LegalSr (returnSr saved clearExl) := by
  have h1 : ∀ k, (12 ≤ k ∧ k < 16) ∨ 29 ≤ k → (saved &&& srMask).getLsbD k = false := by
    intro k hk
    rcases Nat.lt_or_ge k 36 with hlt | hge
    · rw [BitVec.getLsbD_and, (by decide : ∀ k < 36, (12 ≤ k ∧ k < 16) ∨ 29 ≤ k → srMask.getLsbD k = false) k hlt hk, Bool.and_false]
    · exact BitVec.getLsbD_of_ge _ _ hge
  unfold returnSr
  extract_lets w1 w2 w3
  have h2 : (w2.extractLsb' 16 4 ≠ 0#4) ∧ ∀ k, (12 ≤ k ∧ k < 16) ∨ 29 ≤ k → w2.getLsbD k = false := by
    dsimp only [w2]
    split
    · refine ⟨by rw [extractLsb'_putFld _ _ (by omega)]; decide, fun k hk => ?_⟩
      rw [getLsbD_putFld_ne _ _ (by omega)]
      exact h1 k hk
    · exact ⟨by assumption, h1⟩
  have h3 : LegalSr w3 := by
    dsimp only [w3]
    split
    · exact ⟨fun _ => by assumption, h2.1, h2.2⟩
    · have hd : (Machine.putBit w2 20 false).extractLsb' 16 4 = w2.extractLsb' 16 4 := dom_congr fun _ _ => getLsbD_putBit_ne _ _ (by omega)
      refine ⟨fun hp => ?_, by rw [hd]; exact h2.1, fun k hk => ?_⟩
      · rw [getLsbD_putBit _ _ _ _ (by omega)] at hp
        simp at hp
      · rw [getLsbD_putBit_ne _ _ (by omega)]
        exact h2.2 k hk
  split
  · exact h3.putBit (by omega)
  · exact h3.putBit (by omega)

/-- A legal SR stays legal. -/
def SrSafe (s t : State) : Prop := LegalSr s.umber.sr → LegalSr t.umber.sr

section
variable {s t r : State}

theorem SrSafe.refl (s : State) : SrSafe s s := id

theorem SrSafe.trans (a : SrSafe s t) (b : SrSafe t r) : SrSafe s r := b ∘ a

theorem SrSafe.of_eq (h : t.umber.sr = s.umber.sr) : SrSafe s t := fun hs => h.symm ▸ hs

theorem SrSafe.of_privKept (h : PrivKept s.umber.sr t.umber.sr) : SrSafe s t := fun hs => hs.of_privKept h

theorem SrKept.safe (h : SrKept s t) : SrSafe s t := fun hs => by
  rcases h with h | h <;> rw [h]
  · exact hs
  · exact legalSr_srReset

theorem SrSafe.ite {p : Prop} [Decidable p] (ha : SrSafe s t) (hb : SrSafe s r) : SrSafe s (if p then t else r) := by
  split <;> assumption

end

/-! ### Debug -/
theorem UmberSt.put_privKept (u : UmberSt) (l : Loc) (v : BitVec 80) (h : l = .ctl 0 → PrivKept u.sr (v.setWidth 36)) : PrivKept u.sr (u.put l v).sr := by
  cases l with
  | flag i => exact privKept_putBit (by have := i.isLt; unfold SrHeld; omega)
  | ctl i =>
    by_cases hi : i = 0
    · subst hi
      exact h rfl
    · exact .of_eq (u.setCtl_sr _ hi)
  | _ => exact .refl _

theorem setReg_privKept (r : RegSel) (v : Word) (s : State) : PrivKept s.umber.sr (setReg r v s).umber.sr := by
  cases r with
  | pc => exact .refl _
  | accPart a part => exact .of_eq (forgetOld_sr _ _)
  | loc l =>
    cases l with
    | ctl i =>
      unfold setReg
      dsimp only
      split
      · rename_i h
        subst h
        rw [foldl_sr (fun t k => forgetOld_sr (.flag k) t), forgetOld_sr]
        exact privKept_regWriteCtl _ v
      · rename_i h
        rw [forgetOld_sr]
        exact .of_eq (UmberSt.setCtl_sr _ _ h)
    | flag i =>
      refine .trans (w' := (s.umber.put (.flag i) (v.setWidth 80)).sr) (UmberSt.put_privKept _ _ _ (by simp)) (.of_eq ?_)
      exact forgetOld_sr _ _
    | _ => exact .of_eq (forgetOld_sr _ _)

theorem inTxn_srSafe {f : HostTxn → State → State} (h : ∀ t s, SrSafe s (f t s)) (n : Nat) (type : BitVec 2) (wr : Bool) (s : State) :
    SrSafe s (inTxn n type wr f s) := by
  unfold inTxn
  split
  · exact .ite (.of_eq (hostSend_sr _ s)) (.ite (h _ s) (.refl s))
  · exact .refl s

theorem debugOp_srSafe {f : State → State} (h : ∀ s, SrSafe s (f s)) (n : Nat) (op : BitVec 5) (ok : State → Bool) (s : State) :
    SrSafe s (debugOp n op ok f s) := by
  refine inTxn_srSafe (fun t s => ?_) n 3 _ s
  have refused : ∀ (c : BitVec 4) (u : State), (hostFault c (if op != 8 then u else hostSend [0, hostToken c] u)).umber.sr = u.umber.sr :=
    fun c u => (hostFault_sr _ _).trans (ite_keeps_sr rfl (hostSend_sr _ u))
  have started : (setTxn { t with spent := true } s).umber.sr = s.umber.sr := setTxn_sr _ s
  exact .ite (.refl s) <| .ite (.of_eq ((refused 1 _).trans started)) <| .ite (.of_eq ((refused 10 _).trans started)) <|
    .trans (.of_eq started) (h _)

theorem haltOp_srSafe {f : State → State} (h : ∀ s, SrSafe s (f s)) (op : BitVec 5) (s : State) : SrSafe s (haltOp op f s) := debugOp_srSafe h 0 op _ s

theorem debugStart_srSafe (slot : BitVec 1) (s : State) : SrSafe s (debugStart slot s) := debugOp_srSafe (fun t => (bootSlot_srKept _ t).safe) 1 5 _ s

theorem regRead_srSafe (sel : BitVec 8) (s : State) : SrSafe s (regRead sel s) := by
  refine debugOp_srSafe (fun t => ?_) 8 8 _ s
  split
  · exact .of_eq (hostSend_sr _ t)
  · exact .of_eq ((hostFault_sr _ _).trans (hostSend_sr _ t))

theorem regWriteOp_srSafe (sel : BitVec 8) (v : Word) (s : State) : SrSafe s (regWriteOp sel v s) := by
  refine debugOp_srSafe (fun t => ?_) 6 9 _ s
  split
  · exact .ite (.of_eq (hostFault_sr _ t)) (.of_privKept (setReg_privKept _ v t))
  · exact .of_eq (hostFault_sr _ t)

theorem directRead_srSafe (s : State) : SrSafe s (directRead s) := inTxn_srSafe (fun _ u => .of_eq ((setTxn_sr _ _).trans (hostSend_sr _ u))) 1 0 false s

theorem directWrite_srSafe (b : Byte) (s : State) : SrSafe s (directWrite b s) :=
  inTxn_srSafe (fun _ u => .trans (.of_eq ((setTxn_sr _ _).trans (hostSend_sr _ u))) (.ite (.of_eq (directLocked_sr _ _)) (.of_eq (directStore_sr _ _ _)))) 1 0 true s

theorem hostIssue_srSafe (type : BitVec 2) (s : State) : SrSafe s (hostIssue type s) := by
  refine inTxn_srSafe (fun _ u => ?_) 1 type false s
  refine .ite (.refl u) ?_
  extract_lets tgt _ u₁
  have h₁ : u₁.umber.sr = u.umber.sr := (hostSend_sr _ _).trans (State.setHost_sr u _)
  exact .trans (.of_eq h₁) (.ite (.of_eq (State.setHreg_sr _ _ _)) (.refl _))

theorem hostWindowWrite_srSafe (type : BitVec 2) (v : Word) (s : State) : SrSafe s (hostWindowWrite type v s) := by
  refine inTxn_srSafe (fun _ u => ?_) 5 type true s
  have h : ∀ tgt, SrSafe u (hostCommit tgt v (hostSend (List.replicate 5 u.hostStatus) u)) := fun tgt => .of_eq ((hostCommit_sr _ _ _).trans (hostSend_sr _ u))
  exact .ite (.trans (h _) (.of_eq (hostInc_sr _ _))) (h _)

end Sys2Proof.Machine
end

section
/-!
SR over the issue of an instruction, a repeat and the entries (R172, R178, R180, R228).
-/

namespace Sys2Proof.Machine

/-! ### Exceptions -/
theorem legalSr_entry {w : Word} (h : LegalSr w) (k : Nat) (hk : 21 ≤ k ∧ k ≤ 28) : LegalSr (putBit (handlerSr w) k true) :=
  (legalSr_handlerSr h).putBit (.inl hk)

@[simp] theorem enterNmi_sr (pc : Addr) (cause : Word) (s : State) : (enterNmi pc cause s).umber.sr = putBit (handlerSr s.umber.sr) 26 true := rfl

theorem enterNmi_srSafe (pc : Addr) (cause : Word) (s : State) : SrSafe s (enterNmi pc cause s) := fun h => legalSr_entry h 26 (by omega)

theorem legalSr_enterException {vec : Nat} {pc : Addr} {cause : Word} {eaddr : Option Addr} {slots : Option SlotSt} {ipl : Option (BitVec 3)} {sr : Word}
    (h : LegalSr sr) (s : State) : LegalSr (enterException vec pc cause eaddr slots ipl sr s).umber.sr := by
  have e := legalSr_entry h 25 (by omega)
  cases ipl with
  | none => exact e
  | some l => exact e.of_privKept privKept_putIpl

theorem raiseFault_srSafe (t : Trap) (rem : Option Nat) (s : State) : SrSafe s (raiseFault t rem s) := by
  intro hs
  have h : LegalSr (faultNoted t rem s).umber.sr := (faultNoted_sr t rem s).symm ▸ hs
  have h28 : LegalSr (putBit (faultNoted t rem s).umber.sr 28 rem.isSome) := h.putBit (by omega)
  unfold raiseFault
  extract_lets
  split
  · exact h
  · split
    · exact enterNmi_srSafe _ _ _ h28
    · exact legalSr_enterException h28 _

theorem doReturn_srSafe (s : State) : SrSafe s (doReturn s) := fun _ => (legalSr_returnSr _ _).putBit (by omega)

theorem interruptNow_srSafe (s : State) : SrSafe s (interruptNow s) := by
  unfold interruptNow
  split
  · exact .refl s
  · exact .ite (fun h => legalSr_enterException h _) (.refl s)

/-! ### Issue -/

/-- The writes of a list that name SR as a whole leave the bits that only entries and RETI change. -/
def WritesPriv (sr : Word) (ws : List Wr) : Prop := ∀ w ∈ ws, w.1 = .ctl 0 → PrivKept sr (w.2.2.setWidth 36)

theorem UmberSt.puts_privKept {sr : Word} {ws : List Wr} (hw : WritesPriv sr ws) {u : UmberSt} (hu : PrivKept sr u.sr) : PrivKept sr (u.puts ws).sr := by
  induction ws generalizing u with
  | nil => exact hu
  | cons w ws ih =>
    refine ih (fun x hx => hw x (.tail _ hx)) ?_
    show PrivKept sr (u.put w.1 w.2.2).sr
    by_cases h : w.1 = .ctl 0
    · rw [h]
      exact hw w (.head _) h
    · exact hu.trans (UmberSt.put_privKept u w.1 _ (fun e => absurd e h))

theorem commit_privKept {ws : List Wr} {s : State} (hw : WritesPriv s.umber.sr ws) : PrivKept s.umber.sr (commit ws s).umber.sr :=
  UmberSt.puts_privKept hw (.refl _)

/-- What an instruction's effect leaves of SR: it writes nothing that only entries and RETI change, unless it has set SR itself. -/
inductive Body.SrSafe (s : State) : Body → Prop
  | ok {t : State} {ws : List Wr} : t.umber.sr = s.umber.sr → WritesPriv s.umber.sr ws → SrSafe s (.ok t ws)
  | branch {t : State} {ws : List Wr} {taken : Bool} {target : Addr} : t.umber.sr = s.umber.sr → WritesPriv s.umber.sr ws → SrSafe s (.branch t ws taken target)
  | trap {t : State} {f : Trap} : t.umber.sr = s.umber.sr → SrSafe s (.trap f t)
  | wait {t : State} {h : Hold} : t.umber.sr = s.umber.sr → SrSafe s (.wait t h)
  | jump {t : State} : Machine.SrSafe s t → SrSafe s (.jump t)

theorem commit_srSafe {s t : State} {ws : List Wr} (h : t.umber.sr = s.umber.sr) (hw : WritesPriv s.umber.sr ws) : SrSafe s (commit ws t) :=
  .trans (.of_eq h) (.of_privKept (commit_privKept (h ▸ hw)))

section
variable {c : BitVec 4} {k : IClass} {pm : State → List Wr} {body : State → Body}

theorem runOnce_srSafe (hp : ∀ s, WritesPriv s.umber.sr (pm s)) (hb : ∀ s, (body s).SrSafe s) (s : State) : (runOnce c pm body s).SrSafe s := by
  unfold runOnce
  split
  · exact hb s
  · exact .ok rfl (hp s)

theorem runRepeat_srSafe (hp : ∀ s, WritesPriv s.umber.sr (pm s)) (hb : ∀ s, (body s).SrSafe s) (n : Nat) (s : State) : SrSafe s (runRepeat c pm body n s) := by
  induction n generalizing s with
  | zero => exact .trans (t := endRepeat s) (.of_privKept (privKept_putBit (by unfold SrHeld; omega))) (.of_eq (advancePc_sr _))
  | succ n ih =>
    unfold runRepeat
    have h := runOnce_srSafe (c := c) hp hb s
    generalize runOnce c pm body s = b at h
    cases h with
    | ok ht hw => exact .trans (commit_srSafe ht hw) (ih _)
    | branch ht hw => exact .of_eq ht
    | trap ht => exact .trans (.of_eq ht) (raiseFault_srSafe _ _ _)
    | wait ht => exact .of_eq ht
    | jump ht => exact ht

theorem beginRepeat_srSafe (s : State) : SrSafe s (beginRepeat s) := .of_privKept (privKept_putBit (by unfold SrHeld; omega))

theorem noRepeat_sr (s : State) : (s.setUmber { s.umber with rpt := none, rptRet := false }).umber.sr = s.umber.sr := rfl

theorem issueAt_srSafe (hp : ∀ s, WritesPriv s.umber.sr (pm s)) (hb : ∀ s, (body s).SrSafe s) (s : State) : SrSafe s (issueAt c k pm body s) := by
  unfold issueAt
  extract_lets s₁ pass _ s₂
  have h₂ : s₂.umber.sr = s.umber.sr := ite_keeps_sr (a := s) rfl (noteBreakpoint_sr s)
  refine .trans (.of_eq h₂) ?_
  have hf : ∀ r, (if s₂.umber.holds || (s₂.umber.rpt.isSome && s₂.umber.rptCache.contains s₂.umber.pc) then (none, s₂) else fetchCheck s₂) = r →
      r.2.umber.sr = s₂.umber.sr := by
    rintro r rfl
    exact ite_snd_keeps_sr rfl (fetchCheck_sr s₂)
  split <;> rename_i h
  · exact .trans (.of_eq (hf _ h)) (raiseFault_srSafe _ _ _)
  · rename_i s₃
    have h₄ : (flushTraces s₃).umber.sr = s₂.umber.sr := (flushTraces_sr s₃).trans (hf _ h)
    refine .trans (.of_eq h₄) ?_
    generalize flushTraces s₃ = s₄
    dsimp only
    split
    · exact .ite (.trans (.of_eq (noRepeat_sr _)) (raiseFault_srSafe trapRsv none _)) ((beginRepeat_srSafe s₄).trans (runRepeat_srSafe hp hb _ _))
    · refine .ite (raiseFault_srSafe _ _ _) ?_
      have h := runOnce_srSafe (c := c) hp hb s₄
      generalize runOnce c pm body s₄ = b at h
      cases h with
      | ok ht hw => exact .trans (commit_srSafe ht hw) (.of_eq (advancePc_sr _))
      | branch ht hw => exact .trans (commit_srSafe ht hw) (.refl _)
      | trap ht => exact .trans (.of_eq ht) (raiseFault_srSafe _ _ _)
      | wait ht => exact .of_eq ht
      | jump ht => exact ht

theorem issue_srSafe (hp : ∀ s, WritesPriv s.umber.sr (pm s)) (hb : ∀ s, (body s).SrSafe s) (s : State) : SrSafe s (issue c k pm body s) :=
  .ite (.ite (.trans (issueAt_srSafe hp hb s) (.of_eq (afterInstr_sr _))) (issueAt_srSafe hp hb s)) (.refl s)

end

end Sys2Proof.Machine
end

section
/-!
SR over the accesses of Umber's instructions: none of them touches it, whether it answers, faults or waits.
-/

namespace Sys2Proof.Machine

/-! ### Accesses to data space -/

/-- The SR of the state that an access's answer carries. -/
inductive MemR.SrIs {α : Type} (w : Word) : MemR α → Prop
  | ok {a : α} {t : State} : t.umber.sr = w → SrIs w (.ok a t)
  | trap {f : Trap} {t : State} : t.umber.sr = w → SrIs w (.trap f t)
  | wait {t : State} {h : Hold} : t.umber.sr = w → SrIs w (.wait t h)

section
variable {α β : Type} {w : Word} {s : State}

theorem MemR.srIs_ite {p : Prop} [Decidable p] {a b : MemR α} (ha : a.SrIs w) (hb : b.SrIs w) : MemR.SrIs w (if p then a else b) := by
  split <;> assumption

theorem MemR.SrIs.bind {r : MemR α} {f : α → State → MemR β} (h : r.SrIs w) (hf : ∀ a t, t.umber.sr = w → (f a t).SrIs w) : (r.bind f).SrIs w := by
  cases h with
  | ok ht => exact hf _ _ ht
  | trap ht => exact .trap ht
  | wait ht => exact .wait ht

theorem MemR.SrIs.body {r : MemR α} {f : α → State → Body} (h : r.SrIs s.umber.sr) (hf : ∀ a t, t.umber.sr = s.umber.sr → (f a t).SrSafe s) : (r.body f).SrSafe s := by
  cases h with
  | ok ht => exact hf _ _ ht
  | trap ht => exact .trap ht
  | wait ht => exact .wait ht

theorem MemR.SrIs.settled {r : MemR α} (h : r.SrIs w) : r.settled.SrIs w := by
  cases h with
  | ok ht => exact .ok ((archesSettle_sr _).trans ht)
  | trap ht => exact .trap ((archesSettle_sr _).trans ht)
  | wait ht => exact .wait ht

theorem watched_srIs {a : Addr} {write : Bool} {r : MemR α} (h : r.SrIs w) : (watched a write r).SrIs w := by
  cases h with
  | ok ht => exact .ok ((watchAccess_sr _ _ _).trans ht)
  | trap ht => exact .trap ht
  | wait ht => exact .wait ht

theorem poisonable_srIs {a : Addr} {p : Prod} {r : Option Word × State} (h : r.2.umber.sr = w) : (poisonable a p r).SrIs w := by
  unfold poisonable
  split
  · exact .ok h
  · exact .trap h

theorem asleepTrap_srIs (a : Addr) (s : State) : (asleepTrap a s : MemR α).SrIs s.umber.sr := .trap (noteBstat_sr _ _ s)

theorem deniedTrap_srIs (a : Addr) (i : Nat) (write : Bool) (s : State) : (deniedTrap a i write s : MemR α).SrIs s.umber.sr :=
  .trap ((noteBstat_sr _ _ _).trans (notePerr_sr _ _ _ _ s))

theorem checkData_srIs {a : Addr} {need : Need} {k : MemR α} (h : k.SrIs s.umber.sr) : (checkData a need s k).SrIs s.umber.sr := by
  unfold checkData
  refine MemR.srIs_ite h ?_
  split
  · exact .trap rfl
  · exact h

end

theorem loadPar_srIs (a : Addr) (i : Nat) (s : State) : (loadPar a i s).SrIs s.umber.sr := by
  refine MemR.srIs_ite (.ok (noteBstat_sr _ _ s)) <| MemR.srIs_ite (deniedTrap_srIs _ _ _ s) <| MemR.srIs_ite (.wait rfl) ?_
  rcases h : readPar s.umberAcc i s with ⟨v, t⟩
  have ht : t.umber.sr = s.umber.sr := (snd_sr_of_eq h).trans (readPar_sr _ _ s)
  cases v with
  | val w => exact .ok ht
  | refused r => exact .ok ((noteBstat_sr _ _ _).trans ((notePerr_sr _ _ _ _ _).trans ht))
  | wait => exact .wait ht
  | bus => exact .trap ht

theorem loadPlace_srIs (whole : Bool) (a : Addr) (s : State) : (loadPlace whole a s).SrIs s.umber.sr := by
  unfold loadPlace
  split
  · exact MemR.srIs_ite (asleepTrap_srIs a s) (poisonable_srIs (umberSramRead_sr _ s))
  · exact MemR.srIs_ite (asleepTrap_srIs a s) (poisonable_srIs (tileRead_sr _ s))
  · exact .trap rfl
  · exact poisonable_srIs (nvmRead_sr _ _ s)
  · exact poisonable_srIs (nvmRead_sr _ _ s)
  · exact MemR.srIs_ite (loadPar_srIs a _ s) (.trap rfl)
  · exact MemR.srIs_ite (.trap rfl) <| MemR.srIs_ite (.wait rfl) (.ok (fifoRead_sr _ s))
  · exact .trap rfl

theorem loadWord_srIs (whole : Bool) (a : Addr) (s : State) : (loadWord whole a s).SrIs s.umber.sr :=
  MemR.srIs_ite (.trap rfl) (checkData_srIs (watched_srIs (loadPlace_srIs whole a s)))

theorem enqueue_srIs (h : Hold) (tgt : PTarget) (w : Word) (s : State) : (enqueue h tgt w s).SrIs s.umber.sr := MemR.srIs_ite (.wait rfl) (.ok rfl)

theorem storePar_srIs (a : Addr) (i : BitVec 13) (w : Word) (s : State) : (storePar a i w s).SrIs s.umber.sr :=
  MemR.srIs_ite (.ok (noteBstat_sr _ _ s)) <| MemR.srIs_ite (enqueue_srIs _ _ w s) <| MemR.srIs_ite (deniedTrap_srIs _ _ _ s) <|
    MemR.srIs_ite (.trap (notePerr_sr _ _ _ _ s)) (enqueue_srIs _ _ w s)

theorem storePlace_srIs (mask : BitVec 4) (w : Word) (a : Addr) (s : State) : (storePlace mask w a s).SrIs s.umber.sr := by
  cases h : place a with
  | sram b =>
    simp only [storePlace, h]
    exact MemR.srIs_ite (asleepTrap_srIs a s) <| MemR.srIs_ite (.trap rfl) (.ok (allocStore_sr _ _ _ s))
  | tile b =>
    simp only [storePlace, h]
    refine MemR.srIs_ite (asleepTrap_srIs a s) ?_
    rcases hw : tileWrite b mask w s with ⟨ok, t⟩
    have ht : t.umber.sr = s.umber.sr := (snd_sr_of_eq hw).trans (tileWrite_sr _ _ _ s)
    cases ok with
    | true => exact .ok ht
    | false => exact .trap ht
  | par i =>
    simp only [storePlace, h]
    exact storePar_srIs a i w s
  | fifo =>
    simp only [storePlace, h]
    exact enqueue_srIs _ _ w s
  | _ =>
    simp only [storePlace, h]
    exact .trap rfl

theorem storeWord_srIs (mask : BitVec 4) (a : Addr) (w : Word) (s : State) : (storeWord mask a w s).SrIs s.umber.sr :=
  MemR.srIs_ite (.trap rfl) (checkData_srIs (watched_srIs (storePlace_srIs mask w a s)))

theorem storeProbe_sr {mask : BitVec 4} {a : Addr} {s : State} {r : Trap × State} (h : storeProbe mask a s = some r) : r.2.umber.sr = s.umber.sr := by
  have hw := storeWord_srIs mask a 0 s
  unfold storeProbe at h
  generalize storeWord mask a 0 s = m at h hw
  cases hw with
  | trap ht =>
    obtain rfl := Option.some.inj h
    exact ht
  | ok ht => cases h
  | wait ht => cases h

theorem checkPair_srIs {α : Type} {a : Addr} {need : Need} {s : State} {k : MemR α} (h : k.SrIs s.umber.sr) : (checkPair a need s k).SrIs s.umber.sr :=
  MemR.srIs_ite (.trap rfl) (checkData_srIs (checkData_srIs h))

theorem storePair_srIs (a : Addr) (lo hi : Word) (s : State) : (storePair a lo hi s).SrIs s.umber.sr := by
  refine checkPair_srIs ?_
  split
  · rename_i h
    exact .trap (storeProbe_sr h)
  · rename_i h
    exact .trap (storeProbe_sr h)
  · exact (storeWord_srIs 0xF a lo s).bind fun _ t ht => ht ▸ storeWord_srIs 0xF _ hi t

theorem atomAccess_srIs {α : Type} {need : Need} {a : Addr} {s : State} {f : BitVec 18 → State → MemR α} (hf : ∀ b t, (f b t).SrIs t.umber.sr) :
    (atomAccess need a s f).SrIs s.umber.sr := by
  refine checkData_srIs ?_
  split
  · exact MemR.srIs_ite (asleepTrap_srIs a s) (drainAll_sr s ▸ (hf _ _).settled)
  · exact .trap rfl

theorem setLock_srIs {α : Type} {b : BitVec 12} {k : BitVec 8} {s : State} {f : State → MemR α} (hf : ∀ t, t.umber.sr = s.umber.sr → (f t).SrIs s.umber.sr) :
    (setLock b k s f).SrIs s.umber.sr :=
  MemR.srIs_ite (hf _ (takeLock_sr _ _ s)) (.trap rfl)

theorem writeLock_srIs (b : BitVec 12) (k : BitVec 8) (v : Bool) (s : State) : (writeLock b k v s).SrIs s.umber.sr := by
  refine MemR.srIs_ite (setLock_srIs fun _ ht => .ok ht) ?_
  split
  · exact .ok rfl
  · exact MemR.srIs_ite (.ok (freeLock_sr _ s)) (.trap rfl)

theorem checkBit_srIs {α : Type} {b : BitVec 12} {need : Need} {s : State} {k : MemR α} (h : k.SrIs s.umber.sr) : (checkBit b need s k).SrIs s.umber.sr := by
  refine MemR.srIs_ite h ?_
  split
  · exact .trap rfl
  · exact h

theorem readBit_srIs (b : BitVec 12) (s : State) : (readBit b s).SrIs s.umber.sr := by
  unfold readBit
  split
  · exact .ok rfl
  · exact .ok rfl
  · exact .ok rfl
  · exact .ok rfl
  · split
    · exact .ok rfl
    · exact MemR.srIs_ite (.wait rfl) (.ok rfl)

theorem writeBit_srIs (b : BitVec 12) (v : Bool) (s : State) : (writeBit b v s).SrIs s.umber.sr := by
  unfold writeBit
  split
  · exact .ok rfl
  · exact .ok rfl
  · exact writeLock_srIs b _ v s
  · exact .ok rfl
  · split
    · exact .ok rfl
    · exact (enqueue_srIs _ _ _ s).bind fun _ _ ht => .ok ht

theorem toggled_srIs (b : BitVec 12) (s : State) : (toggled b s).SrIs s.umber.sr := by
  unfold toggled
  split
  · exact (readBit_srIs b s).bind fun _ _ ht => .ok ht
  · exact .ok rfl

theorem dualPlace_srIs (a : Addr) (s : State) : (dualPlace a s).SrIs s.umber.sr := by
  unfold dualPlace
  split
  · exact MemR.srIs_ite (asleepTrap_srIs a s) (.ok rfl)
  · exact MemR.srIs_ite (asleepTrap_srIs a s) (.ok rfl)
  · exact .trap rfl

theorem dualRead_srIs (a : Addr) (s : State) : (dualRead a s).SrIs s.umber.sr := by
  refine watched_srIs ?_
  split
  · exact poisonable_srIs (umberSramRead_sr _ s)
  · exact poisonable_srIs (tileRead_sr _ s)
  · exact .trap rfl

theorem coefPlace_srIs (p : Addr) (s : State) : (coefPlace p s).SrIs s.umber.sr := MemR.srIs_ite (.ok rfl) (.trap rfl)

theorem coefRead_srIs (p : Addr) (s : State) : (coefRead p s).SrIs s.umber.sr := watched_srIs (poisonable_srIs (nvmRead_sr _ _ s))

theorem dualFetch_srIs (c3 : Bool) (x y p13 : Addr) (s : State) : (dualFetch c3 x y p13 s).SrIs s.umber.sr := by
  unfold dualFetch
  extract_lets reads places
  have hr : ∀ t, (reads t).SrIs t.umber.sr := by
    intro t
    have hx : (dualRead x (bankStall x y t)).SrIs t.umber.sr := bankStall_sr x y t ▸ dualRead_srIs x _
    refine hx.bind fun _ t₁ h₁ => (h₁ ▸ dualRead_srIs y t₁).bind fun _ t₂ h₂ => MemR.srIs_ite ?_ (.ok h₂)
    exact (h₂ ▸ coefRead_srIs p13 t₂).bind fun _ _ h₃ => .ok h₃
  have hp : ∀ t, (places t).SrIs t.umber.sr := by
    intro t
    refine (dualPlace_srIs x t).bind fun _ t₁ h₁ => (h₁ ▸ dualPlace_srIs y t₁).bind fun _ t₂ h₂ => MemR.srIs_ite ?_ (h₂ ▸ hr t₂)
    exact (h₂ ▸ coefPlace_srIs p13 t₂).bind fun _ t₃ h₃ => h₃ ▸ hr t₃
  exact checkData_srIs (checkData_srIs (MemR.srIs_ite (checkData_srIs (hp s)) (hp s)))

theorem storeFrame_srIs (es : List (Addr × Word)) (s : State) : (storeFrame es s).SrIs s.umber.sr := by
  induction es generalizing s with
  | nil => exact .ok rfl
  | cons e es ih =>
    refine (storeWord_srIs 0xF e.1 e.2 s).bind fun _ t ht => ?_
    exact ((frameStep_sr e.2 t).trans ht) ▸ ih _

theorem loadWords_srIs (as : List Addr) (s : State) : (loadWords as s).SrIs s.umber.sr := by
  induction as generalizing s with
  | nil => exact .ok rfl
  | cons a as ih =>
    refine (loadWord_srIs true a s).bind fun r t ht => ?_
    exact ((frameStep_sr r.1 t).trans ht) ▸ ih _

theorem ruinWords_sr (as : List Addr) (s : State) : (ruinWords as s).umber.sr = s.umber.sr := by
  refine foldl_sr (fun t e => ?_) _ s
  have h := storeWord_srIs 0xF e.1 e.2 t
  generalize storeWord 0xF e.1 e.2 t = m at h
  cases h with
  | ok ht => exact ht
  | trap ht => rfl
  | wait ht => rfl

theorem frameRuin_sr (done ws : List (Addr × Word)) (s : State) : (frameRuin done ws s).umber.sr = s.umber.sr := by
  unfold frameRuin
  extract_lets k s₁
  have h₁ : s₁.umber.sr = s.umber.sr := ruinWords_sr _ s
  split
  · rename_i e _
    have h := storeWord_srIs 0xF e.1 e.2 s₁
    generalize storeWord 0xF e.1 e.2 s₁ = m at h
    cases h with
    | trap ht => exact ht.trans h₁
    | ok ht => exact h₁
    | wait ht => exact h₁
  · exact h₁

theorem extensionStore_srIs (a : Addr) (w : Word) (s : State) : (extensionStore a w s).SrIs s.umber.sr := by
  have hs : (match storeWord 0xF a w s with | .trap _ _ => .ok () s | .ok _ t => .ok () (quietFrom s.umber.pwq.length t) | r => r : MemR Unit).SrIs s.umber.sr := by
    have h := storeWord_srIs 0xF a w s
    generalize storeWord 0xF a w s = m at h
    cases h with
    | trap ht => exact .ok rfl
    | ok ht => exact .ok ((quietFrom_sr _ _).trans ht)
    | wait ht => exact .wait ht
  unfold extensionStore
  dsimp only
  split
  · exact MemR.srIs_ite (.ok rfl) hs
  · exact hs

end Sys2Proof.Machine
end

section
/-!
SR over the effects of Umber's instructions: their writes name flags, never SR as a whole, but for MVTC, which keeps the bits of `SrHeld`.
-/

namespace Sys2Proof.Machine

/-! ### The effects of instructions -/

/-- No write names SR as a whole. -/
def NoSr (ws : List Wr) : Prop := ∀ w ∈ ws, w.1 ≠ .ctl 0

theorem NoSr.writesPriv {ws : List Wr} (h : NoSr ws) (sr : Word) : WritesPriv sr ws := fun w hw e => absurd e (h w hw)

@[simp] theorem noSr_nil : NoSr [] := fun _ h => nomatch h

@[simp] theorem noSr_cons {w : Wr} {ws : List Wr} : NoSr (w :: ws) ↔ w.1 ≠ .ctl 0 ∧ NoSr ws := List.forall_mem_cons

@[simp] theorem noSr_append {ws vs : List Wr} : NoSr (ws ++ vs) ↔ NoSr ws ∧ NoSr vs := List.forall_mem_append

@[simp] theorem noSr_wFlags (p : Prod) (fs : FlagW) : NoSr (wFlags p fs) := by
  intro w hw
  obtain ⟨f, -, rfl⟩ := List.mem_map.1 hw
  nofun

@[simp] theorem wD_ne_sr (r : Fin 16) (p : Prod) (v : Word) : (wD r p v).1 ≠ .ctl 0 := nofun

@[simp] theorem wP_ne_sr (r : Fin 16) (p : Prod) (v : Addr) : (wP r p v).1 ≠ .ctl 0 := nofun

@[simp] theorem wN_ne_sr (r : Fin 8) (p : Prod) (v : Addr) : (wN r p v).1 ≠ .ctl 0 := nofun

@[simp] theorem wL_ne_sr (r : Fin 8) (p : Prod) (v : Addr) : (wL r p v).1 ≠ .ctl 0 := nofun

@[simp] theorem wAc_ne_sr (r : Fin 4) (v : Acc) : (wAc r v).1 ≠ .ctl 0 := nofun

@[simp] theorem wNL_ne_sr (nl : Fin 16) (p : Prod) (v : Addr) : (wNL nl p v).1 ≠ .ctl 0 := by
  unfold wNL
  split <;> simp

theorem NoSr.filter {ws : List Wr} (h : NoSr ws) (p : Wr → Bool) : NoSr (ws.filter p) := fun w hw => h w (List.mem_of_mem_filter hw)

@[simp] theorem noSr_amMod (pp : Fin 16) (am : BitVec 3) (s : State) : NoSr (amMod pp am s) := by
  unfold amMod
  split <;> simp

@[simp] theorem noSr_amPm (pp : Fin 16) (am : BitVec 3) (ofs : BitVec 12) (s : State) : NoSr (amPm pp am ofs s) := by
  unfold amPm
  split <;> simp

@[simp] theorem noSr_amxMod (px : Fin 8) (amx : BitVec 2) (s : State) : NoSr (amxMod px amx s) := by
  unfold amxMod
  split <;> simp

@[simp] theorem noSr_amyMod (py : Fin 8) (amy : BitVec 2) (s : State) : NoSr (amyMod py amy s) := by
  unfold amyMod
  split <;> simp

@[simp] theorem noSr_accWrites (acd : Fin 4) (r : AccR) : NoSr (accWrites acd r) := by simp [accWrites]

@[simp] theorem noSr_cmacWrites (sat conj : Bool) (acd : Fin 4) (a b : Word) (s : State) : NoSr (cmacWrites sat conj acd a b s) := by
  simp [cmacWrites, accPairWrites]

@[simp] theorem noSr_retmWrites (p15 : Addr) (h : Word) (ws : List Word) : NoSr (retmWrites p15 h ws) := by
  have hf : ∀ i w, (frameRestore i w).1 ≠ .ctl 0 := by
    intro i w
    unfold frameRestore
    split <;> simp
  unfold retmWrites
  simp only [noSr_append, noSr_wFlags, noSr_cons, noSr_nil, true_and, and_true]
  refine ⟨fun w hw => ?_, wP_ne_sr _ _ _⟩
  obtain ⟨i, hi, rfl⟩ := List.mem_mapIdx.1 hw
  exact hf _ _

theorem writesPriv_mvtcWrites (i : Fin 17) (w : Word) (s : State) : WritesPriv s.umber.sr (mvtcWrites i w s) := by
  intro x hx e
  unfold mvtcWrites at hx
  dsimp only at hx
  split at hx
  · rcases List.mem_append.1 hx with hx | hx
    · exact absurd e (noSr_wFlags _ _ x hx)
    · obtain rfl := List.mem_singleton.1 hx
      simpa using privKept_mvtcSr s.umber.sr w
  · obtain rfl := List.mem_singleton.1 hx
    exact absurd e (by simp)
  · obtain rfl := List.mem_singleton.1 hx
    exact absurd e (by simp)
  · rename_i h0 _ _
    obtain rfl := List.mem_singleton.1 hx
    obtain rfl : i = 0 := by simpa using e
    exact absurd rfl h0

section
variable {s : State}

theorem Body.srSafe_ite {p : Prop} [Decidable p] {a b : Body} (ha : a.SrSafe s) (hb : b.SrSafe s) : Body.SrSafe s (if p then a else b) := by
  split <;> assumption

/-- An instruction that only writes registers and flags. -/
theorem Body.srSafe_writes {t : State} {ws : List Wr} (ht : t.umber.sr = s.umber.sr) (hw : NoSr ws) : (Body.ok t ws).SrSafe s := .ok ht (hw.writesPriv _)

theorem Body.srSafe_branch {t : State} {ws : List Wr} {taken : Bool} {target : Addr} (ht : t.umber.sr = s.umber.sr) (hw : NoSr ws) :
    (Body.branch t ws taken target).SrSafe s := .branch ht (hw.writesPriv _)

variable (s)

theorem aluBody_srSafe (rd : Fin 16) (f : State → Alu) : (aluBody rd f s).SrSafe s := Body.srSafe_writes rfl (by simp)

theorem flagBody_srSafe (f : State → FlagW) : (flagBody f s).SrSafe s := Body.srSafe_writes rfl (by simp)

theorem dBody_srSafe (rd : Fin 16) (f : State → Word) : (dBody rd f s).SrSafe s := Body.srSafe_writes rfl (by simp)

theorem pBody_srSafe (pd : Fin 16) (f : State → Addr) : (pBody pd f s).SrSafe s := Body.srSafe_writes rfl (by simp)

theorem nlBody_srSafe (nl : Fin 16) (f : State → Addr) : (nlBody nl f s).SrSafe s := Body.srSafe_writes rfl (by simp)

theorem accBody_srSafe (acd : Fin 4) (f : State → AccR) : (accBody acd f s).SrSafe s := Body.srSafe_writes rfl (by simp)

theorem fBody_srSafe (rd : Fin 16) (f : State → Alu) : (fBody rd f s).SrSafe s := Body.srSafe_ite (.trap rfl) (Body.srSafe_writes rfl (by simp))

theorem loadBody_srSafe (whole : Bool) (pp : Fin 16) (am : BitVec 3) (ofs : BitVec 12) {dest : Prod → Word → Wr} (hd : ∀ p w, (dest p w).1 ≠ .ctl 0) :
    (loadBody whole pp am ofs dest s).SrSafe s :=
  (loadWord_srIs whole _ s).body fun r _ ht => Body.srSafe_writes ht (by
    simp only [noSr_append, noSr_cons, noSr_nil, and_true]
    exact ⟨(noSr_amMod pp am s).filter _, hd _ _⟩)

theorem checkBit_srSafe {b : BitVec 12} {need : Need} {k : MemR (List Wr)} (h : (bitWritten k).SrSafe s) : (bitWritten (checkBit b need s k)).SrSafe s := by
  unfold checkBit
  split
  · exact h
  · split
    · exact .trap rfl
    · exact h

theorem enqueuedBit_srSafe (b : BitVec 12) (w : Word) (t : State) (ht : t.umber.sr = s.umber.sr) :
    (bitWritten ((enqueue (.bit b) (.bit b) w t).bind (fun _ t => .ok [] t))).SrSafe s := by
  have h := ht ▸ enqueue_srIs (.bit b) (.bit b) w t
  generalize enqueue (.bit b) (.bit b) w t = r at h
  cases h with
  | ok h => exact Body.srSafe_writes h noSr_nil
  | trap h => exact .trap h
  | wait h => exact .wait h

theorem writeLock_srSafe (b : BitVec 12) (k : BitVec 8) (v : Bool) (t : State) (ht : t.umber.sr = s.umber.sr) : (bitWritten (writeLock b k v t)).SrSafe s := by
  unfold writeLock setLock
  dsimp only
  split
  · split
    · exact Body.srSafe_writes ((takeLock_sr _ _ t).trans ht) noSr_nil
    · exact .trap ht
  · split
    · exact Body.srSafe_writes ht noSr_nil
    · split
      · exact Body.srSafe_writes ((freeLock_sr _ t).trans ht) noSr_nil
      · exact .trap ht

theorem writeBit_srSafe (b : BitVec 12) (v : Bool) (t : State) (ht : t.umber.sr = s.umber.sr) : (bitWritten (writeBit b v t)).SrSafe s := by
  unfold writeBit
  split
  · exact Body.srSafe_writes ht (noSr_wFlags _ _)
  · exact Body.srSafe_writes ht noSr_nil
  · exact writeLock_srSafe s b _ v t ht
  · exact Body.srSafe_writes ht noSr_nil
  · split
    · exact Body.srSafe_writes ht noSr_nil
    · exact enqueuedBit_srSafe s b _ t ht

theorem setBitBody_srSafe (b : BitVec 12) (v : State → Bool) : (setBitBody b v s).SrSafe s := checkBit_srSafe s (writeBit_srSafe s b _ s rfl)

theorem toggleBit_srSafe (b : BitVec 12) : (bitWritten ((toggled b s).bind (fun v t => writeBit b (!v) t))).SrSafe s := by
  have h := toggled_srIs b s
  generalize toggled b s = r at h
  cases h with
  | ok h => exact writeBit_srSafe s b _ _ h
  | trap h => exact .trap h
  | wait h => exact .wait h

theorem predBody_srSafe (pb : Fin 2) (compl : Bool) (b : BitVec 12) (f : Bool → Bool → Bool) : (predBody pb compl b f s).SrSafe s :=
  (checkBit_srIs (readBit_srIs b s)).body fun _ _ ht => Body.srSafe_writes ht (noSr_wFlags _ _)

theorem tasLock_srSafe (pb : Fin 2) (compl : Bool) (b : BitVec 12) (k : BitVec 8) :
    ((checkBit b .rw s (setLock b k s (fun t => .ok (s.lockOwner k).isSome t))).body (fun old t => .ok t (wFlags .flag [(pb.val, xor old compl)]))).SrSafe s :=
  (checkBit_srIs (setLock_srIs fun _ ht => .ok ht)).body fun _ _ ht => Body.srSafe_writes ht (noSr_wFlags _ _)

theorem callmBody_srSafe (mask : BitVec 12) (target : State → Addr) : (callmBody mask target s).SrSafe s := by
  unfold callmBody
  extract_lets t ws top tgt n
  have h := storeFrame_srIs (ws.drop n) s
  generalize storeFrame (ws.drop n) s = r at h
  cases h with
  | ok h => exact Body.srSafe_branch h (by simp)
  | trap h => exact .trap (frameRuin_sr _ _ s)
  | wait h => exact .wait h

theorem retmBody_srSafe : (retmBody s).SrSafe s := by
  unfold retmBody
  extract_lets p15
  have h := loadWords_srIs (if s.umber.frame.isEmpty then [p15] else []) s
  generalize loadWords (if s.umber.frame.isEmpty then [p15] else []) s = r at h
  cases h with
  | trap h => exact .trap h
  | wait h => exact .wait h
  | @ok got s1 h =>
    dsimp only
    refine Body.srSafe_ite (.trap h) ?_
    have h2 := h ▸ loadWords_srIs (((List.range (fld (got.getD 0 0) 12 8 : BitVec 8).toNat).map (fun j => p15 + BitVec.ofNat 24 j)).drop got.length) s1
    generalize loadWords _ s1 = r2 at h2
    cases h2 with
    | trap h => exact .trap h
    | wait h => exact .wait h
    | ok h => exact Body.srSafe_branch h (noSr_retmWrites _ _ _)

theorem extensionBody_srSafe : (extensionBody s).SrSafe s := by
  unfold extensionBody
  extract_lets w d p n l ac
  refine (extensionStore_srIs _ _ s).body fun _ _ ht => Body.srSafe_writes ht ?_
  have hd : NoSr d := fun x hx => by obtain ⟨r, -, rfl⟩ := List.mem_map.1 hx; exact wD_ne_sr _ _ _
  have hp : NoSr p := fun x hx => by obtain ⟨r, -, rfl⟩ := List.mem_map.1 hx; exact wP_ne_sr _ _ _
  have hn : NoSr n := fun x hx => by obtain ⟨r, -, rfl⟩ := List.mem_map.1 hx; exact wN_ne_sr _ _ _
  have hl : NoSr l := fun x hx => by obtain ⟨r, -, rfl⟩ := List.mem_map.1 hx; exact wL_ne_sr _ _ _
  have hac : NoSr ac := fun x hx => by obtain ⟨r, -, rfl⟩ := List.mem_map.1 hx; exact wAc_ne_sr _ _
  simp only [noSr_append]
  exact ⟨⟨⟨⟨hd, hp⟩, hn⟩, hl⟩, hac⟩

theorem stopBody_srSafe : (stopBody s).SrSafe s := by
  refine Body.srSafe_ite (.wait (drainSettled_sr s)) (.jump (.of_eq ?_))
  exact (tryStop_sr _).trans ((advancePc_sr _).trans ((commit_nil_sr _).trans ((setResv_sr _ _).trans (drainSettled_sr s))))

end

/-- What a command leaves of SR, where it answers a next state. -/
def OutSafe (s : State) (o : Host.Outcome State Fault Refusal) : Prop := ∀ t, o = .next t → SrSafe s t

theorem outSafe_next {s t : State} (h : SrSafe s t) : OutSafe s (.next t) := fun _ e => Host.Outcome.next.inj e ▸ h

theorem outSafe_ite {s : State} {p : Prop} [Decidable p] {a b : Host.Outcome State Fault Refusal} (ha : OutSafe s a) (hb : OutSafe s b) :
    OutSafe s (if p then a else b) := by
  split <;> assumption

theorem umberStep_outSafe {c : BitVec 4} {k : IClass} {body : State → Body} (hb : ∀ s, (body s).SrSafe s) (s : State) : OutSafe s (umberStep c k body s) :=
  outSafe_next (issue_srSafe (fun _ => noSr_nil.writesPriv _) hb s)

theorem branchStep_outSafe {c : BitVec 4} {k : IClass} {target : State → Addr} {body : State → Body} (hb : ∀ s, (body s).SrSafe s) (s : State) :
    OutSafe s (branchStep c k target body s) :=
  outSafe_next (issue_srSafe (fun _ => noSr_nil.writesPriv _) (fun t => Body.srSafe_ite (hb t) (Body.srSafe_branch rfl noSr_nil)) s)

theorem issue_amPm_outSafe {c : BitVec 4} {k : IClass} {pp : Fin 16} {am : BitVec 3} {ofs : BitVec 12} {body : State → Body} (hb : ∀ s, (body s).SrSafe s)
    (s : State) : OutSafe s (.next (issue c k (amPm pp am ofs) body s)) :=
  outSafe_next (issue_srSafe (fun t => (noSr_amPm pp am ofs t).writesPriv _) hb s)

theorem loadStep_outSafe (c : Cond) (whole : Bool) (pp : Fin 16) (am : BitVec 3) (ofs : BitVec 12) {dest : Prod → Word → Wr} (hd : ∀ p w, (dest p w).1 ≠ .ctl 0)
    (s : State) : OutSafe s (loadStep c whole pp am ofs dest s) :=
  issue_amPm_outSafe (fun t => loadBody_srSafe t whole pp am ofs hd) s

theorem storeStep_outSafe (c : Cond) (mask : BitVec 4) (pp : Fin 16) (am : BitVec 3) (ofs : BitVec 12) (val : State → Word) (s : State) :
    OutSafe s (storeStep c mask pp am ofs val s) :=
  issue_amPm_outSafe (fun t => (storeWord_srIs mask _ _ t).body fun _ _ ht => Body.srSafe_writes ht (noSr_amMod pp am t)) s

theorem atomStep_outSafe (c : Cond) (pp : Fin 16) (am : BitVec 3) (ofs : BitVec 12) {body : State → Body} (hb : ∀ s, (body s).SrSafe s) (s : State) :
    OutSafe s (atomStep c pp am ofs body s) := umberStep_outSafe hb s

theorem atomSwap_outSafe (c : Cond) (rd pp : Fin 16) (am : BitVec 3) (ofs : BitVec 12) (f : Word → Word → Word) (s : State) :
    OutSafe s (atomSwap c rd pp am ofs f s) :=
  atomStep_outSafe c pp am ofs (fun t => (atomAccess_srIs fun b u => watched_srIs (watched_srIs (poisonable_srIs ((sramAtomic_sr _ _ _ _).trans (umberGrant_sr b u))))).body
    fun _ _ ht => Body.srSafe_writes ht (by simp)) s

theorem dualStep_outSafe (c : Cond) (rsv : Bool) (px py : Fin 8) (amx amy : BitVec 2) (dx : Fin 16) (c3 : Bool) {accW : DualOps → State → List Wr}
    (ha : ∀ o s, NoSr (accW o s)) (s : State) : OutSafe s (dualStep c rsv px py amx amy dx c3 accW s) :=
  umberStep_outSafe (fun t => (dualFetch_srIs c3 _ _ _ t).body fun o u ht => Body.srSafe_writes ht (by
    simp only [noSr_append, noSr_amxMod, noSr_amyMod, and_true, true_and]
    refine ⟨⟨ha o t, ?_⟩, ?_⟩ <;> split <;> simp)) s

end Sys2Proof.Machine
end

section
/-!
SR over every command, and over a step (O6).
-/

namespace Sys2Proof.Machine

open Sys2Proof.Claims

section
variable {s t : State}

theorem outSafe_eq (h : t.umber.sr = s.umber.sr) : OutSafe s (.next t) := outSafe_next (.of_eq h)

theorem outSafe_kept (h : SrKept s t) : OutSafe s (.next t) := outSafe_next h.safe

theorem outSafe_if {p : Prop} [Decidable p] (h : SrSafe s t) : OutSafe s (.next (if p then t else s)) := outSafe_next (.ite h (.refl s))

end

section
variable (c : Cond) (s : State)

theorem execLdd_outSafe (rd pp : Fin 16) (am : BitVec 3) (ofs : BitVec 12) : OutSafe s (execLdd c rd pp am ofs s) := by
  refine issue_amPm_outSafe (fun t => (checkPair_srIs ?_).body fun r _ ht => Body.srSafe_writes ht (by simp)) s
  exact (loadWord_srIs false _ t).bind fun _ u hu => (hu ▸ loadWord_srIs false _ u).bind fun _ _ hv => .ok hv

theorem execStd_outSafe (rd pp : Fin 16) (am : BitVec 3) (ofs : BitVec 12) : OutSafe s (execStd c rd pp am ofs s) :=
  issue_amPm_outSafe (fun t => (storePair_srIs _ _ _ t).body fun _ _ ht => Body.srSafe_writes ht (noSr_amMod pp am t)) s

theorem execLr_outSafe (rd pp : Fin 16) (am : BitVec 3) (ofs : BitVec 12) : OutSafe s (execLr c rd pp am ofs s) :=
  atomStep_outSafe c pp am ofs (fun _ => (atomAccess_srIs fun b u => watched_srIs (poisonable_srIs (umberSramRead_sr b u))).body
    fun _ _ ht => Body.srSafe_writes ((setResv_sr _ _).trans ht) (by simp)) s

theorem execSc_outSafe (rd pp : Fin 16) (am : BitVec 3) (ofs : BitVec 12) : OutSafe s (execSc c rd pp am ofs s) :=
  atomStep_outSafe c pp am ofs (fun _ => (atomAccess_srIs fun b u => watched_srIs (.ok (ite_keeps_sr ((sramWrite_sr _ _ _).trans (umberGrant_sr b u)) rfl))).body
    fun _ _ ht => Body.srSafe_writes ((setResv_sr _ _).trans ht) (noSr_wFlags _ _)) s

theorem execAtadd_outSafe (rd pp : Fin 16) (am : BitVec 3) (ofs : BitVec 12) : OutSafe s (execAtadd c rd pp am ofs s) := by
  unfold execAtadd
  apply atomSwap_outSafe

theorem execAtswp_outSafe (rd pp : Fin 16) (am : BitVec 3) (ofs : BitVec 12) : OutSafe s (execAtswp c rd pp am ofs s) := by
  unfold execAtswp
  apply atomSwap_outSafe

theorem execBtgl_outSafe (b : BitVec 12) : OutSafe s (execBtgl c b s) := by
  refine umberStep_outSafe (fun t => ?_) s
  split
  · exact .trap rfl
  · exact checkBit_srSafe t (toggleBit_srSafe t b)

theorem execBmovFromBit_outSafe (rd : Fin 16) (k : BitVec 6) (b : BitVec 12) : OutSafe s (execBmovFromBit c rd k b s) :=
  umberStep_outSafe (fun t => (checkBit_srIs (readBit_srIs b t)).body fun _ _ ht => Body.srSafe_writes ht (by simp)) s

theorem execTas_outSafe (pb : Fin 2) (compl : Bool) (b : BitVec 12) : OutSafe s (execTas c pb compl b s) := by
  refine umberStep_outSafe (fun t => ?_) s
  split
  · exact tasLock_srSafe t pb compl b _
  · exact (checkBit_srIs (.ok rfl)).body fun _ _ ht => Body.srSafe_writes ht (noSr_wFlags _ _)
  · exact .trap rfl

theorem execRpt_outSafe (n : RptCount) : OutSafe s (execRpt c n s) := by
  refine umberStep_outSafe (fun t => ?_) s
  exact Body.srSafe_writes rfl noSr_nil

theorem execSync_outSafe : OutSafe s (execSync c s) :=
  umberStep_outSafe (fun t => Body.srSafe_ite (Body.srSafe_writes (drainSettled_sr t) noSr_nil) (.wait (drainSettled_sr t))) s

theorem execStop_outSafe : OutSafe s (execStop c s) := umberStep_outSafe (fun t => Body.srSafe_ite (stopBody_srSafe t) (.trap rfl)) s

theorem execTrap_outSafe (code : BitVec 8) : OutSafe s (execTrap c code s) := umberStep_outSafe (fun _ => .trap rfl) s

theorem execReti_outSafe : OutSafe s (execReti c s) := umberStep_outSafe (fun t => Body.srSafe_ite (.jump (doReturn_srSafe t)) (.trap rfl)) s

theorem execMvtc_outSafe (cidx : BitVec 6) (rd : Fin 16) : OutSafe s (execMvtc c cidx rd s) := by
  refine umberStep_outSafe (fun t => ?_) s
  split
  · exact Body.srSafe_ite (.ok rfl (writesPriv_mvtcWrites _ _ t)) (.trap rfl)
  · exact .trap rfl

theorem execMvfc_outSafe (rd : Fin 16) (cidx : BitVec 6) : OutSafe s (execMvfc c rd cidx s) := by
  refine umberStep_outSafe (fun t => ?_) s
  split
  · exact Body.srSafe_ite (Body.srSafe_writes rfl (by simp)) (.trap rfl)
  · exact .trap rfl

end

theorem execNmiEntry_outSafe (s : State) : OutSafe s (execNmiEntry s) := outSafe_ite (outSafe_next (enterNmi_srSafe _ _ s)) (outSafe_next (.refl s))

theorem execStoreBufferDrain_outSafe (s : State) : OutSafe s (execStoreBufferDrain s) :=
  outSafe_ite (outSafe_eq ((archesSettle_sr _).trans (drainOne_sr s))) (outSafe_next (.refl s))

theorem execPodIdentify_outSafe (pod : Option PodIdent) (s : State) : OutSafe s (execPodIdentify pod s) := by
  cases pod with
  | none => exact outSafe_if (.of_eq (podIdentify_none_sr s))
  | some p => exact outSafe_if (.of_eq (podIdentify_some_sr p s))

theorem regWrite_outSafe (ok : Bool) (m : Master) (i : Nat) (v : Word) (s : State) : OutSafe s (regWrite ok m i v s) := outSafe_if (deliver_srKept m i v s).safe

theorem exec_outSafe (i : Instr) (s : State) : OutSafe s (exec i s) := by
  cases i with
  | add | adc | sub | sbc | and | or | xor | andn | min | max | minu | maxu | abs | neg | lsl | lsr | asr | rol | lsli | lsri | asri | roli | mul |
  mulh | mulhu | mulq | addi | andi | ori | xori | exta =>
    exact umberStep_outSafe (aluBody_srSafe · _ _) s
  | cmp | tst | cmpi | tsti | fcmp => exact umberStep_outSafe (flagBody_srSafe · _) s
  | clz | cls | exts | extz | swaph | ldi | ldih | mov | mvpd | mvnd | subp | mvda | exp => exact umberStep_outSafe (dBody_srSafe · _ _) s
  | addpi | ldpi | ldpih | mvdp | mvpp | addp => exact umberStep_outSafe (pBody_srSafe · _ _) s
  | ldni | mvdn => exact umberStep_outSafe (nlBody_srSafe · _ _) s
  | mvad | cmac | cmacj | norm | nop | reservedOpcode => exact umberStep_outSafe (fun _ => Body.srSafe_writes rfl (by simp)) s
  | ld | ldp | ldo | ldh | ldhu | ldq | ldqu => exact loadStep_outSafe _ _ _ _ _ (fun _ _ => by simp) s
  | st | stp | sto | sth | stq => apply storeStep_outSafe
  | ldd => apply execLdd_outSafe
  | std => apply execStd_outSafe
  | lr => apply execLr_outSafe
  | sc => apply execSc_outSafe
  | atadd => apply execAtadd_outSafe
  | atswp => apply execAtswp_outSafe
  | mac | msu | mpy | mpyn | acadd | acsub | acmov | acneg | acclr | acasr | aclsl | acset => exact umberStep_outSafe (accBody_srSafe · _ _) s
  | macd | msud | mpyd | cmacd => exact dualStep_outSafe _ _ _ _ _ _ _ _ (fun _ _ => by simp) s
  | fadd | fsub | fmul | fmac | fmsu | frcp | fabs | fneg | normF | expF | fcvtFi | fcvtIf | fcvtFu | fcvtUf => exact umberStep_outSafe (fBody_srSafe · _ _) s
  | bset | bclr | bmovToBit => exact umberStep_outSafe (setBitBody_srSafe · _ _) s
  | btgl => apply execBtgl_outSafe
  | btst | band | bor => exact umberStep_outSafe (predBody_srSafe · _ _ _ _) s
  | bmovFromBit => apply execBmovFromBit_outSafe
  | tas => apply execTas_outSafe
  | br | call | jmp | jcall => exact branchStep_outSafe (fun _ => Body.srSafe_branch rfl (by simp)) s
  | callm | callmr => exact branchStep_outSafe (callmBody_srSafe · _ _) s
  | retm => exact branchStep_outSafe retmBody_srSafe s
  | rpt => apply execRpt_outSafe
  | sync => apply execSync_outSafe
  | stop => apply execStop_outSafe
  | trap => apply execTrap_outSafe
  | reti => apply execReti_outSafe
  | mvtc => apply execMvtc_outSafe
  | mvfc => apply execMvfc_outSafe
  | extensionSpace => exact umberStep_outSafe extensionBody_srSafe s
  | interruptEntry => exact outSafe_next (.trans (.ite (.of_eq (arriveIrqs_sr ..)) (.refl s)) (interruptNow_srSafe _))
  | nmiEntry => apply execNmiEntry_outSafe
  | storeBufferDrain => apply execStoreBufferDrain_outSafe
  | paramWrite => exact outSafe_kept (deliver_srKept ..)
  | paramWriteAck => exact outSafe_eq (ackWrite_sr ..)
  | wakeAccept => exact outSafe_kept (wakeAccept_srKept ..)
  | retainExit => exact outSafe_kept (retainExit_srKept ..)
  | warmWake => exact outSafe_kept (warmWake_srKept ..)
  | coldBoot => exact outSafe_kept (coldBoot_srKept ..)
  | pierPowerOn => exact outSafe_eq (pierPowerOn_sr ..)
  | pierBrownout => exact outSafe_kept (supplyFails_srKept ..)
  | vddPowerOn => exact outSafe_kept (vddReleased_srKept ..)
  | vddBrownout => exact outSafe_kept (vddFalls_srKept ..)
  | rstNReset | testenHigh => exact outSafe_kept (resetPins_srKept ..)
  | softwareReset | umberResetRequest | dvfsPointWrite | radioPowerOn | radioPowerOff | trestlePowerOn | trestlePowerOff | cipherPowerOn |
  cipherPowerOff | l1Enable | l1Disable | timeIncWrite | timeLoad | strkDisarm | pierSecWrite | pierHaltSet | pierHaltClear | pierTickWrite | pwronAck
  | archRequestOn | archRequestSleep | archRequestOff | memInject | revoke | lkviewWrite | dmaCtlWrite | dmaStart | dmaResume | dmaAbort |
  radioCmdSleep | radioCmdStandby | radioCmdRx | radioCmdTx | radioCmdTxstart | radioCmdWakelisten | radioCmdChsw | radioCmdCalrc | radioCmdCaliq |
  radioCmdCaldc | radioCmdInvalid | radioTxflush | radioRxflush | xotrimWrite | trsChannelEnable | trsChannelDisable | trsChstart | carradj | codeadj
  | cmdataWrite | dumpbaseWrite | searchCapture | searchPass | searchAbort | aesEcbEncrypt | aesEcbDecrypt | aesCtr | aesCcmEncrypt | aesCcmDecrypt |
  sha256Start | hmacSha256 | derive | ecdsaSign | ecdsaVerifyStart | ecdh | pubkey | clear | wrap | cipherInWrite | rngCtlWrite | transitionRequest |
  ownerHashProgram | dbgChallenge | dbgCheckResponse | dbgDropRights | dbgCheckCerts | roleWrite | wdkick | dooroutWrite | podRead | podWrite |
  podAddchg | podAuth | podPing | faceTxdWrite | faceEnd | faceFlush =>
    apply regWrite_outSafe
  | umberReset => exact outSafe_kept (doUmberReset_srKept ..)
  | refSourceReady => exact outSafe_eq (refReady_sr ..)
  | refPllLock => exact outSafe_eq (refLock_sr ..)
  | refLoss => exact outSafe_eq (refLoss_sr ..)
  | corePllLock => exact outSafe_eq (corePllLock_sr ..)
  | dvfsRampEnd => exact outSafe_eq (dvfsEnd_sr ..)
  | l1Ready => exact outSafe_eq (l1Ready_sr ..)
  | synthGLockLoss => exact outSafe_eq (synthGLoss_sr ..)
  | timeStep => exact outSafe_kept (stepWrite_srKept ..)
  | timeLoadApply => exact outSafe_kept (loadApply_srKept ..)
  | nowfRead | piercapRead | piercaptRead | pierTickLoRead | pierTickHiRead | cipherOutRead | rngDataRead | evfifoRead | doorinRead =>
    exact outSafe_eq (readEffect_sr ..)
  | piercapRelease => exact outSafe_eq (capReleased_sr ..)
  | strkArm => exact outSafe_kept (armWrite_srKept ..)
  | strikeFire | strikePulseEnd => exact outSafe_if (.of_eq (tclkEdge_sr ..))
  | strikeRadioAction => exact outSafe_eq (strikeAction_sr ..)
  | epochLatch => exact outSafe_next (.trans (.of_eq (samplesUpTo_sr ..)) (.of_eq (epochLatch_sr ..)))
  | sepiaStrikeEvent => exact outSafe_if (inTurn_srKept (fun _ => .of_eq (strikeEvent_sr ..)) s).safe
  | shadowRelease => exact outSafe_eq (shadowReleased_sr ..)
  | trimWindowBoundary | trimCorrection | alarmMatch | pierTickEdge => exact outSafe_kept (edgeWhen_srKept ..)
  | oscFail => exact outSafe_eq (oscFails_sr ..)
  | oscReturn => exact outSafe_eq (oscReturns_sr ..)
  | swcfgWrite => exact outSafe_kept (swcfgWritten_srKept ..)
  | lockoutTrip => exact outSafe_if (.trans (t := s.drawn) (.of_eq rfl) (suppliesAt_srKept ..).safe)
  | lockoutRelease => exact outSafe_kept (lockReleases_srKept ..)
  | supplyToVbk | supplyToVdd => exact outSafe_kept (suppliesAt_srKept ..)
  | scrubRead => exact outSafe_eq (scrubRead_sr ..)
  | demandWriteback => exact outSafe_if (.of_eq (demandWriteback_sr ..))
  | archTransitionDone => exact outSafe_if (.of_eq (archStepDone_sr ..))
  | archInitDone => exact outSafe_if (.of_eq (archInitDone_sr ..))
  | nvmWordWrite => exact outSafe_if (inTurn_srKept (fun _ => .of_eq ((nvmSettled_sr _).trans ((nvmWordWrite_sr _ _).trans (nvmSettled_sr _)))) s).safe
  | nvmWriteAbort => exact outSafe_if (inTurn_srKept (fun _ => .of_eq ((nvmSettled_sr _).trans ((nvmAbort_sr _).trans (nvmSettled_sr _)))) s).safe
  | logWrite => exact outSafe_if (inTurn_srKept (fun _ => .of_eq ((nvmSettled_sr _).trans ((writeLog_sr _).trans (copyPierEvents_sr _)))) s).safe
  | revokeComplete => exact outSafe_if (revokeEnds_srKept ..).safe
  | dmaStrikeStart => exact outSafe_eq (dmaStrikeStart_sr ..)
  | dmaRequest => exact outSafe_eq (dmaRequest_sr ..)
  | dmaChainStart => exact outSafe_eq (chainStart_sr ..)
  | dmaDescriptorLoad => exact outSafe_if (descriptorLoad_srKept ..).safe
  | dmaElement => exact outSafe_if (.trans (t := s.drawn) (.of_eq rfl) (dmaElement_srKept ..).safe)
  | dmaAbortDone => exact outSafe_if (.of_eq (abortDone_sr ..))
  | radioTransitionDone => exact outSafe_eq (transitionDone_sr ..)
  | radioAutoret => exact outSafe_eq (autoReturn_sr ..)
  | rxTimeout => exact outSafe_eq (rxTimeout_sr ..)
  | txUnderrun => exact outSafe_eq (txUnderrun_sr ..)
  | diversityDecision => exact outSafe_eq (diversity_sr ..)
  | faultSequenceEnd => exact outSafe_eq (faultEnds_sr ..)
  | radioTxFifoWrite => exact outSafe_kept (deliverFifo_srKept ..)
  | radioRxFifoRead => exact outSafe_eq (rxFifoRead_sr ..)
  | xonowStep => exact outSafe_eq (xoStep_sr ..)
  | syncDetect => exact outSafe_eq (syncDetect_sr ..)
  | frameReceived => exact outSafe_eq (frameReceived_sr ..)
  | frameTxEnd => exact outSafe_eq (frameTxEnd_sr ..)
  | ackTimeout => exact outSafe_eq (ackTimeout_sr ..)
  | wakeTrainEnd => exact outSafe_eq (trainEnd_sr ..)
  | burstEnd => exact outSafe_eq (burstEnd_sr ..)
  | wakeWindowOpen => exact outSafe_eq (windowOpen_sr ..)
  | wakeWindowClose => exact outSafe_eq (windowClose_sr ..)
  | wakeCollection => exact outSafe_eq (startCollection_sr ..)
  | wakeMatch => exact outSafe_eq (wakeMatch_sr ..)
  | wakeNomatch => exact outSafe_eq (wakeNoMatch_sr ..)
  | carrrateApply | quantBlockEnd | trsDump | searchCaptureDone => exact outSafe_eq (atSample_sr ..)
  | dumpWrite => exact outSafe_if (.of_eq (dumpWrite_sr ..))
  | searchResultWrite => exact outSafe_if (.trans (.ite (.of_eq (pushResult_sr ..)) (.refl s)) (.of_eq (writeResult_sr ..)))
  | searchPassDone => exact outSafe_if (.of_eq (passDone_sr ..))
  | codenowRead => exact outSafe_next (.trans (.of_eq (samplesUpTo_sr ..)) (.of_eq (readEffect_sr ..)))
  | cipherOpDone => exact outSafe_if (.of_eq (cryptDone_sr ..))
  | rngStartupPass => exact outSafe_if (.trans (.of_eq (rngStartupPass_sr ..)) (.of_eq (rngFollows_sr ..)))
  | rngWord => exact outSafe_if (.trans (.of_eq (rngWord_sr ..)) (.of_eq (rngFollows_sr ..)))
  | rngAlarm => exact outSafe_if (.trans (.of_eq (rngAlarm_sr ..)) (.of_eq (rngFollows_sr ..)))
  | transitionDone => exact outSafe_kept (transitionEnds_srKept ..)
  | ownerHashDone => exact outSafe_kept (ownerHashEnds_srKept ..)
  | responseCheckDone => exact outSafe_if (.of_eq (responseDone_sr ..))
  | certCheckDone => exact outSafe_if (.of_eq (certsDone_sr ..))
  | certWindowCheck => exact outSafe_if (.of_eq (certWindows_sr ..))
  | debugHalt => exact outSafe_next (haltOp_srSafe (fun _ => .of_eq (requestHalt_sr ..)) _ s)
  | umberHalted => exact outSafe_eq (umberHalts_sr ..)
  | debugResume => exact outSafe_next (haltOp_srSafe (fun _ => .of_eq (resumeUmber_sr ..)) _ s)
  | debugStep => exact outSafe_next (haltOp_srSafe (fun _ => .of_eq (stepUmber_sr ..)) _ s)
  | dbgirq => exact outSafe_next (haltOp_srSafe (fun _ => .of_eq (State.raiseIrq_sr ..)) _ s)
  | debugStart => exact outSafe_next (debugStart_srSafe _ _)
  | regrd => exact outSafe_next (regRead_srSafe _ _)
  | regwr => exact outSafe_next (regWriteOp_srSafe _ _ _)
  | breakpointHit => exact outSafe_eq (breakHits_sr ..)
  | watchpointHit => exact outSafe_eq (watchHits_sr ..)
  | nvmwrite => exact outSafe_kept (serve_srKept svcNvmWrite_sr s)
  | logappend => exact outSafe_kept (serve_srKept svcLogAppend_sr s)
  | sense => exact outSafe_kept (serve_srKept (svcSense_sr _) s)
  | podtest => exact outSafe_kept (serve_srKept (svcPodTest_sr _) s)
  | xtalchk => exact outSafe_kept (serve_srKept (svcXtalChk_sr _) s)
  | armupdate => exact outSafe_kept (serve_srKept svcArmUpdate_sr s)
  | confirm => exact outSafe_kept (serve_srKept svcConfirm_sr s)
  | regions => exact outSafe_kept (serve_srKept svcRegions_sr s)
  | keywrite => exact outSafe_kept (serve_srKept svcKeyWrite_sr s)
  | slotinfo => exact outSafe_kept (serve_srKept svcSlotInfo_sr s)
  | serviceDone => exact outSafe_if (.of_eq (svcDone_sr ..))
  | wdtStage1 => exact outSafe_if (.of_eq (wdStage1_sr ..))
  | wdtStage2 => exact outSafe_if (.of_eq (wdStage2_sr ..))
  | wdtStage3 => exact outSafe_if (wdStage3_srKept ..).safe
  | nmiEscalation => exact outSafe_if (escalated_srKept ..).safe
  | sensorSample => exact outSafe_if (inTurn_srKept (fun _ => .of_eq (samplePeriodic_sr ..)) s).safe
  | hostTransactionStart => exact outSafe_eq (hostStart_sr ..)
  | directRead => exact outSafe_next (directRead_srSafe _)
  | directWrite => exact outSafe_next (directWrite_srSafe _ _)
  | hostParamRead | hostMemRead => exact outSafe_next (hostIssue_srSafe _ _)
  | hostParamWrite | hostMemWrite => exact outSafe_next (hostWindowWrite_srSafe _ _ _)
  | hostReadComplete => exact outSafe_eq (hostReadDone_sr ..)
  | hostWriteAck => exact outSafe_eq (hostAck_sr ..)
  | hostTransactionEnd => exact outSafe_eq (hostEnd_sr ..)
  | hostTimeout => exact outSafe_eq (hostTimeout_sr ..)
  | doorbell => exact outSafe_if (directWrite_srSafe _ _)
  | podResultPoll => exact outSafe_eq (podPoll_sr ..)
  | podAnswer => exact outSafe_eq (podAnswer_sr ..)
  | podTimeout => exact outSafe_eq (podTimeout_sr ..)
  | podTransactionDone => exact outSafe_eq (podDone_sr ..)
  | podReleaseNotice => exact outSafe_eq (releaseNotice_sr ..)
  | podIdentify => apply execPodIdentify_outSafe
  | chargeFold => exact outSafe_if (.trans (.of_eq (countPulses_sr ..)) (.of_eq (chargeFold_sr ..)))
  | faceTransferStart => exact outSafe_eq (faceStart_sr ..)
  | faceTransferEnd => exact outSafe_eq (faceFinish_sr ..)
  | fbusyRelease => exact outSafe_eq (fbusyRelease_sr ..)
  | gpioEdge => exact outSafe_eq (gpioInput_sr ..)
  | tempnowPeriodic => exact outSafe_kept (tempPeriodic_srKept ..)

/-! ### A step -/
theorem fetchStep_srSafe (s : State) : SrSafe s (fetchStep s) := by
  unfold fetchStep
  split
  · rename_i h
    exact exec_outSafe _ s _ h
  · exact .refl s
  · exact .refl s

theorem umberTurn_srSafe (s : State) : SrSafe s (umberTurn s) :=
  .ite (.refl s) <| .ite (enterNmi_srSafe _ _ s) <| .ite (interruptNow_srSafe s) (fetchStep_srSafe s)

theorem step_outSafe (s : State) : OutSafe s (step s) := by
  unfold step
  split
  · exact outSafe_next (.trans (.of_eq (idle_sr s)) (umberTurn_srSafe _))
  · exact exec_outSafe _ _

theorem step_keepsSupervised : keepsSupervised := by
  intro s t hs h
  rw [supervised_iff] at hs ⊢
  exact step_outSafe s t h hs

end Sys2Proof.Machine

/-- Settles O6: SR changes by writes that keep the bits of `SrHeld`, to the SR of a handler or of RETI, or to its reset value; each is legal where SR was. -/
theorem supervisorOnlyInDomainOne : Obligations.SupervisorOnlyInDomainOne := Sys2Proof.Machine.step_keepsSupervised

end

section
/-!
The frame relation of the statements about commands that are no instruction: it composes, and the writes of single parameters keep it.
-/

namespace Sys2Proof.Claims

open Sys2Proof.Machine

/-! ### What a command leaves -/

theorem Untouched.refl (s : State) : Untouched [] [] s s := ⟨fun p _ => by cases p <;> rfl, fun _ _ => rfl, rfl⟩

theorem Part.same_trans {p : Part} {s t r : State} (a : p.same s t) (b : p.same t r) : p.same s r := by
  cases p <;> exact Eq.trans b a

theorem Untouched.trans {ps qs : List Part} {ix jx : List Nat} {s t r : State} (a : Untouched ps ix s t) (b : Untouched qs jx t r) :
    Untouched (qs ++ ps) (ix ++ jx) s r where
  parts p h := Part.same_trans (a.parts p fun m => h (List.mem_append_right _ m)) (b.parts p fun m => h (List.mem_append_left _ m))
  params i h := (b.params i fun m => h (List.mem_append_right _ m)).trans (a.params i fun m => h (List.mem_append_left _ m))
  pending := b.pending.trans a.pending

theorem Untouched.mono {ps qs : List Part} {ix jx : List Nat} {s t : State} (a : Untouched ps ix s t) (hp : ps ⊆ qs) (hi : ix ⊆ jx) : Untouched qs jx s t :=
  ⟨fun p h => a.parts p fun m => h (hp m), fun i h => a.params i fun m => h (hi m), a.pending⟩

theorem Untouched.setPar (s : State) (i : Nat) (v : Word) : Untouched [] [i] s (s.setPar i v) where
  parts p _ := by cases p <;> rfl
  params _ h := s.par_setPar_ne v (Ne.symm (List.ne_of_not_mem_cons h))
  pending := rfl

theorem Untouched.parBit (s : State) (i k : Nat) (b : Bool) : Untouched [] [i] s (s.parBit i k b) := Untouched.setPar s i _

end Sys2Proof.Claims

namespace Sys2Proof.Machine

/-! ### Fields of words -/

/-- Bits above all that a word holds are clear, so clearing them there changes nothing. -/
theorem and_not_shiftLeft_of_lt {n : Nat} {w : BitVec n} {lo : Nat} (c : BitVec n) (hw : w.toNat < 2 ^ lo) : w &&& ~~~(c <<< lo) = w := by
  refine BitVec.eq_of_getLsbD_eq fun k hk => ?_
  by_cases h : k < lo
  · simp [hk, h]
  · have hz : w.getLsbD k = false := Nat.testBit_eq_false_of_lt (hw.trans_le (Nat.pow_le_pow_right (by decide) (by omega)))
    simp [hz]

/-- A field put above all that the word holds adds its value there. -/
theorem toNat_putFld_of_lt {n m : Nat} {w : BitVec n} {lo : Nat} (v : BitVec m) (hw : w.toNat < 2 ^ lo) (hm : lo + m ≤ n) :
    (putFld w lo v).toNat = w.toNat + 2 ^ lo * v.toNat := by
  have hv : v.toNat * 2 ^ lo < 2 ^ n := calc
    v.toNat * 2 ^ lo < 2 ^ m * 2 ^ lo := Nat.mul_lt_mul_of_pos_right v.isLt (Nat.two_pow_pos lo)
    _ = 2 ^ (lo + m) := by rw [← Nat.pow_add, Nat.add_comm]
    _ ≤ 2 ^ n := Nat.pow_le_pow_right (by decide) hm
  have hs : ((v.setWidth n) <<< lo).toNat = v.toNat <<< lo := by
    rw [BitVec.toNat_shiftLeft, BitVec.toNat_setWidth, Nat.mod_eq_of_lt (v.isLt.trans_le (Nat.pow_le_pow_right (by decide) (by omega))), Nat.shiftLeft_eq,
      Nat.mod_eq_of_lt hv]
  unfold putFld
  rw [and_not_shiftLeft_of_lt _ hw, BitVec.toNat_or, hs, Nat.or_comm, ← Nat.shiftLeft_add_eq_or_of_lt hw, Nat.shiftLeft_eq, Nat.mul_comm, Nat.add_comm]

theorem toNat_putBit_true_of_lt {n : Nat} {w : BitVec n} {k : Nat} (hw : w.toNat < 2 ^ k) (hk : k < n) : (putBit w k true).toNat = w.toNat + 2 ^ k :=
  (toNat_putFld_of_lt (BitVec.ofBool true) hw hk).trans (by simp)

/-- SYS.PERR holds the index, the master, the reason, the kind of access and VALID, one beside the other (R624). -/
theorem perr_toNat (i : BitVec 13) (c : BitVec 3) (r : BitVec 4) :
    (putBit (putBit (putFld (putFld (i.setWidth 36) 13 c) 16 r) 20 true) 35 true).toNat = i.toNat + 2 ^ 13 * c.toNat + 2 ^ 16 * r.toNat + 2 ^ 20 + 2 ^ 35 := by
  have hi := i.isLt
  have hc := c.isLt
  have hr := r.isLt
  have h0 : (i.setWidth 36).toNat = i.toNat := by rw [BitVec.toNat_setWidth]; omega
  have h1 := toNat_putFld_of_lt (w := i.setWidth 36) (lo := 13) c (by omega) (by decide)
  have h2 := toNat_putFld_of_lt (w := putFld (i.setWidth 36) 13 c) (lo := 16) r (by omega) (by decide)
  have h3 := toNat_putBit_true_of_lt (w := putFld (putFld (i.setWidth 36) 13 c) 16 r) (k := 20) (by omega) (by decide)
  rw [toNat_putBit_true_of_lt (by omega) (by decide), h3, h2, h1, h0]

/-- A counting field saturates at its width. -/
theorem bumpFld_low (w : Word) : (bumpFld w 0 16).toNat % 2 ^ 16 = min (w.toNat % 2 ^ 16 + 1) (2 ^ 16 - 1) := by
  have hf : (fld w 0 16 : BitVec 16).toNat = w.toNat % 2 ^ 16 := by simp [fld]
  have hput : (bumpFld w 0 16).toNat % 2 ^ 16 = (satAdd (fld w 0 16 : BitVec 16) 1).toNat := by
    have h := congrArg BitVec.toNat (extractLsb'_putFld w (lo := 0) (satAdd (fld w 0 16 : BitVec 16) 1) (by decide))
    simpa [bumpFld] using h
  rw [hput, ← hf]
  have hlt := (fld w 0 16 : BitVec 16).isLt
  unfold satAdd
  split
  · rw [BitVec.toNat_ofNat]; omega
  · rw [BitVec.toNat_allOnes]; omega

end Sys2Proof.Machine
end

section
/-!
How a write of a parameter arrives at its shell and is answered (01 R50; 08 R263; 18 R577; 20 R622, R624).
-/

namespace Sys2Proof.Machine

open Sys2Proof.Claims

/-! ### The queues -/

/-- The entry that a shell latches is the oldest for it, and its place is where `latchFirst` answers. -/
theorem latchFirst_of_find {sh : Shell} {w : PWrite} (r : BitVec 4) :
    ∀ {l : List PWrite}, l.find? (fun w => w.latched.isNone && decide (w.tgt.shell = sh)) = some w →
      ∃ k, l.findIdx? (fun w => w.latched.isNone && decide (w.tgt.shell = sh)) = some k ∧ l[k]? = some w ∧
        l.set k { w with latched := some r } = latchFirst sh r l
  | [], h => by simp at h
  | x :: xs, h => by
    unfold latchFirst
    rw [List.find?_cons] at h
    rw [List.findIdx?_cons]
    cases hx : x.latched.isNone && decide (x.tgt.shell = sh) with
    | true =>
      rw [hx] at h
      obtain rfl : x = w := Option.some.inj h
      exact ⟨0, rfl, rfl, rfl⟩
    | false =>
      rw [hx] at h
      obtain ⟨k, hk, hw, hs⟩ := latchFirst_of_find r h
      exact ⟨k + 1, by simp [hk], hw, congrArg (x :: ·) hs⟩

/-- The entry of the host's queue that is answered is the oldest that waits. -/
theorem answerFirst_of_find {w : HostWrite} (e : BitVec 4) (ha : w.after = []) :
    ∀ {l : List HostWrite}, l.find? (fun w => w.latched.isNone) = some w →
      ∃ k, l.findIdx? (fun w => w.latched.isNone) = some k ∧ l[k]? = some w ∧
        l.set k { w with latched := some e, after := [] } = answerFirst e l
  | [], h => by simp at h
  | x :: xs, h => by
    unfold answerFirst
    rw [List.find?_cons] at h
    rw [List.findIdx?_cons]
    cases hx : x.latched.isNone with
    | true =>
      rw [hx] at h
      obtain rfl : x = w := Option.some.inj h
      exact ⟨0, rfl, rfl, by rw [← ha]; rfl⟩
    | false =>
      rw [hx] at h
      obtain ⟨k, hk, hw, hs⟩ := answerFirst_of_find e ha h
      exact ⟨k + 1, by simp [hk], hw, congrArg (x :: ·) hs⟩

theorem markLatched_of_get {k : Nat} {w : PWrite} (r : BitVec 4) {s : State} (h : s.umber.pwq[k]? = some w) :
    markLatched k w r s = s.setUmber { s.umber with pwq := s.umber.pwq.set k { w with latched := some r } } := if_pos h

theorem markHost_of_get {k : Nat} {w : HostWrite} (e : BitVec 4) {s : State} (h : s.host.wq[k]? = some w) :
    markHost k w e s = s.setHost { s.host with wq := s.host.wq.set k { w with latched := some e, after := [] } } := if_pos h

theorem untouched_setPwq (s : State) (q : List PWrite) : Untouched [.pwq] [] s (s.setUmber { s.umber with pwq := q }) where
  parts p h := by
    cases p with
    | pwq => exact absurd (List.mem_singleton.2 rfl) h
    | _ => rfl
  params _ _ := rfl
  pending := rfl

theorem untouched_setWq (s : State) (q : List HostWrite) : Untouched [.wq] [] s (s.setHost { s.host with wq := q }) where
  parts p h := by
    cases p with
    | wq => exact absurd (List.mem_singleton.2 rfl) h
    | _ => rfl
  params _ _ := rfl
  pending := rfl

/-! ### Writes that stand ready -/

theorem arriving_sepia {i : Nat} {v : Word} {acc : Accessor} {s : State} (h : arriving .sepia i v s = some acc) : s.awake = true ∧ acc = sepiaAcc := by
  simp only [arriving, Option.ite_none_right_eq_some, Option.some.injEq] at h
  exact ⟨h.1, h.2.symm⟩

theorem arriving_umber {i : BitVec 13} {v : Word} {acc : Accessor} {s : State} (h : arriving .umber i.toNat v s = some acc) :
    ∃ w, s.umber.pwq.find? (fun w => w.latched.isNone && decide (w.tgt.shell = shellOf i.toNat)) = some w ∧ w.tgt = .par i ∧ w.val = v ∧ acc = w.acc := by
  simp only [arriving] at h
  cases hw : s.umber.pwq.find? (fun w => w.latched.isNone && decide (w.tgt.shell = shellOf i.toNat)) with
  | none => simp [hw] at h
  | some w =>
    simp only [hw, Option.ite_none_right_eq_some, Option.some.injEq, BitVec.ofNat_toNat, BitVec.setWidth_eq] at h
    exact ⟨w, rfl, h.1.1, h.1.2, h.2.symm⟩

theorem arriving_host {i : BitVec 13} {v : Word} {acc : Accessor} {s : State} (h : arriving .host i.toNat v s = some acc) :
    s.vddRuns = true ∧ ∃ w, s.host.wq.find? (fun w => w.latched.isNone) = some w ∧ w.tgt = .par i ∧ w.val = v ∧ w.after = [] ∧ acc = s.hostAcc := by
  simp only [arriving] at h
  cases hv : s.vddRuns with
  | false => simp [hv] at h
  | true =>
    cases hw : s.host.wq.find? (fun w => w.latched.isNone) with
    | none => simp [hv, hw] at h
    | some w =>
      simp only [hv, hw, Bool.true_eq_false, if_false, Option.ite_none_right_eq_some, Option.some.injEq, BitVec.ofNat_toNat, BitVec.setWidth_eq] at h
      obtain ⟨⟨ht, hval, hafter⟩, rfl⟩ := h
      exact ⟨rfl, w, rfl, ht, hval, hafter, rfl⟩

/-! ### Deliveries -/

theorem exec_paramWrite (m : Master) (i : BitVec 13) (v : Word) (s : State) : exec (.paramWrite m i v) s = .next (deliver m i.toNat v s) := rfl

/-- Sepia's write acts at once. -/
theorem deliver_sepia {i : Nat} {v : Word} {s : State} (ha : s.awake = true) (hroom : s.holdsWrite sepiaAcc i = false) :
    deliver .sepia i v s = (writeAs sepiaAcc i v s).2 := by
  simp [deliver, ha, hroom]

/-- The oldest write of Umber's queue for a shell acts and is latched there with its reason. -/
theorem deliver_umber {i : BitVec 13} {w : PWrite} {s : State}
    (hw : s.umber.pwq.find? (fun w => w.latched.isNone && decide (w.tgt.shell = shellOf i.toNat)) = some w) (htgt : w.tgt = .par i)
    (hroom : s.holdsWrite w.acc i.toNat = false) (hq : (writeAs w.acc i.toNat w.val s).2.umber.pwq = s.umber.pwq) :
    deliver .umber i.toNat w.val s = (writeAs w.acc i.toNat w.val s).2.setUmber
      { (writeAs w.acc i.toNat w.val s).2.umber with pwq := latchFirst (shellOf i.toNat) (writeAs w.acc i.toNat w.val s).1 s.umber.pwq } := by
  obtain ⟨k, hk, hget, hset⟩ := latchFirst_of_find (writeAs w.acc i.toNat w.val s).1 hw
  have hnext : s.nextFor (shellOf i.toNat) = some k := hk
  have hnamed : (PTarget.par i).index = some i.toNat := rfl
  have hlatch : latchWrite w s = writeAs w.acc i.toNat w.val s := by rw [latchWrite, htgt]
  simp only [deliver, deliverUmber, hnext, hget, hnamed, htgt, hroom, hlatch, decide_true, Bool.and_self, Bool.not_true, Bool.or_self, Bool.false_eq_true, if_false]
  rw [markLatched_of_get _ (hq ▸ hget), hq, hset]

/-- The oldest write of the host's queue acts and is latched there with its code. -/
theorem deliver_host {i : BitVec 13} {w : HostWrite} {s : State} (hv : s.vddRuns = true) (hw : s.host.wq.find? (fun w => w.latched.isNone) = some w)
    (htgt : w.tgt = .par i) (hafter : w.after = []) (hroom : s.holdsWrite s.hostAcc i.toNat = false) (hden : s.hostDenied i.toNat true = false)
    (hbar : s.hostBarred i.toNat = false) (hq : (writeAs s.hostAcc i.toNat w.val s).2.host.wq = s.host.wq) :
    deliver .host i.toNat w.val s = (writeAs s.hostAcc i.toNat w.val s).2.setHost
      { (writeAs s.hostAcc i.toNat w.val s).2.host with wq := answerFirst (hostCode (writeAs s.hostAcc i.toNat w.val s).1) s.host.wq } := by
  obtain ⟨k, hk, hget, hset⟩ := answerFirst_of_find (hostCode (writeAs s.hostAcc i.toNat w.val s).1) hafter hw
  have hnext : s.hostNext = some k := hk
  simp only [deliver, deliverHost, hv, hnext, hget, htgt, hroom, hden, hbar, hafter, BitVec.ofNat_toNat, BitVec.setWidth_eq, if_true, ne_eq, not_true, or_self,
    Bool.or_self, Bool.false_eq_true, if_false]
  rw [markHost_of_get _ (hq ▸ hget), hq, hset]
  rfl

/-- A write that arrives and is taken acts through its shell and is answered: the state is the one its shell leaves, but for the entry of its queue. -/
theorem paramWrite_answers {m : Master} {i : BitVec 13} {v : Word} {acc : Accessor} {s : State} (ha : arriving m i.toNat v s = some acc)
    (ht : taken acc i.toNat s) {ix : List Nat} (hu : Untouched [] ix s (writeAs acc i.toNat v s).2) :
    ∃ t, exec (.paramWrite m i v) s = .next t ∧ answered m i.toNat (writeAs acc i.toNat v s).1 s t ∧
      Untouched (queueOf m) [] (writeAs acc i.toNat v s).2 t := by
  obtain ⟨hroom, hport⟩ := ht
  cases m with
  | dma c => cases ha
  | sepia =>
    obtain ⟨hawake, rfl⟩ := arriving_sepia ha
    exact ⟨_, rfl, trivial, deliver_sepia hawake hroom ▸ Untouched.refl _⟩
  | umber =>
    obtain ⟨w, hw, htgt, rfl, rfl⟩ := arriving_umber ha
    have hd := deliver_umber hw htgt hroom (hu.parts .pwq List.not_mem_nil)
    exact ⟨_, (exec_paramWrite _ _ _ _).trans (congrArg Host.Outcome.next hd), rfl, untouched_setPwq _ _⟩
  | host =>
    obtain ⟨hv, w, hw, htgt, rfl, hafter, rfl⟩ := arriving_host ha
    obtain ⟨hden, hbar⟩ := hport rfl
    have hd := deliver_host hv hw htgt hafter hroom hden hbar (hu.parts .wq List.not_mem_nil)
    exact ⟨_, (exec_paramWrite _ _ _ _).trans (congrArg Host.Outcome.next hd), rfl, untouched_setWq _ _⟩

/-- The master that a write is checked as is the one that made it. -/
theorem arriving_master {m : Master} {i : BitVec 13} {v : Word} {acc : Accessor} {s : State} (ha : arriving m i.toNat v s = some acc) : acc.master = m := by
  cases m with
  | dma c => cases ha
  | sepia => rw [(arriving_sepia ha).2]; rfl
  | umber =>
    obtain ⟨w, -, -, -, rfl⟩ := arriving_umber ha
    rfl
  | host =>
    obtain ⟨-, w, -, -, -, -, rfl⟩ := arriving_host ha
    rfl

end Sys2Proof.Machine
end

section
/-!
Parameter writes: refused, stored and acknowledged (R10, R50, R51, R198, R263, R622, R624; log 11).
-/

namespace Sys2Proof.Machine

open Sys2Proof.Claims

/-! ### Refused writes -/

theorem writeAs_refused {acc : Accessor} {i : Nat} {v : Word} {s : State} (h : s.writeRefusal acc i v ≠ 0) :
    writeAs acc i v s = (s.writeRefusal acc i v, notePerr acc.master i (s.writeRefusal acc i v) true (refusedStatus i (s.writeRefusal acc i v) s)) := by
  simp only [writeAs, shellWrite, if_neg h]

theorem writeAs_accepted {acc : Accessor} {i : Nat} {v : Word} {s : State} (h : s.writeRefusal acc i v = 0) : writeAs acc i v s = (0, applyWrite acc i v s) := by
  simp [writeAs, shellWrite, h]

/-- The status bits of refusals that the chapters of TIME, the cipher unit, the face port and Trestle define (R624). -/
def refusalIx : List Nat := [P.TIME_STATUS, P.CRYPT_STATUS, P.CRYPT_CNT + 7, P.FACE_STATUS, P.TRS_STATUS] ++ every P.CH_STATUS 64 48

theorem chStatus_mem_refusalIx (c : Fin 48) : chIdx P.CH_STATUS c ∈ refusalIx :=
  List.mem_append_right _ (List.mem_map.2 ⟨c.val, List.mem_range.2 c.isLt, rfl⟩)

theorem untouched_refusedStatus (i : Nat) (r : BitVec 4) (s : State) : Untouched [] refusalIx s (refusedStatus i r s) := by
  have one : ∀ {j k : Nat}, j ∈ refusalIx → Untouched [] refusalIx s (s.parBit j k true) := fun {j k} hj =>
    (Untouched.parBit s j k true).mono (List.nil_subset _) (List.cons_subset.2 ⟨hj, List.nil_subset _⟩)
  unfold refusedStatus
  split
  · exact one (by decide)
  split
  · exact ((Untouched.parBit s P.CRYPT_STATUS 8 true).trans (Untouched.setPar _ (P.CRYPT_CNT + 7) _)).mono (List.nil_subset _) (by decide)
  split
  · exact one (by decide)
  split
  · exact one (by decide)
  split
  · exact one (chStatus_mem_refusalIx _)
  · exact (Untouched.refl s).mono (List.nil_subset _) (List.nil_subset _)

theorem untouched_notePerr (m : Master) (i : Nat) (r : BitVec 4) (w : Bool) (s : State) : Untouched [] [P.SYS_PERR, P.SYS_PERRCNT] s (notePerr m i r w s) := by
  simp only [notePerr]
  split
  · exact (Untouched.setPar s _ _).mono (List.nil_subset _) (by decide)
  · exact ((Untouched.setPar s _ _).trans (Untouched.setPar _ _ _)).mono (List.nil_subset _) (by decide)

theorem notePerr_perrcnt (m : Master) (i : Nat) (r : BitVec 4) (w : Bool) (s : State) :
    (notePerr m i r w s).par P.SYS_PERRCNT = bumpFld (s.par P.SYS_PERRCNT) 0 16 := by
  simp only [notePerr]
  split <;> simp

/-- A record that is held stays (R624). -/
theorem notePerr_perr_held (m : Master) (i : Nat) (r : BitVec 4) (w : Bool) {s : State} (h : (s.par P.SYS_PERR).getLsbD 35 = true) :
    (notePerr m i r w s).par P.SYS_PERR = s.par P.SYS_PERR := by
  unfold notePerr
  simp [h]

theorem notePerr_perr_free (m : Master) (i : BitVec 13) (r : BitVec 4) {s : State} (h : (s.par P.SYS_PERR).getLsbD 35 = false) :
    (notePerr m i.toNat r true s).par P.SYS_PERR = BitVec.ofNat 36 (i.toNat + 2 ^ 13 * (perrCode m).toNat + 2 ^ 16 * r.toNat + 2 ^ 20 + 2 ^ 35) := by
  rw [← perr_toNat i (perrCode m) r, BitVec.ofNat_toNat, BitVec.setWidth_eq]
  simp only [notePerr]
  rw [State.par_setPar_ne _ _ (by decide), h]
  simp

theorem not_mem_refusalIx_perr : P.SYS_PERR ∉ refusalIx ∧ P.SYS_PERRCNT ∉ refusalIx := by decide +kernel

theorem refusedWrites_holds : refusedWrites := by
  intro m i v acc s ha ht hr
  have hw := writeAs_refused hr
  rw [arriving_master ha] at hw
  have hstatus := untouched_refusedStatus i.toNat (s.writeRefusal acc i.toNat v) s
  have hperr := hstatus.params P.SYS_PERR not_mem_refusalIx_perr.1
  have hcnt := hstatus.params P.SYS_PERRCNT not_mem_refusalIx_perr.2
  have hu := hstatus.trans (untouched_notePerr m i.toNat (s.writeRefusal acc i.toNat v) true _)
  have hix : refusalIx ++ [P.SYS_PERR, P.SYS_PERRCNT] ++ [] ⊆ [P.SYS_PERR, P.SYS_PERRCNT] ++ refusalIx := by
    rw [List.append_nil]
    exact List.perm_append_comm.subset
  obtain ⟨t, hexec, hans, hrest⟩ := paramWrite_answers ha ht (by rw [hw]; exact hu)
  rw [hw] at hans hrest
  have hpar : ∀ j, t.par j = _ := fun j => hrest.params j List.not_mem_nil
  refine ⟨t, hexec, hans, ?_, fun h => ?_, fun h => ?_, (hu.trans hrest).mono (by simp) hix⟩
  · rw [hpar, notePerr_perrcnt, hcnt, bumpFld_low]
  · rw [hpar, notePerr_perr_held _ _ _ _ (hperr ▸ h), hperr]
  · rw [hpar, notePerr_perr_free _ _ _ (hperr ▸ h)]
    cases m <;> rfl

/-! ### Plain writes -/

/-- The parameters of plain storage outside the region registers. -/
def plainNamed : List Nat :=
  [P.PWR_MODE, P.PWR_WAKEEN, P.PWR_RETCFG, P.TIME_INC, P.TIME_LOADS, P.TIME_LOADF, P.TIME_PINCOMP, P.MEM_CETHR, P.MEM_INJADDR, P.MEM_SCRUBCFG, P.DOM_PMSEL, P.DOM_LKSEL]

theorem plainStore_cases {i : Nat} (h : plainStore i) : i ∈ plainNamed ∨ (0x600 ≤ i ∧ i < 0x900) := by
  simpa only [plainStore, plainNamed, List.mem_cons, List.not_mem_nil, or_false, or_assoc] using h

/-- A parameter of plain storage lies below the blocks of `writeLow` and is none of those whose write does more. -/
theorem applyWrite_plain {i : Nat} (acc : Accessor) (v : Word) (s : State) (h : plainStore i) {sh : Sheet} (hs : sheetOf i = some sh) :
    applyWrite acc i v s = store i v s := by
  have hp : populated i = true := by rw [populated, hs]; rfl
  have hlow : i < 0x0B00 → applyWrite acc i v s = writeLow acc i v s := fun hi => by simp [applyWrite, hp, hi]
  rcases plainStore_cases h with hn | ⟨hlo, hhi⟩
  · simp only [plainNamed, List.mem_cons, List.not_mem_nil, or_false] at hn
    rw [hlow (by rcases hn with rfl | rfl | rfl | rfl | rfl | rfl | rfl | rfl | rfl | rfl | rfl | rfl <;> decide)]
    rcases hn with rfl | rfl | rfl | rfl | rfl | rfl | rfl | rfl | rfl | rfl | rfl | rfl <;> rfl
  · have hne : ∀ j, j < 0x600 ∨ 0x900 ≤ j → i ≠ j := fun j hj => by omega
    have hout : ∀ b n, b + n ≤ 0x600 ∨ 0x900 ≤ b → ¬ inPars i b n = true := fun b n hj => by simp [inPars]; omega
    rw [hlow (by omega), writeLow]
    iterate 10 rw [if_neg (hne _ (by decide))]
    rw [if_neg (by simp [isStrk, hout])]
    iterate 5 rw [if_neg (hne _ (by decide))]
    rw [if_neg (by simp [isDma, hout]), if_neg (hout _ _ (by decide)), if_neg (hout _ _ (by decide))]

/-- No region register and no plain parameter clears on a written 1. -/
theorem plainStore_w1c {i : Nat} (h : plainStore i) {sh : Sheet} (hs : sheetOf i = some sh) : sh.w1c = 0 := by
  rcases plainStore_cases h with hn | ⟨hlo, hhi⟩
  · have hall : ∀ j ∈ plainNamed, (sheetOf j).all (fun sh => sh.w1c == 0) = true := by decide +kernel
    simpa [hs] using hall i hn
  · have hblock : blockSheets (i / 256) = sheets06 := by
      have : i / 256 = 6 ∨ i / 256 = 7 ∨ i / 256 = 8 := by omega
      rcases this with h | h | h <;> rw [h] <;> rfl
    have hall : ∀ r ∈ sheets06, r.sheet.w1c = 0 := by decide +kernel
    rw [sheetOf, hblock, Option.map_eq_some_iff] at hs
    obtain ⟨r, hr, rfl⟩ := hs
    exact hall r (List.mem_of_find?_eq_some hr)

/-- A write of a parameter without W1C fields stores its RW fields alone (R10). -/
theorem getLsbD_plainWrite {i : Nat} {sh : Sheet} (hs : sheetOf i = some sh) (hc : sh.w1c = 0) (old v : Word) {k : Nat} (hk : k < 36) :
    (plainWrite i old v).getLsbD k = if sh.rw.getLsbD k then v.getLsbD k else old.getLsbD k := by
  have hplain : plainWrite i old v = (old &&& ~~~sh.rw) ||| (v &&& sh.rw) := by
    simp only [plainWrite, hs, hc, BitVec.ofNat_eq_ofNat, BitVec.and_zero, BitVec.not_zero, BitVec.and_allOnes]
  rw [hplain, BitVec.getLsbD_or, BitVec.getLsbD_and, BitVec.getLsbD_and, BitVec.getLsbD_not]
  cases h : sh.rw.getLsbD k <;> simp [hk]

theorem plainWrites_holds : plainWrites := by
  intro m i v hp sh hs acc s ha ht hr _
  have hw := (writeAs_accepted hr).trans (congrArg _ (applyWrite_plain acc v s hp hs))
  have hu := Untouched.setPar s i.toNat (plainWrite i.toNat (s.par i.toNat) v)
  obtain ⟨t, hexec, hans, hrest⟩ := paramWrite_answers ha ht (by rw [hw]; exact hu)
  rw [hw] at hans hrest
  refine ⟨t, hexec, fun k hk => ?_, hans, hu.trans hrest⟩
  have hpar : t.par i.toNat = plainWrite i.toNat (s.par i.toNat) v := (hrest.params _ List.not_mem_nil).trans (State.par_setPar_same s _ _)
  rw [bit, hpar, getLsbD_plainWrite hs (plainStore_w1c hp hs) _ _ hk]
  rfl

/-! ### Acknowledgements -/

/-- The parameter `b` of strike unit `n` is what its index says. -/
theorem isStrk_ctl (n : Fin 8) : isStrk (P.STRK_CTL + 16 * n.val) P.STRK_CTL = true ∧ (unitOf (P.STRK_CTL + 16 * n.val)).val = n.val := by
  revert n
  decide

theorem isStrk_ctl_iff {i : Nat} : isStrk i P.STRK_CTL = true ↔ ∃ n : Fin 8, i = P.STRK_CTL + 16 * n.val := by
  constructor
  · intro h
    simp only [isStrk, inPars, Bool.and_eq_true, decide_eq_true_eq] at h
    exact ⟨⟨(i - 0x400) / 16, by omega⟩, by simp only [P.STRK_CTL] at h ⊢; omega⟩
  · rintro ⟨n, rfl⟩
    exact (isStrk_ctl n).1

/-- What waits for TCLK is what TIME has not taken (R50). -/
def tclkWaits (i : Nat) (s : State) : Prop :=
  (i = P.TIME_STEP ∧ s.time.steps ≠ []) ∨ (i = P.TIME_CTL ∧ ∃ l, s.time.load = some l ∧ l.taken = false) ∨
     (i = P.TIME_PINCTL ∧ s.time.pinInv ≠ (s.par P.TIME_PINCTL).extractLsb' 0 4) ∨
     ∃ n : Fin 8, i = P.STRK_CTL + 16 * n.val ∧ ∃ e ∈ s.time.armPend, e.1.toNat = n.val

/-- What waits for the crystal is what the Pier has not taken (R50). -/
def crystalWaits (i : Nat) (s : State) : Prop :=
  (i = P.PIER_SEC ∧ s.pier.secPend ≠ none) ∨ ((i = P.PIER_TICK_LO ∨ i = P.PIER_TICK_HI) ∧ s.pier.tickPend ≠ []) ∨
     (∃ n : Fin 2, (∃ k < 3, i = P.PIER_ALM0_LO + 3 * n.val + k) ∧ s.pier.alarms[n] ≠ s.alarmParams n) ∨
     (i = P.PIER_SWCFG ∧ s.pier.swcfg ≠ (s.par P.PIER_SWCFG).extractLsb' 0 5) ∨ (i = P.PIER_PWRSTAT ∧ s.pier.ackPend = true)

theorem effectWaits_iff (i : Nat) (s : State) : effectWaits i s ↔ (s.refRuns = true ∧ tclkWaits i s) ∨ (s.crystalRuns = true ∧ crystalWaits i s) := Iff.rfl

/-- Arming waits at the control parameter of the unit it is for. -/
theorem armWaits_iff (i : Nat) (s : State) :
    (∃ n : Fin 8, i = P.STRK_CTL + 16 * n.val ∧ ∃ e ∈ s.time.armPend, e.1.toNat = n.val) ↔
      isStrk i P.STRK_CTL = true ∧ ∃ e ∈ s.time.armPend, e.1.toNat = (unitOf i).val := by
  constructor
  · rintro ⟨n, rfl, h⟩
    exact ⟨(isStrk_ctl n).1, (isStrk_ctl n).2.symm ▸ h⟩
  · rintro ⟨h, he⟩
    obtain ⟨n, rfl⟩ := isStrk_ctl_iff.1 h
    exact ⟨n, rfl, (isStrk_ctl n).2 ▸ he⟩

theorem timeTaken_iff (i : Nat) (s : State) : s.timeTaken i = true ↔ ¬ tclkWaits i s := by
  have hstrk : i = P.TIME_STEP ∨ i = P.TIME_CTL ∨ i = P.TIME_PINCTL → isStrk i P.STRK_CTL = false := fun h => by
    rcases h with rfl | rfl | rfl <;> rfl
  unfold State.timeTaken tclkWaits
  rw [armWaits_iff]
  split_ifs with h1 h2 h3 h4
  · subst h1
    simp [hstrk]
  · subst h2
    cases s.time.load <;> simp [hstrk]
  · subst h3
    simp [hstrk, fld]
  · simp [h1, h2, h3, h4]
  · simp [h1, h2, h3, h4]

/-- An alarm of the Pier and its three parameters. -/
theorem alarmWaits_iff (i : Nat) (s : State) :
    (∃ n : Fin 2, (∃ k < 3, i = P.PIER_ALM0_LO + 3 * n.val + k) ∧ s.pier.alarms[n] ≠ s.alarmParams n) ↔
      (inPars i P.PIER_ALM0_LO 3 = true ∧ s.pier.alarms[0] ≠ s.alarmParams 0) ∨
        (inPars i (P.PIER_ALM0_LO + 3) 3 = true ∧ s.pier.alarms[1] ≠ s.alarmParams 1) := by
  have hin : ∀ b, inPars i b 3 = true ↔ ∃ k < 3, i = b + k := fun b => by
    simp only [inPars, Bool.and_eq_true, decide_eq_true_eq]
    exact ⟨fun h => ⟨i - b, by omega⟩, fun ⟨k, hk⟩ => by omega⟩
  rw [hin, hin, Fin.exists_fin_two]
  rfl

/-- The indices of the alarms are none of the Pier's other parameters that wait. -/
theorem alarm_index {i : Nat} (h : inPars i P.PIER_ALM0_LO 3 = true ∨ inPars i (P.PIER_ALM0_LO + 3) 3 = true) : i ≠ P.PIER_SWCFG ∧ i ≠ P.PIER_PWRSTAT := by
  constructor <;> rintro rfl <;> revert h <;> decide

theorem alarm_first {i : Nat} (h : inPars i P.PIER_ALM0_LO 3 = true) : inPars i (P.PIER_ALM0_LO + 3) 3 = false := by
  simp only [inPars, Bool.and_eq_true, decide_eq_true_eq, Bool.and_eq_false_iff, decide_eq_false_iff_not] at h ⊢
  omega

theorem pierTaken_iff (i : Nat) (s : State) : s.pierTaken i = true ↔ ¬ crystalWaits i s := by
  have hsec : i = P.PIER_SEC ∨ i = P.PIER_TICK_LO ∨ i = P.PIER_TICK_HI → inPars i P.PIER_ALM0_LO 3 = false ∧ inPars i (P.PIER_ALM0_LO + 3) 3 = false := fun h => by
    rcases h with rfl | rfl | rfl <;> exact ⟨rfl, rfl⟩
  unfold State.pierTaken crystalWaits
  rw [alarmWaits_iff]
  split_ifs with h1 h2 h3 h4 h5 h6
  · subst h1
    simp [hsec]
  · rcases h2 with rfl | rfl <;> simp [hsec]
  · simp [h1, h2, h3, alarm_first h3, alarm_index (.inl h3)]
  · simp [h1, h2, h3, h4, alarm_index (.inr h4)]
  · subst h5
    simp [h3, h4, fld]
  · subst h6
    simp [h3, h4]
  · simp [h1, h2, h3, h4, h5, h6]

theorem landed_iff (i : Nat) (s : State) : s.landed i = true ↔ ¬ effectWaits i s := by
  rw [effectWaits_iff, State.landed, Bool.and_eq_true, Bool.or_eq_true, Bool.or_eq_true, timeTaken_iff, pierTaken_iff, Bool.not_eq_true', Bool.not_eq_true', not_or,
    not_and, not_and, ← Bool.not_eq_true, ← Bool.not_eq_true, imp_iff_not_or, imp_iff_not_or]

/-- An acknowledgement does not come while the effect of its write waits (R51). -/
theorem ackWrite_waits {k : Nat} {s : State} {w : PWrite} (hw : s.umber.pwq[k]? = some w) (hl : w.latched = some 0) {i : Nat} (hi : w.tgt.index = some i)
    (h : effectWaits i s) : ackWrite k s = s := by
  have hland : s.landed i = false := by rw [← Bool.not_eq_true, landed_iff, not_not]; exact h
  simp [ackWrite, hw, hl, hi, hland]

/-- The state that the acknowledgement of an entry leaves, before the refusal is noted. -/
def freed (k : Nat) (w : PWrite) (s : State) : State :=
  if w.tgt.index = some P.SYS_ROLE then nvmSettled (s.setUmber { s.umber with pwq := s.umber.pwq.eraseIdx k }) else s.setUmber { s.umber with pwq := s.umber.pwq.eraseIdx k }

theorem ackWrite_comes {k : Nat} {s : State} {w : PWrite} {r : BitVec 4} (hw : s.umber.pwq[k]? = some w) (hl : w.latched = some r)
    (hfirst : ∀ e ∈ s.umber.pwq.take k, e.tgt.shell ≠ w.tgt.shell) (hland : r = 0 → ∀ i, w.tgt.index = some i → ¬ effectWaits i s) :
    ackWrite k s = if r = 0 || w.quiet then freed k w s else noteBstat 1 w.tgt.index (freed k w s) := by
  have hf : s.ackFirst k w.tgt.shell = true := List.all_eq_true.2 fun e he => decide_eq_true (hfirst e he)
  have hd : (decide (r ≠ 0) || w.tgt.index.all s.landed) = true := by
    by_cases hr : r = 0
    · cases hi : w.tgt.index with
      | none => simp
      | some i => simp [(landed_iff i s).2 (hland hr i hi)]
    · rw [decide_eq_true hr, Bool.true_or]
  simp only [ackWrite, hw, hl, hf, hd, Bool.and_self, if_true]
  rfl

/-- What an acknowledgement may change of Umber and of Sepia. -/
structure Freed (k : Nat) (s t : State) : Prop where
  pwq : t.umber.pwq = s.umber.pwq.eraseIdx k
  umber : umberRest { t.umber with bstat := s.umber.bstat } = umberRest s.umber
  mgmt : { t.mgmt with job := s.mgmt.job, jobBad := s.mgmt.jobBad } = s.mgmt
  rest : Untouched [.pwq, .umber, .mgmt] [] s t

theorem freed_eq (k : Nat) (w : PWrite) (s : State) : Freed k s (freed k w s) ∧ (freed k w s).umber.bstat = s.umber.bstat := by
  unfold freed
  split <;> refine ⟨⟨rfl, rfl, rfl, fun p h => ?_, fun _ _ => rfl, rfl⟩, rfl⟩ <;>
    cases p with
    | pwq | umber | mgmt => exact absurd (by decide) h
    | _ => rfl

theorem Freed.noteBstat {k : Nat} {s t : State} (h : Freed k s t) (n : Nat) (i : Option Nat) : Freed k s (noteBstat n i t) where
  pwq := h.pwq
  umber := h.umber
  mgmt := h.mgmt
  rest := by
    refine ⟨fun p hp => ?_, h.rest.params, h.rest.pending⟩
    cases p with
    | umber => exact absurd (by decide) hp
    | _ => exact h.rest.parts _ hp

/-- BSTAT.REFUSED with the index of the refused write (R624). -/
theorem noteBstat_refused (i : Option Nat) (s : State) : (noteBstat 1 i s).umber.bstat.getLsbD 1 = true := by
  have hbit : (putBit s.umber.bstat 1 true).getLsbD 1 = true := getLsbD_putBit _ 1 true 1 (by decide)
  cases i with
  | none => exact hbit
  | some i => exact (getLsbD_putFld_ne _ _ (by omega)).trans hbit

theorem noteBstat_index (i : BitVec 13) (s : State) : (noteBstat 1 (PTarget.par i).index s).umber.bstat.extractLsb' 8 13 = i := by
  simp only [noteBstat, PTarget.index, BitVec.ofNat_toNat, BitVec.setWidth_eq]
  exact extractLsb'_putFld _ _ (by decide)

theorem acknowledgements_holds : acknowledgements := by
  constructor
  · rintro k s ⟨w, hw, hl, i, hi, hwait⟩
    exact ⟨s, congrArg Host.Outcome.next (ackWrite_waits hw hl hi hwait), trivial, Untouched.refl s⟩
  · rintro k s ⟨w, hw, hl, hfirst, hland⟩
    obtain ⟨r, hr⟩ := Option.ne_none_iff_exists'.1 hl
    have hack := ackWrite_comes hw hr hfirst fun h => hland (h ▸ hr)
    obtain ⟨hfreed, hbstat⟩ := freed_eq k.val w s
    cases hq : (r = 0 || w.quiet : Bool) with
    | true =>
      rw [hq, if_pos rfl] at hack
      refine ⟨freed k.val w s, congrArg Host.Outcome.next hack, ⟨hfreed.pwq, hfreed.umber, hfreed.mgmt, fun w' hw' => ?_⟩, hfreed.rest⟩
      obtain rfl : w = w' := Option.some.inj (hw.symm.trans hw')
      refine ⟨fun _ => hbstat, fun hne hquiet => ?_⟩
      rw [decide_eq_false (fun h => hne (h ▸ hr) : ¬ r = 0), hquiet] at hq
      exact absurd hq (by decide)
    | false =>
      rw [hq, if_neg Bool.false_ne_true] at hack
      have hnoted := hfreed.noteBstat 1 w.tgt.index
      refine ⟨_, congrArg Host.Outcome.next hack, ⟨hnoted.pwq, hnoted.umber, hnoted.mgmt, fun w' hw' => ?_⟩, hnoted.rest⟩
      obtain rfl : w = w' := Option.some.inj (hw.symm.trans hw')
      simp only [Bool.or_eq_false_iff, decide_eq_false_iff_not] at hq
      refine ⟨fun h => ?_, fun _ _ => ⟨noteBstat_refused _ _, ?_⟩⟩
      · rcases h with h | h
        · exact absurd (Option.some.inj (hr.symm.trans h)) hq.1
        · exact absurd (h.symm.trans hq.2) (by decide)
      · cases w.tgt with
        | par i => simpa using noteBstat_index i _
        | _ => simp

end Sys2Proof.Machine

/-- Settles O31: a delivered write acts through its shell and is answered at its place of the queue, and an acknowledgement comes where its effect has landed. -/
theorem parameterWrites : Obligations.ParameterWrites :=
  ⟨Sys2Proof.Machine.refusedWrites_holds, Sys2Proof.Machine.plainWrites_holds, Sys2Proof.Machine.acknowledgements_holds⟩

end

section
/-!
What a loss of VDD leaves of the memories: each arch loses the words of its own addresses (R296), so that a word listed beyond the last arch stays listed.
-/

namespace Sys2Proof.Machine

open Sys2Proof.Claims

/-! ### What leaves the memories alone -/

@[simp] theorem resumeUmber_mem (s : State) : (resumeUmber s).mem = s.mem := by
  unfold resumeUmber
  split <;> rfl

@[simp] theorem showRights_mem (dar : Bool) (s : State) : (showRights dar s).mem = s.mem := by
  simp only [showRights]
  split <;> split <;> simp

@[simp] theorem gateLog_mem (event : BitVec 3) (detail : Nat) (s : State) : (gateLog event detail s).mem = s.mem := State.pushLog_mem ..

@[simp] theorem withdrawRights_mem (reset : Bool) (s : State) : (withdrawRights reset s).mem = s.mem := by
  unfold withdrawRights
  cases reset <;> simp only <;> split <;> simp

theorem resetShells_mem (keepRws keepWake : Bool) (s : State) : (resetShells keepRws keepWake s).mem = s.mem := by
  unfold resetShells
  generalize s.params = l
  induction l generalizing s with
  | nil => rfl
  | cons e l ih =>
    rw [List.foldl_cons, ih]
    simp only
    split <;> rfl

/-! ### Words beyond the arches -/

/-- An arch that loses its contents loses the words of its own addresses alone (R296). -/
theorem initArch_sram_beyond {e : Nat × Cell} {k : Nat} {s : State} (hk : k < 5) (hbeyond : 2 ^ 18 ≤ e.1) (he : e ∈ s.mem.sram) :
    e ∈ (initArch k s).mem.sram := by
  have hresv : ∀ r : State, r.mem = s.mem → e ∈ (if k = 4 then r.setMem { r.mem with tile := [], wbacks := r.mem.wbacks.filter (fun b => !b.tile) }
      else r.setMem { r.mem with sram := r.mem.sram.filter (fun e => decide (e.1 / 65536 ≠ k)), poison := r.mem.poison.filter (fun e => decide (e.1 / 65536 ≠ k)),
                                 wbacks := r.mem.wbacks.filter (fun b => b.tile || decide (archOf b.addr ≠ k)) }).mem.sram := fun r hr => by
    split
    · simpa [hr] using he
    · simp only [State.setMem_mem, hr, List.mem_filter, decide_eq_true_eq]
      exact ⟨he, by omega⟩
  unfold initArch
  refine hresv _ ?_
  cases s.umber.resv with
  | none => rfl
  | some r => dsimp only; split <;> rfl

theorem archesLost_sram_beyond {e : Nat × Cell} {ks : List Nat} (hks : ∀ k ∈ ks, k < 5) (hbeyond : 2 ^ 18 ≤ e.1) :
    ∀ {s : State}, e ∈ s.mem.sram → e ∈ (archesLost ks s).mem.sram := by
  induction ks with
  | nil => exact fun h => h
  | cons k ks ih =>
    exact fun h => ih (fun j hj => hks j (List.mem_cons_of_mem _ hj)) (initArch_sram_beyond (hks k List.mem_cons_self) hbeyond h)

/-- A system reset with VDD lost. -/
theorem systemReset_sram_beyond {e : Nat × Cell} {code : BitVec 5} {s : State} (hbeyond : 2 ^ 18 ≤ e.1) (he : e ∈ s.mem.sram) :
    e ∈ (systemReset code true s).mem.sram := by
  have hlost : e ∈ (archesLost (List.range 5) (withdrawRights true s)).mem.sram :=
    archesLost_sram_beyond (fun k hk => List.mem_range.1 hk) hbeyond (by rwa [withdrawRights_mem])
  rw [← resetShells_mem false false] at hlost
  exact hlost

/-- Without work in progress, none of Sepia's and none of the fuses', a loss of VDD is such a reset. -/
theorem vddLoss_sram_beyond {e : Nat × Cell} {s : State} (hv : s.pwr.vddOk = true) (hboot : s.booting = false) (hjob : s.mgmt.job = []) (hlog : s.mgmt.logQ = [])
    (hnvm : s.mgmt.nvmQ = []) (hfuse : s.life.fuseOp = none) (hbeyond : 2 ^ 18 ≤ e.1) (he : e ∈ s.mem.sram) : e ∈ (vddLoss s).mem.sram := by
  have hwork : workInProgress s = s := by simp [workInProgress, hboot, hjob, hlog, hnvm]
  have htear : tearNvm s = (s.setMgmt { s.mgmt with job := [] }).drawn := by simp [tearNvm, hwork, tearJob, cutJob, hjob]
  have hfuses : tearFuses (tearNvm s) = tearNvm s := by simp [tearFuses, htear, hfuse]
  have hkept : e ∈ (tearFuses (tearNvm s)).mem.sram := by rw [hfuses, htear]; exact he
  rw [vddLoss, if_pos hv]
  exact systemReset_sram_beyond (code := 3) (s := (tearFuses (tearNvm s)).setUmber { (tearFuses (tearNvm s)).umber with sb := [] }) hbeyond hkept

/-- The part awake without work, VDD at 1.6 V by what the Pier knows, and a word listed for data SRAM beyond its last address. -/
def strayWord : State :=
  { State.reset with
    pwr := { State.reset.pwr with mode := .active }
    pier := { State.reset.pier with sup := { State.reset.pier.sup with vdd := 1600 } }
    mem := { State.reset.mem with sram := [(2 ^ 18, 1)] } }

/-- A brownout of VDD leaves the stray word listed, and so data SRAM not empty. -/
theorem vddFalls_strayWord : (vddFalls strayWord).mem.sram ≠ [] :=
  List.ne_nil_of_mem (vddLoss_sram_beyond (e := (2 ^ 18, 1)) (s := strayWord) rfl rfl rfl rfl rfl rfl (Nat.le_refl _) (List.mem_singleton.2 rfl))

/-- The state meets the three invariants of the model (O4 to O6), so none of them as a hypothesis would rule it out. -/
theorem strayWord_invariants : strayWord.canonical ∧ Bounded strayWord ∧ LegalSr strayWord.umber.sr :=
  ⟨⟨⟨⟨by decide, by decide⟩, SMap.wf_nil _, SMap.wf_nil _, SMap.wf_nil _, SMap.wf_nil _, SMap.wf_nil _⟩, SMap.wf_nil _, SMap.wf_nil _, SMap.wf_nil _⟩,
    by constructor <;> decide, legalSr_srReset⟩

theorem not_supplies : ¬ supplies := by
  rintro ⟨-, -, -, -, hdown, -⟩
  obtain ⟨t, hexec, ⟨-, -, -, -, hsram, -⟩, -⟩ := hdown strayWord ⟨rfl, by decide⟩
  obtain rfl : vddFalls strayWord = t := Host.Outcome.next.inj hexec
  exact vddFalls_strayWord hsram

end Sys2Proof.Machine

/-- Refutes O35: VDD_BROWNOUT empties data SRAM arch by arch, so that a word listed beyond its last address, which no hypothesis rules out, stays listed where the
statement has data SRAM empty. The state is `strayWord`, which meets the invariants of O4 to O6. -/
theorem not_bootsAndSupplies : ¬ Obligations.BootsAndSupplies := fun h => Sys2Proof.Machine.not_supplies h.2

end
